-- ==== Sys2Proof/Word.lean ====
section
/-!
DEFINITION. Sys2Proof/Word.lean: the word types of the machine. An instruction word has 32 bits (R49); constant words
and 32-bit elements have 32, registers and 64-bit elements 64; memory is addressed in bytes (R75).
-/
namespace Sys2Proof

/-- An instruction word or a constant word (R47, R49). -/
abbrev Word := BitVec 32

/-- A register, or an element of 64-bit kind (R111). -/
abbrev Dword := BitVec 64

/-- A byte of memory. -/
abbrev Byte := BitVec 8

end Sys2Proof
end

