-- ==== Sys2Proof/Syntax.lean ====
section
/-!
DEFINITION. Sys2Proof/Syntax.lean: the instructions of the Limlux V4, one constructor for each row of the opcode
table: first the 193 forms that have an encoding (R49-R55), then the 73 occurrences of the device that have none,
"each whole and indivisible" (95_what_each_step_holds.md). Consumer fields stand last, second consumer `c1` before
first consumer `c0`, as in the word. An occurrence carries what it names: a plot, a queue, a value written.
-/
namespace Sys2Proof

/-- A consumer field of R51: target slot in bits 8-3, port in bits 2-1, wait bit W in bit 0; 0x1FF is no consumer. -/
abbrev Cons := BitVec 9

/-- The integer types of R76, whose codes are 0x0-0x7 in this order. -/
inductive IntTy where
  | i32 | n32 | i64 | n64 | i16 | n16 | i8 | n8
  deriving DecidableEq, Repr

/-- The type codes of R76 in order; `rsv` stands for the reserved code 0xF. -/
inductive Ty where
  | i32 | n32 | i64 | n64 | i16 | n16 | i8 | n8 | f32 | bf16 | e4m3 | e5m2 | i4x | b4x | be4m3 | rsv
  deriving DecidableEq, Repr

/-- The rounding modes of R86, codes 00-11 in order. -/
inductive Rm where
  | rne | rz | rup | sr
  deriving DecidableEq, Repr

/-- The conditions of R172, codes 000-111 in order. -/
inductive Cmp where
  | eq | ne | lt | le | gt | ge | un | ord
  deriving DecidableEq, Repr

/-- The save modes of a tile operand (09, SA and SB), codes 00-11 in order. -/
inductive Save where
  | keep | save | recompute | none
  deriving DecidableEq, Repr

/-- What a configuration scrub of a plot met (R429): nothing, a single-bit error it corrected, or an error it
could not correct. -/
inductive Scrub where
  | clean | corrected | uncorrectable
  deriving DecidableEq, Repr

/-- Where an uncorrectable data error was found (R158, R430): the header or the data of a fold slot of a plot, a
line of an L2 slice, a line of device memory, or a run-buffer entry or frame of a plot. -/
inductive ErrSite where
  | foldData (plot sid slot : Nat)
  | foldHeader (plot sid slot : Nat)
  | l2Line (slice key : Nat)
  | memLine (pa : Nat)
  | buffer (plot : Nat)
  | nearData (plot scell off : Nat)
  | accData (plot cell off : Nat)
  deriving DecidableEq, Repr

/-- The rings of a VI whose base a RING_BASE_WRITE names (R469). -/
inductive Ring where
  | tring | hring | fring | gering | jqbase | jcring
  deriving DecidableEq, Repr

/-- The one type of instructions: a constructor per row of the opcode table. -/
inductive Instr where
  /-- NOP, R132. Fires on every element at generation and has no effect. -/
  | nop
  /-- MOV, R132. Passes operand a bit for bit to its consumers. -/
  | mov (c1 : Cons) (c0 : Cons)
  /-- IMM, R132. Emits the sign-extended 6-bit immediate as i32 on every element. -/
  | imm (val : BitVec 6) (c1 : Cons) (c0 : Cons)
  /-- KREAD, R132. Emits constant word kn, or the pair kn, kn+1 as i64. -/
  | kread (wide : Bool) (n : BitVec 4) (c1 : Cons) (c0 : Cons)
  /-- SETK, R133. Sets a pending write of constant word kn that takes effect at the next round or instance. -/
  | setk (wide : Bool) (n : BitVec 4)
  /-- TAG, R132. Emits an iteration index or the 40-bit tag of each element. -/
  | tag (dim : BitVec 3) (c1 : Cons) (c0 : Cons)
  /-- OUT, R134. Sends the fired elements of a as one token along a route to a block of another cell. -/
  | out (route : BitVec 6) (bidx : BitVec 4) (c0 : Cons)
  /-- STEER_T, R132. Passes a where p is nonzero and null elsewhere. -/
  | steerT (c1 : Cons) (c0 : Cons)
  /-- STEER_F, R132. Passes a where p is zero and null elsewhere. -/
  | steerF (c1 : Cons) (c0 : Cons)
  /-- SEL, R132. Emits a where p is nonzero and b otherwise. -/
  | sel (c1 : Cons) (c0 : Cons)
  /-- MERGE, R132. Emits the non-null of a and b, counting a conflict when both are non-null. -/
  | merge (c1 : Cons) (c0 : Cons)
  /-- EOS, R133. Sends an EOS token at tag a to each consumer. -/
  | eos (c1 : Cons) (c0 : Cons)
  /-- ISEOS, R133. Emits 0 for fired elements and 1 for elements resolved by EOS. -/
  | iseos (c1 : Cons) (c0 : Cons)
  /-- EXIT, R133. Raises the round's exit code and ends a sequential thread after the instance. -/
  | exit (code : BitVec 3)
  /-- NEXT, R133. Chooses the successor sequential block from k14. -/
  | next (code : BitVec 3)
  /-- BAR, R135. Adds one arrival to a barrier and emits the phase it joined. -/
  | bar (n : BitVec 4) (c1 : Cons) (c0 : Cons)
  /-- BARW, R135. Stalls until the barrier phase differs from a, then emits the phase as an acquire. -/
  | barw (n : BitVec 4) (c1 : Cons) (c0 : Cons)
  /-- SIG, R135. Sends a[15:0] arrivals with the plot's barrier generation to the hub. -/
  | sig (n : BitVec 4)
  /-- PMASK, R133. Emits bit e of a as 0 or 1 on each element e. -/
  | pmask (c1 : Cons) (c0 : Cons)
  /-- FOLD, R165. Reads a fold record and replaces the statement's fold. -/
  | fold (n : BitVec 4)
  /-- LDN, R163. Reads a named value under the slot-header rules. -/
  | ldn (keep : Bool) (nidx : BitVec 5) (c1 : Cons) (c0 : Cons)
  /-- STN, R163. Stores a named value under the slot-header rules. -/
  | stn (nidx : BitVec 5)
  /-- LDN_T, R164. Waits for a tile name and emits its read handle. -/
  | ldnT (keep : Bool) (nidx : BitVec 5) (c1 : Cons) (c0 : Cons)
  /-- STN_T, R164. Claims a tile slot and emits its write handle. -/
  | stnT (nidx : BitVec 5) (c1 : Cons) (c0 : Cons)
  /-- PROBE, R166. Returns a slot header, the stall counter, or the live slot count of a statement. -/
  | probe (which : BitVec 2) (n : BitVec 4) (c1 : Cons) (c0 : Cons)
  /-- KILL, R163. Makes a full or poisoned name dead. -/
  | kill (nidx : BitVec 5)
  /-- REFOLD, R160. Resizes a fold, migrating live slots to the new lattice. -/
  | refold (n : BitVec 4)
  /-- FOLDQ, R166. Returns a word of a statement's fold record or its generation. -/
  | foldq (n : BitVec 4) (c1 : Cons) (c0 : Cons)
  /-- ADD, R175. Integer sum modulo 2^w. -/
  | add (bsrc : BitVec 3) (ty : IntTy) (c1 : Cons) (c0 : Cons)
  /-- SUB, R175. Integer difference modulo 2^w. -/
  | sub (bsrc : BitVec 3) (ty : IntTy) (c1 : Cons) (c0 : Cons)
  /-- MUL, R175. Low half of the integer product. -/
  | mul (bsrc : BitVec 3) (ty : IntTy) (c1 : Cons) (c0 : Cons)
  /-- MULH, R175. High half of the integer product. -/
  | mulh (bsrc : BitVec 3) (ty : IntTy) (c1 : Cons) (c0 : Cons)
  /-- MAD, R175. Integer multiply-add modulo 2^w. -/
  | mad (bsrc : BitVec 3) (ty : IntTy) (c1 : Cons) (c0 : Cons)
  /-- DIV, R175. Integer quotient truncated toward zero, 0 for a zero divisor. -/
  | div (bsrc : BitVec 3) (ty : IntTy) (c1 : Cons) (c0 : Cons)
  /-- REM, R175. Integer remainder, the dividend for a zero divisor. -/
  | rem (bsrc : BitVec 3) (ty : IntTy) (c1 : Cons) (c0 : Cons)
  /-- AND, R175. Bitwise AND. -/
  | and (bsrc : BitVec 3) (ty : IntTy) (c1 : Cons) (c0 : Cons)
  /-- OR, R175. Bitwise OR. -/
  | or (bsrc : BitVec 3) (ty : IntTy) (c1 : Cons) (c0 : Cons)
  /-- XOR, R175. Bitwise exclusive OR. -/
  | xor (bsrc : BitVec 3) (ty : IntTy) (c1 : Cons) (c0 : Cons)
  /-- ANDN, R175. a AND NOT b. -/
  | andn (bsrc : BitVec 3) (ty : IntTy) (c1 : Cons) (c0 : Cons)
  /-- SHL, R176. Shift left, 0 for counts of w or more. -/
  | shl (bsrc : BitVec 3) (ty : IntTy) (c1 : Cons) (c0 : Cons)
  /-- SHR, R176. Logical shift right. -/
  | shr (bsrc : BitVec 3) (ty : IntTy) (c1 : Cons) (c0 : Cons)
  /-- SAR, R176. Arithmetic shift right. -/
  | sar (bsrc : BitVec 3) (ty : IntTy) (c1 : Cons) (c0 : Cons)
  /-- ROT, R176. Rotate left by the count modulo w. -/
  | rot (bsrc : BitVec 3) (ty : IntTy) (c1 : Cons) (c0 : Cons)
  /-- MIN, R175. Lesser of two integers. -/
  | min (bsrc : BitVec 3) (ty : IntTy) (c1 : Cons) (c0 : Cons)
  /-- MAX, R175. Greater of two integers. -/
  | max (bsrc : BitVec 3) (ty : IntTy) (c1 : Cons) (c0 : Cons)
  /-- ABS, R175. Integer absolute value. -/
  | abs (ty : IntTy) (c1 : Cons) (c0 : Cons)
  /-- NEG, R175. Integer negation modulo 2^w. -/
  | neg (ty : IntTy) (c1 : Cons) (c0 : Cons)
  /-- CLZ, R175. Count of leading zero bits. -/
  | clz (ty : IntTy) (c1 : Cons) (c0 : Cons)
  /-- POPC, R175. Count of one bits. -/
  | popc (ty : IntTy) (c1 : Cons) (c0 : Cons)
  /-- BREV, R175. Bit reversal of the w-bit pattern. -/
  | brev (ty : IntTy) (c1 : Cons) (c0 : Cons)
  /-- EXT, R177. Extracts a bit field and extends it by signedness. -/
  | ext (bsrc : BitVec 3) (ty : IntTy) (c1 : Cons) (c0 : Cons)
  /-- INS, R177. Inserts a bit field into a. -/
  | ins (bsrc : BitVec 3) (ty : IntTy) (c1 : Cons) (c0 : Cons)
  /-- ADDSAT, R175. Saturating integer sum. -/
  | addsat (bsrc : BitVec 3) (ty : IntTy) (c1 : Cons) (c0 : Cons)
  /-- SUBSAT, R175. Saturating integer difference. -/
  | subsat (bsrc : BitVec 3) (ty : IntTy) (c1 : Cons) (c0 : Cons)
  /-- CMP, R180. Integer comparison emitting 0 or 1. -/
  | cmp (cond : Cmp) (ty : IntTy) (c1 : Cons) (c0 : Cons)
  /-- SEXT, R178. Sign-extends the low n bits. -/
  | sext (wid : BitVec 3) (ty : IntTy) (c1 : Cons) (c0 : Cons)
  /-- ZEXT, R178. Zero-extends the low n bits. -/
  | zext (wid : BitVec 3) (ty : IntTy) (c1 : Cons) (c0 : Cons)
  /-- ADDR, R178. Adds a scaled signed offset to a 64-bit address. -/
  | addr (bsrc : BitVec 3) (scale : BitVec 3) (c1 : Cons) (c0 : Cons)
  /-- ADDC, R179. Add with carry, sum to C0 and carry to C1. -/
  | addc (bsrc : BitVec 3) (ty : IntTy) (c1 : Cons) (c0 : Cons)
  /-- FADD, R182. Floating-point sum rounded once. -/
  | fadd (rm : Rm) (ty : Ty) (c1 : Cons) (c0 : Cons)
  /-- FSUB, R182. Floating-point difference rounded once. -/
  | fsub (rm : Rm) (ty : Ty) (c1 : Cons) (c0 : Cons)
  /-- FMUL, R182. Floating-point product rounded once. -/
  | fmul (rm : Rm) (ty : Ty) (c1 : Cons) (c0 : Cons)
  /-- FMA, R182. Fused multiply-add rounded once. -/
  | fma (rm : Rm) (ty : Ty) (c1 : Cons) (c0 : Cons)
  /-- FMIN, R183. Floating-point minimum with NaN policy NANP. -/
  | fmin (nanp : Bool) (ty : Ty) (c1 : Cons) (c0 : Cons)
  /-- FMAX, R183. Floating-point maximum with NaN policy NANP. -/
  | fmax (nanp : Bool) (ty : Ty) (c1 : Cons) (c0 : Cons)
  /-- FABS, R184. Clears the sign bit. -/
  | fabs (ty : Ty) (c1 : Cons) (c0 : Cons)
  /-- FNEG, R184. Inverts the sign bit. -/
  | fneg (ty : Ty) (c1 : Cons) (c0 : Cons)
  /-- FCMP, R185. Floating-point comparison emitting 0 or 1. -/
  | fcmp (cond : Cmp) (ty : Ty) (c1 : Cons) (c0 : Cons)
  /-- FCLASS, R184. Emits a one-hot class mask. -/
  | fclass (ty : Ty) (c1 : Cons) (c0 : Cons)
  /-- FRND, R186. Rounds to an integral value under RM. -/
  | frnd (rm : Rm) (ty : Ty) (c1 : Cons) (c0 : Cons)
  /-- EXP2, R187. Correctly rounded 2^x. -/
  | exp2 (rm : Rm) (ty : Ty) (c1 : Cons) (c0 : Cons)
  /-- LOG2, R187. Correctly rounded log2 x. -/
  | log2 (rm : Rm) (ty : Ty) (c1 : Cons) (c0 : Cons)
  /-- RCP, R187. Correctly rounded reciprocal. -/
  | rcp (rm : Rm) (ty : Ty) (c1 : Cons) (c0 : Cons)
  /-- RSQRT, R187. Correctly rounded reciprocal square root. -/
  | rsqrt (rm : Rm) (ty : Ty) (c1 : Cons) (c0 : Cons)
  /-- SQRT, R187. Correctly rounded square root. -/
  | sqrt (rm : Rm) (ty : Ty) (c1 : Cons) (c0 : Cons)
  /-- SIN, R187. Correctly rounded sine. -/
  | sin (rm : Rm) (ty : Ty) (c1 : Cons) (c0 : Cons)
  /-- COS, R187. Correctly rounded cosine. -/
  | cos (rm : Rm) (ty : Ty) (c1 : Cons) (c0 : Cons)
  /-- TANH, R187. Correctly rounded hyperbolic tangent. -/
  | tanh (rm : Rm) (ty : Ty) (c1 : Cons) (c0 : Cons)
  /-- SIGM, R187. Correctly rounded logistic sigmoid. -/
  | sigm (rm : Rm) (ty : Ty) (c1 : Cons) (c0 : Cons)
  /-- CVT, R191. Converts between the type pair named by CV. -/
  | cvt (rm : Rm) (cv : BitVec 4) (c1 : Cons) (c0 : Cons)
  /-- QNT, R192. Quantises f32 elements by an E8M0 scale. -/
  | qnt (rm : Rm) (ty : Ty) (c1 : Cons) (c0 : Cons)
  /-- DQNT, R193. Dequantises elements by an E8M0 scale to f32. -/
  | dqnt (ty : Ty) (c1 : Cons) (c0 : Cons)
  /-- RED_ADD, R195. Accepts elements into the reorder window for a tag-ordered sum. -/
  | redAdd (row : Bool) (satq : Bool) (ty : Ty) (c1 : Cons) (c0 : Cons)
  /-- RED_MAX, R195. Accepts elements into the reorder window for a tag-ordered maximum. -/
  | redMax (row : Bool) (satq : Bool) (ty : Ty) (c1 : Cons) (c0 : Cons)
  /-- RED_MIN, R195. Accepts elements into the reorder window for a tag-ordered minimum. -/
  | redMin (row : Bool) (satq : Bool) (ty : Ty) (c1 : Cons) (c0 : Cons)
  /-- SCAN_ADD, R197. Accepts elements for a tag-ordered prefix sum. -/
  | scanAdd (row : Bool) (satq : Bool) (ty : Ty) (c1 : Cons) (c0 : Cons)
  /-- PERM, R200. Permutes a run by index operand b. -/
  | perm (idx : BitVec 5) (w64 : Bool) (c1 : Cons) (c0 : Cons)
  /-- LROT, R200. Rotates a run by N positions. -/
  | lrot (idx : BitVec 5) (w64 : Bool) (c1 : Cons) (c0 : Cons)
  /-- BCAST, R200. Broadcasts element N to the whole run. -/
  | bcast (idx : BitVec 5) (w64 : Bool) (c1 : Cons) (c0 : Cons)
  /-- COMPRESS, R200. Packs the predicated elements to the front of the run. -/
  | compress (idx : BitVec 5) (w64 : Bool) (c1 : Cons) (c0 : Cons)
  /-- EXPAND, R200. Spreads packed elements to predicated positions. -/
  | expand (idx : BitVec 5) (w64 : Bool) (c1 : Cons) (c0 : Cons)
  /-- RAND, R201. Draws entropy words from the hub's source. -/
  | rand (ty : Ty) (c1 : Cons) (c0 : Cons)
  /-- RCPA, R188. Approximate reciprocal: RZ reciprocal with low mantissa bits cleared. -/
  | rcpa (ty : Ty) (c1 : Cons) (c0 : Cons)
  /-- TMMA, R221. Tile matrix multiply-accumulate into an f32 accumulator tile. -/
  | tmma (sa : Save) (sb : Save) (ks : BitVec 2) (c1 : Cons) (c0 : Cons)
  /-- TMMA_T, R222. Tile matrix multiply with A block-transposed. -/
  | tmmaT (sa : Save) (sb : Save) (ks : BitVec 2) (c1 : Cons) (c0 : Cons)
  /-- TTRANS, R226. Block-transposes a tile. -/
  | ttrans (sa : Save) (ks : BitVec 2) (c1 : Cons) (c0 : Cons)
  /-- TADD, R224. Element-wise tile sum. -/
  | tadd (sa : Save) (sb : Save) (ks : BitVec 2) (c1 : Cons) (c0 : Cons)
  /-- TSUB, R224. Element-wise tile difference. -/
  | tsub (sa : Save) (sb : Save) (ks : BitVec 2) (c1 : Cons) (c0 : Cons)
  /-- TMUL, R224. Element-wise tile product. -/
  | tmul (sa : Save) (sb : Save) (ks : BitVec 2) (c1 : Cons) (c0 : Cons)
  /-- TSCALE_R, R224. Scales each tile row by column 0 of B. -/
  | tscaleR (sa : Save) (sb : Save) (ks : BitVec 2) (c1 : Cons) (c0 : Cons)
  /-- TSCALE_C, R224. Scales each tile column by row 0 of B. -/
  | tscaleC (sa : Save) (sb : Save) (ks : BitVec 2) (c1 : Cons) (c0 : Cons)
  /-- TMAXZ, R224. Element-wise max with zero. -/
  | tmaxz (sa : Save) (ks : BitVec 2) (c1 : Cons) (c0 : Cons)
  /-- TEXP2, R224. Element-wise 2^x of a tile. -/
  | texp2 (sa : Save) (ks : BitVec 2) (c1 : Cons) (c0 : Cons)
  /-- TRSUM, R225. Sums each tile row in ascending column. -/
  | trsum (sa : Save) (ks : BitVec 2) (c1 : Cons) (c0 : Cons)
  /-- TCSUM, R225. Sums each tile column in ascending row. -/
  | tcsum (sa : Save) (ks : BitVec 2) (c1 : Cons) (c0 : Cons)
  /-- TRMAX, R225. Maximum of each tile row. -/
  | trmax (sa : Save) (ks : BitVec 2) (c1 : Cons) (c0 : Cons)
  /-- TCVT, R227. Converts a tile between accepted type pairs. -/
  | tcvt (sa : Save) (ks : BitVec 2) (c1 : Cons) (c0 : Cons)
  /-- TQNT, R228. Quantises tiles into b4x or be4m3 blocks. -/
  | tqnt (sa : Save) (sb : Save) (ks : BitVec 2) (c1 : Cons) (c0 : Cons)
  /-- TZERO, R226. Writes zeros over a tile's extent. -/
  | tzero (ks : BitVec 2) (c1 : Cons) (c0 : Cons)
  /-- TCOPY, R226. Copies the bytes of a tile's extent. -/
  | tcopy (sa : Save) (ks : BitVec 2) (c1 : Cons) (c0 : Cons)
  /-- TMMA_SP, R223. Structured-sparse tile matrix multiply (experimental). -/
  | tmmaSp (sa : Save) (sb : Save) (ks : BitVec 2) (c1 : Cons) (c0 : Cons)
  /-- REC_ON, R248. Selects a furrow log and turns record mode on. -/
  | recordOn (fresh : Bool) (log : BitVec 3) (c1 : Cons) (c0 : Cons)
  /-- REC_OFF, R248. Turns record mode off. -/
  | recordOff (c1 : Cons) (c0 : Cons)
  /-- REC_MARK, R239. Appends a mark record opening a new segment. -/
  | recordMark (c1 : Cons) (c0 : Cons)
  /-- REVERSE, R249. Checks and reverses the innermost log segment. -/
  | reverse (c1 : Cons) (c0 : Cons)
  /-- ADJSEED, R250. Writes a seed into an adjoint tile name. -/
  | adjseed (ks : BitVec 2)
  /-- LOGQ, R251. Returns a log register or free space. -/
  | logq (which : BitVec 3) (c1 : Cons) (c0 : Cons)
  /-- LOGEXT, R251. Extends the size of the open log. -/
  | logext (c1 : Cons) (c0 : Cons)
  /-- AG_OPEN, R288. Reads a stream descriptor and opens a stream context. -/
  | agOpen (n : BitVec 4) (c1 : Cons) (c0 : Cons)
  /-- AG_CLOSE, R289. Closes a stream after its stores are performed. -/
  | agClose (c1 : Cons) (c0 : Cons)
  /-- SRD, R289. Takes a run of elements from a PULL read stream. -/
  | srd (c1 : Cons) (c0 : Cons)
  /-- SWR, R289. Enqueues elements to a write stream by ordinal. -/
  | swr
  /-- LD, R281. Translates and loads an element from memory. -/
  | ld (ty : Ty) (c1 : Cons) (c0 : Cons)
  /-- ST, R281. Translates and stores an element through the coalescer. -/
  | st (ty : Ty)
  /-- PREF, R281. Prefetches a line into L2 without trapping. -/
  | pref
  /-- COPY, R283. Copies between memory and a near push area, or memory to memory. -/
  | copy (dir : BitVec 2) (n : BitVec 4) (c1 : Cons) (c0 : Cons)
  /-- COPY_MM, R283. Copies memory into a near push area and delivers its raw reference on completion. -/
  | copyMm (n : BitVec 4) (c0 : Cons)
  /-- ATOM_ADD, R282. Atomic integer add at the home slice. -/
  | atomAdd (ty : Ty) (c1 : Cons) (c0 : Cons)
  /-- ATOM_FADD, R282. Atomic floating-point add at the home slice. -/
  | atomFadd (ty : Ty) (c1 : Cons) (c0 : Cons)
  /-- ATOM_MIN, R282. Atomic minimum at the home slice. -/
  | atomMin (ty : Ty) (c1 : Cons) (c0 : Cons)
  /-- ATOM_MAX, R282. Atomic maximum at the home slice. -/
  | atomMax (ty : Ty) (c1 : Cons) (c0 : Cons)
  /-- ATOM_BIT, R282. Atomic AND, OR or XOR at the home slice. -/
  | atomBit (bop : BitVec 2) (ty : Ty) (c1 : Cons) (c0 : Cons)
  /-- ATOM_SWAP, R282. Atomic swap at the home slice. -/
  | atomSwap (ty : Ty) (c1 : Cons) (c0 : Cons)
  /-- ATOM_CAS, R282. Atomic compare-and-swap at the home slice. -/
  | atomCas (ty : Ty) (c1 : Cons) (c0 : Cons)
  /-- FENCE_ACQ, R285. Acquire fence: waits for earlier reads and discards held lines. -/
  | fenceAcq (scope : BitVec 3) (c1 : Cons) (c0 : Cons)
  /-- FENCE_REL, R285. Release fence held at the home port until earlier writes are acknowledged. -/
  | fenceRel (scope : BitVec 3) (c1 : Cons) (c0 : Cons)
  /-- FENCE_AR, R285. Acquire and release fence. -/
  | fenceAr (scope : BitVec 3) (c1 : Cons) (c0 : Cons)
  /-- QFENCE, R286. Joins queues of a P-cell so earlier entries perform before later ones. -/
  | qfence (n : BitVec 4) (c1 : Cons) (c0 : Cons)
  /-- DRAIN, R287. Waits until the cell's earlier copies into the named memory complete. -/
  | drain (mem : BitVec 2) (c1 : Cons) (c0 : Cons)
  /-- WAITQ, R287. Waits until a write stream's accepted stores are performed. -/
  | waitq (scope : BitVec 3) (c1 : Cons) (c0 : Cons)
  /-- OWN, R263. Hands a memory region to another owner P-cell. -/
  | own (n : BitVec 4) (c1 : Cons) (c0 : Cons)
  /-- M_PUSH, R289. Commits bytes to a PUSH write stream's ring and grants the next bytes. -/
  | mPush (c1 : Cons) (c0 : Cons)
  /-- M_ACCEPT, R289. Accepts landed bytes of a PUSH read stream's ring. -/
  | mAccept (c1 : Cons) (c0 : Cons)
  /-- SLICEOF, R281. Returns the global home slice of an address. -/
  | sliceof (c1 : Cons) (c0 : Cons)
  /-- TLBINV, R290. Invalidates translation entries by VA, VI or guest-physical page. -/
  | tlbinv (all : Bool) (ks : BitVec 2) (c1 : Cons) (c0 : Cons)
  /-- GMAKE, R369. Makes a group with a pinned pound and emits its handle. -/
  | gmake (n : BitVec 4) (c1 : Cons) (c0 : Cons)
  /-- GFREE, R363. Frees a group, returning its pending messages to the error ring. -/
  | gfree (hk : Bool) (n : BitVec 4) (c1 : Cons) (c0 : Cons)
  /-- GJOIN, R371. Makes the cell's endpoint a member of a group. -/
  | gjoin (hk : Bool) (n : BitVec 4) (c1 : Cons) (c0 : Cons)
  /-- GLEAVE, R371. Withdraws the endpoint's membership and readiness. -/
  | gleave (hk : Bool) (n : BitVec 4) (c1 : Cons) (c0 : Cons)
  /-- READY, R372. Reserves inbox space and advertises readiness up the tree. -/
  | ready (hk : Bool) (n : BitVec 4) (c1 : Cons) (c0 : Cons)
  /-- UNREADY, R372. Withdraws all of the endpoint's readiness. -/
  | unready (hk : Bool) (n : BitVec 4) (c1 : Cons) (c0 : Cons)
  /-- GSEND, R373. Sends a message to one ready member of a group, or to its pound. -/
  | gsend (try1 : Bool) (hk : Bool) (n : BitVec 4) (c1 : Cons) (c0 : Cons)
  /-- GTAKE, R374. Takes the oldest inbox message as an acquire. -/
  | gtake (c1 : Cons) (c0 : Cons)
  /-- GCOUNT_SNAPCLR, R375. Snapshots and clears a group's routing counters. -/
  | gcountSnapclr (n : BitVec 4) (c1 : Cons) (c0 : Cons)
  /-- GPOUND, R375. Returns a group's pound state. -/
  | gpound (hk : Bool) (n : BitVec 4) (c1 : Cons) (c0 : Cons)
  /-- SPAWN, R399. Places a continuation record built from a template. -/
  | spawn (pb : Bool) (n : BitVec 4) (c1 : Cons) (c0 : Cons)
  /-- SPAWNR, R399. Places a record with a range from operands. -/
  | spawnr (pb : Bool) (n : BitVec 4) (c1 : Cons) (c0 : Cons)
  /-- JOIN, R399. Places a waiting continuation with a join count. -/
  | join (inh : Bool) (n : BitVec 4) (c1 : Cons) (c0 : Cons)
  /-- WSDECL, R400. Writes a working-set declaration into a template. -/
  | wsdecl (n : BitVec 4) (c1 : Cons) (c0 : Cons)
  /-- YIELD, R401. Offers the plot to the scheduler when the round ends. -/
  | yield (c1 : Cons) (c0 : Cons)
  /-- CANCEL, R401. Removes a record and its undispatched parts. -/
  | cancel (c1 : Cons) (c0 : Cons)
  /-- JOBDONE, R401. Records the job's code as a release at system scope. -/
  | jobdone
  /-- TASKQ, R401. Returns a value of the running record or the scheduler. -/
  | taskq (which : BitVec 3) (c1 : Cons) (c0 : Cons)
  /-- TRAP, R440. Raises a software trap precisely. -/
  | trap (code : BitVec 6)
  /-- TRAPRET, R440. Resolves the handler round's frozen subject by an action. -/
  | trapret (c1 : Cons) (c0 : Cons)
  /-- SYSRD, R441. Reads a system register by selector. -/
  | sysrd (c1 : Cons) (c0 : Cons)
  /-- SYSWR, R441. Writes a system register by selector. -/
  | syswr (c1 : Cons) (c0 : Cons)
  /-- TOLLRD, R442. Reads a toll counter. -/
  | tollrd (c1 : Cons) (c0 : Cons)
  /-- TOLLSIG, R434. Writes a signed snapshot of a group of toll counters. -/
  | tollsig (n : BitVec 4) (c1 : Cons) (c0 : Cons)
  /-- SYNC_CODE, R443. Makes code patches in a range visible to later launches of the queue. -/
  | syncCode (c1 : Cons) (c0 : Cons)
  /-- HALT, R443. Ends the plot's round at once with exit code 7. -/
  | halt
  /-- FREEZE, R444. Freezes a named plot. -/
  | freeze (c1 : Cons) (c0 : Cons)
  /-- THAW, R444. Resumes a frozen plot with no unresolved trap. -/
  | thaw (c1 : Cons) (c0 : Cons)
  /-- MARKWAVE, R423. Starts a marker wave on a plot. -/
  | markwave (c1 : Cons) (c0 : Cons)
  /-- IMGSAVE, R444. Writes a frozen or wave-complete plot's image and releases the plot. -/
  | imgsave (n : BitVec 4) (c1 : Cons) (c0 : Cons)
  /-- IMGLOAD, R444. Restores an image onto a free rectangle, frozen. -/
  | imgload (n : BitVec 4) (c1 : Cons) (c0 : Cons)
  /-- VIRQ, R445. Raises a software interrupt vector as a release. -/
  | virq (vec : BitVec 6)
  /-- TIMER, R445. Emits the module cycle count TIME. -/
  | timer (c1 : Cons) (c0 : Cons)
  /-- JNL_Q, R445. Returns the job's journal state. -/
  | jnlQ (c1 : Cons) (c0 : Cons)
  /-- JNL_NOTE, R445. Journals a value in record mode, or returns the recorded value in replay. -/
  | jnlNote (c1 : Cons) (c0 : Cons)
  /-- PART_QUIESCE, R310. Puts a partition's slices into write-through. -/
  | partQuiesce (c1 : Cons) (c0 : Cons)
  /-- PART_WB, R310. Writes back dirty lines of a quiesced partition in a range. -/
  | partWb (c1 : Cons) (c0 : Cons)
  /-- PART_INV, R310. Invalidates misplaced lines of a partition in a range. -/
  | partInv (c1 : Cons) (c0 : Cons)
  /-- PART_SETHASH, R311. Installs a new slice set, masks and VI list for a partition. -/
  | partSethash (c1 : Cons) (c0 : Cons)
  /-- PART_RESUME, R310. Invalidates misplaced lines and returns a partition to normal. -/
  | partResume (c1 : Cons) (c0 : Cons)
  /-- WAYMASK_SET, R299. Sets a VI's way mask, draining removed ways. -/
  | waymaskSet (c1 : Cons) (c0 : Cons)
  /-- WQUOTA_SET, R312. Sets a VI's window quota. -/
  | wquotaSet (c1 : Cons) (c0 : Cons)
  /-- LGC_DP4, R69. Smithy dot product of signed bytes plus c. -/
  | lgcDp4 (c1 : Cons) (c0 : Cons)
  /-- LGC_SAD, R69. Smithy sum of absolute byte differences plus c. -/
  | lgcSad (c1 : Cons) (c0 : Cons)
  /-- LGC_AVG, R69. Smithy rounded byte average. -/
  | lgcAvg (c1 : Cons) (c0 : Cons)
  /-- LGC_CLAMP, R69. Smithy i32 clamp. -/
  | lgcClamp (c1 : Cons) (c0 : Cons)
  /-- LGC_SWZ, R69. Smithy byte swizzle. -/
  | lgcSwz (c1 : Cons) (c0 : Cons)
  /-- LGC_CVT8, R70. Smithy non-saturating f32 to e4m3 conversion. -/
  | lgcCvt8 (c1 : Cons) (c0 : Cons)
  /-- SMITHY_COMPLETE, R67. The smithy completes a queued request and emits its result to the firing's consumers. -/
  | smithyComplete (die : Nat)
  /-- PLOT_CONFIGURE, R385. The scheduler configures a plot for a ready record: grants, loading, folds and region table. -/
  | plotConfigure (recId : Nat)
  /-- DISPATCH, R385. An idle plot asks its gate for work and receives the chosen record. -/
  | dispatch (plot : Nat)
  /-- INSTANCE_GENERATE, R100. A block generator creates the next run's instance once its frame is free. -/
  | instanceGenerate (plot cell bidx : Nat)
  /-- ROUND_END, R103. The round ends when all instances retired, threads ended and no token is in flight. -/
  | roundEnd (plot : Nat)
  /-- TOKEN_ARRIVAL, R107. A data token arrives at a cell and is sorted into its frame, held early or dropped. -/
  | tokenArrival (plot k : Nat)
  /-- EOS_ARRIVAL, R116. An EOS token sets the port's EOS register and resolves later elements. -/
  | eosArrival (plot cell bidx slot port tag : Nat)
  /-- MARKER_ARRIVAL, R423. A checkpoint marker reaches a cell's wave logic. -/
  | markerArrival (plot k : Nat)
  /-- HEDGE_DROP, R114. A switch drops a head flit whose next hop crosses a hedge. -/
  | hedgeDrop (plot k : Nat)
  /-- TRAP_RECORD_DELIVERY, R418. The hub writes a trap record into the VI's trap ring in sequence order. -/
  | trapRecordDelivery (vi : Nat)
  /-- HANDLER_ROUND, R418. The handler plot runs one round for the next trap record. -/
  | handlerRound (vi : Nat)
  /-- WATCHDOG_NOPROG, R130. The plot's no-firing count reaches WDT.LIMIT and NOPROG is raised. -/
  | watchdogNoprog (plot : Nat)
  /-- REDUCTION_COMBINE, R195. A reducing slot combines the next uncombined tags of its window in tag order. -/
  | reductionCombine (plot cell bidx slot : Nat)
  /-- REDUCTION_EMIT, R196. A scope's result is emitted 8 cycles after its last element is combined. -/
  | reductionEmit (plot cell bidx slot : Nat)
  /-- FAR_HEADER_REREAD, R156. A P-cell re-reads a far header line when its slice reports a write. -/
  | farHeaderReread (plot : Nat)
  /-- TILE_COMPLETE, R216. A tile firing writes its destination, updates headers and emits its result reference. -/
  | tileComplete (plot cell : Nat)
  /-- RECORD_REVERSAL, R242. One log record is reversed, forming its adjoint contributions. -/
  | recordReversal (plot : Nat)
  /-- SLICE_REQUEST, R292. A request reaches an L2 slice and takes a queue entry or waits. -/
  | sliceRequest (port : Nat)
  /-- NACK_RESEND, R307. A P-cell recomputes the home of a NACKed request and resends it. -/
  | nackResend (port : Nat)
  /-- LD_REPLY, R281. A load reply carrying its tag returns to the cell. -/
  | ldReply (slice : Nat)
  /-- ATOMIC_PERFORM, R282. The home slice applies an atomic and returns the old value. -/
  | atomicPerform (slice : Nat)
  /-- WRITE_ACKNOWLEDGE, R285. A slice acknowledges a write at the P-cell, releasing held fences. -/
  | writeAcknowledge (slice : Nat)
  /-- COALESCER_FLUSH, R262. A line buffer is written to its slice when full, aged 64 cycles, needed or fenced. -/
  | coalescerFlush (port line : Nat)
  /-- PAGE_WALK_COMPLETE, R268. A walker finishes a translation and fills the TLB. -/
  | pageWalkComplete (port : Nat)
  /-- MIGRATION_COMPLETE, R272. The Reeve has copied the page to HBM and releases the access. -/
  | migrationComplete (port frame : Nat) (evict : Option (Nat × Nat))
  /-- FTIMEOUT_EXPIRY, R273. FTIMEOUT expires, the plot is frozen and requeued and NOVICTIM raised. -/
  | ftimeoutExpiry (vi : Nat)
  /-- STREAM_FETCH, R278. A stream generator fetches or stores the next ordinal. -/
  | streamFetch (port ctx : Nat)
  /-- COPY_PERFORM, R284. The home port performs a copy line by line. -/
  | copyPerform (port : Nat)
  /-- COPY_MM_DELIVER, R219. After the last byte lands, COPY.MM delivers its raw reference. -/
  | copyMmDeliver (port : Nat)
  /-- OWN_TOKEN_ARRIVAL, R263. The hand-over token reaches the new owner and stalled writes proceed. -/
  | ownTokenArrival (port : Nat)
  /-- WAYMASK_DRAIN_DONE, R299. Every slice has walked its draining ways and DRAIN clears. -/
  | waymaskDrainDone (vi : Nat)
  /-- BARRIER_ARRIVAL, R122. The home S-cell applies an arrival to a cached barrier. -/
  | barrierArrival (plot : Nat)
  /-- GROUP_MESSAGE_STEER, R355. A group message at a tree node climbs, steers down, bounces or parks. -/
  | groupMessageSteer (k : Nat)
  /-- GSEND_OUTCOME, R356. A message's outcome returns to its entry gate and completes the GSEND. -/
  | gsendOutcome (k : Nat)
  /-- READINESS_COUNT_UPDATE, R354. A debit or refund arrives at a tree node and changes its count. -/
  | readinessCountUpdate (k : Nat)
  /-- POUND_DRAIN, R357. The hub steers the pound's head message when a count is positive, clearing PARK when empty. -/
  | poundDrain (handle : Nat)
  /-- JOB_RECORD_TAKE, R382. The front end takes a record from a job queue and places it as a job's root. -/
  | jobRecordTake (vi queue : Nat)
  /-- JOB_COMPLETE, R388. When a job's live count reaches 0 its writes are performed and its completion entry written. -/
  | jobComplete (job : Nat)
  /-- STAGE_DECLARATION, R392. The scheduler admits and starts staging a ready record's declaration. -/
  | stageDeclaration (recId : Nat)
  /-- STAGING_READ, R393. A staging function reads lines into L2 or a near snapshot. -/
  | stagingRead (recId : Nat)
  /-- FAIR_SHARE_PREEMPT, R397. A deficit exceeding QUANTUM pre-empts a plot of the most over-share VI. -/
  | fairSharePreempt (vi : Nat)
  /-- WAVE_COMPLETE, R423. Every cell is closed, the marker image is taken and the plot released. -/
  | waveComplete (plot : Nat)
  /-- WAVEBUD_EXPIRY, R423. A wave not complete within WAVEBUD falls to FREEZE. -/
  | wavebudExpiry (plot : Nat)
  /-- FREEZE_COMPLETE, R424. Every cell of the plot has stopped at an instruction boundary. -/
  | freezeComplete (plot : Nat)
  /-- JQTAIL, R381. A doorbell write sets a queue's tail, letting the front end take records. -/
  | jqtail (vi queue : Nat) (v : BitVec 32)
  /-- JCCONS, R381. A doorbell write sets a completion ring's consumer index and retries held entries. -/
  | jccons (vi queue : Nat) (v : BitVec 32)
  /-- JQFENCE, R384. A doorbell write joins job queues and carries SYNC.CODE drops. -/
  | jqfence (vi : Nat) (v : BitVec 16)
  /-- FRCONS, R469. A write of the fault ring consumer index retries held records. -/
  | frcons (vi : Nat) (v : BitVec 32)
  /-- STRESUME, R274. A handle written to STRESUME resumes a stream or retries a NOVICTIM. -/
  | stresume (vi : Nat) (v : BitVec 32)
  /-- HOST_MEMORY_ACCESS, R460. A host read or write through BAR4 translated as the function's VI. -/
  | hostMemoryAccess (vi : Nat) (off : BitVec 40) (wr : Option (BitVec 64))
  /-- CONFIG_SCRUB, R429. The scrubber reads a configuration word and corrects or reloads. -/
  | configScrub (plot : Nat) (found : Scrub)
  /-- UNCORRECTABLE_ERROR, R430. An uncorrectable data error poisons a slot or line or abandons the round. -/
  | uncorrectableError (site : ErrSite)
  /-- GERCONS, R469. A write of the group error ring consumer index retries held records. -/
  | gercons (vi : Nat) (v : BitVec 32)
  /-- TRCONS, R469. A write of the trap ring consumer index lets waiting records be written. -/
  | trcons (vi : Nat) (v : BitVec 32)
  /-- HRCONS, R421. A write of the hedge ring consumer index frees ring space. -/
  | hrcons (vi : Nat) (v : BitVec 32)
  /-- RING_BASE_WRITE, R469. A write of a ring's BASE retries records held for it. -/
  | ringBaseWrite (vi : Nat) (ring : Ring) (index : Nat) (v : BitVec 64)
  /-- TRAPRSP, R419. A write resolves a frozen trap subject by sequence number. -/
  | traprsp (vi : Nat) (v : BitVec 64)
  /-- IMASK, R416. A write of the interrupt mask delivers newly unmasked pending vectors. -/
  | imask (vi : Nat) (v : BitVec 64)
  /-- VIRESET, R428. VI 0 writes GO to reset a VI. -/
  | vireset (vi : Nat) (v : BitVec 64)
  /-- REGISTER_WRITE, R412. A write to a register without behaviour of its own. -/
  | registerWrite (fn : Nat) (off v : BitVec 64)
  /-- FUNCTION_LEVEL_RESET, R428. A function-level reset starts the reset of its VI. -/
  | functionLevelReset (vi : Nat)
  /-- RST, R465. Writing MSTATUS.RST starts a module reset. -/
  | rst (v : BitVec 64)
  /-- MSI_X_ENTRY_UNMASK, R461. A host write that unmasks an MSI-X table entry delivers its vector if it is still pending; one with 64 added
  to the entry's number masks it. -/
  | msiXEntryUnmask (fn vec : Nat)
  /-- BELL_MARK, R12. The bell master marks a bell period and every shared unit takes slot 0; pending BELL writes take effect. -/
  | bellMark
  /-- SIG_AT_HUB, R123. The hub drops, forwards, holds or applies an arriving SIG. -/
  | sigAtHub
  /-- FAIR_SHARE_TICK, R397. Each microsecond the scheduler updates every active VI's deficit. -/
  | fairShareTick
  /-- TOLL_TICK, R306. Each microsecond the L2 way-microseconds counter adds its amount. -/
  | tollTick
  /-- PERST, R465. PERST# starts a module reset. -/
  | perst
  /-- BRINGUP_READY, R465. Training and configuration complete and READY is set. -/
  | bringupReady
  /-- REEVE_ROUND, R452. The Reeve takes a record from VI 0 queue 15 and runs its round. -/
  | reeveRound
  /-- THERMAL_THROTTLE, R464. At 100 °C the clock is halved at a bell mark. -/
  | thermalThrottle
  /-- THERMAL_RESTORE, R464. After 1 ms below 95 °C the full clock is restored at a bell mark. -/
  | thermalRestore
  /-- THERMAL_SHUTDOWN, R464. At 110 °C the module removes power from the dies. -/
  | thermalShutdown
  deriving DecidableEq, Repr

end Sys2Proof
end

