-- ==== Sys2Proof/WellFormed.lean ====
section
/-!
DEFINITION. Sys2Proof/WellFormed.lean: which field values of an instruction the form's own entry accepts (R50, R173
and the forms tables). What needs the block or the image as well (a consumer's target slot, NIDX, the EXITS and FEAT
fields of the header) is the loader's (R62), not here.
-/
namespace Sys2Proof

/-- The 4-bit code of R76. -/
def Ty.code : Ty → BitVec 4
  | .i32 => 0#4
  | .n32 => 1#4
  | .i64 => 2#4
  | .n64 => 3#4
  | .i16 => 4#4
  | .n16 => 5#4
  | .i8 => 6#4
  | .n8 => 7#4
  | .f32 => 8#4
  | .bf16 => 9#4
  | .e4m3 => 10#4
  | .e5m2 => 11#4
  | .i4x => 12#4
  | .b4x => 13#4
  | .be4m3 => 14#4
  | .rsv => 15#4

/-- The eight integer types of R76. -/
def Ty.isInt (t : Ty) : Bool := t.code.ult 8#4

/-- The width of an integer type, as the step of a width code of R172: 1 for 8 bits, 2 for 16, 3 for 32, 4 for 64. -/
def IntTy.step : IntTy → Nat
  | .i32 | .n32 => 3
  | .i64 | .n64 => 4
  | .i16 | .n16 => 2
  | .i8 | .n8 => 1

/-- R173: a width code of SEXT and ZEXT names a width (4, 8, 16, 32) no larger than that of the type. -/
def widOk (wid : BitVec 3) (ty : IntTy) : Bool := wid.ult 4#3 && Nat.ble wid.toNat ty.step

/-- Every field of the instruction holds a value that its entry assigns. -/
def Instr.wf : Instr → Bool
  | .nop => true
  | .mov _ _ => true
  | .imm _ _ _ => true
  | .kread wide n _ _ => (!wide || n != 15#4)
  | .setk wide n => (!wide || n != 15#4)
  | .tag dim _ _ => (dim.ult 4#3 || dim == 7#3)
  | .out _ _ _ => true
  | .steerT _ _ => true
  | .steerF _ _ => true
  | .sel _ _ => true
  | .merge _ _ => true
  | .eos _ _ => true
  | .iseos _ _ => true
  | .exit _ => true
  | .next _ => true
  | .bar n _ _ => n != 15#4
  | .barw n _ _ => n != 15#4
  | .sig n => n != 15#4
  | .pmask _ _ => true
  | .fold n => n != 15#4
  | .ldn _ _ _ _ => true
  | .stn _ => true
  | .ldnT _ _ _ _ => true
  | .stnT _ _ _ => true
  | .probe _ _ _ _ => true
  | .kill _ => true
  | .refold n => n != 15#4
  | .foldq _ _ _ => true
  | .add _ _ _ _ => true
  | .sub _ _ _ _ => true
  | .mul _ _ _ _ => true
  | .mulh _ _ _ _ => true
  | .mad _ _ _ _ => true
  | .div _ _ _ _ => true
  | .rem _ _ _ _ => true
  | .and _ _ _ _ => true
  | .or _ _ _ _ => true
  | .xor _ _ _ _ => true
  | .andn _ _ _ _ => true
  | .shl _ _ _ _ => true
  | .shr _ _ _ _ => true
  | .sar _ _ _ _ => true
  | .rot _ _ _ _ => true
  | .min _ _ _ _ => true
  | .max _ _ _ _ => true
  | .abs _ _ _ => true
  | .neg _ _ _ => true
  | .clz _ _ _ => true
  | .popc _ _ _ => true
  | .brev _ _ _ => true
  | .ext _ _ _ _ => true
  | .ins _ _ _ _ => true
  | .addsat _ _ _ _ => true
  | .subsat _ _ _ _ => true
  | .cmp cond _ _ _ => (cond != .un && cond != .ord)
  | .sext wid ty _ _ => widOk wid ty
  | .zext wid ty _ _ => widOk wid ty
  | .addr _ _ _ _ => true
  | .addc _ ty _ _ => (ty == .n32 || ty == .n64)
  | .fadd _ ty _ _ => (ty == .f32 || ty == .bf16)
  | .fsub _ ty _ _ => (ty == .f32 || ty == .bf16)
  | .fmul _ ty _ _ => (ty == .f32 || ty == .bf16)
  | .fma _ ty _ _ => (ty == .f32 || ty == .bf16)
  | .fmin _ ty _ _ => (ty == .f32 || ty == .bf16)
  | .fmax _ ty _ _ => (ty == .f32 || ty == .bf16)
  | .fabs ty _ _ => (ty == .f32 || ty == .bf16)
  | .fneg ty _ _ => (ty == .f32 || ty == .bf16)
  | .fcmp _ ty _ _ => (ty == .f32 || ty == .bf16)
  | .fclass ty _ _ => (ty == .f32 || ty == .bf16 || ty == .e4m3 || ty == .e5m2)
  | .frnd _ ty _ _ => (ty == .f32 || ty == .bf16)
  | .exp2 _ ty _ _ => (ty == .f32 || ty == .bf16)
  | .log2 _ ty _ _ => (ty == .f32 || ty == .bf16)
  | .rcp _ ty _ _ => (ty == .f32 || ty == .bf16)
  | .rsqrt _ ty _ _ => (ty == .f32 || ty == .bf16)
  | .sqrt _ ty _ _ => (ty == .f32 || ty == .bf16)
  | .sin _ ty _ _ => (ty == .f32 || ty == .bf16)
  | .cos _ ty _ _ => (ty == .f32 || ty == .bf16)
  | .tanh _ ty _ _ => (ty == .f32 || ty == .bf16)
  | .sigm _ ty _ _ => (ty == .f32 || ty == .bf16)
  | .cvt rm cv _ _ => cv != 15#4 && (rm == .rne || !(cv == 4#4 || cv == 5#4 || cv == 6#4))
  | .qnt _ ty _ _ => (ty == .i4x || ty == .e4m3 || ty == .i8)
  | .dqnt ty _ _ => (ty == .i4x || ty == .e4m3 || ty == .e5m2 || ty == .i8)
  | .redAdd _ satq ty _ _ => (ty.isInt || ty == .f32 || ty == .bf16) && (!satq || ty.isInt)
  | .redMax _ satq ty _ _ => (ty.isInt || ty == .f32 || ty == .bf16) && (!satq || !ty.isInt)
  | .redMin _ satq ty _ _ => (ty.isInt || ty == .f32 || ty == .bf16) && (!satq || !ty.isInt)
  | .scanAdd _ satq ty _ _ => (ty.isInt || ty == .f32 || ty == .bf16) && (!satq || ty.isInt)
  | .perm idx _ _ _ => idx == 0#5
  | .lrot _ _ _ _ => true
  | .bcast _ _ _ _ => true
  | .compress idx _ _ _ => idx == 0#5
  | .expand idx _ _ _ => idx == 0#5
  | .rand ty _ _ => (ty == .n32 || ty == .n64 || ty == .f32)
  | .rcpa ty _ _ => ty == .f32
  | .tmma _ _ _ _ _ => true
  | .tmmaT _ _ _ _ _ => true
  | .ttrans _ _ _ _ => true
  | .tadd _ _ _ _ _ => true
  | .tsub _ _ _ _ _ => true
  | .tmul _ _ _ _ _ => true
  | .tscaleR _ _ _ _ _ => true
  | .tscaleC _ _ _ _ _ => true
  | .tmaxz _ _ _ _ => true
  | .texp2 _ _ _ _ => true
  | .trsum _ _ _ _ => true
  | .tcsum _ _ _ _ => true
  | .trmax _ _ _ _ => true
  | .tcvt _ _ _ _ => true
  | .tqnt _ _ _ _ _ => true
  | .tzero _ _ _ => true
  | .tcopy _ _ _ _ => true
  | .tmmaSp _ _ _ _ _ => true
  | .recordOn _ _ _ _ => true
  | .recordOff _ _ => true
  | .recordMark _ _ => true
  | .reverse _ _ => true
  | .adjseed _ => true
  | .logq which _ _ => which.ult 4#3
  | .logext _ _ => true
  | .agOpen n _ _ => n != 15#4
  | .agClose _ _ => true
  | .srd _ _ => true
  | .swr => true
  | .ld ty _ _ => ty.code.ult 12#4
  | .st ty => ty.code.ult 12#4
  | .pref => true
  | .copy dir n _ _ => n.ule 12#4 && dir != 3#2
  | .copyMm n _ => n.ule 12#4
  | .atomAdd ty _ _ => ty.code.ult 4#4
  | .atomFadd ty _ _ => (ty == .f32 || ty == .bf16)
  | .atomMin ty _ _ => ty.code.ult 4#4
  | .atomMax ty _ _ => ty.code.ult 4#4
  | .atomBit bop ty _ _ => (ty == .n32 || ty == .n64) && bop != 3#2
  | .atomSwap ty _ _ => (ty.code.ult 4#4 || ty == .f32)
  | .atomCas ty _ _ => (ty.code.ult 4#4 || ty == .f32)
  | .fenceAcq scope _ _ => scope.ult 6#3
  | .fenceRel scope _ _ => scope.ult 6#3
  | .fenceAr scope _ _ => scope.ult 6#3
  | .qfence _ _ _ => true
  | .drain mem _ _ => mem != 3#2
  | .waitq scope _ _ => scope.ult 6#3
  | .own _ _ _ => true
  | .mPush _ _ => true
  | .mAccept _ _ => true
  | .sliceof _ _ => true
  | .tlbinv _ ks _ _ => ks != 3#2
  | .gmake n _ _ => n != 15#4
  | .gfree hk n _ _ => (hk || n == 0#4)
  | .gjoin hk n _ _ => (hk || n == 0#4)
  | .gleave hk n _ _ => (hk || n == 0#4)
  | .ready hk n _ _ => (hk || n == 0#4)
  | .unready hk n _ _ => (hk || n == 0#4)
  | .gsend _ hk n _ _ => (hk || n == 0#4)
  | .gtake _ _ => true
  | .gcountSnapclr n _ _ => n != 15#4
  | .gpound hk n _ _ => (hk || n == 0#4)
  | .spawn _ n _ _ => n != 15#4
  | .spawnr _ n _ _ => n != 15#4
  | .join _ n _ _ => n != 15#4
  | .wsdecl n _ _ => n != 15#4
  | .yield _ _ => true
  | .cancel _ _ => true
  | .jobdone => true
  | .taskq which _ _ => which.ult 6#3
  | .trap _ => true
  | .trapret _ _ => true
  | .sysrd _ _ => true
  | .syswr _ _ => true
  | .tollrd _ _ => true
  | .tollsig n _ _ => n != 15#4
  | .syncCode _ _ => true
  | .halt => true
  | .freeze _ _ => true
  | .thaw _ _ => true
  | .markwave _ _ => true
  | .imgsave n _ _ => n != 15#4
  | .imgload n _ _ => n != 15#4
  | .virq vec => vec.getLsbD 5
  | .timer _ _ => true
  | .jnlQ _ _ => true
  | .jnlNote _ _ => true
  | .partQuiesce _ _ => true
  | .partWb _ _ => true
  | .partInv _ _ => true
  | .partSethash _ _ => true
  | .partResume _ _ => true
  | .waymaskSet _ _ => true
  | .wquotaSet _ _ => true
  | .lgcDp4 _ _ => true
  | .lgcSad _ _ => true
  | .lgcAvg _ _ => true
  | .lgcClamp _ _ => true
  | .lgcSwz _ _ => true
  | .lgcCvt8 _ _ => true
  | .smithyComplete _ => true
  | .bellMark => true
  | .plotConfigure _ => true
  | .dispatch _ => true
  | .instanceGenerate _ _ _ => true
  | .roundEnd _ => true
  | .tokenArrival _ _ => true
  | .eosArrival _ _ _ _ _ _ => true
  | .markerArrival _ _ => true
  | .hedgeDrop _ _ => true
  | .trapRecordDelivery _ => true
  | .handlerRound _ => true
  | .watchdogNoprog _ => true
  | .reductionCombine _ _ _ _ => true
  | .reductionEmit _ _ _ _ => true
  | .farHeaderReread _ => true
  | .tileComplete _ _ => true
  | .recordReversal _ => true
  | .sliceRequest _ => true
  | .nackResend _ => true
  | .ldReply _ => true
  | .atomicPerform _ => true
  | .writeAcknowledge _ => true
  | .coalescerFlush _ _ => true
  | .pageWalkComplete _ => true
  | .migrationComplete _ _ _ => true
  | .ftimeoutExpiry _ => true
  | .streamFetch _ _ => true
  | .copyPerform _ => true
  | .copyMmDeliver _ => true
  | .ownTokenArrival _ => true
  | .waymaskDrainDone _ => true
  | .barrierArrival _ => true
  | .sigAtHub => true
  | .groupMessageSteer _ => true
  | .gsendOutcome _ => true
  | .readinessCountUpdate _ => true
  | .poundDrain _ => true
  | .jobRecordTake _ _ => true
  | .jobComplete _ => true
  | .stageDeclaration _ => true
  | .stagingRead _ => true
  | .fairShareTick => true
  | .fairSharePreempt _ => true
  | .waveComplete _ => true
  | .wavebudExpiry _ => true
  | .freezeComplete _ => true
  | .tollTick => true
  | .configScrub _ _ => true
  | .uncorrectableError _ => true
  | .jqtail _ _ _ => true
  | .jccons _ _ _ => true
  | .jqfence _ _ => true
  | .frcons _ _ => true
  | .stresume _ _ => true
  | .gercons _ _ => true
  | .trcons _ _ => true
  | .hrcons _ _ => true
  | .ringBaseWrite _ _ _ _ => true
  | .traprsp _ _ => true
  | .imask _ _ => true
  | .vireset _ _ => true
  | .registerWrite _ _ _ => true
  | .hostMemoryAccess _ _ _ => true
  | .functionLevelReset _ => true
  | .perst => true
  | .rst _ => true
  | .bringupReady => true
  | .reeveRound => true
  | .thermalThrottle => true
  | .thermalRestore => true
  | .thermalShutdown => true
  | .msiXEntryUnmask _ _ => true

end Sys2Proof
end

