-- ==== Sys2Proof/Decode.lean ====
section
/-!
DEFINITION. Sys2Proof/Decode.lean: from the 32 bits of an instruction word (R49) to an instruction, total, refusing by
name what is not one, and the encoder. A word is refused as the loader's checks 6 and 7 (R62) refuse it for what the
word alone shows: ILLOP for an opcode or a smithy selector that is unassigned, RSVFLD with the lowest offending bit
(R63) for a reserved bit or a field value the form's entry does not assign. Where two mnemonics share an opcode, the
bits of R55 select.
-/
namespace Sys2Proof

/-- Why a word is no instruction: ILLOP, or RSVFLD with BITPOS (R62, R63). -/
inductive DecErr where
  | illop
  | rsvfld (bitpos : Nat)
  deriving DecidableEq, Repr

/-- The integer type of a TY3 field (R171, R76). -/
def intTyOf (t : BitVec 3) : IntTy :=
  match t with
  | 0#3 => .i32
  | 1#3 => .n32
  | 2#3 => .i64
  | 3#3 => .n64
  | 4#3 => .i16
  | 5#3 => .n16
  | 6#3 => .i8
  | 7#3 => .n8

/-- The TY3 field of an integer type. -/
def intTyCode : IntTy → BitVec 3
  | .i32 => 0#3
  | .n32 => 1#3
  | .i64 => 2#3
  | .n64 => 3#3
  | .i16 => 4#3
  | .n16 => 5#3
  | .i8 => 6#3
  | .n8 => 7#3

/-- The type of a TY4 field (R76). -/
def tyOf (t : BitVec 4) : Ty :=
  match t with
  | 0#4 => .i32
  | 1#4 => .n32
  | 2#4 => .i64
  | 3#4 => .n64
  | 4#4 => .i16
  | 5#4 => .n16
  | 6#4 => .i8
  | 7#4 => .n8
  | 8#4 => .f32
  | 9#4 => .bf16
  | 10#4 => .e4m3
  | 11#4 => .e5m2
  | 12#4 => .i4x
  | 13#4 => .b4x
  | 14#4 => .be4m3
  | _ => .rsv

/-- The rounding mode of an RM field (R86). -/
def rmOf (v : BitVec 2) : Rm :=
  match v with
  | 0#2 => .rne
  | 1#2 => .rz
  | 2#2 => .rup
  | 3#2 => .sr

/-- The field value of `rmOf`. -/
def rmCode : Rm → BitVec 2
  | .rne => 0#2
  | .rz => 1#2
  | .rup => 2#2
  | .sr => 3#2

/-- The condition of a COND field (R172). -/
def cmpOf (v : BitVec 3) : Cmp :=
  match v with
  | 0#3 => .eq
  | 1#3 => .ne
  | 2#3 => .lt
  | 3#3 => .le
  | 4#3 => .gt
  | 5#3 => .ge
  | 6#3 => .un
  | 7#3 => .ord

/-- The field value of `cmpOf`. -/
def cmpCode : Cmp → BitVec 3
  | .eq => 0#3
  | .ne => 1#3
  | .lt => 2#3
  | .le => 3#3
  | .gt => 4#3
  | .ge => 5#3
  | .un => 6#3
  | .ord => 7#3

/-- The save mode of an SA or SB field. -/
def saveOf (v : BitVec 2) : Save :=
  match v with
  | 0#2 => .keep
  | 1#2 => .save
  | 2#2 => .recompute
  | 3#2 => .none

/-- The field value of `saveOf`. -/
def saveCode : Save → BitVec 2
  | .keep => 0#2
  | .save => 1#2
  | .recompute => 2#2
  | .none => 3#2

/-- The positions of field values that the form's entry does not assign, each the lowest bit of its field in the word
(R63). -/
def fieldFaults : Instr → List Nat
  | .nop => []
  | .mov _ _ => []
  | .imm _ _ _ => []
  | .kread wide n _ _ => (bif (!wide || n != 15#4) then [] else [18])
  | .setk wide n => (bif (!wide || n != 15#4) then [] else [18])
  | .tag dim _ _ => (bif (dim.ult 4#3 || dim == 7#3) then [] else [18])
  | .out _ _ _ => []
  | .steerT _ _ => []
  | .steerF _ _ => []
  | .sel _ _ => []
  | .merge _ _ => []
  | .eos _ _ => []
  | .iseos _ _ => []
  | .exit _ => []
  | .next _ => []
  | .bar n _ _ => (bif n != 15#4 then [] else [18])
  | .barw n _ _ => (bif n != 15#4 then [] else [18])
  | .sig n => (bif n != 15#4 then [] else [18])
  | .pmask _ _ => []
  | .fold n => (bif n != 15#4 then [] else [18])
  | .ldn _ _ _ _ => []
  | .stn _ => []
  | .ldnT _ _ _ _ => []
  | .stnT _ _ _ => []
  | .probe _ _ _ _ => []
  | .kill _ => []
  | .refold n => (bif n != 15#4 then [] else [18])
  | .foldq _ _ _ => []
  | .add _ _ _ _ => []
  | .sub _ _ _ _ => []
  | .mul _ _ _ _ => []
  | .mulh _ _ _ _ => []
  | .mad _ _ _ _ => []
  | .div _ _ _ _ => []
  | .rem _ _ _ _ => []
  | .and _ _ _ _ => []
  | .or _ _ _ _ => []
  | .xor _ _ _ _ => []
  | .andn _ _ _ _ => []
  | .shl _ _ _ _ => []
  | .shr _ _ _ _ => []
  | .sar _ _ _ _ => []
  | .rot _ _ _ _ => []
  | .min _ _ _ _ => []
  | .max _ _ _ _ => []
  | .abs _ _ _ => []
  | .neg _ _ _ => []
  | .clz _ _ _ => []
  | .popc _ _ _ => []
  | .brev _ _ _ => []
  | .ext _ _ _ _ => []
  | .ins _ _ _ _ => []
  | .addsat _ _ _ _ => []
  | .subsat _ _ _ _ => []
  | .cmp cond _ _ _ => (bif (cond != .un && cond != .ord) then [] else [21])
  | .sext wid ty _ _ => (bif widOk wid ty then [] else [21])
  | .zext wid ty _ _ => (bif widOk wid ty then [] else [21])
  | .addr _ _ _ _ => []
  | .addc _ ty _ _ => (bif (ty == .n32 || ty == .n64) then [] else [18])
  | .fadd _ ty _ _ => (bif (ty == .f32 || ty == .bf16) then [] else [18])
  | .fsub _ ty _ _ => (bif (ty == .f32 || ty == .bf16) then [] else [18])
  | .fmul _ ty _ _ => (bif (ty == .f32 || ty == .bf16) then [] else [18])
  | .fma _ ty _ _ => (bif (ty == .f32 || ty == .bf16) then [] else [18])
  | .fmin _ ty _ _ => (bif (ty == .f32 || ty == .bf16) then [] else [18])
  | .fmax _ ty _ _ => (bif (ty == .f32 || ty == .bf16) then [] else [18])
  | .fabs ty _ _ => (bif (ty == .f32 || ty == .bf16) then [] else [18])
  | .fneg ty _ _ => (bif (ty == .f32 || ty == .bf16) then [] else [18])
  | .fcmp _ ty _ _ => (bif (ty == .f32 || ty == .bf16) then [] else [18])
  | .fclass ty _ _ => (bif (ty == .f32 || ty == .bf16 || ty == .e4m3 || ty == .e5m2) then [] else [18])
  | .frnd _ ty _ _ => (bif (ty == .f32 || ty == .bf16) then [] else [18])
  | .exp2 _ ty _ _ => (bif (ty == .f32 || ty == .bf16) then [] else [18])
  | .log2 _ ty _ _ => (bif (ty == .f32 || ty == .bf16) then [] else [18])
  | .rcp _ ty _ _ => (bif (ty == .f32 || ty == .bf16) then [] else [18])
  | .rsqrt _ ty _ _ => (bif (ty == .f32 || ty == .bf16) then [] else [18])
  | .sqrt _ ty _ _ => (bif (ty == .f32 || ty == .bf16) then [] else [18])
  | .sin _ ty _ _ => (bif (ty == .f32 || ty == .bf16) then [] else [18])
  | .cos _ ty _ _ => (bif (ty == .f32 || ty == .bf16) then [] else [18])
  | .tanh _ ty _ _ => (bif (ty == .f32 || ty == .bf16) then [] else [18])
  | .sigm _ ty _ _ => (bif (ty == .f32 || ty == .bf16) then [] else [18])
  | .cvt rm cv _ _ => (bif cv != 15#4 then [] else [18]) ++ (bif (rm == .rne || !(cv == 4#4 || cv == 5#4 || cv == 6#4)) then [] else [22])
  | .qnt _ ty _ _ => (bif (ty == .i4x || ty == .e4m3 || ty == .i8) then [] else [18])
  | .dqnt ty _ _ => (bif (ty == .i4x || ty == .e4m3 || ty == .e5m2 || ty == .i8) then [] else [18])
  | .redAdd _ satq ty _ _ => (bif (ty.isInt || ty == .f32 || ty == .bf16) then [] else [18]) ++ (bif (!satq || ty.isInt) then [] else [22])
  | .redMax _ satq ty _ _ => (bif (ty.isInt || ty == .f32 || ty == .bf16) then [] else [18]) ++ (bif (!satq || !ty.isInt) then [] else [22])
  | .redMin _ satq ty _ _ => (bif (ty.isInt || ty == .f32 || ty == .bf16) then [] else [18]) ++ (bif (!satq || !ty.isInt) then [] else [22])
  | .scanAdd _ satq ty _ _ => (bif (ty.isInt || ty == .f32 || ty == .bf16) then [] else [18]) ++ (bif (!satq || ty.isInt) then [] else [22])
  | .perm idx _ _ _ => (bif idx == 0#5 then [] else [19])
  | .lrot _ _ _ _ => []
  | .bcast _ _ _ _ => []
  | .compress idx _ _ _ => (bif idx == 0#5 then [] else [19])
  | .expand idx _ _ _ => (bif idx == 0#5 then [] else [19])
  | .rand ty _ _ => (bif (ty == .n32 || ty == .n64 || ty == .f32) then [] else [18])
  | .rcpa ty _ _ => (bif ty == .f32 then [] else [18])
  | .tmma _ _ _ _ _ => []
  | .tmmaT _ _ _ _ _ => []
  | .ttrans _ _ _ _ => []
  | .tadd _ _ _ _ _ => []
  | .tsub _ _ _ _ _ => []
  | .tmul _ _ _ _ _ => []
  | .tscaleR _ _ _ _ _ => []
  | .tscaleC _ _ _ _ _ => []
  | .tmaxz _ _ _ _ => []
  | .texp2 _ _ _ _ => []
  | .trsum _ _ _ _ => []
  | .tcsum _ _ _ _ => []
  | .trmax _ _ _ _ => []
  | .tcvt _ _ _ _ => []
  | .tqnt _ _ _ _ _ => []
  | .tzero _ _ _ => []
  | .tcopy _ _ _ _ => []
  | .tmmaSp _ _ _ _ _ => []
  | .recordOn _ _ _ _ => []
  | .recordOff _ _ => []
  | .recordMark _ _ => []
  | .reverse _ _ => []
  | .adjseed _ => []
  | .logq which _ _ => (bif which.ult 4#3 then [] else [18])
  | .logext _ _ => []
  | .agOpen n _ _ => (bif n != 15#4 then [] else [18])
  | .agClose _ _ => []
  | .srd _ _ => []
  | .swr => []
  | .ld ty _ _ => (bif ty.code.ult 12#4 then [] else [18])
  | .st ty => (bif ty.code.ult 12#4 then [] else [18])
  | .pref => []
  | .copy dir n _ _ => (bif n.ule 12#4 then [] else [18]) ++ (bif dir != 3#2 then [] else [22])
  | .copyMm n _ => (bif n.ule 12#4 then [] else [18])
  | .atomAdd ty _ _ => (bif ty.code.ult 4#4 then [] else [18])
  | .atomFadd ty _ _ => (bif (ty == .f32 || ty == .bf16) then [] else [18])
  | .atomMin ty _ _ => (bif ty.code.ult 4#4 then [] else [18])
  | .atomMax ty _ _ => (bif ty.code.ult 4#4 then [] else [18])
  | .atomBit bop ty _ _ => (bif (ty == .n32 || ty == .n64) then [] else [18]) ++ (bif bop != 3#2 then [] else [22])
  | .atomSwap ty _ _ => (bif (ty.code.ult 4#4 || ty == .f32) then [] else [18])
  | .atomCas ty _ _ => (bif (ty.code.ult 4#4 || ty == .f32) then [] else [18])
  | .fenceAcq scope _ _ => (bif scope.ult 6#3 then [] else [18])
  | .fenceRel scope _ _ => (bif scope.ult 6#3 then [] else [18])
  | .fenceAr scope _ _ => (bif scope.ult 6#3 then [] else [18])
  | .qfence _ _ _ => []
  | .drain mem _ _ => (bif mem != 3#2 then [] else [18])
  | .waitq scope _ _ => (bif scope.ult 6#3 then [] else [18])
  | .own _ _ _ => []
  | .mPush _ _ => []
  | .mAccept _ _ => []
  | .sliceof _ _ => []
  | .tlbinv _ ks _ _ => (bif ks != 3#2 then [] else [18])
  | .gmake n _ _ => (bif n != 15#4 then [] else [18])
  | .gfree hk n _ _ => (bif (hk || n == 0#4) then [] else [18])
  | .gjoin hk n _ _ => (bif (hk || n == 0#4) then [] else [18])
  | .gleave hk n _ _ => (bif (hk || n == 0#4) then [] else [18])
  | .ready hk n _ _ => (bif (hk || n == 0#4) then [] else [18])
  | .unready hk n _ _ => (bif (hk || n == 0#4) then [] else [18])
  | .gsend _ hk n _ _ => (bif (hk || n == 0#4) then [] else [18])
  | .gtake _ _ => []
  | .gcountSnapclr n _ _ => (bif n != 15#4 then [] else [18])
  | .gpound hk n _ _ => (bif (hk || n == 0#4) then [] else [18])
  | .spawn _ n _ _ => (bif n != 15#4 then [] else [18])
  | .spawnr _ n _ _ => (bif n != 15#4 then [] else [18])
  | .join _ n _ _ => (bif n != 15#4 then [] else [18])
  | .wsdecl n _ _ => (bif n != 15#4 then [] else [18])
  | .yield _ _ => []
  | .cancel _ _ => []
  | .jobdone => []
  | .taskq which _ _ => (bif which.ult 6#3 then [] else [18])
  | .trap _ => []
  | .trapret _ _ => []
  | .sysrd _ _ => []
  | .syswr _ _ => []
  | .tollrd _ _ => []
  | .tollsig n _ _ => (bif n != 15#4 then [] else [18])
  | .syncCode _ _ => []
  | .halt => []
  | .freeze _ _ => []
  | .thaw _ _ => []
  | .markwave _ _ => []
  | .imgsave n _ _ => (bif n != 15#4 then [] else [18])
  | .imgload n _ _ => (bif n != 15#4 then [] else [18])
  | .virq vec => (bif vec.getLsbD 5 then [] else [18])
  | .timer _ _ => []
  | .jnlQ _ _ => []
  | .jnlNote _ _ => []
  | .partQuiesce _ _ => []
  | .partWb _ _ => []
  | .partInv _ _ => []
  | .partSethash _ _ => []
  | .partResume _ _ => []
  | .waymaskSet _ _ => []
  | .wquotaSet _ _ => []
  | .lgcDp4 _ _ => []
  | .lgcSad _ _ => []
  | .lgcAvg _ _ => []
  | .lgcClamp _ _ => []
  | .lgcSwz _ _ => []
  | .lgcCvt8 _ _ => []
  | .smithyComplete _ => []
  | .bellMark => []
  | .plotConfigure _ => []
  | .dispatch _ => []
  | .instanceGenerate _ _ _ => []
  | .roundEnd _ => []
  | .tokenArrival _ _ => []
  | .eosArrival _ _ _ _ _ _ => []
  | .markerArrival _ _ => []
  | .hedgeDrop _ _ => []
  | .trapRecordDelivery _ => []
  | .handlerRound _ => []
  | .watchdogNoprog _ => []
  | .reductionCombine _ _ _ _ => []
  | .reductionEmit _ _ _ _ => []
  | .farHeaderReread _ => []
  | .tileComplete _ _ => []
  | .recordReversal _ => []
  | .sliceRequest _ => []
  | .nackResend _ => []
  | .ldReply _ => []
  | .atomicPerform _ => []
  | .writeAcknowledge _ => []
  | .coalescerFlush _ _ => []
  | .pageWalkComplete _ => []
  | .migrationComplete _ _ _ => []
  | .ftimeoutExpiry _ => []
  | .streamFetch _ _ => []
  | .copyPerform _ => []
  | .copyMmDeliver _ => []
  | .ownTokenArrival _ => []
  | .waymaskDrainDone _ => []
  | .barrierArrival _ => []
  | .sigAtHub => []
  | .groupMessageSteer _ => []
  | .gsendOutcome _ => []
  | .readinessCountUpdate _ => []
  | .poundDrain _ => []
  | .jobRecordTake _ _ => []
  | .jobComplete _ => []
  | .stageDeclaration _ => []
  | .stagingRead _ => []
  | .fairShareTick => []
  | .fairSharePreempt _ => []
  | .waveComplete _ => []
  | .wavebudExpiry _ => []
  | .freezeComplete _ => []
  | .tollTick => []
  | .configScrub _ _ => []
  | .uncorrectableError _ => []
  | .jqtail _ _ _ => []
  | .jccons _ _ _ => []
  | .jqfence _ _ => []
  | .frcons _ _ => []
  | .stresume _ _ => []
  | .gercons _ _ => []
  | .trcons _ _ => []
  | .hrcons _ _ => []
  | .ringBaseWrite _ _ _ _ => []
  | .traprsp _ _ => []
  | .imask _ _ => []
  | .vireset _ _ => []
  | .registerWrite _ _ _ => []
  | .hostMemoryAccess _ _ _ => []
  | .functionLevelReset _ => []
  | .perst => []
  | .rst _ => []
  | .bringupReady => []
  | .reeveRound => []
  | .thermalThrottle => []
  | .thermalRestore => []
  | .thermalShutdown => []
  | .msiXEntryUnmask _ _ => []

/-- The lowest of a list of bit positions. -/
def lowest (l : List Nat) : Nat := l.foldl Nat.min 63

/-- The positions `lo + k` of the set bits of a field that stands at `lo`. -/
def setBits {n : Nat} (lo : Nat) (v : BitVec n) : List Nat :=
  ((List.range n).filter v.getLsbD).map (lo + ·)

/-- The bits of X that its entry gives no field and that are not as the form fixes them: reserved bits, each at its own position
(R50, R63). -/
def xFixed (mask value x : BitVec 6) : List Nat := setBits 18 ((x ^^^ value) &&& mask)

/-- A named field of X, its lowest bit at `lo`, that the entry fixes at zero: another value is out of its range (R63). -/
def zeroField {n : Nat} (lo : Nat) (v : BitVec n) : List Nat := bif v == 0 then [] else [lo]

/-- A form without a value has no consumer in the field that stands at `lo` (R51). -/
def noCons (lo : Nat) (c : Cons) : List Nat := bif c == 0x1FF#9 then [] else [lo]

/-- What a word's opcode and selector name: no form; a selector value that R55 reserves, with its bit; a form, with the
positions of all that stands against it in the word. -/
inductive Parsed where
  | illop
  | selector (bitpos : Nat)
  | form (bad : List Nat) (i : Instr)
  deriving DecidableEq, Repr

/-- A form, with the reserved bits and the field values that stand against it. -/
def accept (bad : List Nat) (i : Instr) : Parsed := .form (bad ++ fieldFaults i) i

/-- The opcodes of one row of the opcode map (R53), by the low nibble; the fields are X, C1 and C0. -/
abbrev MapRow := (lo : Nat) → (x : BitVec 6) → (c1 c0 : Cons) → Parsed

/-- Row 0x0_ of the opcode map (R53). -/
def decode0 : MapRow := fun lo x c1 c0 =>
  match lo with
  | 0 => accept (xFixed 63#6 0#6 x ++ noCons 9 c1 ++ noCons 0 c0) (.nop)
  | 1 => accept (xFixed 63#6 0#6 x) (.mov c1 c0)
  | 2 => accept [] (.imm x c1 c0)
  | 3 => accept (xFixed 32#6 0#6 x) (.kread (x.getLsbD 4) (x.extractLsb' 0 4) c1 c0)
  | 4 => accept (xFixed 32#6 0#6 x ++ noCons 9 c1 ++ noCons 0 c0) (.setk (x.getLsbD 4) (x.extractLsb' 0 4))
  | 5 => accept (xFixed 56#6 0#6 x) (.tag (x.extractLsb' 0 3) c1 c0)
  | 6 => accept (setBits 9 (c1 &&& 496#9)) (.out x (c1.extractLsb' 0 4) c0)
  | 7 => accept (xFixed 63#6 0#6 x) (.steerT c1 c0)
  | 8 => accept (xFixed 63#6 0#6 x) (.steerF c1 c0)
  | 9 => accept (xFixed 63#6 0#6 x) (.sel c1 c0)
  | 10 => accept (xFixed 63#6 0#6 x) (.merge c1 c0)
  | 11 => accept (xFixed 63#6 0#6 x) (.eos c1 c0)
  | 12 => accept (xFixed 63#6 0#6 x) (.iseos c1 c0)
  | 13 => accept (xFixed 56#6 0#6 x ++ noCons 9 c1 ++ noCons 0 c0) (.exit (x.extractLsb' 0 3))
  | 14 => accept (xFixed 56#6 0#6 x ++ noCons 9 c1 ++ noCons 0 c0) (.next (x.extractLsb' 0 3))
  | 15 => accept (xFixed 48#6 0#6 x) (.bar (x.extractLsb' 0 4) c1 c0)
  | _ => .illop

/-- Row 0x1_ of the opcode map (R53). -/
def decode1 : MapRow := fun lo x c1 c0 =>
  match lo with
  | 0 => accept (xFixed 48#6 0#6 x) (.barw (x.extractLsb' 0 4) c1 c0)
  | 1 => accept (xFixed 48#6 0#6 x ++ noCons 9 c1 ++ noCons 0 c0) (.sig (x.extractLsb' 0 4))
  | 2 => accept (xFixed 63#6 0#6 x) (.pmask c1 c0)
  | _ => .illop

/-- Row 0x2_ of the opcode map (R53). -/
def decode2 : MapRow := fun lo x c1 c0 =>
  match lo with
  | 0 => accept (xFixed 48#6 0#6 x ++ noCons 9 c1 ++ noCons 0 c0) (.fold (x.extractLsb' 0 4))
  | 1 => accept [] (.ldn (x.getLsbD 5) (x.extractLsb' 0 5) c1 c0)
  | 2 => accept (xFixed 32#6 0#6 x ++ noCons 9 c1 ++ noCons 0 c0) (.stn (x.extractLsb' 0 5))
  | 3 => accept [] (.ldnT (x.getLsbD 5) (x.extractLsb' 0 5) c1 c0)
  | 4 => accept (xFixed 32#6 0#6 x) (.stnT (x.extractLsb' 0 5) c1 c0)
  | 5 => accept [] (.probe (x.extractLsb' 4 2) (x.extractLsb' 0 4) c1 c0)
  | 6 => accept (xFixed 32#6 0#6 x ++ noCons 9 c1 ++ noCons 0 c0) (.kill (x.extractLsb' 0 5))
  | 7 => accept (xFixed 48#6 0#6 x ++ noCons 9 c1 ++ noCons 0 c0) (.refold (x.extractLsb' 0 4))
  | 8 => accept (xFixed 48#6 0#6 x) (.foldq (x.extractLsb' 0 4) c1 c0)
  | _ => .illop

/-- Row 0x3_ of the opcode map (R53). -/
def decode3 : MapRow := fun lo x c1 c0 =>
  match lo with
  | 0 => accept [] (.add (x.extractLsb' 3 3) (intTyOf (x.extractLsb' 0 3)) c1 c0)
  | 1 => accept [] (.sub (x.extractLsb' 3 3) (intTyOf (x.extractLsb' 0 3)) c1 c0)
  | 2 => accept [] (.mul (x.extractLsb' 3 3) (intTyOf (x.extractLsb' 0 3)) c1 c0)
  | 3 => accept [] (.mulh (x.extractLsb' 3 3) (intTyOf (x.extractLsb' 0 3)) c1 c0)
  | 4 => accept [] (.mad (x.extractLsb' 3 3) (intTyOf (x.extractLsb' 0 3)) c1 c0)
  | 5 => accept [] (.div (x.extractLsb' 3 3) (intTyOf (x.extractLsb' 0 3)) c1 c0)
  | 6 => accept [] (.rem (x.extractLsb' 3 3) (intTyOf (x.extractLsb' 0 3)) c1 c0)
  | 7 => accept [] (.and (x.extractLsb' 3 3) (intTyOf (x.extractLsb' 0 3)) c1 c0)
  | 8 => accept [] (.or (x.extractLsb' 3 3) (intTyOf (x.extractLsb' 0 3)) c1 c0)
  | 9 => accept [] (.xor (x.extractLsb' 3 3) (intTyOf (x.extractLsb' 0 3)) c1 c0)
  | 10 => accept [] (.andn (x.extractLsb' 3 3) (intTyOf (x.extractLsb' 0 3)) c1 c0)
  | 11 => accept [] (.shl (x.extractLsb' 3 3) (intTyOf (x.extractLsb' 0 3)) c1 c0)
  | 12 => accept [] (.shr (x.extractLsb' 3 3) (intTyOf (x.extractLsb' 0 3)) c1 c0)
  | 13 => accept [] (.sar (x.extractLsb' 3 3) (intTyOf (x.extractLsb' 0 3)) c1 c0)
  | 14 => accept [] (.rot (x.extractLsb' 3 3) (intTyOf (x.extractLsb' 0 3)) c1 c0)
  | 15 => accept [] (.min (x.extractLsb' 3 3) (intTyOf (x.extractLsb' 0 3)) c1 c0)
  | _ => .illop

/-- Row 0x4_ of the opcode map (R53). -/
def decode4 : MapRow := fun lo x c1 c0 =>
  match lo with
  | 0 => accept [] (.max (x.extractLsb' 3 3) (intTyOf (x.extractLsb' 0 3)) c1 c0)
  | 1 => accept (xFixed 56#6 0#6 x) (.abs (intTyOf (x.extractLsb' 0 3)) c1 c0)
  | 2 => accept (xFixed 56#6 0#6 x) (.neg (intTyOf (x.extractLsb' 0 3)) c1 c0)
  | 3 => accept (xFixed 56#6 0#6 x) (.clz (intTyOf (x.extractLsb' 0 3)) c1 c0)
  | 4 => accept (xFixed 56#6 0#6 x) (.popc (intTyOf (x.extractLsb' 0 3)) c1 c0)
  | 5 => accept (xFixed 56#6 0#6 x) (.brev (intTyOf (x.extractLsb' 0 3)) c1 c0)
  | 6 => accept [] (.ext (x.extractLsb' 3 3) (intTyOf (x.extractLsb' 0 3)) c1 c0)
  | 7 => accept [] (.ins (x.extractLsb' 3 3) (intTyOf (x.extractLsb' 0 3)) c1 c0)
  | 8 => accept [] (.addsat (x.extractLsb' 3 3) (intTyOf (x.extractLsb' 0 3)) c1 c0)
  | 9 => accept [] (.subsat (x.extractLsb' 3 3) (intTyOf (x.extractLsb' 0 3)) c1 c0)
  | 10 => accept [] (.cmp (cmpOf (x.extractLsb' 3 3)) (intTyOf (x.extractLsb' 0 3)) c1 c0)
  | 11 => accept [] (.sext (x.extractLsb' 3 3) (intTyOf (x.extractLsb' 0 3)) c1 c0)
  | 12 => accept [] (.zext (x.extractLsb' 3 3) (intTyOf (x.extractLsb' 0 3)) c1 c0)
  | 13 => accept [] (.addr (x.extractLsb' 3 3) (x.extractLsb' 0 3) c1 c0)
  | 14 => accept [] (.addc (x.extractLsb' 3 3) (intTyOf (x.extractLsb' 0 3)) c1 c0)
  | _ => .illop

/-- Row 0x7_ of the opcode map (R53). -/
def decode7 : MapRow := fun lo x c1 c0 =>
  match lo with
  | 0 => accept [] (.fadd (rmOf (x.extractLsb' 4 2)) (tyOf (x.extractLsb' 0 4)) c1 c0)
  | 1 => accept [] (.fsub (rmOf (x.extractLsb' 4 2)) (tyOf (x.extractLsb' 0 4)) c1 c0)
  | 2 => accept [] (.fmul (rmOf (x.extractLsb' 4 2)) (tyOf (x.extractLsb' 0 4)) c1 c0)
  | 3 => accept [] (.fma (rmOf (x.extractLsb' 4 2)) (tyOf (x.extractLsb' 0 4)) c1 c0)
  | 4 => accept (xFixed 32#6 0#6 x) (.fmin (x.getLsbD 4) (tyOf (x.extractLsb' 0 4)) c1 c0)
  | 5 => accept (xFixed 32#6 0#6 x) (.fmax (x.getLsbD 4) (tyOf (x.extractLsb' 0 4)) c1 c0)
  | 6 => accept (xFixed 48#6 0#6 x) (.fabs (tyOf (x.extractLsb' 0 4)) c1 c0)
  | 7 => accept (xFixed 48#6 0#6 x) (.fneg (tyOf (x.extractLsb' 0 4)) c1 c0)
  | 8 => accept [] (.fcmp (cmpOf (x.extractLsb' 3 3)) (tyOf (1#1 ++ (x.extractLsb' 0 3))) c1 c0)
  | 9 => accept (xFixed 48#6 0#6 x) (.fclass (tyOf (x.extractLsb' 0 4)) c1 c0)
  | 10 => accept [] (.frnd (rmOf (x.extractLsb' 4 2)) (tyOf (x.extractLsb' 0 4)) c1 c0)
  | 11 => accept [] (.exp2 (rmOf (x.extractLsb' 4 2)) (tyOf (x.extractLsb' 0 4)) c1 c0)
  | 12 => accept [] (.log2 (rmOf (x.extractLsb' 4 2)) (tyOf (x.extractLsb' 0 4)) c1 c0)
  | 13 => accept [] (.rcp (rmOf (x.extractLsb' 4 2)) (tyOf (x.extractLsb' 0 4)) c1 c0)
  | 14 => accept [] (.rsqrt (rmOf (x.extractLsb' 4 2)) (tyOf (x.extractLsb' 0 4)) c1 c0)
  | 15 => accept [] (.sqrt (rmOf (x.extractLsb' 4 2)) (tyOf (x.extractLsb' 0 4)) c1 c0)
  | _ => .illop

/-- Row 0x8_ of the opcode map (R53). -/
def decode8 : MapRow := fun lo x c1 c0 =>
  match lo with
  | 0 => accept [] (.sin (rmOf (x.extractLsb' 4 2)) (tyOf (x.extractLsb' 0 4)) c1 c0)
  | 1 => accept [] (.cos (rmOf (x.extractLsb' 4 2)) (tyOf (x.extractLsb' 0 4)) c1 c0)
  | 2 => accept [] (.tanh (rmOf (x.extractLsb' 4 2)) (tyOf (x.extractLsb' 0 4)) c1 c0)
  | 3 => accept [] (.sigm (rmOf (x.extractLsb' 4 2)) (tyOf (x.extractLsb' 0 4)) c1 c0)
  | 4 => accept [] (.cvt (rmOf (x.extractLsb' 4 2)) (x.extractLsb' 0 4) c1 c0)
  | 5 => accept [] (.qnt (rmOf (x.extractLsb' 4 2)) (tyOf (x.extractLsb' 0 4)) c1 c0)
  | 6 => accept (xFixed 48#6 0#6 x) (.dqnt (tyOf (x.extractLsb' 0 4)) c1 c0)
  | 7 => accept [] (.redAdd (x.getLsbD 5) (x.getLsbD 4) (tyOf (x.extractLsb' 0 4)) c1 c0)
  | 8 => accept [] (.redMax (x.getLsbD 5) (x.getLsbD 4) (tyOf (x.extractLsb' 0 4)) c1 c0)
  | 9 => accept [] (.redMin (x.getLsbD 5) (x.getLsbD 4) (tyOf (x.extractLsb' 0 4)) c1 c0)
  | 10 => accept [] (.scanAdd (x.getLsbD 5) (x.getLsbD 4) (tyOf (x.extractLsb' 0 4)) c1 c0)
  | 11 => accept [] (.perm (x.extractLsb' 1 5) (x.getLsbD 0) c1 c0)
  | 12 => accept [] (.lrot (x.extractLsb' 1 5) (x.getLsbD 0) c1 c0)
  | 13 => accept [] (.bcast (x.extractLsb' 1 5) (x.getLsbD 0) c1 c0)
  | 14 => accept [] (.compress (x.extractLsb' 1 5) (x.getLsbD 0) c1 c0)
  | 15 => accept [] (.expand (x.extractLsb' 1 5) (x.getLsbD 0) c1 c0)
  | _ => .illop

/-- Row 0x9_ of the opcode map (R53). -/
def decode9 : MapRow := fun lo x c1 c0 =>
  match lo with
  | 0 => accept (xFixed 48#6 0#6 x) (.rand (tyOf (x.extractLsb' 0 4)) c1 c0)
  | 1 => accept (zeroField 22 (x.extractLsb' 4 2)) (.rcpa (tyOf (x.extractLsb' 0 4)) c1 c0)
  | _ => .illop

/-- Row 0xA_ of the opcode map (R53). -/
def decodeA : MapRow := fun lo x c1 c0 =>
  match lo with
  | 0 => accept [] (.tmma (saveOf (x.extractLsb' 4 2)) (saveOf (x.extractLsb' 2 2)) (x.extractLsb' 0 2) c1 c0)
  | 1 => accept [] (.tmmaT (saveOf (x.extractLsb' 4 2)) (saveOf (x.extractLsb' 2 2)) (x.extractLsb' 0 2) c1 c0)
  | 2 => accept (zeroField 20 (x.extractLsb' 2 2)) (.ttrans (saveOf (x.extractLsb' 4 2)) (x.extractLsb' 0 2) c1 c0)
  | 3 => accept [] (.tadd (saveOf (x.extractLsb' 4 2)) (saveOf (x.extractLsb' 2 2)) (x.extractLsb' 0 2) c1 c0)
  | 4 => accept [] (.tsub (saveOf (x.extractLsb' 4 2)) (saveOf (x.extractLsb' 2 2)) (x.extractLsb' 0 2) c1 c0)
  | 5 => accept [] (.tmul (saveOf (x.extractLsb' 4 2)) (saveOf (x.extractLsb' 2 2)) (x.extractLsb' 0 2) c1 c0)
  | 6 => accept [] (.tscaleR (saveOf (x.extractLsb' 4 2)) (saveOf (x.extractLsb' 2 2)) (x.extractLsb' 0 2) c1 c0)
  | 7 => accept [] (.tscaleC (saveOf (x.extractLsb' 4 2)) (saveOf (x.extractLsb' 2 2)) (x.extractLsb' 0 2) c1 c0)
  | 8 => accept (zeroField 20 (x.extractLsb' 2 2)) (.tmaxz (saveOf (x.extractLsb' 4 2)) (x.extractLsb' 0 2) c1 c0)
  | 9 => accept (zeroField 20 (x.extractLsb' 2 2)) (.texp2 (saveOf (x.extractLsb' 4 2)) (x.extractLsb' 0 2) c1 c0)
  | 10 => accept (zeroField 20 (x.extractLsb' 2 2)) (.trsum (saveOf (x.extractLsb' 4 2)) (x.extractLsb' 0 2) c1 c0)
  | 11 => accept (zeroField 20 (x.extractLsb' 2 2)) (.tcsum (saveOf (x.extractLsb' 4 2)) (x.extractLsb' 0 2) c1 c0)
  | 12 => accept (zeroField 20 (x.extractLsb' 2 2)) (.trmax (saveOf (x.extractLsb' 4 2)) (x.extractLsb' 0 2) c1 c0)
  | 13 => accept (zeroField 20 (x.extractLsb' 2 2)) (.tcvt (saveOf (x.extractLsb' 4 2)) (x.extractLsb' 0 2) c1 c0)
  | 14 => accept [] (.tqnt (saveOf (x.extractLsb' 4 2)) (saveOf (x.extractLsb' 2 2)) (x.extractLsb' 0 2) c1 c0)
  | 15 => accept (zeroField 22 (x.extractLsb' 4 2) ++ zeroField 20 (x.extractLsb' 2 2)) (.tzero (x.extractLsb' 0 2) c1 c0)
  | _ => .illop

/-- Row 0xB_ of the opcode map (R53). -/
def decodeB : MapRow := fun lo x c1 c0 =>
  match lo with
  | 0 => accept (zeroField 20 (x.extractLsb' 2 2)) (.tcopy (saveOf (x.extractLsb' 4 2)) (x.extractLsb' 0 2) c1 c0)
  | 14 => accept [] (.tmmaSp (saveOf (x.extractLsb' 4 2)) (saveOf (x.extractLsb' 2 2)) (x.extractLsb' 0 2) c1 c0)
  | _ => .illop

/-- Row 0xC_ of the opcode map (R53). -/
def decodeC : MapRow := fun lo x c1 c0 =>
  match lo with
  | 0 => accept (xFixed 48#6 0#6 x) (.recordOn (x.getLsbD 3) (x.extractLsb' 0 3) c1 c0)
  | 1 => accept (xFixed 63#6 0#6 x) (.recordOff c1 c0)
  | 2 => accept (xFixed 63#6 0#6 x) (.recordMark c1 c0)
  | 3 => accept (xFixed 63#6 0#6 x) (.reverse c1 c0)
  | 4 => accept (xFixed 60#6 0#6 x ++ noCons 9 c1 ++ noCons 0 c0) (.adjseed (x.extractLsb' 0 2))
  | 5 => accept (xFixed 56#6 0#6 x) (.logq (x.extractLsb' 0 3) c1 c0)
  | 6 => accept (xFixed 63#6 0#6 x) (.logext c1 c0)
  | 8 => accept (xFixed 48#6 0#6 x) (.agOpen (x.extractLsb' 0 4) c1 c0)
  | 9 => accept (xFixed 63#6 0#6 x) (.agClose c1 c0)
  | 10 => accept (xFixed 63#6 0#6 x) (.srd c1 c0)
  | 11 => accept (xFixed 63#6 0#6 x ++ noCons 9 c1 ++ noCons 0 c0) (.swr)
  | 12 => accept (xFixed 48#6 0#6 x) (.ld (tyOf (x.extractLsb' 0 4)) c1 c0)
  | 13 => accept (xFixed 48#6 0#6 x ++ noCons 9 c1 ++ noCons 0 c0) (.st (tyOf (x.extractLsb' 0 4)))
  | 14 => accept (xFixed 63#6 0#6 x ++ noCons 9 c1 ++ noCons 0 c0) (.pref)
  | 15 => accept [] (.copy (x.extractLsb' 4 2) (x.extractLsb' 0 4) c1 c0)
  | _ => .illop

/-- Row 0xD_ of the opcode map (R53). -/
def decodeD : MapRow := fun lo x c1 c0 =>
  match lo with
  | 0 => accept (xFixed 48#6 0#6 x ++ noCons 9 c1) (.copyMm (x.extractLsb' 0 4) c0)
  | 1 => accept (xFixed 48#6 0#6 x) (.atomAdd (tyOf (x.extractLsb' 0 4)) c1 c0)
  | 2 => accept (xFixed 48#6 0#6 x) (.atomFadd (tyOf (x.extractLsb' 0 4)) c1 c0)
  | 3 =>
    match x.extractLsb' 5 1 with
    | 0#1 => accept (xFixed 48#6 0#6 x) (.atomMin (tyOf (x.extractLsb' 0 4)) c1 c0)
    | 1#1 => accept (xFixed 48#6 32#6 x) (.atomMax (tyOf (x.extractLsb' 0 4)) c1 c0)
  | 4 => accept [] (.atomBit (x.extractLsb' 4 2) (tyOf (x.extractLsb' 0 4)) c1 c0)
  | 5 => accept (xFixed 48#6 0#6 x) (.atomSwap (tyOf (x.extractLsb' 0 4)) c1 c0)
  | 6 => accept (xFixed 48#6 0#6 x) (.atomCas (tyOf (x.extractLsb' 0 4)) c1 c0)
  | 7 =>
    match x.extractLsb' 4 2 with
    | 1#2 => accept (xFixed 56#6 16#6 x) (.fenceAcq (x.extractLsb' 0 3) c1 c0)
    | 2#2 => accept (xFixed 56#6 32#6 x) (.fenceRel (x.extractLsb' 0 3) c1 c0)
    | 3#2 => accept (xFixed 56#6 48#6 x) (.fenceAr (x.extractLsb' 0 3) c1 c0)
    | _ => .selector 22
  | 8 => accept (xFixed 48#6 0#6 x) (.qfence (x.extractLsb' 0 4) c1 c0)
  | 9 => accept (xFixed 60#6 0#6 x) (.drain (x.extractLsb' 0 2) c1 c0)
  | 10 => accept (xFixed 56#6 0#6 x) (.waitq (x.extractLsb' 0 3) c1 c0)
  | 11 => accept (xFixed 48#6 0#6 x) (.own (x.extractLsb' 0 4) c1 c0)
  | 12 => accept (xFixed 63#6 0#6 x) (.mPush c1 c0)
  | 13 => accept (xFixed 63#6 0#6 x) (.mAccept c1 c0)
  | 14 => accept (xFixed 63#6 0#6 x) (.sliceof c1 c0)
  | 15 => accept (xFixed 56#6 0#6 x) (.tlbinv (x.getLsbD 2) (x.extractLsb' 0 2) c1 c0)
  | _ => .illop

/-- Row 0xE_ of the opcode map (R53). -/
def decodeE : MapRow := fun lo x c1 c0 =>
  match lo with
  | 0 => accept (xFixed 48#6 0#6 x) (.gmake (x.extractLsb' 0 4) c1 c0)
  | 1 => accept (xFixed 32#6 0#6 x) (.gfree (x.getLsbD 4) (x.extractLsb' 0 4) c1 c0)
  | 2 =>
    match x.extractLsb' 5 1 with
    | 0#1 => accept (xFixed 32#6 0#6 x) (.gjoin (x.getLsbD 4) (x.extractLsb' 0 4) c1 c0)
    | 1#1 => accept (xFixed 32#6 32#6 x) (.gleave (x.getLsbD 4) (x.extractLsb' 0 4) c1 c0)
  | 3 =>
    match x.extractLsb' 5 1 with
    | 0#1 => accept (xFixed 32#6 0#6 x) (.ready (x.getLsbD 4) (x.extractLsb' 0 4) c1 c0)
    | 1#1 => accept (xFixed 32#6 32#6 x) (.unready (x.getLsbD 4) (x.extractLsb' 0 4) c1 c0)
  | 4 => accept [] (.gsend (x.getLsbD 5) (x.getLsbD 4) (x.extractLsb' 0 4) c1 c0)
  | 5 => accept (xFixed 63#6 0#6 x) (.gtake c1 c0)
  | 6 => accept (xFixed 48#6 0#6 x) (.gcountSnapclr (x.extractLsb' 0 4) c1 c0)
  | 7 => accept (xFixed 32#6 0#6 x) (.gpound (x.getLsbD 4) (x.extractLsb' 0 4) c1 c0)
  | 8 => accept (xFixed 32#6 0#6 x) (.spawn (x.getLsbD 4) (x.extractLsb' 0 4) c1 c0)
  | 9 => accept (xFixed 32#6 0#6 x) (.spawnr (x.getLsbD 4) (x.extractLsb' 0 4) c1 c0)
  | 10 => accept (xFixed 32#6 0#6 x) (.join (x.getLsbD 4) (x.extractLsb' 0 4) c1 c0)
  | 11 => accept (xFixed 48#6 0#6 x) (.wsdecl (x.extractLsb' 0 4) c1 c0)
  | 12 => accept (xFixed 63#6 0#6 x) (.yield c1 c0)
  | 13 => accept (xFixed 63#6 0#6 x) (.cancel c1 c0)
  | 14 => accept (xFixed 63#6 0#6 x ++ noCons 9 c1 ++ noCons 0 c0) (.jobdone)
  | 15 => accept (xFixed 56#6 0#6 x) (.taskq (x.extractLsb' 0 3) c1 c0)
  | _ => .illop

/-- Row 0xF_ of the opcode map (R53). -/
def decodeF : MapRow := fun lo x c1 c0 =>
  match lo with
  | 0 => accept (noCons 9 c1 ++ noCons 0 c0) (.trap x)
  | 1 => accept (xFixed 63#6 0#6 x) (.trapret c1 c0)
  | 2 =>
    match x.extractLsb' 5 1 with
    | 0#1 => accept (xFixed 63#6 0#6 x) (.sysrd c1 c0)
    | 1#1 => accept (xFixed 63#6 32#6 x) (.syswr c1 c0)
  | 3 =>
    match x.extractLsb' 5 1 with
    | 0#1 => accept (xFixed 63#6 0#6 x) (.tollrd c1 c0)
    | 1#1 => accept (xFixed 48#6 32#6 x) (.tollsig (x.extractLsb' 0 4) c1 c0)
  | 4 => accept (xFixed 63#6 0#6 x) (.syncCode c1 c0)
  | 5 => accept (xFixed 63#6 0#6 x ++ noCons 9 c1 ++ noCons 0 c0) (.halt)
  | 6 =>
    match x.extractLsb' 5 1 with
    | 0#1 => accept (xFixed 63#6 0#6 x) (.freeze c1 c0)
    | 1#1 => accept (xFixed 63#6 32#6 x) (.thaw c1 c0)
  | 7 => accept (xFixed 63#6 0#6 x) (.markwave c1 c0)
  | 8 =>
    match x.extractLsb' 5 1 with
    | 0#1 => accept (xFixed 48#6 0#6 x) (.imgsave (x.extractLsb' 0 4) c1 c0)
    | 1#1 => accept (xFixed 48#6 32#6 x) (.imgload (x.extractLsb' 0 4) c1 c0)
  | 9 => accept (noCons 9 c1 ++ noCons 0 c0) (.virq x)
  | 10 => accept (xFixed 63#6 0#6 x) (.timer c1 c0)
  | 11 =>
    match x.extractLsb' 0 1 with
    | 0#1 => accept (xFixed 63#6 0#6 x) (.jnlQ c1 c0)
    | 1#1 => accept (xFixed 63#6 1#6 x) (.jnlNote c1 c0)
  | 12 =>
    match x.extractLsb' 3 3 with
    | 0#3 => accept (xFixed 63#6 0#6 x) (.partQuiesce c1 c0)
    | 1#3 => accept (xFixed 63#6 8#6 x) (.partWb c1 c0)
    | 2#3 => accept (xFixed 63#6 16#6 x) (.partInv c1 c0)
    | 3#3 => accept (xFixed 63#6 24#6 x) (.partSethash c1 c0)
    | 4#3 => accept (xFixed 63#6 32#6 x) (.partResume c1 c0)
    | _ => .selector 21
  | 13 =>
    match x.extractLsb' 5 1 with
    | 0#1 => accept (xFixed 63#6 0#6 x) (.waymaskSet c1 c0)
    | 1#1 => accept (xFixed 63#6 32#6 x) (.wquotaSet c1 c0)
  | 14 =>
    match x with
    | 0#6 => accept [] (.lgcDp4 c1 c0)
    | 1#6 => accept [] (.lgcSad c1 c0)
    | 2#6 => accept [] (.lgcAvg c1 c0)
    | 3#6 => accept [] (.lgcClamp c1 c0)
    | 4#6 => accept [] (.lgcSwz c1 c0)
    | 5#6 => accept [] (.lgcCvt8 c1 c0)
    | _ => .illop
  | _ => .illop

/-- The instruction at an opcode, given by its two nibbles. -/
def decodeOp (hi lo : Nat) (x : BitVec 6) (c1 c0 : Cons) : Parsed :=
  match hi with
  | 0 => decode0 lo x c1 c0
  | 1 => decode1 lo x c1 c0
  | 2 => decode2 lo x c1 c0
  | 3 => decode3 lo x c1 c0
  | 4 => decode4 lo x c1 c0
  | 7 => decode7 lo x c1 c0
  | 8 => decode8 lo x c1 c0
  | 9 => decode9 lo x c1 c0
  | 10 => decodeA lo x c1 c0
  | 11 => decodeB lo x c1 c0
  | 12 => decodeC lo x c1 c0
  | 13 => decodeD lo x c1 c0
  | 14 => decodeE lo x c1 c0
  | 15 => decodeF lo x c1 c0
  | _ => .illop

/-- The fields of a word (R49), then the opcode map. -/
def parse (w : Word) : Parsed :=
  decodeOp (w.extractLsb' 28 4).toNat (w.extractLsb' 24 4).toNat (w.extractLsb' 18 6) (w.extractLsb' 9 9) (w.extractLsb' 0 9)

/-- The decoder: a form against which nothing stands. -/
def decode (w : Word) : Except DecErr Instr :=
  match parse w with
  | .illop => .error .illop
  | .selector b => .error (.rsvfld b)
  | .form [] i => .ok i
  | .form (b :: l) _ => .error (.rsvfld (lowest (b :: l)))

/-- The word of four bytes, the first at the lowest address (R75). -/
def wordOfBytes (b0 b1 b2 b3 : Byte) : Word := b3 ++ b2 ++ b1 ++ b0

/-- The instruction that the decoder reads from a table word: the four bytes as they stand in a block entry (R42). -/
def decodeTableWord (nbits w : Nat) : Option Instr :=
  let v := w % 2 ^ nbits
  let byte := fun n => BitVec.ofNat 8 (v / 2 ^ (8 * n))
  (decode (wordOfBytes (byte 0) (byte 1) (byte 2) (byte 3))).toOption

/-! The encoder. -/

/-- A word from its opcode and fields (R49). -/
def mkWord (op : BitVec 8) (x : BitVec 6) (c1 c0 : Cons) : Word := op ++ x ++ c1 ++ c0

/-- One bit of a field. -/
def bit (b : Bool) : BitVec 1 := BitVec.ofBool b

/-- The word of an instruction that has an encoding; none for an occurrence. -/
def encode : Instr → Option Word
  | .nop => some (mkWord 0x00#8 (0#6) (0x1FF#9) 0x1FF#9)
  | .mov c1 c0 => some (mkWord 0x01#8 (0#6) (c1) c0)
  | .imm val c1 c0 => some (mkWord 0x02#8 (val) (c1) c0)
  | .kread wide n c1 c0 => some (mkWord 0x03#8 (0#1 ++ bit wide ++ n) (c1) c0)
  | .setk wide n => some (mkWord 0x04#8 (0#1 ++ bit wide ++ n) (0x1FF#9) 0x1FF#9)
  | .tag dim c1 c0 => some (mkWord 0x05#8 (0#3 ++ dim) (c1) c0)
  | .out route bidx c0 => some (mkWord 0x06#8 (route) (0#5 ++ bidx) c0)
  | .steerT c1 c0 => some (mkWord 0x07#8 (0#6) (c1) c0)
  | .steerF c1 c0 => some (mkWord 0x08#8 (0#6) (c1) c0)
  | .sel c1 c0 => some (mkWord 0x09#8 (0#6) (c1) c0)
  | .merge c1 c0 => some (mkWord 0x0A#8 (0#6) (c1) c0)
  | .eos c1 c0 => some (mkWord 0x0B#8 (0#6) (c1) c0)
  | .iseos c1 c0 => some (mkWord 0x0C#8 (0#6) (c1) c0)
  | .exit code => some (mkWord 0x0D#8 (0#3 ++ code) (0x1FF#9) 0x1FF#9)
  | .next code => some (mkWord 0x0E#8 (0#3 ++ code) (0x1FF#9) 0x1FF#9)
  | .bar n c1 c0 => some (mkWord 0x0F#8 (0#2 ++ n) (c1) c0)
  | .barw n c1 c0 => some (mkWord 0x10#8 (0#2 ++ n) (c1) c0)
  | .sig n => some (mkWord 0x11#8 (0#2 ++ n) (0x1FF#9) 0x1FF#9)
  | .pmask c1 c0 => some (mkWord 0x12#8 (0#6) (c1) c0)
  | .fold n => some (mkWord 0x20#8 (0#2 ++ n) (0x1FF#9) 0x1FF#9)
  | .ldn keep nidx c1 c0 => some (mkWord 0x21#8 (bit keep ++ nidx) (c1) c0)
  | .stn nidx => some (mkWord 0x22#8 (0#1 ++ nidx) (0x1FF#9) 0x1FF#9)
  | .ldnT keep nidx c1 c0 => some (mkWord 0x23#8 (bit keep ++ nidx) (c1) c0)
  | .stnT nidx c1 c0 => some (mkWord 0x24#8 (0#1 ++ nidx) (c1) c0)
  | .probe which n c1 c0 => some (mkWord 0x25#8 (which ++ n) (c1) c0)
  | .kill nidx => some (mkWord 0x26#8 (0#1 ++ nidx) (0x1FF#9) 0x1FF#9)
  | .refold n => some (mkWord 0x27#8 (0#2 ++ n) (0x1FF#9) 0x1FF#9)
  | .foldq n c1 c0 => some (mkWord 0x28#8 (0#2 ++ n) (c1) c0)
  | .add bsrc ty c1 c0 => some (mkWord 0x30#8 (bsrc ++ intTyCode ty) (c1) c0)
  | .sub bsrc ty c1 c0 => some (mkWord 0x31#8 (bsrc ++ intTyCode ty) (c1) c0)
  | .mul bsrc ty c1 c0 => some (mkWord 0x32#8 (bsrc ++ intTyCode ty) (c1) c0)
  | .mulh bsrc ty c1 c0 => some (mkWord 0x33#8 (bsrc ++ intTyCode ty) (c1) c0)
  | .mad bsrc ty c1 c0 => some (mkWord 0x34#8 (bsrc ++ intTyCode ty) (c1) c0)
  | .div bsrc ty c1 c0 => some (mkWord 0x35#8 (bsrc ++ intTyCode ty) (c1) c0)
  | .rem bsrc ty c1 c0 => some (mkWord 0x36#8 (bsrc ++ intTyCode ty) (c1) c0)
  | .and bsrc ty c1 c0 => some (mkWord 0x37#8 (bsrc ++ intTyCode ty) (c1) c0)
  | .or bsrc ty c1 c0 => some (mkWord 0x38#8 (bsrc ++ intTyCode ty) (c1) c0)
  | .xor bsrc ty c1 c0 => some (mkWord 0x39#8 (bsrc ++ intTyCode ty) (c1) c0)
  | .andn bsrc ty c1 c0 => some (mkWord 0x3A#8 (bsrc ++ intTyCode ty) (c1) c0)
  | .shl bsrc ty c1 c0 => some (mkWord 0x3B#8 (bsrc ++ intTyCode ty) (c1) c0)
  | .shr bsrc ty c1 c0 => some (mkWord 0x3C#8 (bsrc ++ intTyCode ty) (c1) c0)
  | .sar bsrc ty c1 c0 => some (mkWord 0x3D#8 (bsrc ++ intTyCode ty) (c1) c0)
  | .rot bsrc ty c1 c0 => some (mkWord 0x3E#8 (bsrc ++ intTyCode ty) (c1) c0)
  | .min bsrc ty c1 c0 => some (mkWord 0x3F#8 (bsrc ++ intTyCode ty) (c1) c0)
  | .max bsrc ty c1 c0 => some (mkWord 0x40#8 (bsrc ++ intTyCode ty) (c1) c0)
  | .abs ty c1 c0 => some (mkWord 0x41#8 (0#3 ++ intTyCode ty) (c1) c0)
  | .neg ty c1 c0 => some (mkWord 0x42#8 (0#3 ++ intTyCode ty) (c1) c0)
  | .clz ty c1 c0 => some (mkWord 0x43#8 (0#3 ++ intTyCode ty) (c1) c0)
  | .popc ty c1 c0 => some (mkWord 0x44#8 (0#3 ++ intTyCode ty) (c1) c0)
  | .brev ty c1 c0 => some (mkWord 0x45#8 (0#3 ++ intTyCode ty) (c1) c0)
  | .ext bsrc ty c1 c0 => some (mkWord 0x46#8 (bsrc ++ intTyCode ty) (c1) c0)
  | .ins bsrc ty c1 c0 => some (mkWord 0x47#8 (bsrc ++ intTyCode ty) (c1) c0)
  | .addsat bsrc ty c1 c0 => some (mkWord 0x48#8 (bsrc ++ intTyCode ty) (c1) c0)
  | .subsat bsrc ty c1 c0 => some (mkWord 0x49#8 (bsrc ++ intTyCode ty) (c1) c0)
  | .cmp cond ty c1 c0 => some (mkWord 0x4A#8 (cmpCode cond ++ intTyCode ty) (c1) c0)
  | .sext wid ty c1 c0 => some (mkWord 0x4B#8 (wid ++ intTyCode ty) (c1) c0)
  | .zext wid ty c1 c0 => some (mkWord 0x4C#8 (wid ++ intTyCode ty) (c1) c0)
  | .addr bsrc scale c1 c0 => some (mkWord 0x4D#8 (bsrc ++ scale) (c1) c0)
  | .addc bsrc ty c1 c0 => some (mkWord 0x4E#8 (bsrc ++ intTyCode ty) (c1) c0)
  | .fadd rm ty c1 c0 => some (mkWord 0x70#8 (rmCode rm ++ Ty.code ty) (c1) c0)
  | .fsub rm ty c1 c0 => some (mkWord 0x71#8 (rmCode rm ++ Ty.code ty) (c1) c0)
  | .fmul rm ty c1 c0 => some (mkWord 0x72#8 (rmCode rm ++ Ty.code ty) (c1) c0)
  | .fma rm ty c1 c0 => some (mkWord 0x73#8 (rmCode rm ++ Ty.code ty) (c1) c0)
  | .fmin nanp ty c1 c0 => some (mkWord 0x74#8 (0#1 ++ bit nanp ++ Ty.code ty) (c1) c0)
  | .fmax nanp ty c1 c0 => some (mkWord 0x75#8 (0#1 ++ bit nanp ++ Ty.code ty) (c1) c0)
  | .fabs ty c1 c0 => some (mkWord 0x76#8 (0#2 ++ Ty.code ty) (c1) c0)
  | .fneg ty c1 c0 => some (mkWord 0x77#8 (0#2 ++ Ty.code ty) (c1) c0)
  | .fcmp cond ty c1 c0 => some (mkWord 0x78#8 (cmpCode cond ++ (Ty.code ty).extractLsb' 0 3) (c1) c0)
  | .fclass ty c1 c0 => some (mkWord 0x79#8 (0#2 ++ Ty.code ty) (c1) c0)
  | .frnd rm ty c1 c0 => some (mkWord 0x7A#8 (rmCode rm ++ Ty.code ty) (c1) c0)
  | .exp2 rm ty c1 c0 => some (mkWord 0x7B#8 (rmCode rm ++ Ty.code ty) (c1) c0)
  | .log2 rm ty c1 c0 => some (mkWord 0x7C#8 (rmCode rm ++ Ty.code ty) (c1) c0)
  | .rcp rm ty c1 c0 => some (mkWord 0x7D#8 (rmCode rm ++ Ty.code ty) (c1) c0)
  | .rsqrt rm ty c1 c0 => some (mkWord 0x7E#8 (rmCode rm ++ Ty.code ty) (c1) c0)
  | .sqrt rm ty c1 c0 => some (mkWord 0x7F#8 (rmCode rm ++ Ty.code ty) (c1) c0)
  | .sin rm ty c1 c0 => some (mkWord 0x80#8 (rmCode rm ++ Ty.code ty) (c1) c0)
  | .cos rm ty c1 c0 => some (mkWord 0x81#8 (rmCode rm ++ Ty.code ty) (c1) c0)
  | .tanh rm ty c1 c0 => some (mkWord 0x82#8 (rmCode rm ++ Ty.code ty) (c1) c0)
  | .sigm rm ty c1 c0 => some (mkWord 0x83#8 (rmCode rm ++ Ty.code ty) (c1) c0)
  | .cvt rm cv c1 c0 => some (mkWord 0x84#8 (rmCode rm ++ cv) (c1) c0)
  | .qnt rm ty c1 c0 => some (mkWord 0x85#8 (rmCode rm ++ Ty.code ty) (c1) c0)
  | .dqnt ty c1 c0 => some (mkWord 0x86#8 (0#2 ++ Ty.code ty) (c1) c0)
  | .redAdd row satq ty c1 c0 => some (mkWord 0x87#8 (bit row ++ bit satq ++ Ty.code ty) (c1) c0)
  | .redMax row satq ty c1 c0 => some (mkWord 0x88#8 (bit row ++ bit satq ++ Ty.code ty) (c1) c0)
  | .redMin row satq ty c1 c0 => some (mkWord 0x89#8 (bit row ++ bit satq ++ Ty.code ty) (c1) c0)
  | .scanAdd row satq ty c1 c0 => some (mkWord 0x8A#8 (bit row ++ bit satq ++ Ty.code ty) (c1) c0)
  | .perm idx w64 c1 c0 => some (mkWord 0x8B#8 (idx ++ bit w64) (c1) c0)
  | .lrot idx w64 c1 c0 => some (mkWord 0x8C#8 (idx ++ bit w64) (c1) c0)
  | .bcast idx w64 c1 c0 => some (mkWord 0x8D#8 (idx ++ bit w64) (c1) c0)
  | .compress idx w64 c1 c0 => some (mkWord 0x8E#8 (idx ++ bit w64) (c1) c0)
  | .expand idx w64 c1 c0 => some (mkWord 0x8F#8 (idx ++ bit w64) (c1) c0)
  | .rand ty c1 c0 => some (mkWord 0x90#8 (0#2 ++ Ty.code ty) (c1) c0)
  | .rcpa ty c1 c0 => some (mkWord 0x91#8 (0#2 ++ Ty.code ty) (c1) c0)
  | .tmma sa sb ks c1 c0 => some (mkWord 0xA0#8 (saveCode sa ++ saveCode sb ++ ks) (c1) c0)
  | .tmmaT sa sb ks c1 c0 => some (mkWord 0xA1#8 (saveCode sa ++ saveCode sb ++ ks) (c1) c0)
  | .ttrans sa ks c1 c0 => some (mkWord 0xA2#8 (saveCode sa ++ 0#2 ++ ks) (c1) c0)
  | .tadd sa sb ks c1 c0 => some (mkWord 0xA3#8 (saveCode sa ++ saveCode sb ++ ks) (c1) c0)
  | .tsub sa sb ks c1 c0 => some (mkWord 0xA4#8 (saveCode sa ++ saveCode sb ++ ks) (c1) c0)
  | .tmul sa sb ks c1 c0 => some (mkWord 0xA5#8 (saveCode sa ++ saveCode sb ++ ks) (c1) c0)
  | .tscaleR sa sb ks c1 c0 => some (mkWord 0xA6#8 (saveCode sa ++ saveCode sb ++ ks) (c1) c0)
  | .tscaleC sa sb ks c1 c0 => some (mkWord 0xA7#8 (saveCode sa ++ saveCode sb ++ ks) (c1) c0)
  | .tmaxz sa ks c1 c0 => some (mkWord 0xA8#8 (saveCode sa ++ 0#2 ++ ks) (c1) c0)
  | .texp2 sa ks c1 c0 => some (mkWord 0xA9#8 (saveCode sa ++ 0#2 ++ ks) (c1) c0)
  | .trsum sa ks c1 c0 => some (mkWord 0xAA#8 (saveCode sa ++ 0#2 ++ ks) (c1) c0)
  | .tcsum sa ks c1 c0 => some (mkWord 0xAB#8 (saveCode sa ++ 0#2 ++ ks) (c1) c0)
  | .trmax sa ks c1 c0 => some (mkWord 0xAC#8 (saveCode sa ++ 0#2 ++ ks) (c1) c0)
  | .tcvt sa ks c1 c0 => some (mkWord 0xAD#8 (saveCode sa ++ 0#2 ++ ks) (c1) c0)
  | .tqnt sa sb ks c1 c0 => some (mkWord 0xAE#8 (saveCode sa ++ saveCode sb ++ ks) (c1) c0)
  | .tzero ks c1 c0 => some (mkWord 0xAF#8 (0#4 ++ ks) (c1) c0)
  | .tcopy sa ks c1 c0 => some (mkWord 0xB0#8 (saveCode sa ++ 0#2 ++ ks) (c1) c0)
  | .tmmaSp sa sb ks c1 c0 => some (mkWord 0xBE#8 (saveCode sa ++ saveCode sb ++ ks) (c1) c0)
  | .recordOn fresh log c1 c0 => some (mkWord 0xC0#8 (0#2 ++ bit fresh ++ log) (c1) c0)
  | .recordOff c1 c0 => some (mkWord 0xC1#8 (0#6) (c1) c0)
  | .recordMark c1 c0 => some (mkWord 0xC2#8 (0#6) (c1) c0)
  | .reverse c1 c0 => some (mkWord 0xC3#8 (0#6) (c1) c0)
  | .adjseed ks => some (mkWord 0xC4#8 (0#4 ++ ks) (0x1FF#9) 0x1FF#9)
  | .logq which c1 c0 => some (mkWord 0xC5#8 (0#3 ++ which) (c1) c0)
  | .logext c1 c0 => some (mkWord 0xC6#8 (0#6) (c1) c0)
  | .agOpen n c1 c0 => some (mkWord 0xC8#8 (0#2 ++ n) (c1) c0)
  | .agClose c1 c0 => some (mkWord 0xC9#8 (0#6) (c1) c0)
  | .srd c1 c0 => some (mkWord 0xCA#8 (0#6) (c1) c0)
  | .swr => some (mkWord 0xCB#8 (0#6) (0x1FF#9) 0x1FF#9)
  | .ld ty c1 c0 => some (mkWord 0xCC#8 (0#2 ++ Ty.code ty) (c1) c0)
  | .st ty => some (mkWord 0xCD#8 (0#2 ++ Ty.code ty) (0x1FF#9) 0x1FF#9)
  | .pref => some (mkWord 0xCE#8 (0#6) (0x1FF#9) 0x1FF#9)
  | .copy dir n c1 c0 => some (mkWord 0xCF#8 (dir ++ n) (c1) c0)
  | .copyMm n c0 => some (mkWord 0xD0#8 (0#2 ++ n) (0x1FF#9) c0)
  | .atomAdd ty c1 c0 => some (mkWord 0xD1#8 (0#2 ++ Ty.code ty) (c1) c0)
  | .atomFadd ty c1 c0 => some (mkWord 0xD2#8 (0#2 ++ Ty.code ty) (c1) c0)
  | .atomMin ty c1 c0 => some (mkWord 0xD3#8 (0#2 ++ Ty.code ty) (c1) c0)
  | .atomMax ty c1 c0 => some (mkWord 0xD3#8 (2#2 ++ Ty.code ty) (c1) c0)
  | .atomBit bop ty c1 c0 => some (mkWord 0xD4#8 (bop ++ Ty.code ty) (c1) c0)
  | .atomSwap ty c1 c0 => some (mkWord 0xD5#8 (0#2 ++ Ty.code ty) (c1) c0)
  | .atomCas ty c1 c0 => some (mkWord 0xD6#8 (0#2 ++ Ty.code ty) (c1) c0)
  | .fenceAcq scope c1 c0 => some (mkWord 0xD7#8 (2#3 ++ scope) (c1) c0)
  | .fenceRel scope c1 c0 => some (mkWord 0xD7#8 (4#3 ++ scope) (c1) c0)
  | .fenceAr scope c1 c0 => some (mkWord 0xD7#8 (6#3 ++ scope) (c1) c0)
  | .qfence n c1 c0 => some (mkWord 0xD8#8 (0#2 ++ n) (c1) c0)
  | .drain mem c1 c0 => some (mkWord 0xD9#8 (0#4 ++ mem) (c1) c0)
  | .waitq scope c1 c0 => some (mkWord 0xDA#8 (0#3 ++ scope) (c1) c0)
  | .own n c1 c0 => some (mkWord 0xDB#8 (0#2 ++ n) (c1) c0)
  | .mPush c1 c0 => some (mkWord 0xDC#8 (0#6) (c1) c0)
  | .mAccept c1 c0 => some (mkWord 0xDD#8 (0#6) (c1) c0)
  | .sliceof c1 c0 => some (mkWord 0xDE#8 (0#6) (c1) c0)
  | .tlbinv all ks c1 c0 => some (mkWord 0xDF#8 (0#3 ++ bit all ++ ks) (c1) c0)
  | .gmake n c1 c0 => some (mkWord 0xE0#8 (0#2 ++ n) (c1) c0)
  | .gfree hk n c1 c0 => some (mkWord 0xE1#8 (0#1 ++ bit hk ++ n) (c1) c0)
  | .gjoin hk n c1 c0 => some (mkWord 0xE2#8 (0#1 ++ bit hk ++ n) (c1) c0)
  | .gleave hk n c1 c0 => some (mkWord 0xE2#8 (1#1 ++ bit hk ++ n) (c1) c0)
  | .ready hk n c1 c0 => some (mkWord 0xE3#8 (0#1 ++ bit hk ++ n) (c1) c0)
  | .unready hk n c1 c0 => some (mkWord 0xE3#8 (1#1 ++ bit hk ++ n) (c1) c0)
  | .gsend try1 hk n c1 c0 => some (mkWord 0xE4#8 (bit try1 ++ bit hk ++ n) (c1) c0)
  | .gtake c1 c0 => some (mkWord 0xE5#8 (0#6) (c1) c0)
  | .gcountSnapclr n c1 c0 => some (mkWord 0xE6#8 (0#2 ++ n) (c1) c0)
  | .gpound hk n c1 c0 => some (mkWord 0xE7#8 (0#1 ++ bit hk ++ n) (c1) c0)
  | .spawn pb n c1 c0 => some (mkWord 0xE8#8 (0#1 ++ bit pb ++ n) (c1) c0)
  | .spawnr pb n c1 c0 => some (mkWord 0xE9#8 (0#1 ++ bit pb ++ n) (c1) c0)
  | .join inh n c1 c0 => some (mkWord 0xEA#8 (0#1 ++ bit inh ++ n) (c1) c0)
  | .wsdecl n c1 c0 => some (mkWord 0xEB#8 (0#2 ++ n) (c1) c0)
  | .yield c1 c0 => some (mkWord 0xEC#8 (0#6) (c1) c0)
  | .cancel c1 c0 => some (mkWord 0xED#8 (0#6) (c1) c0)
  | .jobdone => some (mkWord 0xEE#8 (0#6) (0x1FF#9) 0x1FF#9)
  | .taskq which c1 c0 => some (mkWord 0xEF#8 (0#3 ++ which) (c1) c0)
  | .trap code => some (mkWord 0xF0#8 (code) (0x1FF#9) 0x1FF#9)
  | .trapret c1 c0 => some (mkWord 0xF1#8 (0#6) (c1) c0)
  | .sysrd c1 c0 => some (mkWord 0xF2#8 (0#6) (c1) c0)
  | .syswr c1 c0 => some (mkWord 0xF2#8 (32#6) (c1) c0)
  | .tollrd c1 c0 => some (mkWord 0xF3#8 (0#6) (c1) c0)
  | .tollsig n c1 c0 => some (mkWord 0xF3#8 (2#2 ++ n) (c1) c0)
  | .syncCode c1 c0 => some (mkWord 0xF4#8 (0#6) (c1) c0)
  | .halt => some (mkWord 0xF5#8 (0#6) (0x1FF#9) 0x1FF#9)
  | .freeze c1 c0 => some (mkWord 0xF6#8 (0#6) (c1) c0)
  | .thaw c1 c0 => some (mkWord 0xF6#8 (32#6) (c1) c0)
  | .markwave c1 c0 => some (mkWord 0xF7#8 (0#6) (c1) c0)
  | .imgsave n c1 c0 => some (mkWord 0xF8#8 (0#2 ++ n) (c1) c0)
  | .imgload n c1 c0 => some (mkWord 0xF8#8 (2#2 ++ n) (c1) c0)
  | .virq vec => some (mkWord 0xF9#8 (vec) (0x1FF#9) 0x1FF#9)
  | .timer c1 c0 => some (mkWord 0xFA#8 (0#6) (c1) c0)
  | .jnlQ c1 c0 => some (mkWord 0xFB#8 (0#6) (c1) c0)
  | .jnlNote c1 c0 => some (mkWord 0xFB#8 (1#6) (c1) c0)
  | .partQuiesce c1 c0 => some (mkWord 0xFC#8 (0#6) (c1) c0)
  | .partWb c1 c0 => some (mkWord 0xFC#8 (8#6) (c1) c0)
  | .partInv c1 c0 => some (mkWord 0xFC#8 (16#6) (c1) c0)
  | .partSethash c1 c0 => some (mkWord 0xFC#8 (24#6) (c1) c0)
  | .partResume c1 c0 => some (mkWord 0xFC#8 (32#6) (c1) c0)
  | .waymaskSet c1 c0 => some (mkWord 0xFD#8 (0#6) (c1) c0)
  | .wquotaSet c1 c0 => some (mkWord 0xFD#8 (32#6) (c1) c0)
  | .lgcDp4 c1 c0 => some (mkWord 0xFE#8 (0#6) (c1) c0)
  | .lgcSad c1 c0 => some (mkWord 0xFE#8 (1#6) (c1) c0)
  | .lgcAvg c1 c0 => some (mkWord 0xFE#8 (2#6) (c1) c0)
  | .lgcClamp c1 c0 => some (mkWord 0xFE#8 (3#6) (c1) c0)
  | .lgcSwz c1 c0 => some (mkWord 0xFE#8 (4#6) (c1) c0)
  | .lgcCvt8 c1 c0 => some (mkWord 0xFE#8 (5#6) (c1) c0)
  | .smithyComplete _ => none
  | .bellMark => none
  | .plotConfigure _ => none
  | .dispatch _ => none
  | .instanceGenerate _ _ _ => none
  | .roundEnd _ => none
  | .tokenArrival _ _ => none
  | .eosArrival _ _ _ _ _ _ => none
  | .markerArrival _ _ => none
  | .hedgeDrop _ _ => none
  | .trapRecordDelivery _ => none
  | .handlerRound _ => none
  | .watchdogNoprog _ => none
  | .reductionCombine _ _ _ _ => none
  | .reductionEmit _ _ _ _ => none
  | .farHeaderReread _ => none
  | .tileComplete _ _ => none
  | .recordReversal _ => none
  | .sliceRequest _ => none
  | .nackResend _ => none
  | .ldReply _ => none
  | .atomicPerform _ => none
  | .writeAcknowledge _ => none
  | .coalescerFlush _ _ => none
  | .pageWalkComplete _ => none
  | .migrationComplete _ _ _ => none
  | .ftimeoutExpiry _ => none
  | .streamFetch _ _ => none
  | .copyPerform _ => none
  | .copyMmDeliver _ => none
  | .ownTokenArrival _ => none
  | .waymaskDrainDone _ => none
  | .barrierArrival _ => none
  | .sigAtHub => none
  | .groupMessageSteer _ => none
  | .gsendOutcome _ => none
  | .readinessCountUpdate _ => none
  | .poundDrain _ => none
  | .jobRecordTake _ _ => none
  | .jobComplete _ => none
  | .stageDeclaration _ => none
  | .stagingRead _ => none
  | .fairShareTick => none
  | .fairSharePreempt _ => none
  | .waveComplete _ => none
  | .wavebudExpiry _ => none
  | .freezeComplete _ => none
  | .tollTick => none
  | .configScrub _ _ => none
  | .uncorrectableError _ => none
  | .jqtail _ _ _ => none
  | .jccons _ _ _ => none
  | .jqfence _ _ => none
  | .frcons _ _ => none
  | .stresume _ _ => none
  | .gercons _ _ => none
  | .trcons _ _ => none
  | .hrcons _ _ => none
  | .ringBaseWrite _ _ _ _ => none
  | .traprsp _ _ => none
  | .imask _ _ => none
  | .vireset _ _ => none
  | .registerWrite _ _ _ => none
  | .hostMemoryAccess _ _ _ => none
  | .functionLevelReset _ => none
  | .perst => none
  | .rst _ => none
  | .bringupReady => none
  | .reeveRound => none
  | .thermalThrottle => none
  | .thermalRestore => none
  | .thermalShutdown => none
  | .msiXEntryUnmask _ _ => none

end Sys2Proof
end

