-- ==== Sys2Proof/Config.lean ====
section
/-!
DEFINITION. Sys2Proof/Config.lean: what the spec leaves to the part, the board or the flash, and the free values: each
an opaque constant, so that no proof can see which it is (notes/assumptions/5.md). A free value is applied to the
counter `State.ctr`, which advances whenever one is drawn.
-/
namespace Sys2Proof.Config

/-- The stepping code of the part: B0 reports 2 (R1, R58). -/
def stepping : BitVec 4 := 2

/-- The FEAT bits present on the part: all eight on B0 (R46). -/
def present : BitVec 8 := 0xFF

/-- Device cycles in a microsecond (R13). -/
def cyclesPerUs : Nat := 1300

/-- Cycles in a bell period (R12). -/
def bellPeriod : Nat := 256

/-- The words of the hub's entropy source (R201): free. -/
opaque entropy : Nat → Dword

/-- Which of the occurrences that may happen at units outside the C-cells happens next, and whether a cycle passes first: their times
are not given, so the choice is free (notes/assumptions/3.md, notes/assumptions/4.md). -/
opaque pick : Nat → Nat

/-- The HBM controller whose stack holds a physical address, as 4 × die + controller (R5): free, since the spec does not say which does
(notes/assumptions/5.md). -/
opaque stack : Nat → Nat

/-- The requests that a P-cell holds beyond one before it makes its issuers wait (R292): free, since the spec gives no number. -/
opaque portRoom : Nat

/-- The 64-byte units after the header of the saved image of a plot, by the plot's number (R426): free, since the spec gives no size; what the
cells of a die hold takes less than 2 GiB. -/
opaque imageUnits : Nat → BitVec 25

/-- The address ranges that the graph image at an address names for range registers, by first VA and size as a power of two (R268): free,
since no field of the image gives them. -/
opaque namedRanges : Nat → List (Nat × Nat)

/-- WHY of the LOGSTATE for a record header that is not one (R252): free, since the spec names none (notes/assumptions/64.md). -/
opaque badHeaderWhy : BitVec 4

/-- The cycles for which an occurrence that may happen can be put off (R109): free, since the spec promises only that it happens. -/
opaque patience : Nat

/-- A free 64-bit value, for a value that the spec does not state. -/
opaque freeWord : Nat → Dword

/-- A free byte, for a byte whose contents the spec does not state. -/
opaque freeByte : Nat → Byte

/-- A free choice, for a choice between outcomes that the spec leaves open. -/
opaque freeChoice : Nat → Bool

/-- The device key of the module as the 64-byte block of HMAC-SHA-256 (R434): set at manufacture, no form reads it. -/
opaque deviceKey : BitVec 512

/-- Whether the firmware image in flash passes its signature check (R465). -/
opaque firmwareGood : Bool

/-- What boot firmware finds and flash names (R294, R462, R463, R465): SPANID, the bytes that each CXL link populates, and the
partition of a VI. -/
opaque bootSpanid : Dword
opaque bootCxl : Nat → Nat
opaque bootPart : Nat → Nat

/-- The bytes that each CXL link of another module populates, by 2 × module + link (R264): free, since only that module's bring-up finds them.
-/
opaque remoteCxl : Nat → Nat

/-- What device memory holds after a module reset, which the spec leaves undefined (R465): bytes by address. -/
opaque lostMemory : Nat → List (Nat × Byte)

end Sys2Proof.Config
end

