-- ==== Sys2Proof/Machine/Tab.lean ====
section
/-!
DEFINITION. Sys2Proof/Machine/Tab.lean: finite tables, lists of (key, entry) pairs with rising keys. Everything the
spec numbers sparsely (virtual interfaces, plots, slots, bytes) is held in one.
-/
namespace Sys2Proof.Machine

/-- A finite table: pairs with strictly rising keys. -/
abbrev Tab (α : Type) := List (Nat × α)

/-- The entry at a key. -/
def Tab.at? {α : Type} : Tab α → Nat → Option α
  | [], _ => none
  | (k', v) :: t, k => bif k == k' then some v else Tab.at? t k

/-- The entry at a key, or what an absent entry stands for. -/
def Tab.atD {α : Type} (t : Tab α) (k : Nat) (d : α) : α := (Tab.at? t k).getD d

/-- The table with an entry set. -/
def Tab.set {α : Type} : Tab α → Nat → α → Tab α
  | [], k, v => [(k, v)]
  | (k', v') :: t, k, v =>
    bif k.blt k' then (k, v) :: (k', v') :: t
    else bif k == k' then (k, v) :: t
    else (k', v') :: Tab.set t k v

/-- The table without an entry. -/
def Tab.del {α : Type} : Tab α → Nat → Tab α
  | [], _ => []
  | (k', v') :: t, k => bif k == k' then t else (k', v') :: Tab.del t k

/-- The table with an entry changed, where there is one. -/
def Tab.upd {α : Type} (t : Tab α) (k : Nat) (f : α → α) : Tab α :=
  match Tab.at? t k with
  | none => t
  | some v => Tab.set t k (f v)

/-- The table with an entry changed, an absent entry standing for `d`. -/
def Tab.updD {α : Type} (t : Tab α) (k : Nat) (d : α) (f : α → α) : Tab α := Tab.set t k (f (Tab.atD t k d))

/-- Whether a key has an entry. -/
def Tab.has {α : Type} (t : Tab α) (k : Nat) : Bool := (Tab.at? t k).isSome

/-- The entry set, kept only where it differs from what an absent entry stands for. -/
def Tab.put {α : Type} [DecidableEq α] (t : Tab α) (k : Nat) (v d : α) : Tab α :=
  if v = d then Tab.del t k else Tab.set t k v

/-- The lowest key at or above `n` without an entry, looked for in `fuel` keys. -/
def Tab.freeFrom {α : Type} (t : Tab α) : Nat → Nat → Option Nat
  | 0, _ => none
  | fuel + 1, n => bif Tab.has t n then Tab.freeFrom t fuel (n + 1) else some n

end Sys2Proof.Machine
end

