-- ==== Sys2Proof/Machine/State.lean ====
section
/-!
DEFINITION. Sys2Proof/Machine/State.lean: every piece of state the spec gives the machine, as plain data, and the state
after reset. A table holds what the spec numbers; an absent entry stands for the entry's reset value. Widths are those
of the spec where software sees the value as a word; counts, indices and addresses in tables are natural numbers.
-/
namespace Sys2Proof.Machine

/-! ### Bytes -/

/-- Bytes by address in one canonical form: addresses strictly rising, and no entry equal to the byte that an unlisted
address reads as, which is 0 (notes/assumptions/1.md). Device memory is one such list; so is the storage of each
named-storage class of a cell (R140). -/
abbrev Memory := List Host.Cell

/-! ### Cells: blocks, instances, tokens (05) -/

/-- The firing at issue: a slot of the block in a block-store entry of a cell, for the instance in one of the block's
frames. `plot` is a key of `State.plots`, `cell` is 64 × row + column relative to the plot origin, `round` numbers the plot's
rounds, so that what comes late for a round that has ended finds no firing. -/
structure Firing where
  plot : Nat
  cell : Nat
  bidx : Nat
  slot : Nat
  frame : Nat
  round : Nat := 0
  deriving DecidableEq, Repr

/-- The kinds of R111, codes 0x0-0x4 in order. -/
inductive Kind where
  | s32 | s64 | r32 | r64 | tile
  deriving DecidableEq, Repr

/-- An element of an operand: null (R105), or a value. An element of 32-bit kind holds zeros above bit 31. -/
inductive Elem where
  | null
  | val (v : Dword)
  deriving DecidableEq, Repr

/-- What a port of a slot of an instance holds: the kind the first token fixed, and the elements present (R104). -/
structure Operand where
  kind : Kind
  elems : Tab Elem
  deriving DecidableEq, Repr

/-- What a firing sends to one consumer: the consumer field, the kind, the elements by index in the run, and whether each stands for itself
even where the kind is one that fills a run (R105, R132). -/
structure Emit where
  cons : Cons
  kind : Kind
  elems : Tab Elem
  each : Bool := false
  deriving DecidableEq, Repr

/-- Results of an issued firing on their way to consumers of its block (R10, R108): the cycles left, the block, the first tag of the
run, and what is sent. -/
structure Deliver where
  left : Nat
  bidx : Nat
  first : Nat
  out : List Emit
  deriving DecidableEq, Repr

/-- A live instance (R99-R102): its run ordinal, the run's first tag and length, its operands by 4 × slot + port, the
elements each slot has resolved by firing, those that have fired and wait for their result, those that wait at the home of a name for a
change of its header (R147, R148), the write elements that have stalled once (R149), and those that a trap's resolution made
null (R419). -/
structure Inst where
  run : Nat
  first : Nat
  len : Nat
  ops : Tab Operand
  done : Tab Word
  issued : Tab Word
  held : Tab Word
  stalled : Tab Word
  nulls : Tab Word
  deriving DecidableEq, Repr

/-- What an element of a reducing slot brings (R195, R197): null, a value whose predicate is 0, or a value. -/
inductive RedIn where
  | null
  | skip
  | val (v : Dword)
  deriving DecidableEq, Repr

/-- A reducing slot (R94, R195, R198): the window, by tag; the lowest tag not combined; the accumulator; the elements of
a scan not yet emitted, by tag; what is to be emitted, the oldest first: the cycles left (R196), the first tag of the scope, and the
elements by offset from it; and the cycles before which nothing of the last tag combined is emitted. -/
structure Red where
  window : Tab RedIn
  next : Nat
  acc : Option Dword
  scan : Tab Elem
  due : List (Nat × Nat × Tab Elem)
  left : Nat
  deriving DecidableEq, Repr

/-- A block resident in a block-store entry (R97): what the loader wrote (R42-R48), what it computed (the ports each
slot reads and the trap flags of R129, as masks by slot), and the block's running state. -/
structure Block where
  gblk : Nat
  frames : Nat
  base : Nat
  seq : Bool
  dom : List Nat
  exits : Nat
  step : BitVec 4
  feat : BitVec 8
  words : List Word
  k : Tab Word
  names : List Dword
  reads : Tab Nat
  flags : Tab Nat
  bounds : List Nat
  next : Nat
  insts : Tab Inst
  early : Tab Operand
  eos : Tab Nat
  eosSent : List Nat
  pendK : Tab (Word × Nat × Nat)
  succ : Option (Nat × Nat × Nat)
  mism : Tab Nat
  reds : Tab Red
  deriving DecidableEq, Repr

/-- The sequential thread of a cell (R98): not started or ended, or in a block, and whether EXIT has fired in the
instance now live. -/
structure Thread where
  bidx : Option Nat
  exited : Bool
  deriving DecidableEq, Repr

/-- The causes of R128 that a firing, the loader, a plot or a switch raises. -/
inductive Cause where
  | illop | rsvfld | feature | stepping | undecl | expired | empty | foldsize | foldrange | access | xlate | align
  | novictim | logfull | logstate | gdead | gperm | taskovf | noprog | hedge | rate | priv | sysreg | cfgerr | software
  deriving DecidableEq, Repr

/-- A tile firing that the matrix array holds (R216): its sources by statement, ordinal and KEEP; its destination, a raw
reference or a handle; the bytes of its result; whether it sets FX; the toll counter and the multiply-accumulates; the cycles
left of its occupancy, and to its completion (R214). A source that was dead when it was read counts as kept: its read changes nothing
(R147). `raws` are its raw sources: operand, repetition, reference, extent. `logged` and `kept` are what stage 2 did: the offset and
the header of its record, and the names raised. `seed` is the number of elements of an ADJSEED, which adds into a full slot (R150).
`fault` is an error found in a source during the occupancy (R213, R217). -/
structure TileJob where
  firing : Firing
  reads : List (Nat × Nat × Bool)
  raws : List (Nat × Nat × Nat × Nat)
  logged : Option (Nat × List Dword)
  kept : List (Nat × Nat)
  seed : Nat
  fault : Option (Cause × Dword)
  raw : Bool
  dst : Dword
  bytes : Nat
  data : Nat
  fx : Bool
  toll : Nat
  macs : Nat
  occ : Nat
  left : Nat
  deriving DecidableEq, Repr

/-- A C-cell of a plot (R97-R106, R140): its blocks, its sequential thread, the bytes of its frame and accumulator
classes, the tile firings that its matrix array holds, oldest first (R214, R216), the number of its last group message (R352), the
cycles that its special-function unit stays busy (R170), those that a record's reversal keeps its array (R243), and the results on
their way. -/
structure Cell where
  blocks : Tab Block
  thread : Thread
  frame : Memory
  acc : Memory
  array : List TileJob
  sseq : Word
  sf : Nat
  hold : Nat
  pend : List Deliver
  deriving DecidableEq, Repr

/-- A declared fold (R142, R146, R149): the record's five words, the generation, the headers by slot (an absent header
is unclaimed), the stall count. -/
structure Fold where
  w0 : Dword
  w1 : Dword
  w2 : Dword
  w3 : Dword
  w4 : Dword
  gen : BitVec 8
  hdrs : Tab Dword
  pstall : Word
  deriving DecidableEq, Repr

/-- A route of the loaded image (R112): its destination cell and its hops, 0 to 3 for north, east, south and west. -/
structure Route where
  dst : Nat
  hops : List Nat
  deriving DecidableEq, Repr

/-- A token in a route's switches or waiting in an input queue (R110, R113): the route as 64 × source cell + route id,
the block and slot of the OUT that sent it as 64 × BIDX + slot, the destination, the head's fields, the elements by index from the
tag, and the cycles left on its way. -/
structure Token where
  route : Nat
  sender : Nat
  bidx : Nat
  slot : Nat
  port : Nat
  tag : Nat
  eos : Bool
  mark : Bool
  kind : Kind
  elems : Tab Elem
  left : Nat
  deriving DecidableEq, Repr

/-- An EOS on its way from a slot to a consumer of the same block (R117), and the cycles left (R108). -/
structure EosTok where
  cell : Nat
  bidx : Nat
  slot : Nat
  port : Nat
  tag : Nat
  left : Nat
  deriving DecidableEq, Repr

/-- A trap that a plot has taken (R125-R127): cause, tag, information, cell, the NOPROG entries, and its trap sequence
number once the hub has it. -/
structure TrapRec where
  cause : Dword
  tag : Dword
  info : Dword
  cell : Dword
  entries : List Dword
  seq : Option Dword
  deriving DecidableEq, Repr

/-- Whose plot it is (R418, R452): a graph's, a VI's handler, the Reeve's. -/
inductive Role where
  | graph | handler | reeve
  deriving DecidableEq, Repr

/-- Why the cells of a plot issue nothing more: they do issue; a freeze (R424) or a marker wave (R423) has begun. -/
inductive Stop where
  | none | freeze | wave
  deriving DecidableEq, Repr

/-- A marker wave (R423): when it began, whether the markers have been sent, the routes and streams whose marker has
arrived, and the MARKWAVE firing that waits; none where the scheduler began it. -/
structure Wave where
  start : Nat
  sent : Bool
  arrived : List Nat
  waiter : Option Firing
  deriving DecidableEq, Repr

/-- A cached barrier (R120, R121): the word's three fields and the BARWs that wait, each with the run of its instance. -/
structure Barrier where
  expect : Nat
  count : Nat
  phase : Nat
  waiters : List (Firing × Nat)
  deriving DecidableEq, Repr

/-- A message in an inbox (R351, R355): its offset in the ring, its bytes, and whether the hub has counted it. -/
structure InMsg where
  off : Nat
  bytes : Nat
  id : Nat
  counted : Bool
  deriving DecidableEq, Repr

/-- A membership of an endpoint (R371, R372): the group's generation, the member index, the readiness. -/
structure Membership where
  gen : Nat
  midx : Nat
  ready : Nat
  deriving DecidableEq, Repr

/-- An endpoint (R350, R351): its cell, its ring, where the next message goes, the bytes reserved, the messages oldest
first, its memberships by group. -/
structure Endpoint where
  cell : Nat
  scell : Nat
  off : Nat
  size : Nat
  tail : Nat
  reserved : Nat
  msgs : List InMsg
  members : Tab Membership
  deriving DecidableEq, Repr

/-- A reversal in progress (R240-R244): the REVERSE firing and the run of its instance, the offsets of the segment's records, those reversed,
the one in progress and the cycles left to its completion (R243); SRSEED as it stood when REVERSE fired (R242). -/
structure Reversal where
  firing : Firing
  run : Nat
  recs : List Nat
  done : List Nat
  next : Option Nat
  left : Nat
  srseed : Dword
  deriving DecidableEq, Repr

/-- What a handler's round works on (R418): the record's sequence number, its words, its frozen subject where it has one,
and whether TRAPRET has been fired. -/
structure Subject where
  seq : Dword
  words : List Dword
  plot : Option Nat
  answered : Bool
  deriving DecidableEq, Repr

/-- A SIG on its way to the hub, or from there to a home S-cell (R123), with the cell that sent it. -/
structure Sig where
  by_ : Nat × Nat
  vi : Nat
  gen : BitVec 16
  pa : Nat
  n : Nat
  deriving DecidableEq, Repr

/-- A configured plot: its place and owner, what its image configured, what its round holds; `withdrawn` while its endpoints'
readiness is withdrawn and its gate bounces (R361), `failed` with the cause under which its round is abandoned (R419), `recQ` with
the REC firings that are to take effect and the cycles left (R248); `stale` is the mask of the job queues whose launches must not take the
plot as it is configured (R322); `scrub` marks one whose configuration is to be loaded again (R429). -/
structure Plot where
  die : Nat
  x : Nat
  y : Nat
  w : Nat
  h : Nat
  vi : Nat
  code : Nat
  role : Role
  running : Bool
  round : Nat
  frozen : Bool
  stop : Stop
  withdrawn : Bool
  wave : Option Wave
  ports : List Dword
  cells : Tab Cell
  near : Tab Memory
  folds : Tab Fold
  routes : Tab Route
  tokens : List Token
  eosQ : List EosTok
  links : Tab (Nat × Nat)
  logs : List (Dword × Dword)
  groups : List (Nat × Nat)
  fixups : List Dword
  items : List (Nat × Nat)
  stale : Nat
  scrub : Bool
  trap : Option TrapRec
  tcause : Dword
  ttag : Dword
  tinfo : Dword
  tcell : Dword
  numst : Dword
  srseed : Dword
  wdt : Dword
  ratetrap : Dword
  exitc : Dword
  logst : Dword
  logpos : Dword
  logseg : Dword
  rev : Option Reversal
  recQ : List (Nat × Firing)
  idle : Nat
  fired : Bool
  trapNow : Bool
  barriers : Tab Barrier
  arrivals : List Sig
  bgen : BitVec 16
  endpoints : Tab Endpoint
  task : Option Nat
  inh : Bool
  failed : Option Nat
  yield : Bool
  used : Nat
  subject : Option Subject
  deriving DecidableEq, Repr

/-! ### Memory path (12, 13) -/

/-- The bytes of a 128-byte line, the byte at offset o in bits 8o+7 to 8o. -/
abbrev Line := BitVec 1024

/-- A combined entry of a TLB or a range register (R267-R269): the VI, the first VA and its size as a power of two, the
frames it maps to (physical, and guest-physical with the size of its stage-2 page for an invalidation by guest page), the permissions of
the two stages, and whether the walker has set D. -/
structure TlbEntry where
  vi : Nat
  va : Nat
  lg : Nat
  pa : Nat
  gpa : Nat
  lg2 : Nat
  r1 : Bool
  w1 : Bool
  r2 : Bool
  w2 : Bool
  dirty : Bool
  deriving DecidableEq, Repr

/-- What a walk that failed found: XLATE with its WHY (R271), or a migration fault with the entry's address, its frame and
the page size as a power of two (R272). -/
inductive WalkFail where
  | xlate (why : Nat)
  | migrate (entry pfn lg : Nat)
  deriving DecidableEq, Repr

/-- What makes an access: the P-cell it goes through, its VI, the plot it is for, SRC of R271, and where there is one the cell firing, or
the stream with its handle, ordinal and descriptor; and the ranges of addresses that it needs as a whole (R272). -/
structure Via where
  port : Nat
  vi : Nat
  plot : Option Nat
  src : Nat
  firing : Option Firing
  stream : Option (Nat × Nat × Nat)
  need : List (Nat × Nat)
  deriving DecidableEq, Repr

/-- A miss-holding entry of a P-cell (R268): the access that waits and its address; whether a walker has it; what its walk found;
whether the Reeve has found no page to evict for it (R273); and the plots with an access that waits for the page too (R272). -/
structure Miss where
  who : Via
  va : Nat
  write : Bool
  walking : Bool
  fail : Option WalkFail
  victim : Bool
  also : List Nat
  deriving DecidableEq, Repr

/-- A line that a P-cell holds for the reads of a cell (R285). -/
structure HeldLine where
  vi : Nat
  plot : Nat
  cell : Nat
  data : Line
  deriving DecidableEq, Repr

/-- A coalescer buffer (R262): the bytes merged, their mask, the VI, the cells whose writes it holds, the cycles since
its first write, a side word where a copy brings one. -/
structure CLine where
  data : Line
  mask : BitVec 128
  vi : Nat
  by_ : List (Nat × Nat)
  age : Nat
  side : Option Word
  deriving DecidableEq, Repr

/-- The operation of an atomic (R282). -/
inductive AtomOp where
  | add | fadd | min | max | and | or | xor | swap | cas
  deriving DecidableEq, Repr

/-- Where a reply goes: the firing, its instance's first tag, its element and virtual address (R281). -/
structure Reply where
  firing : Firing
  first : Nat
  elem : Nat
  va : Nat
  deriving DecidableEq, Repr

/-- What a request asks of a slice (R281, R282, R262): for a cell; for a stream, by context and handle, the line of its elements from an
ordinal on, or bytes of a line that hold a number of its stores, with the die that they come from (R278, R304). -/
inductive ReqKind where
  | read (rpl : Reply) (off : Nat) (ty : Ty)
  | prefetch
  | write (data : Line) (mask : BitVec 128) (side : Option Word) (by_ : List (Nat × Nat))
  | atomic (rpl : Reply) (off : Nat) (ty : Ty) (op : AtomOp) (b c : Dword)
  | streamRead (ctx handle ord : Nat)
  | streamWrite (ctx handle n : Nat) (data : Line) (mask : BitVec 128) (die : Option Nat)
  deriving DecidableEq, Repr

/-- A request for a line: the P-cell that sends it, the VI, the line's number (PA ÷ 128), and the partition and hash
generation its home was computed under (R295). `owned` marks one that entered in a bell slot of its VI (R292), `sent` one that has left its
P-cell. -/
structure Req where
  port : Nat
  vi : Nat
  line : Nat
  part : Nat
  hgen : Nat
  owned : Bool
  sent : Bool
  kind : ReqKind
  deriving DecidableEq, Repr

/-- A tagged line of a slice (R291): the line's number, the VI that filled it, the dirty bit, the side word, the data,
whether it is poisoned (R430), and when it was last used. -/
structure L2Line where
  line : Nat
  vi : Nat
  dirty : Bool
  side : Word
  data : Line
  poison : Bool
  used : Nat
  deriving DecidableEq, Repr

/-- An L2 slice: its tagged lines by 16 × set + way, its queue, oldest first, and the bytes of window space allotted. -/
structure Slice where
  lines : Tab L2Line
  queue : List Req
  window : Nat
  deriving DecidableEq, Repr

/-- The mode of a stream (R277). -/
inductive StreamMode where
  | run | pull | push
  deriving DecidableEq, Repr

/-- A line of a stream's window (R293, R304): the line's number in memory, its bytes and side word, whether it is poisoned, the bytes
written, and the stores it holds. -/
structure WLine where
  line : Nat
  data : Line
  side : Word
  poison : Bool
  mask : BitVec 128
  n : Nat
  deriving DecidableEq, Repr

/-- A decoupling line of a read stream (R279): its first ordinal and how many it holds, the line's number in memory, the offset of the
window line that serves it where one does, its bytes and whether they are poisoned once they have come, and the elements not yet taken. -/
structure SLine where
  ord : Nat
  count : Nat
  line : Nat
  win : Option Nat
  data : Option (Line × Bool)
  left : Nat
  deriving DecidableEq, Repr

/-- An open stream context (R257, R277-R289, R304): the plot and VI it runs for, the descriptor's words and address, its
generation and handle, and the key of its path; the ordinals whose lines are asked for, and the decoupling lines held; elements
delivered, or stores taken from the queue; the queue, by ordinal for a read and by order of acceptance
for a write, each with its ordinal and value; the stores accepted, on their way, and performed; the ring's bytes landed or committed, freed,
and granted; an M.PUSH that waits; the window with the slices that give it and the bytes of each; whether a fault has frozen it, whether
it is closing, whether the block that opened it declares FEAT 6. -/
structure Stream where
  plot : Nat
  vi : Nat
  desc : List Dword
  addr : Nat
  gen : Nat
  handle : Nat
  route : Nat
  asked : Nat
  slines : List SLine
  next : Nat
  queue : Tab (Nat × Elem)
  accepted : Nat
  sent : Nat
  performed : Nat
  prod : Nat
  cons : Nat
  granted : Nat
  waiter : Option (Firing × Nat)
  windowed : Bool
  givers : List Nat
  share : Nat
  head : Nat
  tail : Nat
  wlines : Tab WLine
  frozen : Bool
  closing : Bool
  feat6 : Bool
  ended : Bool
  deriving DecidableEq, Repr

/-- A copy accepted by a P-cell (R283, R284): the cell that issued it, the direction code, the near area's S-cell and
byte offset, the physical addresses of its 64-byte source and destination units in memory, the block-format code, the
units performed, for COPY.MM the firing and the raw reference it delivers, and the regions whose hand-over to the P-cell it waits for
(R263). -/
structure CopyJob where
  plot : Nat
  cell : Nat
  vi : Nat
  dir : Nat
  scell : Nat
  off : Nat
  len : Nat
  src : List Nat
  dst : List Nat
  bf : Nat
  done : Nat
  mm : Option (Firing × Dword)
  awaits : List Nat
  deriving DecidableEq, Repr

/-- A region on its way from one owner to another (R263): OWN has stopped the old owner; `sent` once the token has left
it. -/
structure HandOver where
  vi : Nat
  region : Nat
  dest : Nat
  firing : Firing
  sent : Bool
  deriving DecidableEq, Repr

/-- A write that has reached the new owner of a region before the hand-over token and waits there (R263); of a far fold, whose write the
firing makes when it is tried again, it is the place that the element keeps. -/
structure EarlyWrite where
  vi : Nat
  region : Nat
  line : Nat
  kind : ReqKind
  who : Option (Firing × Nat)
  deriving DecidableEq, Repr

/-- A header line that a P-cell watches for the waiting firings of a plot, and whether its slice has reported a write to it (R156). -/
structure Watch where
  plot : Nat
  line : Nat
  hit : Bool
  deriving DecidableEq, Repr

/-- A P-cell (R156, R257-R263, R268). -/
structure PCell where
  ctxs : Tab Stream
  gens : Tab Nat
  lines : Tab CLine
  held : Tab HeldLine
  out : List Req
  nacked : List Req
  copies : List CopyJob
  tokens : List HandOver
  early : List EarlyWrite
  watches : List Watch
  ranges : Tab TlbEntry
  tlb : List TlbEntry
  misses : List Miss
  deriving DecidableEq, Repr

/-- The owner of a region (R261): its P-cell, whether the hand-over token is there (R263), and the plot whose release
ends the ownership. -/
structure Owner where
  port : Nat
  here : Bool
  plot : Nat
  deriving DecidableEq, Repr

/-! ### Virtual interfaces and the hub (19, 16, 17) -/

/-- A job queue of a VI (R380, R435), and the items of graph images it keeps cached (R322), by virtual address. -/
structure JobQueue where
  base : Dword
  head : Word
  tail : Word
  err : Word
  cring : Dword
  cprod : Word
  ccons : Word
  jnl : Dword
  cache : Tab (List Dword)
  deriving DecidableEq, Repr

/-- A trap record on its way (R418): its sequence number, its words, its subject where it froze one, whether the hub has
put it in the ring, its ring index, and whether a handler is to see it. -/
structure TrapWait where
  seq : Dword
  words : List Dword
  subject : Option Nat
  written : Bool
  index : Word
  deriving DecidableEq, Repr

/-- A fault record that waits for ring space (R274, R275), as its eight words. -/
abbrev FaultRec := List Dword

/-- A virtual interface: its registers (R412) and what the hub holds for it; `iorder` the vectors that wait for delivery, each with the cycle
in which it became pending (R415); `busyAt` when a reset under way began (R428); `walked` the table entries that a walker has read for it since
its last TLBINV, by physical address (R270). -/
structure Vi where
  tvec : Dword
  tring : Dword
  trprod : Word
  trcons : Word
  tseq : Dword
  traps : List TrapWait
  handler : Option Nat
  hfail : Bool
  featm : Dword
  maskhit : Word
  stalesig : Word
  bgen : BitVec 16
  ipend : Dword
  imask : Dword
  msix : Dword
  iorder : List (Nat × Nat)
  hring : Dword
  hrprod : Word
  hrcons : Word
  hlost : Word
  busy : Bool
  busyAt : Nat
  imgmem : Dword
  poisoncnt : Word
  rgntab : Dword
  s1root : Dword
  s2root : Dword
  fring : Dword
  frprod : Word
  frcons : Word
  ftimeout : Word
  fseq : Dword
  faults : List FaultRec
  ftstart : Option Nat
  gering : Dword
  gerprod : Word
  gercons : Word
  gerlost : Word
  poolmem : Tab Dword
  squota : Dword
  fsweight : Dword
  fsdef : Word
  joinlost : Word
  queues : Tab JobQueue
  nextq : Nat
  waym : Dword
  wayset : Option (Firing × Dword)
  wquota : Dword
  vdom : Dword
  tolls : Tab Dword
  sigseq : Dword
  regions : Tab (Nat × Nat)
  owners : Tab Owner
  walked : Tab Dword
  deriving DecidableEq, Repr

/-- What holds a page in its frame (R268, R272, R357): a plot, for a range register of its graph; a group, for its pound. -/
inductive PinBy where
  | plot (key : Nat)
  | group (key : Nat)
  deriving DecidableEq, Repr

/-- Bytes of memory from an address on that the Reeve must not migrate. -/
structure Pin where
  by_ : PinBy
  base : Nat
  size : Nat
  deriving DecidableEq, Repr

/-! ### Groups (16) -/

/-- A message of a group (R352, R355): its group's key and generation, its payload, its sequence number and sender, its
bounces; the sending firing, which waits for the outcome; whether the send was a GSEND.try; and its job and source words in
the replay journal (R365, R436). `id` tells messages apart. -/
structure GMsg where
  id : Nat
  group : Nat
  gen : Nat
  words : List Word
  sseq : Word
  sender : Nat
  bounces : Nat
  firing : Option Firing
  try1 : Bool
  src : Option (Nat × Dword × Dword × Dword)
  deriving DecidableEq, Repr

/-- Where a message in flight is (R355, R356): at a node, climbing to find a count, steering down, climbing to the hub to
be parked, waiting at the hub for pound space, or done, its outcome on the way back to its gate. `turn` is the highest node it has
reached; `since` when it was steered to its node, or came to wait; `inbox` names the plot, the endpoint, the message there and the
member that it was delivered to. -/
inductive Transit where
  | climb (node : Nat)
  | down (node turn since : Nat)
  | toPound
  | waiting (since : Nat)
  | outcome (failed : Bool) (inbox : Option (Nat × Nat × Nat × Nat))
  deriving DecidableEq, Repr

/-- A message in flight; `parked` marks a pound's message, which stays in the pound until the hub counts its delivery (R403); `tries` are
its bounces since it entered the tree or left the pound (R355, R357). -/
structure Flight where
  msg : GMsg
  at_ : Transit
  parked : Bool
  tries : Nat
  deriving DecidableEq, Repr

/-- A change of counts on its way up the tree (R354), and when it was sent: a node that has made its entry since takes none of it. -/
structure Delta where
  group : Nat
  gen : Nat
  node : Nat
  child : Nat
  by_ : Int
  born : Nat
  deriving DecidableEq, Repr

/-- A node's entry for a group (R353, R357): a signed count per child, PARK, and when it was made. -/
structure NodeEntry where
  counts : Tab Int
  park : Bool
  made : Nat
  deriving DecidableEq, Repr

/-- A member of a group (R359): its state, 1 member and 2 left; its plot word's place, its endpoint, the plot's key, and
its deliveries. -/
structure Member where
  state : Nat
  die : Nat
  x : Nat
  y : Nat
  ep : Nat
  plot : Nat
  del : Word
  deriving DecidableEq, Repr

/-- A group that is made (R348, R357, R359). -/
structure Group where
  gen : Nat
  va : Nat
  units : Nat
  head : Nat
  pound : List GMsg
  nodes : Tab NodeEntry
  members : Tab Member
  nmem : Nat
  gdel : Dword
  snaps : Word
  deriving DecidableEq, Repr

/-! ### Tasks (17) -/

/-- What the placing unit keeps of a graph image for a job (R468, R370): PIN and PDIE, the size of the plot, and the
handles of the groups made. -/
structure JobImage where
  pin : Bool
  pdie : Nat
  handles : List Word
  deriving DecidableEq, Repr

/-- A job (R382, R388, R435); `bad` marks a record that the front end found bad, of which only the completion entry is left. -/
structure Job where
  vi : Nat
  queue : Nat
  index : Word
  tag : Dword
  live : Nat
  cause : Option Nat
  bad : Bool
  code : Word
  jd : Bool
  images : Tab JobImage
  jmode : Nat
  jbase : Nat
  jsize : Nat
  jcount : Nat
  jtotal : Nat
  nr : Bool
  diverged : Bool
  used : List Nat
  tickets : Tab Nat
  deriving DecidableEq, Repr

/-- A continuation record placed in a pool (R377, R378): the fields of its words; its order key, the cycle of its placement, and its job; the saved image it
resumes from; whether it is dispatched; the plot its near staging binds it to, the declaration and line that staging has
reached, whether that declaration is admitted, and when, which orders the staging function's reads (R393); the units charged to SQUOTA and the
snapshot areas it holds (R392-R394), and the handles of the records it was split from (R401). -/
structure Rec where
  code : Nat
  args : Nat
  lo : Nat
  hi : Nat
  join : Nat
  prio : Nat
  grain : Nat
  root : Bool
  anydie : Bool
  wsn : Nat
  parent : Dword
  wsd : Nat
  tag : Dword
  key : Nat
  born : Nat
  job : Nat
  image : Option Nat
  running : Bool
  bound : Option Nat
  decl : Nat
  line : Nat
  open_ : Bool
  turn : Nat
  charged : Nat
  areas : List Nat
  src : List Dword
  deriving DecidableEq, Repr

/-- A saved image of a plot (R425, R426): its kind, the plot and its number, whether nothing has been restored from it, the streams it had open by P-cell and context, its record,
where it was written, its bytes, and the draw that names its body. -/
structure SavedImage where
  kind : Nat
  key : Nat
  live : Bool
  plot : Plot
  streams : Tab Stream
  task : Option Nat
  va : Option Nat
  bytes : Nat
  body : Nat
  deriving DecidableEq, Repr

/-- A request in a smithy's queue (R67): the firing, the first tag of its instance, its VI, its results and the cycles before which
they are not emitted. -/
structure SmithyReq where
  firing : Firing
  first : Nat
  vi : Nat
  out : Tab Elem
  left : Nat
  deriving DecidableEq, Repr

/-- A memory-path firing that has issued and waits (R34, R285): its instance's run, and what it noted when it issued. -/
structure Waiting where
  firing : Firing
  run : Nat
  note : Nat
  deriving DecidableEq, Repr

/-- What the slot of the bell calendar serves at a shared unit (R396): nothing more; a demand request of a VI; a staging read, of a VI
or of any. -/
inductive Turn where
  | idle
  | demand (v : Nat)
  | staging (v : Option Nat)
  deriving DecidableEq, Repr

/-- The network of a die as a shared unit (R396): the credits of the VIs that have a request waiting there, and what the slot now
serves. -/
structure Net where
  credit : Tab Int
  turn : Turn
  deriving DecidableEq, Repr

/-- The state of the machine. Plots are numbered as they are configured, records by pool and slot, jobs, images, groups
and what is in flight by the model's own keys. `cur` is the firing at issue, `again` whether it is tried again at the home of a
name, `among` the elements of it that are offered to their homes now (R141); `issue` names one that comes first, `retry` those to be tried
again with their elements, and `parked` those that are so in the next cycle, since their home could not be reached in this; `waiting` the memory-path firings that have issued and wait, in the order of their issue. `agenda` holds what the outside will do next; `stalled`,
`served` and `recent` the firings that have waited, the paths of cells that have issued (the lane path is `true`) and the occurrences
of the device in the cycle now running, `thrNext` what the clock does at the next bell mark (R464), `owed` the cycles for which what may happen has been put off (R109); `pins` the memory that the
Reeve must not migrate; `nets` the networks of the dies, where one has served; `hostQ` the BAR4 accesses that wait for a page (R272), `hostReads` what reads of the host have
returned, `msi` the messages sent. -/
structure State where
  cur : Firing
  issue : Option Firing
  again : Bool
  among : Word
  retry : List (Firing × Word)
  parked : List (Firing × Word)
  waiting : List Waiting
  agenda : List Instr
  stalled : List Firing
  served : List (Nat × Nat × Bool)
  recent : List Instr
  owed : Nat
  ctr : Nat
  time : Dword
  ready : Bool
  booterr : Bool
  thr : Bool
  thrNext : Option Bool
  power : Bool
  spanid : Dword
  cxl0 : Nat
  cxl1 : Nat
  quantum : Dword
  wavebud : Dword
  cfgcorr : Word
  visel : BitVec 9
  bell : Tab Dword
  bellNext : Tab Dword
  bellAt : Nat
  usShare : Nat
  usToll : Nat
  hedgeSeq : Word
  partcfg : Tab Dword
  hmask : Tab Dword
  smap : Tab Dword
  vis : Tab Vi
  plots : Tab Plot
  nextPlot : Nat
  images : Tab SavedImage
  nextImage : Nat
  pcells : Tab PCell
  slices : Tab Slice
  tlb2 : Tab (List TlbEntry)
  smithy : Tab (List SmithyReq)
  smithyRest : Tab Nat
  sigs : List Sig
  groups : Tab Group
  groupGens : Tab Nat
  flights : Tab Flight
  nextFlight : Nat
  deltas : Tab Delta
  nextDelta : Nat
  jobs : Tab Job
  nextJob : Nat
  recs : Tab Rec
  recGens : Tab Nat
  placed : Tab Nat
  msi : List (Nat × Nat)
  hostReads : List Dword
  hostQ : List (Nat × Nat × Option Dword)
  mem : Memory
  poison : List Nat
  pins : List Pin
  nets : Tab Net
  deriving DecidableEq, Repr

/-- Why a step stops with a fault. -/
inductive Fault where
  /-- Raised by a meaning, or by the fetch, that is given a firing of no resident slot and live instance; no run from
  reset reaches it. Safe. -/
  | noFiring
  /-- Raised by the fetch where the block store holds a word that is no instruction; the loader lets none in (R65), so
  no run from reset reaches it. Safe. -/
  | badWord
  deriving DecidableEq, Repr

/-- Why a step is refused. -/
inductive Refusal where
  /-- Raised by an arm of the dispatch whose instruction has no meaning yet. Safe. -/
  | notModelled (mnemonic : String)
  deriving DecidableEq, Repr

/-- The outcome of a step of this machine. -/
abbrev Outcome := Host.Outcome State Fault Refusal

/-- The firing named in a state where none has been at issue. -/
def Firing.zero : Firing := { plot := 0, cell := 0, bidx := 0, slot := 0, frame := 0 }

/-- A job queue at reset (R380, R435). -/
def JobQueue.reset : JobQueue :=
  { base := 0, head := 0, tail := 0, err := 0, cring := 0, cprod := 0, ccons := 0, jnl := 0, cache := [] }

/-- A virtual interface at reset: the values of R412's registers, and for what the spec gives no reset value those of
notes/assumptions/6.md. -/
def Vi.reset : Vi :=
  { tvec := 0, tring := 0, trprod := 0, trcons := 0, tseq := 0, traps := [], handler := none, hfail := false, featm := 0, maskhit := 0,
    stalesig := 0, bgen := 0, ipend := 0, imask := 0, msix := BitVec.allOnes 64, iorder := [], hring := 0, hrprod := 0, hrcons := 0,
    hlost := 0, busy := false, busyAt := 0, imgmem := 0, poisoncnt := 0, rgntab := 0, s1root := 0, s2root := 0, fring := 0, frprod := 0,
    frcons := 0, ftimeout := 1000, fseq := 0, faults := [], ftstart := none, gering := 0, gerprod := 0, gercons := 0,
    gerlost := 0, poolmem := [], squota := 0x100, fsweight := 1, fsdef := 0, joinlost := 0, queues := [], nextq := 0,
    waym := 0xFFFF, wayset := none, wquota := 0x1000, vdom := 0, tolls := [], sigseq := 0, regions := [], owners := [], walked := [] }

/-- A P-cell at reset. -/
def PCell.reset : PCell :=
  { ctxs := [], gens := [], lines := [], held := [], out := [], nacked := [], copies := [], tokens := [], early := [],
    watches := [], ranges := [], tlb := [], misses := [] }

/-- A slice at reset: no line valid, nothing queued. -/
def Slice.reset : Slice := { lines := [], queue := [], window := 0 }

/-- PARTCFG of a partition at reset (R294): partition p below 4 is valid, 16 slices from 16 p. -/
def partcfgReset : Tab Dword :=
  [(0, 0x8020000000000000), (1, 0x8022000000000000), (2, 0x8024000000000000), (3, 0x8026000000000000)]

/-- HMASK0-3 of the default domains (R296), by 8 × partition + k. -/
def hmaskReset : Tab Dword :=
  [0, 1, 2, 3].flatMap (fun p => [(8 * p, 0x0008888888888880), (8 * p + 1, 0x0001111111111100),
    (8 * p + 2, 0x0002222222222200), (8 * p + 3, 0x0004444444444400)])

/-- The machine right after reset. -/
def State.reset : State :=
  { cur := Firing.zero, issue := none, again := false, among := BitVec.allOnes 32, retry := [], parked := [], waiting := [], agenda := [], stalled := [], served := [], recent := [], owed := 0, ctr := 0, time := 0,
    ready := false, booterr := false,
    thr := false, thrNext := none, power := true, spanid := 0, cxl0 := 0, cxl1 := 0, quantum := 2000, wavebud := 50, cfgcorr := 0,
    visel := 0, bell := [], bellNext := [], bellAt := 0, usShare := 0, usToll := 0, hedgeSeq := 0,
    partcfg := partcfgReset, hmask := hmaskReset, smap := [], vis := [], plots := [], nextPlot := 0, images := [],
    nextImage := 0, pcells := [], slices := [], tlb2 := [], smithy := [], smithyRest := [], sigs := [], groups := [], groupGens := [],
    flights := [], nextFlight := 0, deltas := [], nextDelta := 0, jobs := [], nextJob := 0, recs := [], recGens := [],
    placed := [], msi := [], hostReads := [], hostQ := [], mem := [], poison := [], pins := [], nets := [] }

end Sys2Proof.Machine
end

