-- ==== Sys2Proof/Machine/Operands.lean ====
section
/-!
DEFINITION. Sys2Proof/Machine/Operands.lean: which ports a form reads, how it fires, and how an operand element is read
and a result element written at the width of a type.
-/
namespace Sys2Proof.Machine

/-! Ports: a, b, c and p are ports 0 to 3 (R51); a set of ports is the sum of 1, 2, 4 and 8. -/

/-- A port that a form reads only where a field is zero: BSRC 000 takes the operand from the port (R172). -/
def unlessConst (bsrc : BitVec 3) (port : Nat) : Nat := bif bsrc == 0#3 then port else 0

/-- A port that a form reads only where a flag of its X field is set. -/
def whenSet (b : Bool) (port : Nat) : Nat := bif b then port else 0

/-- The ports a form always reads, by the forms tables of each family. -/
def mustRead : Instr → Nat
  | .nop | .imm .. | .kread .. | .tag .. => 0
  | .mov .. | .setk .. | .out .. | .eos .. | .iseos .. | .exit .. | .next .. | .bar .. | .barw .. | .sig .. | .pmask .. => 1
  | .steerT .. | .steerF .. => 9
  | .sel .. => 11
  | .merge .. => 3
  | .fold .. | .ldn .. | .ldnT .. | .stnT .. | .kill .. | .refold .. | .foldq .. => 0
  | .stn .. => 1
  | .probe which _ _ _ => whenSet (which == 0#2) 1
  | .add s _ _ _ | .sub s _ _ _ | .mul s _ _ _ | .mulh s _ _ _ | .div s _ _ _ | .rem s _ _ _ | .and s _ _ _ | .or s _ _ _
  | .xor s _ _ _ | .andn s _ _ _ | .shl s _ _ _ | .shr s _ _ _ | .sar s _ _ _ | .rot s _ _ _ | .min s _ _ _
  | .max s _ _ _ | .ext s _ _ _ | .addsat s _ _ _ | .subsat s _ _ _ | .addr s _ _ _ => 1 + unlessConst s 2
  | .mad s _ _ _ | .ins s _ _ _ | .addc s _ _ _ => 3 + unlessConst s 4
  | .abs .. | .neg .. | .clz .. | .popc .. | .brev .. | .sext .. | .zext .. => 1
  | .cmp .. | .fcmp .. | .fadd .. | .fsub .. | .fmul .. | .fmin .. | .fmax .. | .qnt .. | .dqnt .. => 3
  | .fma .. => 7
  | .fabs .. | .fneg .. | .fclass .. | .frnd .. | .exp2 .. | .log2 .. | .rcp .. | .rsqrt .. | .sqrt .. | .sin .. | .cos ..
  | .tanh .. | .sigm .. | .cvt .. | .rcpa .. => 1
  | .redAdd .. | .redMax .. | .redMin .. | .scanAdd .. => 1
  | .perm .. => 3
  | .lrot .. | .bcast .. => 1
  | .compress .. | .expand .. => 9
  | .rand .. => 0
  | .tmma .. | .tmmaT .. | .tadd .. | .tsub .. | .tmul .. | .tscaleR .. | .tscaleC .. | .tmmaSp .. => 7
  | .ttrans .. | .tmaxz .. | .texp2 .. | .trsum .. | .tcsum .. | .trmax .. | .tcvt .. | .tqnt .. | .tcopy .. => 5
  | .tzero .. => 4
  | .recordOn .. | .recordOff .. | .recordMark .. | .reverse .. | .logq .. => 0
  | .adjseed .. => 5
  | .logext .. => 1
  | .agOpen .. | .copyMm .. | .fenceAcq .. | .fenceRel .. | .fenceAr .. | .qfence .. | .drain .. | .own .. => 0
  | .copy dir _ _ _ => whenSet (dir == 2#2) 2
  | .agClose .. | .srd .. | .ld .. | .pref .. | .waitq .. | .sliceof .. => 1
  | .swr .. | .st .. | .atomAdd .. | .atomFadd .. | .atomMin .. | .atomMax .. | .atomBit .. | .atomSwap .. | .mPush ..
  | .mAccept .. => 3
  | .atomCas .. => 7
  | .tlbinv _ ks _ _ => 1 + whenSet (ks == 2#2) 2
  | .gmake .. | .gcountSnapclr .. => 1
  | .gfree hk _ _ _ | .gjoin hk _ _ _ | .gleave hk _ _ _ | .unready hk _ _ _ | .gpound hk _ _ _ => whenSet (!hk) 1
  | .ready hk _ _ _ => 2 + whenSet (!hk) 1
  | .gsend _ hk _ _ _ => 1 + whenSet (!hk) 4
  | .gtake .. => 0
  | .spawn pb _ _ _ => whenSet pb 2
  | .spawnr pb _ _ _ => 3 + whenSet pb 4
  | .join .. | .cancel .. | .jobdone .. => 1
  | .wsdecl .. => 3
  | .yield .. | .taskq .. => 0
  | .trap .. | .halt .. | .virq .. | .timer .. | .jnlQ .. => 0
  | .trapret .. | .sysrd .. | .tollrd .. | .freeze .. | .thaw .. | .markwave .. | .imgsave .. | .imgload .. | .jnlNote .. => 1
  | .syswr .. | .tollsig .. | .syncCode .. => 3
  | .partQuiesce .. | .partResume .. => 1
  | .partWb .. | .partInv .. => 7
  | .partSethash .. | .waymaskSet .. | .wquotaSet .. => 3
  | .lgcDp4 .. | .lgcSad .. | .lgcClamp .. => 7
  | .lgcAvg .. | .lgcSwz .. => 3
  | .lgcCvt8 .. => 1
  | .smithyComplete _ | .bellMark | .plotConfigure _ | .dispatch _ | .instanceGenerate _ _ _ | .roundEnd _ | .tokenArrival _ _
  | .eosArrival _ _ _ _ _ _ | .markerArrival _ _ | .hedgeDrop _ _ | .trapRecordDelivery _ | .handlerRound _
  | .watchdogNoprog _ | .reductionCombine _ _ _ _ | .reductionEmit _ _ _ _ | .farHeaderReread _ | .tileComplete _ _
  | .recordReversal _ | .sliceRequest _ | .nackResend _ | .ldReply _ | .atomicPerform _ | .writeAcknowledge _
  | .coalescerFlush _ _ | .pageWalkComplete _ | .migrationComplete _ _ _ | .ftimeoutExpiry _ | .streamFetch _ _
  | .copyPerform _ | .copyMmDeliver _ | .ownTokenArrival _ | .waymaskDrainDone _ | .barrierArrival _ | .sigAtHub
  | .groupMessageSteer _ | .gsendOutcome _ | .readinessCountUpdate _ | .poundDrain _ | .jobRecordTake _ _ | .jobComplete _
  | .stageDeclaration _ | .stagingRead _ | .fairShareTick | .fairSharePreempt _ | .waveComplete _ | .wavebudExpiry _
  | .freezeComplete _ | .tollTick | .configScrub _ _ | .uncorrectableError _ | .jqtail _ _ _ | .jccons _ _ _
  | .jqfence _ _ | .frcons _ _ | .stresume _ _ | .gercons _ _ | .trcons _ _ | .hrcons _ _ | .ringBaseWrite _ _ _ _
  | .traprsp _ _ | .imask _ _ | .vireset _ _ | .registerWrite _ _ _ | .hostMemoryAccess _ _ _ | .functionLevelReset _
  | .perst | .rst _ | .bringupReady | .reeveRound | .thermalThrottle | .thermalRestore | .thermalShutdown
  | .msiXEntryUnmask _ _ => 0

/-- The ports a form reads only where some consumer of the block delivers to them: a trigger at a (R162 and the forms
tables that show `[a,]`), p of a reduction (R194), b of TQNT and of GSEND. -/
def mayRead : Instr → Nat
  | .fold .. | .ldn .. | .ldnT .. | .stnT .. | .kill .. | .refold .. | .foldq .. | .probe .. | .rand .. => 1
  | .redAdd .. | .redMax .. | .redMin .. | .scanAdd .. => 8
  | .tqnt .. => 2
  | .recordOn .. | .recordOff .. | .recordMark .. | .reverse .. | .logq .. => 1
  | .agOpen .. | .copy .. | .copyMm .. | .fenceAcq .. | .fenceRel .. | .fenceAr .. | .qfence .. | .drain .. | .own .. => 1
  | .gtake .. | .spawn .. | .yield .. | .taskq .. | .trap .. | .halt .. | .virq .. | .timer .. | .jnlQ .. => 1
  | .gfree hk _ _ _ | .gjoin hk _ _ _ | .gleave hk _ _ _ | .ready hk _ _ _ | .unready hk _ _ _ | .gpound hk _ _ _ => whenSet hk 1
  | .gsend .. => 2
  | _ => 0

/-- The ports a form reads in a block that delivers to `delivered` at its slot. -/
def readPorts (i : Instr) (delivered : Nat) : Nat := mustRead i ||| (mayRead i &&& delivered)

/-- Whether a form is element-wise (R105): it fires on the elements it has. The others fire once for each instance. -/
def elementWise : Instr → Bool
  | .nop | .mov .. | .imm .. | .kread .. | .tag .. | .out .. | .steerT .. | .steerF .. | .sel .. | .merge .. | .iseos .. => true
  | .ldn .. | .stn .. | .kill .. => true
  | .add .. | .sub .. | .mul .. | .mulh .. | .mad .. | .div .. | .rem .. | .and .. | .or .. | .xor .. | .andn .. | .shl ..
  | .shr .. | .sar .. | .rot .. | .min .. | .max .. | .abs .. | .neg .. | .clz .. | .popc .. | .brev .. | .ext .. | .ins ..
  | .addsat .. | .subsat .. | .cmp .. | .sext .. | .zext .. | .addr .. | .addc .. => true
  | .fadd .. | .fsub .. | .fmul .. | .fma .. | .fmin .. | .fmax .. | .fabs .. | .fneg .. | .fcmp .. | .fclass .. | .frnd ..
  | .exp2 .. | .log2 .. | .rcp .. | .rsqrt .. | .sqrt .. | .sin .. | .cos .. | .tanh .. | .sigm .. | .rcpa .. => true
  | .cvt .. | .qnt .. | .dqnt .. | .redAdd .. | .redMax .. | .redMin .. | .scanAdd .. | .rand .. => true
  | .swr .. | .ld .. | .st .. | .pref .. | .atomAdd .. | .atomFadd .. | .atomMin .. | .atomMax .. | .atomBit ..
  | .atomSwap .. | .atomCas .. | .sliceof .. => true
  | .lgcDp4 .. | .lgcSad .. | .lgcAvg .. | .lgcClamp .. | .lgcSwz .. | .lgcCvt8 .. => true
  | _ => false

/-- Whether a form issues on the lane path of its cell (R131, R170); the others issue on the second path. -/
def onLanes : Instr → Bool
  | .nop | .mov .. | .imm .. | .kread .. | .setk .. | .tag .. | .steerT .. | .steerF .. | .sel .. | .merge .. | .iseos .. | .exit ..
  | .next .. | .pmask .. => true
  | .add .. | .sub .. | .mul .. | .mulh .. | .mad .. | .div .. | .rem .. | .and .. | .or .. | .xor .. | .andn .. | .shl ..
  | .shr .. | .sar .. | .rot .. | .min .. | .max .. | .abs .. | .neg .. | .clz .. | .popc .. | .brev .. | .ext .. | .ins ..
  | .addsat .. | .subsat .. | .cmp .. | .sext .. | .zext .. | .addr .. | .addc .. => true
  | .fadd .. | .fsub .. | .fmul .. | .fma .. | .fmin .. | .fmax .. | .fabs .. | .fneg .. | .fcmp .. | .fclass .. | .frnd ..
  | .exp2 .. | .log2 .. | .rcp .. | .rsqrt .. | .sqrt .. | .sin .. | .cos .. | .tanh .. | .sigm .. | .rcpa .. => true
  | .cvt .. | .qnt .. | .dqnt .. | .redAdd .. | .redMax .. | .redMin .. | .scanAdd .. | .rand .. => true
  | .perm .. | .lrot .. | .bcast .. | .compress .. | .expand .. => true
  | _ => false

/-- Whether a form needs the special-function unit of its cell (R170). -/
def usesSf : Instr → Bool
  | .div .. | .rem .. | .exp2 .. | .log2 .. | .rcp .. | .rsqrt .. | .sqrt .. | .sin .. | .cos .. | .tanh .. | .sigm .. | .rcpa .. => true
  | _ => false

/-- Whether a form needs the matrix array of its cell (R214, R250). -/
def usesArray : Instr → Bool
  | .tmma .. | .tmmaT .. | .tmmaSp .. | .ttrans .. | .tadd .. | .tsub .. | .tmul .. | .tscaleR .. | .tscaleC .. | .tmaxz .. | .texp2 ..
  | .trsum .. | .tcsum .. | .trmax .. | .tcvt .. | .tqnt .. | .tzero .. | .tcopy .. | .adjseed .. => true
  | _ => false

/-! Bit fields and widths. -/

/-- Bits hi down to lo of a word. -/
def field {n : Nat} (v : BitVec n) (hi lo : Nat) : Nat := (v.toNat >>> lo) % 2 ^ (hi + 1 - lo)

/-- A field value at its place. -/
def at_ (v lo : Nat) : Nat := v <<< lo

/-- Sign extension from `w` bits of a number. -/
def sx (v w : Nat) : Int :=
  let u := v % 2 ^ w
  if u < 2 ^ (w - 1) then (u : Int) else (u : Int) - 2 ^ w

/-- A 64-bit word from a number, modulo 2^64. -/
abbrev dw (n : Nat) : Dword := BitVec.ofNat 64 n

/-- A 64-bit word whose low 32 bits are those of a 32-bit word. -/
def zx32 (w : Word) : Dword := dw w.toNat

/-- The low 32 bits. -/
def lo32 (v : Dword) : Word := BitVec.ofNat 32 v.toNat

/-- A 64-bit word from two 32-bit words, as a pair of constant words gives it. -/
def pair (lo hi : Word) : Dword := dw (hi.toNat * 2 ^ 32 + lo.toNat)

/-- The width of an integer type (R76). -/
def itWidth : IntTy → Nat
  | .i32 | .n32 => 32
  | .i64 | .n64 => 64
  | .i16 | .n16 => 16
  | .i8 | .n8 => 8

/-- Whether an integer type is signed (R77). -/
def itSigned : IntTy → Bool
  | .i32 | .i64 | .i16 | .i8 => true
  | .n32 | .n64 | .n16 | .n8 => false

/-- The width of a type of R76 that has one element, in bits. -/
def tyWidth : Ty → Nat
  | .i32 | .n32 | .f32 => 32
  | .i64 | .n64 => 64
  | .i16 | .n16 | .bf16 => 16
  | .i8 | .n8 | .e4m3 | .e5m2 => 8
  | .i4x => 4
  | .b4x | .be4m3 | .rsv => 0

/-- Whether a type is a signed integer type. -/
def tySigned : Ty → Bool
  | .i32 | .i64 | .i16 | .i8 => true
  | _ => false

/-- The integer type of a type code below 0x8. -/
def tyInt : Ty → IntTy
  | .n32 => .n32 | .i64 => .i64 | .n64 => .n64 | .i16 => .i16 | .n16 => .n16 | .i8 => .i8 | .n8 => .n8 | _ => .i32

/-- Whether a kind carries 64-bit elements; a tile handle is read as a 64-bit scalar (R168). -/
def Kind.wide : Kind → Bool
  | .s64 | .r64 | .tile => true
  | .s32 | .r32 => false

/-- Whether a kind is a scalar, which fills every element of its port (R105). -/
def Kind.scalar : Kind → Bool
  | .s32 | .s64 | .tile => true
  | .r32 | .r64 => false

/-- An operand element of a kind as a 64-bit word, for a form of a signed or unsigned 64-bit type (R168). -/
def widen (signed : Bool) (k : Kind) (v : Dword) : Dword :=
  bif k.wide then v else bif signed then BitVec.ofInt 64 (sx v.toNat 32) else dw (v.toNat % 2 ^ 32)

/-- `rd` of R167 for an integer type: the low w bits of the element, sign- or zero-extended. -/
def rdInt (ty : IntTy) (k : Kind) (v : Dword) : Int :=
  let u := (bif itWidth ty == 64 then (widen (itSigned ty) k v).toNat else v.toNat) % 2 ^ itWidth ty
  bif itSigned ty then sx u (itWidth ty) else (u : Int)

/-- `wr` of R167 for an integer type: reduced modulo 2^w; a signed type narrower than 32 bits is sign-extended to 32. -/
def wrInt (ty : IntTy) (x : Int) : Dword :=
  let u := (x % (2 ^ itWidth ty : Nat)).toNat
  bif itSigned ty && (itWidth ty).blt 32 then dw ((sx u (itWidth ty) % (2 ^ 32 : Nat)).toNat) else dw u

/-- The least value of an integer type. -/
def itMin (ty : IntTy) : Int := bif itSigned ty then -((2 ^ (itWidth ty - 1) : Nat) : Int) else 0

/-- The greatest value of an integer type. -/
def itMax (ty : IntTy) : Int :=
  bif itSigned ty then ((2 ^ (itWidth ty - 1) : Nat) : Int) - 1 else ((2 ^ itWidth ty : Nat) : Int) - 1

/-- `clamp` of R175. -/
def clamp (x lo hi : Int) : Int := if x < lo then lo else if hi < x then hi else x

/-- A value stored or loaded at the width of a type: LDN and LD widen it to an element (R163, R167). -/
def widenLoad (ty : Ty) (v : Nat) : Dword :=
  bif tyWidth ty == 64 then dw v
  else bif tySigned ty then dw ((sx v (tyWidth ty) % (2 ^ 32 : Nat)).toNat)
  else dw (v % 2 ^ tyWidth ty)

/-- The kind of a run of elements of a type (R169). -/
def runKind (wide : Bool) : Kind := bif wide then .r64 else .r32

/-- The kind of a scalar of a type (R169). -/
def scalarKind (wide : Bool) : Kind := bif wide then .s64 else .s32

end Sys2Proof.Machine
end

