-- ==== Sys2Proof/Machine/Numbers.lean ====
section
/-!
DEFINITION. Sys2Proof/Machine/Numbers.lean: the element formats and the rounding of 04 (R78-R90), on exact values. A
finite value is a sign, a natural magnitude and a power of two; rounding acts on an exact magnitude, to which a value
that lies strictly between two representable ones adds a mark `more`.
-/
namespace Sys2Proof.Machine

/-- A decoded floating-point value (R78): NaN, an infinity, or ± m × 2^e. -/
inductive FVal where
  | nan
  | inf (neg : Bool)
  | fin (neg : Bool) (m : Nat) (e : Int)
  deriving DecidableEq, Repr

/-- A floating-point format (R78): mantissa bits with the hidden one, exponent of the smallest subnormal, width, the
largest finite pattern, the infinity where there is one, the default NaN. -/
structure Fmt where
  prec : Nat
  emin : Int
  width : Nat
  maxFin : Nat
  inf : Option Nat
  nan : Nat
  deriving DecidableEq, Repr

/-- f32 (R78). -/
def fmtF32 : Fmt := { prec := 24, emin := -149, width := 32, maxFin := 0x7F7FFFFF, inf := some 0x7F800000, nan := 0x7FC00000 }

/-- bf16 (R78). -/
def fmtBf16 : Fmt := { prec := 8, emin := -133, width := 16, maxFin := 0x7F7F, inf := some 0x7F80, nan := 0x7FC0 }

/-- e5m2 (R78). -/
def fmtE5m2 : Fmt := { prec := 3, emin := -16, width := 8, maxFin := 0x7B, inf := some 0x7C, nan := 0x7E }

/-- e4m3 (R78). -/
def fmtE4m3 : Fmt := { prec := 4, emin := -9, width := 8, maxFin := 0x7E, inf := none, nan := 0x7F }

/-- The format of a floating-point type; f32 stands for the types that are not floating-point. -/
def fmtOf : Ty → Fmt
  | .bf16 => fmtBf16 | .e4m3 => fmtE4m3 | .e5m2 => fmtE5m2 | _ => fmtF32

/-- The value of a pattern (R78). -/
def decodeF (f : Fmt) (v : Nat) : FVal :=
  let u := v % 2 ^ f.width
  let neg := u / 2 ^ (f.width - 1) == 1
  let mag := u % 2 ^ (f.width - 1)
  if f.inf = some mag then .inf neg
  else if f.maxFin < mag then .nan
  else
    let m := mag % 2 ^ (f.prec - 1)
    let ef := mag / 2 ^ (f.prec - 1)
    if ef = 0 then .fin neg m f.emin else .fin neg (m + 2 ^ (f.prec - 1)) (f.emin + ((ef : Int) - 1))

/-- The sign bit of a pattern. -/
def signBit (f : Fmt) (neg : Bool) : Nat := bif neg then 2 ^ (f.width - 1) else 0

/-- `sr_word` of R89. -/
def srWord (seed : Dword) (tag e : Nat) : Nat :=
  let h := seed + dw (tag * 0x9E3779B97F4A7C15) + dw (e * 0xC2B2AE3D27D4EB4F)
  let h := h ^^^ (h >>> 31)
  let h := h * 0xBF58476D1CE4E5B9#64
  let h := h ^^^ (h >>> 27)
  let h := h * 0x94D049BB133111EB#64
  let h := h ^^^ (h >>> 31)
  (h >>> 48).toNat

/-- A rounding in force: the mode and, under SR, the stochastic word of the element (R86, R88). -/
structure Rnd where
  mode : Rm
  word : Nat
  deriving DecidableEq, Repr

/-- Round to nearest even (R86). -/
def rne : Rnd := { mode := .rne, word := 0 }

/-- Whether a magnitude k + rem / 2^d (and a little more where `more`) is rounded up in magnitude to k + 1 (R86, R88).
-/
def roundsUp (r : Rnd) (neg : Bool) (k rem d : Nat) (more : Bool) : Bool :=
  let inexact := rem != 0 || more
  match r.mode with
  | .rne => Nat.blt (2 ^ d) (2 * rem) || (2 * rem == 2 ^ d && d != 0 && (more || k % 2 == 1))
  | .rz => false
  | .rup => inexact && !neg
  | .sr => Nat.ble (2 ^ 16) ((rem * 2 ^ 16) / 2 ^ d + r.word)

/-- The magnitude m × 2^e, and a little more where `more`, rounded to a multiple of 2^q: the multiple. -/
def roundStep (r : Rnd) (neg : Bool) (m : Nat) (e q : Int) (more : Bool) : Nat :=
  if q ≤ e then
    let k := m * 2 ^ (e - q).toNat
    bif roundsUp r neg k 0 0 more then k + 1 else k
  else
    let d := (q - e).toNat
    let k := m / 2 ^ d
    bif roundsUp r neg k (m % 2 ^ d) d more then k + 1 else k

/-- What takes the place of a magnitude beyond the largest finite value, or of an infinity (R87); `sat` is e5m2 with
`.sat`. -/
def overflowF (f : Fmt) (r : Rnd) (neg isInf sat : Bool) : Nat :=
  match f.inf with
  | none => f.maxFin
  | some i =>
    if sat then f.maxFin
    else if isInf then i
    else match r.mode with
      | .rne | .sr => i
      | .rz => f.maxFin
      | .rup => bif neg then f.maxFin else i

/-- `round` of R36 on an exact magnitude m × 2^e, and a little more where `more`, to the pattern of a format (R86-R88).
-/
def roundMag (f : Fmt) (r : Rnd) (sat neg : Bool) (m : Nat) (e : Int) (more : Bool) : Nat :=
  let q := max f.emin ((Nat.log2 m : Int) + e - ((f.prec : Int) - 1))
  let k := if m = 0 then bif roundsUp r neg 0 0 0 more then 1 else 0 else roundStep r neg m e q more
  let q := if m = 0 then f.emin else q
  let mag := (q - f.emin).toNat * 2 ^ (f.prec - 1) + k
  signBit f neg + (if f.maxFin < mag then overflowF f r neg false sat else mag)

/-- `round` of R36 of a value, to a pattern (R79, R86-R88). -/
def roundF (f : Fmt) (r : Rnd) (sat : Bool) : FVal → Nat
  | .nan => f.nan
  | .inf neg => signBit f neg + overflowF f r neg true sat
  | .fin neg m e => roundMag f r sat neg m e false

/-- A value rounded to an integer under a mode (R86, R90), NaN and the infinities apart. -/
def roundToInt (r : Rnd) (neg : Bool) (m : Nat) (e : Int) : Int :=
  let k := roundStep r neg m e 0 false
  if neg then -(k : Int) else k

/-- The conversion of R90: rounded, then clamped to the range; NaN gives 0. -/
def toIntF (r : Rnd) (lo hi : Int) : FVal → Int
  | .nan => 0
  | .inf neg => if neg then lo else hi
  | .fin neg m e => clamp (roundToInt r neg m e) lo hi

/-- An integer as an exact value. -/
def ofInt (x : Int) : FVal := .fin (decide (x < 0)) x.natAbs 0

/-- The exact value of a signed magnitude at a power of two. -/
def signed (neg : Bool) (m : Nat) : Int := if neg then -(m : Int) else m

/-- Exact sum. The sign of a zero result: the common sign of two zeros of one sign, else + (R79). -/
def addF : FVal → FVal → FVal
  | .nan, _ => .nan
  | _, .nan => .nan
  | .inf a, .inf b => if a = b then .inf a else .nan
  | .inf a, .fin .. => .inf a
  | .fin .., .inf b => .inf b
  | .fin na ma ea, .fin nb mb eb =>
    let e := min ea eb
    let s := signed na (ma * 2 ^ (ea - e).toNat) + signed nb (mb * 2 ^ (eb - e).toNat)
    if s = 0 then .fin (na && nb && ma == 0 && mb == 0) 0 e else .fin (decide (s < 0)) s.natAbs e

/-- Exact product; infinity times zero is NaN (R182). -/
def mulF : FVal → FVal → FVal
  | .nan, _ => .nan
  | _, .nan => .nan
  | .inf a, .inf b => .inf (a != b)
  | .inf a, .fin nb mb _ => if mb = 0 then .nan else .inf (a != nb)
  | .fin na ma _, .inf b => if ma = 0 then .nan else .inf (na != b)
  | .fin na ma ea, .fin nb mb eb => .fin (na != nb) (ma * mb) (ea + eb)

/-- The negation of a value. -/
def negF : FVal → FVal
  | .nan => .nan
  | .inf a => .inf (!a)
  | .fin n m e => .fin (!n) m e

/-- Whether a value is not a number. -/
def FVal.isNan : FVal → Bool
  | .nan => true
  | _ => false

/-- The order of two values that are no NaN, −0 and +0 equal: less, equal or greater. -/
def compareF : FVal → FVal → Ordering
  | .inf a, .inf b => if a = b then .eq else if a then .lt else .gt
  | .inf a, _ => if a then .lt else .gt
  | _, .inf b => if b then .gt else .lt
  | .fin na ma ea, .fin nb mb eb =>
    let e := min ea eb
    compare (signed na (ma * 2 ^ (ea - e).toNat)) (signed nb (mb * 2 ^ (eb - e).toNat))
  | _, _ => .eq

/-- The sign of a value, as set by its sign bit. -/
def FVal.neg : FVal → Bool
  | .nan => false
  | .inf n => n
  | .fin n _ _ => n

/-- Whether `x` comes before `y` where −0 is below +0 (R183). -/
def ltSigned (x y : FVal) : Bool :=
  match compareF x y with
  | .lt => true
  | .gt => false
  | .eq => x.neg && !y.neg

/-! Block formats (R80-R84). -/

/-- A bare i4x code: its value, and whether it sets FX (R80). -/
def bareI4x (c : Nat) : Int × Bool := if c % 16 = 8 then (0, true) else (sx c 4, false)

/-- A value scaled by 2^n. -/
def scaleF (n : Int) : FVal → FVal
  | .fin s m e => .fin s m (e + n)
  | v => v

/-- Element `e` of a b4x block with header `h` whose nibbles are given by `nib`: its value, and whether it sets FX
(R82). -/
def decodeB4x (h : Nat) (nib : Nat → Nat) (e : Nat) : FVal × Bool :=
  let s : Int := ((h % 256 : Nat) : Int)
  let big : Int := (((h / 4096) % 16 : Nat) : Int)
  let c := nib e % 16
  if h % 256 = 255 then (.nan, false)
  else if e % 2 = 0 ∧ c = 8 then
    let o := nib (e + 1) % 16
    (.fin (o / 8 == 1) (8 + o % 8) (big - 7 - 3 + (s - 127)), false)
  else if e % 2 = 1 ∧ nib (e - 1) % 16 = 8 then (.fin false 0 0, false)
  else if c = 8 then (.fin false 0 0, true)
  else (scaleF (s - 127) (ofInt (sx c 4)), false)

/-- An element of a be4m3 block (R83). -/
def decodeBe4m3 (h v : Nat) : FVal :=
  if h % 256 = 255 then .nan else scaleF (((h % 256 : Nat) : Int) - 127) (decodeF fmtE4m3 v)

end Sys2Proof.Machine
end

