-- ==== Sys2Proof/Machine/Flags.lean ====
section
/-!
DEFINITION. Sys2Proof/Machine/Flags.lean: the flags and one-bit results the spec defines: conditions of comparisons, the
sticky flag FX, the class mask of FCLASS, the carry of ADDC, the trap flags of R129.
-/
namespace Sys2Proof.Machine

/-- The condition of CMP on integers (R180). -/
def cmpInt (c : Cmp) (x y : Int) : Bool :=
  match c with
  | .eq => decide (x = y)
  | .ne => decide (x ≠ y)
  | .lt => decide (x < y)
  | .le => decide (x ≤ y)
  | .gt => decide (y < x)
  | .ge => decide (y ≤ x)
  | .un => false
  | .ord => true

/-- The condition of FCMP (R185). -/
def cmpFloat (c : Cmp) (x y : FVal) : Bool :=
  if x.isNan || y.isNan then
    match c with
    | .ne | .un => true
    | .eq | .lt | .le | .gt | .ge | .ord => false
  else
    let o := compareF x y
    match c with
    | .eq => o == .eq
    | .ne => o != .eq
    | .lt => o == .lt
    | .le => o != .gt
    | .gt => o == .gt
    | .ge => o != .lt
    | .un => false
    | .ord => true

/-- A one-bit result as an element. -/
def flag (b : Bool) : Dword := bif b then 1 else 0

/-- The mask of FCLASS (R184). -/
def classMask (f : Fmt) (v : Nat) : Nat :=
  match decodeF f v with
  | .nan => 2 ^ 8
  | .inf neg => bif neg then 2 ^ 0 else 2 ^ 7
  | .fin neg m _ =>
    if m = 0 then bif neg then 2 ^ 3 else 2 ^ 4
    else if m < 2 ^ (f.prec - 1) then bif neg then 2 ^ 2 else 2 ^ 5
    else bif neg then 2 ^ 1 else 2 ^ 6

/-- NUMST with FX set where a firing decodes a marker that sets it (R80, R82, R85). -/
def setFx (numst : Dword) (fx : Bool) : Dword := bif fx then numst ||| 1 else numst

/-- The carry out of ADDC: the sum div 2^w (R179). -/
def carryOut (w : Nat) (s : Int) : Dword := BitVec.ofInt 64 (s / (2 ^ w : Nat))

/-- Whether a consumer field names no consumer (R51). -/
def isNone (c : Cons) : Bool := c == 0x1FF#9

/-- The target slot of a consumer field. -/
def consSlot (c : Cons) : Nat := field c 8 3

/-- The target port of a consumer field. -/
def consPort (c : Cons) : Nat := field c 2 1

/-- The ports and trap flags that the words of a block deliver to a slot: the union over its consumer fields (R129). -/
def gather (cs : List Cons) (slot : Nat) : Nat × Nat :=
  cs.foldl (fun (d, w) c =>
    bif isNone c || consSlot c != slot then (d, w)
    else (d ||| 2 ^ consPort c, bif c.getLsbD 0 then w ||| 2 ^ consPort c else w)) (0, 0)

end Sys2Proof.Machine
end

