-- ==== Sys2Proof/Machine/Ops.lean ====
section
/-!
DEFINITION. Sys2Proof/Machine/Ops.lean: the named operations over the fabric: runs and tags, operands and their arrival,
end of stream, taking a trap, and the combinators through which a form fires.
-/
namespace Sys2Proof.Machine

/-! ### Bytes -/

/-- The byte at an address; an unlisted address reads 0. -/
def readByte : Memory → Nat → Byte
  | [], _ => 0
  | (a, b) :: t, k => bif k == a then b else readByte t k

/-- The bytes with one written, in canonical form. -/
def writeByte : Memory → Nat → Byte → Memory
  | [], k, v => bif v == 0 then [] else [(k, v)]
  | (a, b) :: t, k, v =>
    bif k.blt a then (bif v == 0 then (a, b) :: t else (k, v) :: (a, b) :: t)
    else bif k == a then (bif v == 0 then t else (k, v) :: t)
    else (a, b) :: writeByte t k v

/-- The little-endian number in `n` bytes from an address (R75). -/
def readN (m : Memory) : (n a : Nat) → Nat
  | 0, _ => 0
  | n + 1, a => (readByte m a).toNat + 256 * readN m n (a + 1)

/-- The `n` low bytes of a number written from an address (R75). -/
def writeN (m : Memory) : (n a v : Nat) → Memory
  | 0, _, _ => m
  | n + 1, a, v => writeN (writeByte m a (BitVec.ofNat 8 v)) n (a + 1) (v / 256)

/-- The canonical form of a byte list: strictly rising addresses, no listed byte equal to an unlisted one. -/
def Memory.wf : Memory → Bool
  | [] => true
  | [(_, b)] => b != 0
  | (a, b) :: (a', b') :: t => b != 0 && a.blt a' && Memory.wf ((a', b') :: t)

/-! ### Domains, runs, tags (R36, R99) -/

/-- The number of iterations of a domain. -/
def domCount (bounds : List Nat) : Nat := bounds.foldl (· * ·) 1

/-- The innermost bound; 1 at rank 0. -/
def domInner (bounds : List Nat) : Nat := (bounds.getLast?).getD 1

/-- The runs of a row: Q of R99. -/
def runsPerRow (bounds : List Nat) : Nat := (domInner bounds + 31) / 32

/-- The number of runs of a domain. -/
def runCount (bounds : List Nat) : Nat :=
  bif domCount bounds == 0 then 0 else domCount bounds / domInner bounds * runsPerRow bounds

/-- The run ordinal of a tag. -/
def runOf (bounds : List Nat) (t : Nat) : Nat :=
  let n := domInner bounds
  t / n * runsPerRow bounds + t % n / 32

/-- The first tag of a run. -/
def runFirst (bounds : List Nat) (r : Nat) : Nat :=
  let q := runsPerRow bounds
  r / q * domInner bounds + r % q * 32

/-- The length of a run. -/
def runLen (bounds : List Nat) (r : Nat) : Nat := Nat.min 32 (domInner bounds - 32 * (r % runsPerRow bounds))

/-- The iteration vector of a tag, outermost index first. -/
def vectorOf (bounds : List Nat) (t : Nat) : List Nat :=
  (bounds.foldr (fun b (acc, q) => ((q % b) :: acc, q / b)) (([] : List Nat), t)).1

/-- The row-major ordinal of a vector over bounds. -/
def ordinalOf (bounds v : List Nat) : Nat := (bounds.zip v).foldl (fun acc (b, j) => acc * b + j) 0

/-! ### The parts of a plot -/

/-- The key of an operand of an instance. -/
def portKey (slot port : Nat) : Nat := 4 * slot + port

/-- The ports of a set, lowest first. -/
def portsOf (mask : Nat) : List Nat := [0, 1, 2, 3].filter mask.testBit

/-- The elements of a run of a length. -/
def elemsOf (len : Nat) : List Nat := List.range len

/-- A cell without blocks. -/
def Cell.empty : Cell :=
  { blocks := [], thread := { bidx := none, exited := false }, frame := [], acc := [], array := [], sseq := 0, sf := 0, hold := 0, pend := [] }

/-- Whether the matrix array of a cell is held, by a tile firing or by a record's reversal (R214, R243). -/
def Cell.arrayBusy (c : Cell) : Bool := c.hold != 0 || c.array.any (fun j => j.occ != 0)

/-- A change of one cell of a plot. -/
def onCell (p : Plot) (cell : Nat) (g : Cell → Cell) : Plot := { p with cells := Tab.upd p.cells cell g }

/-- A change of one block of a plot. -/
def onBlock (p : Plot) (cell bidx : Nat) (g : Block → Block) : Plot :=
  onCell p cell (fun c => { c with blocks := Tab.upd c.blocks bidx g })

/-- A change of one instance of a plot. -/
def onInst (p : Plot) (cell bidx frame : Nat) (g : Inst → Inst) : Plot :=
  onBlock p cell bidx (fun b => { b with insts := Tab.upd b.insts frame g })

/-- A block of a plot. -/
def blockAt? (p : Plot) (cell bidx : Nat) : Option Block :=
  match Tab.at? p.cells cell with
  | none => none
  | some c => Tab.at? c.blocks bidx

/-- A change of one plot. -/
def onPlot (s : State) (key : Nat) (g : Plot → Plot) : State := { s with plots := Tab.upd s.plots key g }

/-- What a firing can see: its plot, block and instance. -/
structure Ctx where
  f : Firing
  plot : Plot
  blk : Block
  inst : Inst
  deriving DecidableEq, Repr

/-- The context of a firing in a plot, where it is of the plot's round and its block and instance are there. -/
def ctxIn? (p : Plot) (f : Firing) : Option Ctx :=
  match bif f.round == p.round then blockAt? p f.cell f.bidx else none with
  | none => none
  | some b => match Tab.at? b.insts f.frame with
    | none => none
    | some i => some { f := f, plot := p, blk := b, inst := i }

/-- The context of a firing, where its plot, block and instance are there. -/
def ctxOf? (s : State) (f : Firing) : Option Ctx :=
  match Tab.at? s.plots f.plot with
  | none => none
  | some p => ctxIn? p f

/-- The word at the slot of a firing. -/
def Ctx.word (c : Ctx) : Word := (c.blk.words[c.f.slot]?).getD 0xFFFFFFFF

/-- Constant word kn; an absent entry is 0 (R47). -/
def Ctx.k (c : Ctx) (n : Nat) : Word := Tab.atD c.blk.k n 0

/-- The pair k[n+1] : k[n] as 64 bits. -/
def Ctx.k2 (c : Ctx) (n : Nat) : Dword := pair (c.k n) (c.k (n + 1))

/-- The operand at a port of the slot. -/
def Ctx.op? (c : Ctx) (port : Nat) : Option Operand := Tab.at? c.inst.ops (portKey c.f.slot port)

/-- An element at a port, where it is present. -/
def Ctx.elem? (c : Ctx) (port e : Nat) : Option Elem :=
  match c.op? port with
  | none => none
  | some o => Tab.at? o.elems e

/-- The value of an element at a port; 0 where it is absent or null. -/
def Ctx.val (c : Ctx) (port e : Nat) : Dword :=
  match c.elem? port e with
  | some (.val v) => v
  | _ => 0

/-- The kind of the operand at a port. -/
def Ctx.kind (c : Ctx) (port : Nat) : Kind :=
  match c.op? port with
  | some o => o.kind
  | none => .r32

/-- An operand element as 64 bits, a 32-bit kind zero-extended (R168). -/
def Ctx.wide (c : Ctx) (port e : Nat) : Dword := widen false (c.kind port) (c.val port e)

/-- An operand element as 32 bits (R168). -/
def Ctx.low (c : Ctx) (port e : Nat) : Word := lo32 (c.val port e)

/-- The ports the slot of a firing reads in its block. -/
def Ctx.reads (c : Ctx) : Nat := Tab.atD c.blk.reads c.f.slot 0

/-- Whether some consumer of the block delivers to a port that the slot reads. -/
def Ctx.fed (c : Ctx) (port : Nat) : Bool := c.reads.testBit port

/-- The tag of an element of the run. -/
def Ctx.tag (c : Ctx) (e : Nat) : Nat := c.inst.first + e

/-- The absolute site of a cell of a plot: its column and row. -/
def siteOf (p : Plot) (cell : Nat) : Nat × Nat := (p.x + cell % 64, p.y + cell / 64)

/-- The cycles from the issue of a send to the arrival of its token (R10, R108): its head is injected in the following cycle, each hop
takes a cycle, and the body follows. -/
def wayTime (p : Plot) (route flits : Nat) : Nat := 1 + ((Tab.at? p.routes route).map (fun (r : Route) => r.hops.length)).getD 0 + flits

/-! ### End of stream and resolution (R102, R116) -/

/-- The lowest EOS tag recorded on the ports a slot reads. -/
def eosOf (b : Block) (slot : Nat) : Option Nat :=
  (portsOf (Tab.atD b.reads slot 0)).foldl (fun m q =>
    match m, Tab.at? b.eos (portKey slot q) with
    | none, t => t
    | some x, none => some x
    | some x, some t => some (Nat.min x t)) none

/-- Whether every port a slot reads has recorded EOS, and it reads one. -/
def eosComplete (b : Block) (slot : Nat) : Bool :=
  let ps := portsOf (Tab.atD b.reads slot 0)
  !ps.isEmpty && ps.all (fun q => Tab.has b.eos (portKey slot q))

/-- Whether the word of a slot is ISEOS, which resolves the elements at and above an EOS by firing on them (R133). -/
def isIseos (b : Block) (slot : Nat) : Bool := field ((b.words[slot]?).getD 0) 31 24 == 0x0C

/-- Whether a tag lies below an EOS tag, or there is none. -/
def belowEos (t : Nat) : Option Nat → Bool
  | none => true
  | some x => t.blt x

/-- Whether a slot has resolved an element of an instance: by firing, or by an EOS at or below its tag (R102). -/
def resolved (b : Block) (i : Inst) (slot e : Nat) : Bool :=
  (Tab.atD i.done slot 0).getLsbD e || (!isIseos b slot && !belowEos (i.first + e) (eosOf b slot))

/-- Whether a port of an instance holds an element. -/
def holds (i : Inst) (slot port e : Nat) : Bool :=
  match Tab.at? i.ops (portKey slot port) with
  | none => false
  | some o => Tab.has o.elems e

/-- Whether every port of a set holds an element. -/
def holdsAll (i : Inst) (slot mask e : Nat) : Bool := (portsOf mask).all (fun q => holds i slot q e)

/-- The elements of an instance that a slot has neither resolved nor issued. -/
def waiting (b : Block) (i : Inst) (slot : Nat) : List Nat :=
  (elemsOf i.len).filter (fun e => !resolved b i slot e && !(Tab.atD i.issued slot 0).getLsbD e)

/-- The elements an element-wise form fires on (R105): not resolved, present on every port it reads; for ISEOS also
those at or above an EOS on a. Those that wait at the home of a name have been issued. -/
def readyElems (b : Block) (i : Inst) (slot : Nat) : List Nat :=
  (waiting b i slot).filter (fun e => !(Tab.atD i.held slot 0).getLsbD e &&
    (holdsAll i slot (Tab.atD b.reads slot 0) e || (isIseos b slot && !belowEos (i.first + e) (eosOf b slot))))

/-- The elements a form that fires once for its instance fires on: all it has not resolved, where all are present and none
is issued. -/
def readyWhole (b : Block) (i : Inst) (slot : Nat) : List Nat :=
  let es := waiting b i slot
  bif Tab.atD i.issued slot 0 == 0 && Tab.atD i.held slot 0 == 0 && es.all (holdsAll i slot (Tab.atD b.reads slot 0)) then es else []

/-- The elements of a slot that wait at the home of a name; having been issued they outlast an EOS. -/
def heldElems (i : Inst) (slot : Nat) : List Nat :=
  (elemsOf i.len).filter (fun e => (Tab.atD i.held slot 0).getLsbD e && !(Tab.atD i.done slot 0).getLsbD e)

/-- The elements that an element-wise form fires on, or is tried again on (R147, R148). -/
def todoElems (again : Bool) (b : Block) (i : Inst) (slot : Nat) : List Nat :=
  bif again then heldElems i slot else readyElems b i slot

/-- The elements that a form that fires once fires on, or is tried again on. -/
def todoWhole (again : Bool) (b : Block) (i : Inst) (slot : Nat) : List Nat :=
  bif again then heldElems i slot else readyWhole b i slot

/-- Whether an element is null on one of the ports the slot reads, or made null by a trap's resolution (R419). -/
def Ctx.null (c : Ctx) (e : Nat) : Bool :=
  (Tab.atD c.inst.nulls c.f.slot 0).getLsbD e || (portsOf c.reads).any (fun q => c.elem? q e == some .null)

/-- A 32-bit mask of elements. -/
def maskOf (es : List Nat) : Word := es.foldl (fun m e => m ||| BitVec.ofNat 32 (2 ^ e)) 0

/-! ### Taking a trap (R125-R127) -/

/-- The cause codes of R128. -/
def causeCode : Cause → Nat
  | .illop => 0x01 | .rsvfld => 0x02 | .feature => 0x03 | .stepping => 0x04 | .undecl => 0x05
  | .expired => 0x10 | .empty => 0x11 | .foldsize => 0x12 | .foldrange => 0x13
  | .access => 0x20 | .xlate => 0x21 | .align => 0x22 | .novictim => 0x23
  | .logfull => 0x30 | .logstate => 0x31 | .gdead => 0x40 | .gperm => 0x41 | .taskovf => 0x48
  | .noprog => 0x50 | .hedge => 0x51 | .rate => 0x52 | .priv => 0x60 | .sysreg => 0x61 | .cfgerr => 0x70
  | .software => 0xFF

/-- TCELL of R126 for a slot of a block of a cell. -/
def tcellOf (p : Plot) (cell bidx slot : Nat) : Dword :=
  let (x, y) := siteOf p cell
  dw (at_ slot 18 + at_ bidx 14 + at_ p.die 12 + at_ x 6 + y)

/-- The elements of a mask. -/
def elemsOfMask (m : Word) : List Nat := (List.range 32).filter m.getLsbD

/-- An issued firing undone, as a trap found later leaves it (R125): its elements fire again. -/
def unissue (p : Plot) (f : Firing) (es : List Nat) : Plot :=
  onInst p f.cell f.bidx f.frame (fun i => { i with issued := Tab.updD i.issued f.slot 0 (· &&& ~~~maskOf es) })

/-- The record in progress of a reversal abandoned: its REVERSE fires again, and goes on with the records not yet reversed (R245). -/
def abandonReverse (p : Plot) : Plot :=
  match p.rev with
  | none => p
  | some r =>
    let mask := match ctxIn? p r.firing with
      | some c => Tab.atD c.inst.issued r.firing.slot 0
      | none => 0
    unissue { p with rev := some { r with next := none, left := 0 }, cells := p.cells.map (fun (k, c) => (k, { c with hold := 0 })) }
      r.firing (elemsOfMask mask)

/-- Whether a TCELL word names a site before another's: the lowest (y, x) (R125). -/
def siteBefore (a b : Dword) : Bool := (64 * field a 5 0 + field a 11 6).blt (64 * field b 5 0 + field b 11 6)

/-- A plot takes a trap (R125-R127): the four trap registers are written, the record waits for the hub, and the plot
freezes; pc and status are not saved, since the trapping firing had no effect and fires again. A record in progress of a
reversal is abandoned (R245). A plot that has trapped keeps its first record, but for a trap of the same cycle at a lower (y, x). -/
def takeTrap (p : Plot) (cause : Cause) (tag : Nat) (info tcell : Dword) (entries : List Dword) : Plot :=
  let c := dw (causeCode cause)
  let t := dw (tag % 2 ^ 40)
  let write := fun (p : Plot) =>
    { p with frozen := true, trapNow := true, tcause := c, ttag := t, tinfo := info, tcell := tcell,
             trap := some { cause := c, tag := t, info := info, cell := tcell, entries := entries, seq := none } }
  match p.trap with
  | some r => bif p.trapNow && r.seq.isNone && siteBefore tcell r.cell then write p else p
  | none => write (abandonReverse p)

/-- The trap of a firing of a slot. -/
def trapFiring (s : State) (f : Firing) (cause : Cause) (tag : Nat) (info : Dword) : State :=
  onPlot s f.plot (fun p => takeTrap p cause tag info (tcellOf p f.cell f.bidx f.slot) [])

/-- TINFO of EMPTY and RATE (R126). -/
def infoPort (slot port why : Nat) : Dword := dw (at_ slot 58 + at_ port 56 + at_ why 52)

/-- TINFO of R63 for a field of a firing found wrong at run time (R467). -/
def infoField (b : Block) (slot op bitpos : Nat) : Dword :=
  dw (at_ slot 50 + at_ op 40 + at_ Config.stepping.toNat 28 + at_ b.step.toNat 24 + at_ bitpos 18)

/-- The opcode of the word at a firing. -/
def Ctx.opcode (c : Ctx) : Nat := field c.word 31 24

/-- Elements dropped at a port (R118, R119): counted, and RATE raised where RATETRAP.EN is 1. -/
def dropElems (p : Plot) (cell bidx slot port tag count why : Nat) : Plot :=
  bif count == 0 then p else
  let p := onBlock p cell bidx (fun b =>
    { b with mism := Tab.updD b.mism slot 0 (fun n => Nat.min 0xFFFF (n + count)) })
  bif p.ratetrap.getLsbD 0 then takeTrap p .rate tag (infoPort slot port why) (tcellOf p cell bidx slot) [] else p

/-! ### Arrival of operand elements (R104, R107) -/

/-- Elements stored at a port of an operand table: the table, and the elements already present there. The kind must be
that of the operand. Port p keeps one bit for each element. -/
def storeElems (ops : Tab Operand) (key : Nat) (kind : Kind) (isP : Bool) (es : Tab Elem) : Tab Operand × List Nat :=
  let o := Tab.atD ops key { kind := kind, elems := [] }
  let bitOf := fun x : Elem => match x with
    | .val v => bif isP then .val (flag (v != 0)) else Elem.val v
    | .null => .null
  let (elems, dup) := es.foldl (fun (t, d) (e, x) =>
    bif Tab.has t e then (t, d ++ [e]) else (Tab.set t e (bitOf x), d)) (o.elems, ([] : List Nat))
  (Tab.set ops key { o with elems := elems }, dup)

/-- The element table that a token brings to a run: where it is to fill, as a scalar does, every element (R105). Elements beyond the end of
the run are discarded, and not counted (notes/assumptions/63.md). -/
def fillRun (fill : Bool) (tag first len : Nat) (es : Tab Elem) : Tab Elem :=
  bif fill then
    let v := (es.find? (fun (_, x) => x != .null)).map (·.2) |>.getD .null
    (elemsOf len).map (fun e => (e, bif es.any (fun (i, x) => tag + i == first + e && x == .null) then Elem.null else v))
  else (es.map (fun (i, x) => (tag + i - first, x))).filter (fun (e, _) => e.blt len)

/-- The key of an early operand of a block. -/
def earlyKey (run slot port : Nat) : Nat := 256 * run + portKey slot port

/-- Data that comes to a port, sorted as R107 gives: stored in its instance or as an early entry, or dropped and counted. `es` holds its
elements by offset from `tag`, which fill the run where `fill` is set. -/
def arriveAs (fill : Bool) (p : Plot) (cell bidx slot port : Nat) (kind : Kind) (tag : Nat) (es : Tab Elem) : Plot :=
  match blockAt? p cell bidx with
  | none => p
  | some b =>
    bif es.isEmpty then p
    else bif (domCount b.bounds).ble tag then dropElems p cell bidx slot port tag es.length 1
    else
      let m := runOf b.bounds tag
      let first := runFirst b.bounds m
      let full := fillRun fill tag first (runLen b.bounds m) es
      let eos := eosOf b slot
      let late := full.filter (fun (e, _) => !belowEos (first + e) eos)
      let ok := full.filter (fun (e, _) => belowEos (first + e) eos)
      let p := bif isIseos b slot then p
        else dropElems p cell bidx slot port (first + ((late.head?).map (·.1)).getD 0) late.length 2
      bif ok.isEmpty then p
      else
        let frame := m % b.frames
        let live := match Tab.at? b.insts frame with
          | some i => i.run == m
          | none => false
        bif !live && m.blt b.next then dropElems p cell bidx slot port tag ok.length 0
        else
          let key := portKey slot port
          let old := bif live then (Tab.at? b.insts frame).bind (fun i => Tab.at? i.ops key)
            else Tab.at? b.early (earlyKey m slot port)
          let sameKind := match old with
            | some o => o.kind == kind
            | none => true
          bif !sameKind then dropElems p cell bidx slot port tag ok.length 3
          else bif live then
            let dup := match Tab.at? b.insts frame with
              | some i => (storeElems i.ops key kind (port == 3) ok).2
              | none => []
            let p := onInst p cell bidx frame (fun i => { i with ops := (storeElems i.ops key kind (port == 3) ok).1 })
            dropElems p cell bidx slot port (first + (dup.head?).getD 0) dup.length 4
          else
            let r := storeElems b.early (earlyKey m slot port) kind (port == 3) ok
            let p := onBlock p cell bidx (fun b => { b with early := r.1 })
            dropElems p cell bidx slot port (first + (r.2.head?).getD 0) r.2.length 4

/-- A token that carries data arrives at a port (R105, R107). -/
def arrive (p : Plot) (cell bidx slot port : Nat) (kind : Kind) (tag : Nat) (es : Tab Elem) : Plot :=
  arriveAs kind.scalar p cell bidx slot port kind tag es

/-- The elements of a slot of an instance that an EOS at a tag makes the slot drop (R116): those at or above it that have neither fired
nor been issued. -/
def overdue (b : Block) (i : Inst) (slot t : Nat) : List Nat :=
  (waiting b i slot).filter (fun e => t.ble (i.first + e) && !(Tab.atD i.held slot 0).getLsbD e)

/-- An operand without the elements of a list. -/
def Operand.without (o : Operand) (es : List Nat) : Operand := { o with elems := o.elems.filter (fun (e, _) => !es.contains e) }

/-- The waiting elements of a slot at or above an EOS, in its instances and its early entries: where each begins, and how many wait at
each port. The first of them, by frame and then by port, is the one that RATE names, which is the model's choice
(notes/assumptions/63.md). -/
def dropsOf (b : Block) (slot t : Nat) : List (Nat × Nat × Nat) :=
  b.insts.flatMap (fun (_, i) => [0, 1, 2, 3].map (fun q =>
    let gone := (overdue b i slot t).filter (holds i slot q)
    (q, i.first + (gone.head?).getD 0, gone.length))) ++
  b.early.filterMap (fun (k, o) =>
    let first := runFirst b.bounds (k / 256)
    let gone := o.elems.filter (fun (e, _) => t.ble (first + e))
    bif k % 256 / 4 == slot then some (k % 4, first + ((gone.head?).map (·.1)).getD 0, gone.length) else none)

/-- A block without the waiting elements of a slot at or above an EOS. -/
def cutAbove (slot t : Nat) (b : Block) : Block :=
  { b with
    insts := b.insts.map (fun (n, i) =>
      let gone := overdue b i slot t
      (n, { i with ops := i.ops.map (fun (k, o) => (k, bif k / 4 == slot then o.without gone else o)) })),
    early := b.early.map (fun (k, o) => (k, bif k % 256 / 4 == slot then
      { o with elems := o.elems.filter (fun (e, _) => !t.ble (runFirst b.bounds (k / 256) + e)) } else o)) }

/-- An EOS recorded at a port (R116): the register keeps the lower tag; elements waiting at or above it, on any port of the slot, are
dropped and counted. -/
def recordEos (p : Plot) (cell bidx slot port tag : Nat) : Plot :=
  match blockAt? p cell bidx with
  | none => p
  | some b =>
    let key := portKey slot port
    let t := match Tab.at? b.eos key with
      | none => tag
      | some old => Nat.min old tag
    let set := fun b : Block => { b with eos := Tab.set b.eos key t }
    bif isIseos b slot then onBlock p cell bidx set
    else (dropsOf b slot t).foldl (fun p (q, first, n) => dropElems p cell bidx slot q first n 2)
      (onBlock p cell bidx (fun b => set (cutAbove slot t b)))

/-! ### Emission and firing -/

/-- One result to both consumers. -/
def both (c1 c0 : Cons) (kind : Kind) (es : Tab Elem) : List Emit :=
  [{ cons := c0, kind := kind, elems := es }, { cons := c1, kind := kind, elems := es }]

/-- One result to both consumers, each element of which stands for itself. -/
def bothEach (c1 c0 : Cons) (kind : Kind) (es : Tab Elem) : List Emit :=
  [{ cons := c0, kind := kind, elems := es, each := true }, { cons := c1, kind := kind, elems := es, each := true }]

/-- A scalar to both consumers. -/
def scalarOut (c1 c0 : Cons) (kind : Kind) (v : Dword) : List Emit := both c1 c0 kind [(0, .val v)]

/-- A result delivered to a consumer of the same block, with the tags of a run that starts at `first`. -/
def deliver (p : Plot) (cell bidx first : Nat) (o : Emit) : Plot :=
  bif isNone o.cons then p
  else arriveAs (o.kind.scalar && !o.each) p cell bidx (consSlot o.cons) (consPort o.cons) o.kind first o.elems

/-- Results delivered to their consumers, C0 before C1. -/
def deliverAll (p : Plot) (cell bidx first : Nat) (out : List Emit) : Plot := out.foldl (fun p o => deliver p cell bidx first o) p

/-- Results sent: they reach their consumers `lat` cycles after issue (R10, R108). -/
def send (p : Plot) (cell bidx first lat : Nat) (out : List Emit) : Plot :=
  bif lat == 0 then deliverAll p cell bidx first out
  else bif out.all (fun o => isNone o.cons) then p
  else onCell p cell (fun c => { c with pend := c.pend ++ [{ left := lat, bidx := bidx, first := first, out := out }] })

/-- Elements resolved by a firing. -/
def markDone (p : Plot) (f : Firing) (es : List Nat) : Plot :=
  onInst p f.cell f.bidx f.frame (fun i =>
    { i with done := Tab.updD i.done f.slot 0 (· ||| maskOf es), issued := Tab.updD i.issued f.slot 0 (· &&& ~~~maskOf es),
             held := Tab.updD i.held f.slot 0 (· &&& ~~~maskOf es) })

/-- Elements of a firing that is issued and waits for its result. -/
def markIssued (p : Plot) (f : Firing) (es : List Nat) : Plot :=
  onInst p f.cell f.bidx f.frame (fun i =>
    { i with issued := Tab.updD i.issued f.slot 0 (· ||| maskOf es), held := Tab.updD i.held f.slot 0 (· &&& ~~~maskOf es) })

/-- Elements of a firing that wait at the home of a name (R147). -/
def markHeld (p : Plot) (f : Firing) (es : List Nat) : Plot :=
  onInst p f.cell f.bidx f.frame (fun i => { i with held := Tab.updD i.held f.slot 0 (· ||| maskOf es) })

/-- Whether a REC firing of a slot of an instance is to take effect (R248). -/
def recWaits (p : Plot) (cell bidx frame slot : Nat) : Bool :=
  p.recQ.any (fun (_, f) => f.cell == cell && f.bidx == bidx && f.frame == frame && f.slot == slot)

/-- Every firing of a plot that waits at a home fires again, as a freeze leaves it (R125); a REC that is to take effect stands. -/
def reissue (p : Plot) : Plot :=
  { p with cells := p.cells.map (fun (k, c) => (k, { c with blocks := c.blocks.map (fun (n, b) =>
      (n, { b with insts := b.insts.map (fun (m, i) => (m, { i with held := i.held.filter (fun (x, _) => recWaits p k n m x) })) })) })) }

/-- The end of a firing in its plot: its elements are resolved and its results sent. -/
def completeIn (c : Ctx) (lat : Nat) (es : List Nat) (out : List Emit) (p : Plot) : Plot :=
  send (markDone p c.f es) c.f.cell c.f.bidx c.inst.first lat out

/-- The end of a firing, its results delivered `lat` cycles later. -/
def complete (s : State) (c : Ctx) (lat : Nat) (es : List Nat) (out : List Emit) : State := onPlot s c.f.plot (completeIn c lat es out)

/-- The second consumer of the word at a firing. -/
def Ctx.c1 (c : Ctx) : Cons := c.word.extractLsb' 9 9

/-- The first consumer of the word at a firing. -/
def Ctx.c0 (c : Ctx) : Cons := c.word.extractLsb' 0 9

/-- The end of an issued firing of a form that fires once, in its plot: what it issued on is resolved, and its results
delivered. -/
def finishIn (f : Firing) (out : Ctx → List Emit) (p : Plot) : Plot :=
  match ctxIn? p f with
  | none => p
  | some c => completeIn c 0 (elemsOfMask (Tab.atD c.inst.issued f.slot 0)) (out c) p

/-- The end of an issued firing of a form that fires once. -/
def finishOnce (s : State) (f : Firing) (out : Ctx → List Emit) : State := onPlot s f.plot (finishIn f out)

/-- The end of an issued firing whose result is a scalar. -/
def finishScalar (s : State) (f : Firing) (kind : Kind) (v : Dword) : State :=
  finishOnce s f (fun c => scalarOut c.c1 c.c0 kind v)

/-- A trap found in an issued firing of a form that fires once. -/
def trapOnce (s : State) (f : Firing) (cause : Cause) (info : Dword) : State :=
  match ctxOf? s f with
  | none => s
  | some c =>
    let es := elemsOfMask (Tab.atD c.inst.issued f.slot 0)
    onPlot s f.plot (fun p => takeTrap (unissue p f es) cause (c.tag ((es.head?).getD 0)) info
      (tcellOf p f.cell f.bidx f.slot) [])

/-- A firing that waits with no visible effect (R34, R130). -/
def stallFiring (s : State) : State := { s with stalled := s.cur :: s.stalled }

/-- What the body of a form that fires once answers: its effect and what it emits, delivered 2 cycles after issue, or after a time of
its own; its effect, with the emission to come; a wait at the home of a name; a wait; a trap; a trap that a counter of the hub has
counted; a configuration that has failed, with the cell of R63. -/
inductive Res where
  | done (s : State) (out : List Emit)
  | doneIn (lat : Nat) (s : State) (out : List Emit)
  | issued (s : State)
  | hold (s : State)
  | stall (s : State)
  | trap (cause : Cause) (tag : Nat) (info : Dword)
  | counted (s : State) (cause : Cause) (tag : Nat) (info : Dword)
  | loadFailed (s : State) (cause : Cause) (info cell : Dword)
  deriving DecidableEq, Repr

/-- What the body of an element-wise form that acts on the machine answers for one element: the state, and the result
where the form has one; the state, with a null result; the state, with the result to come; a wait at the home of a name; a wait; a
trap. -/
inductive ElemRes where
  | done (s : State) (v : Option Dword)
  | null (s : State)
  | issued (s : State)
  | hold (s : State)
  | wait (s : State)
  | trap (cause : Cause) (tag : Nat) (info : Dword)
  deriving DecidableEq, Repr

/-- A null result: of a run, an element for each element fired on; of a scalar, one that fills the port. -/
def nullOut (c1 c0 : Cons) (kind : Kind) (es : List Nat) : List Emit := both c1 c0 kind (es.map (fun e => (e, Elem.null)))

/-- The firing of a form that fires once for its instance (R105): on the lowest element that is not null in any operand;
all null, it delivers null and has no other effect. TTAG of its trap is the tag of the instance, the first of its run. -/
def fireOnce (s : State) (c1 c0 : Cons) (kind : Kind) (body : Ctx → Nat → Res) : Outcome :=
  match ctxOf? s s.cur with
  | none => .fault .noFiring
  | some c =>
    match todoWhole s.again c.blk c.inst c.f.slot with
    | [] => .next s
    | es =>
      match es.find? (fun e => !c.null e) with
      | none => .next (complete s c 2 es (nullOut c1 c0 kind es))
      | some e =>
        match body c e with
        | .done s' out => .next (complete s' c 2 es out)
        | .doneIn lat s' out => .next (complete s' c lat es out)
        | .issued s' => .next (onPlot s' c.f.plot (fun p => markIssued p c.f es))
        | .hold s' => .next (onPlot s' c.f.plot (fun p => markHeld p c.f es))
        | .stall s' => .next (stallFiring s')
        | .trap cause _ info => .next (trapFiring s c.f cause c.inst.first info)
        | .counted s' cause _ info => .next (trapFiring s' c.f cause c.inst.first info)
        | .loadFailed s' cause info cell => .next (onPlot s' c.f.plot (fun p => takeTrap p cause 0 info cell []))

/-- The time of a lane form (R170): cycles from issue to delivery, and for a form of the special-function unit how many elements the
unit takes in a cycle; 0 for the others. -/
structure Lat where
  base : Nat
  per : Nat
  deriving DecidableEq, Repr

/-- Delivery 2 or 4 cycles after issue. -/
def lat2 : Lat := ⟨2, 0⟩
def lat4 : Lat := ⟨4, 0⟩

/-- The cycles that a firing of `n` elements keeps the special-function unit busy (R170). -/
def Lat.busy (u : Lat) (n : Nat) : Nat := bif u.per == 0 then 0 else (n + u.per - 1) / u.per

/-- The cycles from issue to delivery of a firing of `n` elements (R170). -/
def Lat.cycles (u : Lat) (n : Nat) : Nat := u.base + (u.busy n - 1)

/-- The special-function unit of a cell taken by a firing of `n` elements. -/
def takeUnit (s : State) (c : Ctx) (u : Lat) (n : Nat) : State :=
  bif u.per == 0 then s else onPlot s c.f.plot (fun p => onCell p c.f.cell (fun k => { k with sf := u.busy n }))

/-- The firing of an element-wise form whose results depend on its operands alone: `body` gives what the elements fired
on emit. At most `lim` elements fire (R168). -/
def fireLanes (s : State) (u : Lat) (lim : Nat) (body : Ctx → List Nat → List Emit) : Outcome :=
  match ctxOf? s s.cur with
  | none => .fault .noFiring
  | some c =>
    match (readyElems c.blk c.inst c.f.slot).take lim with
    | [] => .next s
    | es => .next (takeUnit (complete s c (u.cycles es.length) es (body c es)) c u es.length)

/-- The results of elements: null where an operand is null (R105). -/
def mapElems (c : Ctx) (es : List Nat) (f : Nat → Dword) : Tab Elem :=
  es.map (fun e => (e, bif c.null e then Elem.null else .val (f e)))

/-- The firing of an element-wise form with one result for each element, sent to both consumers. -/
def fireMap (s : State) (u : Lat) (lim : Nat) (c1 c0 : Cons) (wide : Bool) (f : Ctx → Nat → Dword) : Outcome :=
  fireLanes s u lim (fun c es => both c1 c0 (runKind wide) (mapElems c es (f c)))

/-- One element of `fireEach`: state, elements resolved, elements issued, elements that wait at a home, results, a trap met. -/
structure Step1 where
  s : State
  done : List Nat
  sent : List Nat
  held : List Nat
  out : Tab Elem
  trap : Option (Cause × Nat × Dword)
  deriving DecidableEq, Repr

/-- One element of the firing `c` taken after those before it. -/
def eachElem (c : Ctx) (body : State → Ctx → Nat → ElemRes) (r : Step1) (e : Nat) : Step1 :=
  match r.trap with
  | some _ => r
  | none =>
    bif c.null e then { r with done := r.done ++ [e], out := r.out ++ [(e, .null)] }
    else match body r.s c e with
      | .done s' v => { r with s := s', done := r.done ++ [e], out := match v with
          | some v => r.out ++ [(e, .val v)]
          | none => r.out }
      | .null s' => { r with s := s', done := r.done ++ [e], out := r.out ++ [(e, .null)] }
      | .issued s' => { r with s := s', sent := r.sent ++ [e] }
      | .hold s' => { r with s := s', held := r.held ++ [e] }
      | .wait s' => { r with s := s' }
      | .trap cause tag info => { r with trap := some (cause, tag, info) }

/-- What a firing leaves behind in its plot for the elements that it has issued, held and resolved. -/
def eachDone (c : Ctx) (lat : Nat) (c1 c0 : Cons) (kind : Kind) (r : Step1) : State :=
  let s0 := bif r.sent.isEmpty then r.s else onPlot r.s c.f.plot (fun p => markIssued p c.f r.sent)
  let s0 := bif r.held.isEmpty then s0 else onPlot s0 c.f.plot (fun p => markHeld p c.f r.held)
  bif r.done.isEmpty then s0 else complete s0 c lat r.done (both c1 c0 kind r.out)

/-- The elements of a firing taken in ascending order: a waiting element holds back none above it, a trap ends them. -/
def eachOf (s : State) (c : Ctx) (body : State → Ctx → Nat → ElemRes) (es : List Nat) : Step1 :=
  es.foldl (eachElem c body) { s := s, done := [], sent := [], held := [], out := [], trap := none }

/-- The elements of a firing that act now: of a form on names, those that are offered to their homes (R141). -/
def offered (own : Bool) (s : State) (es : List Nat) : List Nat := bif own then es.filter s.among.getLsbD else es

/-- The firing of an element-wise form that acts on the machine. `kind` is the kind of the results, `lat` the cycles to their delivery;
`own` marks a form on names, each element of which is a firing of its own (R148): a trap leaves the elements before it resolved, where
the trapping firing of any other form has no effect at all (R35, R125). -/
def fireElems (own : Bool) (s : State) (lat : Nat) (c1 c0 : Cons) (kind : Kind) (body : State → Ctx → Nat → ElemRes) : Outcome :=
  match ctxOf? s s.cur with
  | none => .fault .noFiring
  | some c =>
    match offered own s (todoElems s.again c.blk c.inst c.f.slot) with
    | [] => .next s
    | es =>
      let r := eachOf s c body es
      let s1 := eachDone c lat c1 c0 kind r
      match r.trap with
      | some (cause, tag, info) => .next (trapFiring (bif own then s1 else s) c.f cause tag info)
      | none => .next (bif r.done.isEmpty && r.sent.isEmpty && r.held.isEmpty then stallFiring s1 else s1)

/-- The firing of an element-wise form that acts on the machine. -/
def fireEach (s : State) (lat : Nat) (c1 c0 : Cons) (kind : Kind) (body : State → Ctx → Nat → ElemRes) : Outcome :=
  fireElems false s lat c1 c0 kind body

/-- The firing of an element-wise form on a name (R148). -/
def fireNames (s : State) (lat : Nat) (c1 c0 : Cons) (kind : Kind) (body : State → Ctx → Nat → ElemRes) : Outcome :=
  fireElems true s lat c1 c0 kind body

end Sys2Proof.Machine
end

