-- ==== Sys2Proof/Machine/Mem.lean ====
section
/-!
DEFINITION. Sys2Proof/Machine/Mem.lean: device memory behind the P-cells: physical addresses, scale maps, the slice hash,
the tagged lines of the L2 slices, and the reads and writes of lines that every unit of the memory path performs (R264,
R265, R291-R302).
-/
namespace Sys2Proof.Machine

/-! ### Lookups -/

/-- A virtual interface; one that nothing has changed is at reset. -/
def viOf (s : State) (v : Nat) : Vi := Tab.atD s.vis v Vi.reset

/-- A change of a virtual interface. -/
def onVi (s : State) (v : Nat) (g : Vi → Vi) : State := { s with vis := Tab.updD s.vis v Vi.reset g }

/-- A P-cell. -/
def portOf (s : State) (p : Nat) : PCell := Tab.atD s.pcells p PCell.reset

/-- A change of a P-cell. -/
def onPort (s : State) (p : Nat) (g : PCell → PCell) : State := { s with pcells := Tab.updD s.pcells p PCell.reset g }

/-- A slice. -/
def sliceOf (s : State) (n : Nat) : Slice := Tab.atD s.slices n Slice.reset

/-- A change of a slice. -/
def onSlice (s : State) (n : Nat) (g : Slice → Slice) : State := { s with slices := Tab.updD s.slices n Slice.reset g }

/-- The next free draw: the counter, and the state with it advanced (notes/assumptions/5.md). -/
def draw (s : State) : Nat × State := (s.ctr, { s with ctr := s.ctr + 1 })

/-- A toll counter of a VI raised (R432): counters only rise. -/
def addToll (s : State) (v i n : Nat) : State :=
  onVi s v (fun vi => { vi with tolls := Tab.updD vi.tolls i 0 (· + dw n) })

/-! ### Physical addresses (R264, R462, R463) -/

/-- The module that a physical address names. -/
def paModule (pa : Nat) : Nat := pa / 2 ^ 46 % 64

/-- Whether SPANID.VALID is 1. -/
def spanValid (s : State) : Bool := s.spanid.getLsbD 15

/-- Whether a physical address names another module of a configured domain. -/
def paRemote (s : State) (pa : Nat) : Bool := paModule pa != field s.spanid 5 0 && spanValid s

/-- Whether a physical address is reserved or unpopulated (R264): HBM holds 2^40 bytes, each CXL link what bring-up found.
-/
def paReserved (s : State) (pa : Nat) : Bool :=
  let o := pa % 2 ^ 46
  let m := paModule pa
  let own := m == field s.spanid 5 0
  bif !own && !(paRemote s pa && m.ble (field s.spanid 13 8)) then true
  else bif o.blt (2 ^ 40) then false
  else bif o.blt (2 ^ 42) then true
  else bif o.blt (2 ^ 42 + 2 ^ 41) then (bif own then s.cxl0 else Config.remoteCxl (2 * m)).ble (o - 2 ^ 42)
  else bif o.blt (2 ^ 43) then (bif own then s.cxl1 else Config.remoteCxl (2 * m + 1)).ble (o - (2 ^ 42 + 2 ^ 41))
  else true

/-! ### What moves on the ring (R4, R5, R432, R433) -/

/-- The compute die of a P-cell; the Reeve's port and the hub are on none. -/
def dieOf? (port : Nat) : Option Nat := bif port.blt 384 then some (port / 96) else none

/-- The compute die whose stack holds a line of this module's HBM; the CXL tier is reached from the hub. -/
def stackDie? (line : Nat) : Option Nat := bif (128 * line % 2 ^ 46).blt (2 ^ 40) then some (Config.stack (128 * line) / 4 % 4) else none

/-- The ring boundaries between two dies: the ring runs 0-1-2-3-0 (R4). Traffic of the hub crosses none: it goes by the die's own link. -/
def ringHops : Option Nat → Option Nat → Nat
  | some a, some b => Nat.min ((a + 4 - b) % 4) ((b + 4 - a) % 4)
  | _, _ => 0

/-- Bytes carried for a VI between two dies, on each ring boundary (R432). -/
def carry (s : State) (v n : Nat) (a b : Option Nat) : State := addToll s v 7 (n * ringHops a b)

/-- A line moved for a VI between memory and the die of a slice or of a requester (R433), which takes or gives `n` bytes of it; those of
another module go by the span links and move no line of this module's memory (R463). -/
def chargeLine (s : State) (v line n : Nat) (die : Option Nat) : State :=
  bif paRemote s (128 * line) then addToll s v 7 n
  else carry (addToll s v 5 128) v n die (stackDie? line)

/-! ### Lines and side words -/

/-- The 128 bytes of a line of memory. -/
def memLine (m : Memory) (line : Nat) : Line := BitVec.ofNat 1024 (readN m 128 (128 * line))

/-- A byte of a line. -/
def lineByte (d : Line) (o : Nat) : Byte := d.extractLsb' (8 * o) 8

/-- The mask of the bits of `n` bytes from an offset, over a line. -/
def byteMask (mask : BitVec 128) : Line :=
  (List.range 128).foldl (fun (m : Line) o => bif mask.getLsbD o then m ||| (0xFF#1024 <<< (8 * o)) else m) 0

/-- A line with the masked bytes of another. -/
def mergeLine (old new : Line) (mask : BitVec 128) : Line :=
  bif mask == BitVec.allOnes 128 then new
  else let m := byteMask mask; (old &&& ~~~m) ||| (new &&& m)

/-- Memory with the masked bytes of a line written. -/
def setMemLine (m : Memory) (line : Nat) (d : Line) (mask : BitVec 128) : Memory :=
  (List.range 128).foldl (fun m o => bif mask.getLsbD o then writeByte m (128 * line + o) (lineByte d o) else m) m

/-- The mask of `n` bytes from an offset. -/
def maskAt (o n : Nat) : BitVec 128 := BitVec.ofNat 128 ((2 ^ n - 1) * 2 ^ o)

/-- The scale map that covers a physical address (R265): its format bit and the address of the header of the address's
half-line. SMAPA and SMAPB of map i of controller c of die d stand at 2 × (16 × (4 d + c) + i) and the next key; a map covers its own
stack only. -/
def scaleMap? (s : State) (pa : Nat) : Option (Bool × Nat) :=
  s.smap.findSome? (fun (k, a) =>
    bif k % 2 == 0 && a.getLsbD 63 then
      let base := field a 51 16 * 2 ^ 16
      let size := (field a 15 0 + 1) * 2 ^ 16
      let b := Tab.atD s.smap (k + 1) 0
      bif base.ble pa && pa.blt (base + size) && Config.stack pa % 16 == k / 32 then some (a.getLsbD 62, field b 51 6 * 64 + (pa - base) / 64 * 2) else none
    else none)

/-- The side word that a fill of a line gives (R265). -/
def sideFill (s : State) (line : Nat) : Word :=
  match scaleMap? s (128 * line) with
  | none => 0
  | some (be, h) => BitVec.ofNat 32 (bif be then readN s.mem 2 h else readN s.mem 4 h)

/-- Memory after a write-back of a side word (R265). -/
def sideStore (s : State) (line : Nat) (side : Word) : Memory :=
  match scaleMap? s (128 * line) with
  | none => s.mem
  | some (be, h) => bif be then writeN s.mem 2 h side.toNat else writeN s.mem 4 h side.toNat

/-- A line written to memory, with its side word where it brings one; a line written whole is no longer poisoned (R430).
-/
def storeMem (s : State) (line : Nat) (d : Line) (mask : BitVec 128) (side : Option Word) : State :=
  let s := { s with mem := setMemLine s.mem line d mask,
                    poison := bif mask == BitVec.allOnes 128 then s.poison.filter (· != line) else s.poison }
  match side with
  | none => s
  | some w => { s with mem := sideStore s line w }

/-! ### The slice hash (R294-R297) -/

/-- Parity of the bits of a number. -/
def parity (n : Nat) : Bool := ((List.range 64).filter n.testBit).length % 2 == 1

/-- PARTCFG of a partition. -/
def partOf (s : State) (p : Nat) : Dword := Tab.atD s.partcfg p 0

/-- The partition of a VI, where it is in one (R294). -/
def viPart? (s : State) (v : Nat) : Option Nat :=
  let d := (viOf s v).vdom
  bif d.getLsbD 6 then none else some (field d 5 0)

/-- The home slice of a physical address of this module for a partition (R295). -/
def homeIn (s : State) (p pa : Nat) : Nat :=
  let cfg := partOf s p
  (List.range (field cfg 53 51)).foldl (fun h k =>
    bif parity (pa &&& (Tab.atD s.hmask (8 * p + k) 0).toNat) then h + 2 ^ k else h) (field cfg 50 45)

/-- The home slice of a request, none where it bypasses L2 (R297). -/
def homeSlice? (s : State) (v pa : Nat) : Option Nat :=
  bif paRemote s pa then none
  else match viPart? s v with
    | none => none
    | some p => some (homeIn s p pa)

/-- The queue that takes the requests that no slice of this module is home to: those that bypass L2 (R297, R301). -/
def bypassQueue : Nat := 64

/-- The partition that a slice belongs to. -/
def slicePart? (s : State) (n : Nat) : Option Nat :=
  (s.partcfg.find? (fun (_, w) => w.getLsbD 63 && (field w 50 45).ble n && n.blt (field w 50 45 + 2 ^ field w 53 51))).map (·.1)

/-- Whether writes at a slice go through to memory: its partition is quiesced (R308). -/
def sliceQuiet (s : State) (n : Nat) : Bool :=
  match slicePart? s n with
  | none => true
  | some p => (partOf s p).getLsbD 62

/-- Whether the partition of a VI is quiesced, so that writes go through to memory (R308). -/
def viQuiesced (s : State) (v : Nat) : Bool :=
  match viPart? s v with
  | none => false
  | some p => (partOf s p).getLsbD 62

/-! ### Tagged lines (R291, R298-R300) -/

/-- The keys of the ways of a line's set. -/
def setKeys (line : Nat) : List Nat := (List.range 16).map (fun w => 16 * (line % 4096) + w)

/-- The way that holds a line for a VI: a line is hit only by the VI that filled it (R298). -/
def findLine? (sl : Slice) (v line : Nat) : Option (Nat × L2Line) :=
  (setKeys line).findSome? (fun k => match Tab.at? sl.lines k with
    | some l => bif l.line == line && l.vi == v then some (k, l) else none
    | none => none)

/-- The way that a miss of a VI allocates (R298): a free way of its mask, else the least recently used one. -/
def victimWay? (sl : Slice) (wmask : BitVec 16) (line : Nat) : Option Nat :=
  let ws := (setKeys line).filter (fun k => wmask.getLsbD (k % 16))
  match ws.find? (fun k => !Tab.has sl.lines k) with
  | some k => some k
  | none => ws.foldl (fun best k =>
      match best with
      | none => some k
      | some b =>
        let used := fun k => ((Tab.at? sl.lines k).map (·.used)).getD 0
        bif (used k).blt (used b) then some k else some b) none

/-- The die of a slice (R11). -/
def sliceDie (n : Nat) : Option Nat := some (n / 16)

/-- A dirty line of a slice written back to its memory; a clean one changes nothing. -/
def writeBack (s : State) (n : Nat) (l : L2Line) : State :=
  bif l.dirty then
    let s := chargeLine (storeMem s l.line l.data (BitVec.allOnes 128) (some l.side)) l.vi l.line 128 (sliceDie n)
    bif l.poison then { s with poison := l.line :: s.poison } else s
  else s

/-- The mask of ways a VI allocates in. -/
def wayMask (s : State) (v : Nat) : BitVec 16 := (viOf s v).waym.extractLsb' 0 16

/-- A line placed in a way of a slice, the line it replaces written back where dirty. -/
def placeLine (s : State) (n key : Nat) (l : L2Line) : State :=
  let s := match Tab.at? (sliceOf s n).lines key with
    | none => s
    | some old => writeBack s n old
  onSlice s n (fun sl => { sl with lines := Tab.set sl.lines key l })

/-- What a read of a line finds: the state (a miss fills a line where it may), data, side word, poison. -/
structure Fetched where
  s : State
  data : Line
  side : Word
  poison : Bool
  deriving DecidableEq, Repr

/-- A line as memory holds it. -/
def fromMem (s : State) (line : Nat) : Fetched :=
  { s := s, data := memLine s.mem line, side := sideFill s line, poison := s.poison.contains line }

/-- A line read for a VI at a slice, or past L2, of which `bytes` go to a requester on a die (R291, R298, R300, R301): a hit, a fill, or a
read of memory, which is counted where it brings bytes: an atomic's line is counted with its write (R433). -/
def fetchAt (home : Option Nat) (s : State) (die : Option Nat) (v line bytes : Nat) : Fetched :=
  let past := fun (s : State) (die : Option Nat) => fromMem (bif bytes == 0 then s else chargeLine s v line bytes die) line
  match home with
  | none => past s die
  | some n =>
    let (t, s) := draw (carry s v bytes die (sliceDie n))
    match findLine? (sliceOf s n) v line with
    | some (k, l) =>
      { s := onSlice s n (fun sl => { sl with lines := Tab.set sl.lines k { l with used := t } }), data := l.data, side := l.side,
        poison := l.poison }
    | none =>
      match victimWay? (sliceOf s n) (wayMask s v) line with
      | none => past s (sliceDie n)
      | some k =>
        let r := fromMem (chargeLine s v line 128 (sliceDie n)) line
        { r with s := placeLine r.s n k { line := line, vi := v, dirty := false, side := r.side, data := r.data,
                                          poison := r.poison, used := t } }

/-- A line read for a VI through a P-cell at its home. -/
def fetchLine (s : State) (port v line bytes : Nat) : Fetched := fetchAt (homeSlice? s v (128 * line)) s (dieOf? port) v line bytes

/-- The P-cells that watch a line are told that it is written (R156). -/
def reportWrite (s : State) (line : Nat) : State :=
  bif s.pcells.any (fun (_, p) => p.watches.any (fun w => w.line == line && !w.hit)) then
    { s with pcells := s.pcells.map (fun (k, p) => (k, { p with watches := p.watches.map (fun w => bif w.line == line then { w with hit := true } else w) })) }
  else s

/-- The bytes of a mask. -/
def maskBytes (mask : BitVec 128) : Nat := ((List.range 128).filter mask.getLsbD).length

/-- Bytes of a line, from a die, written for a VI at a slice, or past L2 (R291, R298, R300, R301, R308): in a line held or allocated there, or
through to memory; where the slice's partition is quiesced through to memory, and a miss allocates a clean line. -/
def storeAt (home : Option Nat) (s : State) (die : Option Nat) (v line : Nat) (d : Line) (mask : BitVec 128) (side : Option Word) : State :=
  let s := reportWrite s line
  match home with
  | none => chargeLine (storeMem s line d mask side) v line (maskBytes mask) die
  | some n =>
    let through := fun s => chargeLine (storeMem s line d mask side) v line 128 (sliceDie n)
    let quiet := sliceQuiet s n
    let whole := mask == BitVec.allOnes 128
    let (t, s) := draw (carry s v (maskBytes mask) die (sliceDie n))
    match findLine? (sliceOf s n) v line with
    | some (k, l) =>
      let l' := { l with data := mergeLine l.data d mask, side := side.getD l.side, used := t,
                         dirty := l.dirty || !quiet, poison := l.poison && !whole }
      let s := onSlice s n (fun sl => { sl with lines := Tab.set sl.lines k l' })
      bif quiet then through s else s
    | none =>
      match victimWay? (sliceOf s n) (wayMask s v) line with
      | none => through s
      | some k =>
        let l : L2Line := { line := line, vi := v, dirty := !quiet, side := side.getD (sideFill s line),
                            data := mergeLine (memLine s.mem line) d mask,
                            poison := s.poison.contains line && !whole, used := t }
        let s := placeLine (chargeLine s v line 128 (sliceDie n)) n k l
        bif quiet then through s else s

/-- Bytes of a line written for a VI through a P-cell at its home. -/
def storeLine (s : State) (port v line : Nat) (d : Line) (mask : BitVec 128) (side : Option Word) : State :=
  storeAt (homeSlice? s v (128 * line)) s (dieOf? port) v line d mask side

/-! ### Requests and queue entries (R292, R295, R307) -/

/-- The key under which accesses go that pass no P-cell: the hub's. -/
def hubPort : Nat := 385

/-- The home of a request as its P-cell computes it: the request with the VI's partition and hash generation (R295). -/
def mkReq (s : State) (port v line : Nat) (k : ReqKind) : Req :=
  match homeSlice? s v (128 * line), viPart? s v with
  | none, _ | _, none => { port := port, vi := v, line := line, part := 64, hgen := 0, owned := false, sent := false, kind := k }
  | some _, some p => { port := port, vi := v, line := line, part := p, hgen := field (partOf s p) 61 54, owned := false, sent := false, kind := k }

/-- The slot of the bell calendar now (R12). -/
def slotNow (s : State) : Nat := (s.time.toNat - s.bellAt) % Config.bellPeriod

/-- Whether the slot now is owned by a VI (R395). -/
def ownsSlot (s : State) (v : Nat) : Bool :=
  let b := Tab.atD s.bell (slotNow s) 0
  b.getLsbD 15 && field b 8 0 == v

/-- The requests of a P-cell for a line that a slice or a NACK holds. -/
def lineBusy (s : State) (port line : Nat) : Bool :=
  s.slices.any (fun (_, sl) => sl.queue.any (fun r => r.port == port && r.line == line)) ||
    (portOf s port).nacked.any (fun r => r.line == line)

/-- The queue that a request reaches. -/
def reqQueue (s : State) (r : Req) : Nat := bif r.part == 64 then bypassQueue else homeIn s r.part (128 * r.line)

/-- Whether the slices accept the partition and hash generation of a request (R307). -/
def reqCurrent (s : State) (r : Req) : Bool :=
  r.part == 64 || ((partOf s r.part).getLsbD 63 && field (partOf s r.part) 61 54 == r.hgen)

/-- The entry that a request may take in a queue (R292): one of the 48 that take any, or, in a slot its VI owns, one of the
16. -/
def entryFor? (s : State) (q : List Req) (n : Nat) (v : Nat) : Option Bool :=
  bif n == bypassQueue then some false
  else bif (q.filter (fun r => !r.owned)).length.blt 48 then some false
  else bif ownsSlot s v && (q.filter (fun r => r.owned)).length.blt 16 then some true
  else none

/-- Whether an access that a P-cell makes in one step can be made now (R292, R307): its home accepts it, no request for its line goes
before it, and a queue entry is free. The hub's accesses pass no P-cell, and wait for their home only (notes/assumptions/65.md). -/
def lineReady (s : State) (port v line : Nat) : Bool :=
  let r := mkReq s port v line .prefetch
  let n := reqQueue s r
  let q := (sliceOf s n).queue
  reqCurrent s r && !(portOf s port).out.any (fun x => x.line == line) && !lineBusy s port line &&
    (port == hubPort || (!q.any (fun x => x.line == line) && (entryFor? s q n v).isSome))

/-- Whether a P-cell takes a further request of its issuers (R292). -/
def portRoom (s : State) (port : Nat) : Bool := (portOf s port).out.length.ble Config.portRoom

/-! ### The coalescer (R262) -/

/-- A coalescer buffer performed at its home at once. -/
def flushNow (s : State) (port line : Nat) : State :=
  match Tab.at? (portOf s port).lines line with
  | none => s
  | some b =>
    let s := storeLine s port b.vi line b.data b.mask b.side
    onPort s port (fun p => { p with lines := Tab.del p.lines line })

/-- A coalescer buffer sent to its slice: the write leaves as a request (R262). -/
def flushBuffer (s : State) (port line : Nat) : State :=
  match Tab.at? (portOf s port).lines line with
  | none => s
  | some b =>
    let r := mkReq s port b.vi line (.write b.data b.mask b.side b.by_)
    onPort s port (fun p => { p with lines := Tab.del p.lines line, out := p.out ++ [r] })

/-- A buffer for a line and a VI made free where it has none: a buffer of another VI is sent first; where all 64 buffers are taken, the oldest
(R262). -/
def bufferRoom (s : State) (port v line : Nat) : State :=
  let other := match Tab.at? (portOf s port).lines line with
    | some b => b.vi != v
    | none => false
  let s := bif other then flushBuffer s port line else s
  let need := !Tab.has (portOf s port).lines line && Nat.ble 64 (portOf s port).lines.length
  let oldest := (portOf s port).lines.foldl (fun m (k, b) => match m with
    | none => some (k, b.age)
    | some (k', a) => bif a.blt b.age then some (k, b.age) else some (k', a)) (none : Option (Nat × Nat))
  match need, oldest with
  | true, some (k, _) => flushBuffer s port k
  | _, _ => s

/-- A write that a slice has answered with a NACK, held in the buffer of its line beneath what has been merged since (R307). -/
def rebuffer (s : State) (r : Req) (d : Line) (mask : BitVec 128) (side : Option Word) (by_ : List (Nat × Nat)) : State :=
  let s := bufferRoom s r.port r.vi r.line
  let b := match Tab.at? (portOf s r.port).lines r.line with
    | some b => { b with data := mergeLine (mergeLine 0 d mask) b.data b.mask, mask := b.mask ||| mask, by_ := (by_ ++ b.by_).eraseDups,
                         side := match b.side with
                           | some w => some w
                           | none => side }
    | none => { data := mergeLine 0 d mask, mask := mask, vi := r.vi, by_ := by_, age := 0, side := side }
  onPort s r.port (fun p => { p with lines := Tab.set p.lines r.line b })

/-- A write merged into the buffer of its line (R262): each byte keeps the write that came last. -/
def mergeWrite (s : State) (port v line : Nat) (d : Line) (mask : BitVec 128) (side : Option Word) (by_ : Nat × Nat) : State :=
  let s := bufferRoom s port v line
  let b := match Tab.at? (portOf s port).lines line with
    | some b => { b with data := mergeLine b.data d mask, mask := b.mask ||| mask,
                         by_ := bif b.by_.contains by_ then b.by_ else by_ :: b.by_,
                         side := match side with
                           | some w => some w
                           | none => b.side }
    | none => { data := mergeLine 0 d mask, mask := mask, vi := v, by_ := [by_], age := 0, side := side }
  let s := onPort s port (fun p => { p with lines := Tab.set p.lines line b, held := Tab.del p.held line })
  bif b.mask == BitVec.allOnes 128 then flushBuffer s port line else s

/-- The P-cells without the lines that they hold for the reads of a plot: a release or an acquire of one of its cells orders the accesses of
every cell that a token path leads to from it (R285, R317). -/
def dropHeld (s : State) (plot : Nat) : State :=
  { s with pcells := s.pcells.map (fun (n, p) => (n, { p with held := p.held.filter (fun (_, h) => h.plot != plot) })) }

/-- A P-cell without the line that it holds of a number: a write of its own is newer (R319). -/
def dropLine (s : State) (port line : Nat) : State := onPort s port (fun p => { p with held := Tab.del p.held line })

/-! ### Accesses performed in one step

An access by a unit that waits for its result (descriptors, records, barrier words, far folds, copies, rings) is performed at the line's
home in one step, where `lineReady` holds, after the buffer of that line in its own P-cell. -/

/-- A line of which `bytes` are read through a P-cell (R262). -/
def readLine (s : State) (port v line bytes : Nat) : Fetched := fetchLine (flushNow s port line) port v line bytes

/-- Up to 8 bytes within a line read through a P-cell. -/
def readPa (s : State) (port v pa n : Nat) : State × Nat × Bool :=
  let r := readLine s port v (pa / 128) n
  (r.s, r.data.toNat / 2 ^ (8 * (pa % 128)) % 2 ^ (8 * n), r.poison)

/-- Up to 8 bytes within a line written through a P-cell and performed. -/
def writePa (s : State) (port v pa n val : Nat) : State :=
  let s := dropLine (flushNow s port (pa / 128)) port (pa / 128)
  storeLine s port v (pa / 128) (BitVec.ofNat 1024 (val % 2 ^ (8 * n) * 2 ^ (8 * (pa % 128)))) (maskAt (pa % 128) n) none

/-- Up to 8 bytes within a line that the hub writes: at once where the line's home accepts them, else by a request that waits for it (R307). -/
def postPa (s : State) (v pa n val : Nat) : State :=
  bif lineReady s hubPort v (pa / 128) then writePa s hubPort v pa n val
  else
    let w := BitVec.ofNat 1024 (val % 2 ^ (8 * n) * 2 ^ (8 * (pa % 128)))
    onPort s hubPort (fun p => { p with out := p.out ++ [mkReq s hubPort v (pa / 128) (.write w (maskAt (pa % 128) n) none [])] })

/-- The newest copy of a line, whichever VI holds it dirty: what a walker and the hub see. -/
def newestLine (s : State) (line : Nat) : Line :=
  match s.slices.findSome? (fun (_, sl) => sl.lines.findSome? (fun (_, l) =>
      bif l.line == line && l.dirty then some l.data else none)) with
  | some d => d
  | none => memLine s.mem line

/-- An 8-byte word of the newest copy. -/
def newestWord (s : State) (pa : Nat) : Dword :=
  BitVec.ofNat 64 ((newestLine s (pa / 128)).toNat / 2 ^ (8 * (pa % 128)))

/-- A slice with the masked bytes of a line written into every way that holds it. -/
def updateCopies (line : Nat) (d : Line) (mask : BitVec 128) (sl : Slice) : Slice :=
  let g : L2Line → L2Line := fun l => bif l.line == line then { l with data := mergeLine l.data d mask } else l
  { sl with lines := sl.lines.map (fun (k, l) => (k, g l)) }

/-- An 8-byte word written into every copy of its line, as the walker's atomic and the hub's writes are seen by all. -/
def writeAll (s : State) (pa : Nat) (v : Dword) : State :=
  let d : Line := BitVec.ofNat 1024 (v.toNat * 2 ^ (8 * (pa % 128)))
  let mask := maskAt (pa % 128) 8
  { s with slices := s.slices.map (fun (n, sl) => (n, updateCopies (pa / 128) d mask sl)),
           mem := setMemLine s.mem (pa / 128) d mask }

end Sys2Proof.Machine
end

