-- ==== Sys2Proof/Machine/Translate.lean ====
section
/-!
DEFINITION. Sys2Proof/Machine/Translate.lean: translation of device virtual addresses (R266-R273): the page-table walk of
the two stages, the P-cell's lookup structures and its miss-holding entries, and the accesses by virtual address.
-/
namespace Sys2Proof.Machine

/-- A leaf found by a walk of one stage: the frame's address, the page size as a power of two, the permissions, D, the address of its
entry, and those of the other entries that the walk used. -/
structure Leaf where
  base : Nat
  lg : Nat
  r : Bool
  w : Bool
  dirty : Bool
  entry : Nat
  used : List Nat
  deriving DecidableEq, Repr

/-- The size of a leaf at a level (R266). -/
def leafLg (level : Nat) (cont : Bool) : Nat :=
  match level with
  | 3 => 30
  | 2 => 21
  | _ => bif cont then 16 else 12

/-- The index of an address at a level (R266). -/
def levelIndex (stage2 : Bool) (level a : Nat) : Nat :=
  let i := a / 2 ^ (12 + 9 * (level - 1)) % 512
  bif stage2 && level == 5 then i % 16 else i

/-- A table entry as a walker of a VI sees it (R270): what it read before, until a TLBINV; else the newest copy in memory. -/
def walkerWord (s : State) (v pa : Nat) : Dword := (Tab.at? (viOf s v).walked pa).getD (newestWord s pa)

/-- A walk of one stage for a VI from the table at `table`, down the levels (R266, R267). `place` gives the physical address of a
table entry, and the entries used to find it; `bad` is the WHY of an entry that is not valid; with `cxl` a page held in the CXL tier is
taken where it stands. -/
def walkStage (s : State) (v : Nat) (stage2 cxl : Bool) (bad a : Nat) (place : Nat → Except WalkFail (Nat × List Nat)) :
    (level : Nat) → (table : Nat) → (used : List Nat) → Except WalkFail Leaf
  | 0, _, _ => .error (.xlate 4)
  | level + 1, table, used =>
    match place (table + 8 * levelIndex stage2 (level + 1) a) with
    | .error e => .error e
    | .ok (pa, more) =>
      let e := walkerWord s v pa
      let leaf := e.getLsbD 1
      let pfn := field e 51 12
      let lg := leafLg (level + 1) (e.getLsbD 11)
      let found : Leaf := { base := pfn * 4096 / 2 ^ lg * 2 ^ lg, lg := lg, r := e.getLsbD 2, w := e.getLsbD 3, dirty := e.getLsbD 7,
                            entry := pa, used := used ++ more }
      if field e 63 52 ≠ 0 ∨ field e 6 4 ≠ 0 then .error (.xlate 4)
      else if !e.getLsbD 0 then
        if e.getLsbD 9 && leaf && level.blt 3 then (if cxl then .ok found else .error (.migrate pa pfn lg)) else .error (.xlate bad)
      else if leaf then (if 3 < level + 1 then .error (.xlate 4) else .ok found)
      else if level = 0 then .error (.xlate 4)
      else walkStage s v stage2 cxl bad a place level (pfn * 4096) (used ++ more ++ [pa])

/-- The walk of stage 2 of a VI for a guest-physical address (R266). -/
def walk2 (s : State) (v : Nat) (cxl : Bool) (gpa : Nat) : Except WalkFail Leaf :=
  let root := (viOf s v).s2root
  bif root.getLsbD 0 then walkStage s v true cxl 1 gpa (fun g => .ok (g, [])) 5 (field root 51 12 * 4096) [] else .error (.xlate 1)

/-- The physical address of a guest-physical one under a stage-2 leaf, or of any address under a leaf. -/
def Leaf.map (l : Leaf) (a : Nat) : Nat := l.base + a % 2 ^ l.lg

/-- The walk of stage 1 of a VI for a virtual address: its tables lie at guest-physical addresses for VIs 1-511, at
physical ones for VI 0 (R266); the stage-2 entries that lead to them are used too (R267). -/
def walk1 (s : State) (v : Nat) (cxl : Bool) (va : Nat) : Except WalkFail Leaf :=
  let root := (viOf s v).s1root
  let place := fun g => if v = 0 then .ok (g, []) else match walk2 s v cxl g with
    | .error e => .error e
    | .ok l => .ok (l.map g, l.used ++ [l.entry])
  bif root.getLsbD 0 then walkStage s v false cxl 0 va place 5 (field root 51 12 * 4096) [] else .error (.xlate 0)

/-- What a walk finds: the combined entry; the table entries used on the way, whose A the walker sets; the leaf entries, whose D it sets on
a write (R267). -/
structure Walked where
  entry : TlbEntry
  tables : List Nat
  leaves : List Nat
  deriving DecidableEq, Repr

/-- The walk of both stages for a virtual address (R267): the smaller page, the permissions of both. -/
def walkAny (s : State) (v : Nat) (cxl : Bool) (va : Nat) : Except WalkFail Walked :=
  match walk1 s v cxl va with
  | .error e => .error e
  | .ok l1 =>
    if v = 0 then
      .ok { entry := { vi := v, va := va / 2 ^ l1.lg * 2 ^ l1.lg, lg := l1.lg, pa := l1.base, gpa := l1.base, lg2 := l1.lg, r1 := l1.r,
                       w1 := l1.w, r2 := true, w2 := true, dirty := l1.dirty },
            tables := l1.used, leaves := [l1.entry] }
    else
      let g := l1.map va
      match walk2 s v cxl g with
      | .error e => .error e
      | .ok l2 =>
        let lg := Nat.min l1.lg l2.lg
        .ok { entry := { vi := v, va := va / 2 ^ lg * 2 ^ lg, lg := lg, pa := l2.map g / 2 ^ lg * 2 ^ lg, gpa := g / 2 ^ lg * 2 ^ lg,
                         lg2 := l2.lg, r1 := l1.r, w1 := l1.w, r2 := l2.r, w2 := l2.w, dirty := l1.dirty && l2.dirty },
              tables := l1.used ++ l2.used, leaves := [l1.entry, l2.entry] }

/-- The walk of an access (R266-R268). -/
def walk (s : State) (v va : Nat) : Except WalkFail Walked := walkAny s v false va

/-- Bits set in a table entry by the walker's atomic (R267), which keeps the entry as it is then (R270). -/
def markEntry (bits : Dword) (v : Nat) (s : State) (pa : Nat) : State :=
  let e := walkerWord s v pa
  let m := newestWord s pa
  let s := bif m &&& bits == bits then s else writeAll s pa (m ||| bits)
  onVi s v (fun vi => { vi with walked := Tab.set vi.walked pa (e ||| bits) })

/-- A and, for a write, D set in the table entries a walk used (R267). -/
def markUsed (s : State) (v : Nat) (w : Walked) (write : Bool) : State :=
  let s := (w.tables ++ w.leaves).foldl (markEntry 0x100 v) s
  bif write then w.leaves.foldl (markEntry 0x80 v) s else s

/-- The permission an access needs. -/
inductive Need where
  | read | write | none
  deriving DecidableEq, Repr

/-- The WHY of a permission that an entry does not give (R271): stage 1 before stage 2. -/
def permFault? (t : TlbEntry) (n : Need) : Option Nat :=
  match n with
  | .none => Option.none
  | .read => bif !t.r1 then some 2 else bif !t.r2 then some 3 else Option.none
  | .write => bif !t.w1 then some 2 else bif !t.w2 then some 3 else Option.none

/-- Whether an entry covers an address of a VI. -/
def TlbEntry.covers (t : TlbEntry) (v va : Nat) : Bool := t.vi == v && t.va == va / 2 ^ t.lg * 2 ^ t.lg

/-- What a translation answers: a physical address; a wait for a walk; a fault. -/
inductive Xl where
  | ok (s : State) (pa : Nat)
  | miss (s : State)
  | fail (s : State) (f : WalkFail)
  deriving DecidableEq, Repr

/-- The key of the second-level TLB of a P-cell's die; the Reeve's port is on no die. -/
def portDie (p : Nat) : Nat := p / 96

/-- The virtual address of an operand: 57 bits (R266). -/
def vaOf (v : Dword) : Nat := v.toNat % 2 ^ 57

/-- The smallest entry of a list that covers an address (R269). -/
def bestEntry? (l : List TlbEntry) (v va : Nat) : Option TlbEntry :=
  (l.filter (fun t => t.covers v va)).foldl (fun b t => match b with
    | none => some t
    | some b => bif t.lg.blt b.lg then some t else some b) none

/-- Whether an entry stays where another of its structure has been used for an address (R269): a larger one that matches is dropped. -/
def staysBeside (v va : Nat) (used t : TlbEntry) : Bool := !(t.covers v va && used.lg.blt t.lg)

/-- The lookup of R268: range registers, the P-cell's TLB, the die's second-level TLB; larger entries that match are dropped (R269). -/
def lookup (s : State) (port v va : Nat) : State × Option TlbEntry :=
  match bestEntry? ((portOf s port).ranges.map (·.2)) v va with
  | some t => (onPort s port (fun p => { p with ranges := p.ranges.filter (fun (_, x) => staysBeside v va t x) }), some t)
  | none => match bestEntry? (portOf s port).tlb v va with
    | some t => (onPort s port (fun p => { p with tlb := p.tlb.filter (staysBeside v va t) }), some t)
    | none => match bestEntry? (Tab.atD s.tlb2 (portDie port) []) v va with
      | some t => ({ s with tlb2 := Tab.updD s.tlb2 (portDie port) [] (fun l => l.filter (staysBeside v va t)) }, some t)
      | none => (s, none)

/-- The set of an entry in a P-cell's TLB of 96 sets (R268): its page's number, modulo 96 (notes/assumptions/65.md). -/
def tlbSet (t : TlbEntry) : Nat := t.va / 2 ^ t.lg % 96

/-- A list without its n-th element. -/
def dropNth {α : Type} : Nat → List α → List α
  | _, [] => []
  | 0, _ :: l => l
  | n + 1, x :: l => x :: dropNth n l

/-- An entry put into a set of so many ways; where all are taken it replaces one of them, which is a free choice. -/
def putWay (ctr ways : Nat) (same : TlbEntry → Bool) (t : TlbEntry) (l : List TlbEntry) : List TlbEntry :=
  let mine := l.filter same
  t :: l.filter (fun x => !same x) ++ bif ways.ble mine.length then dropNth ((Config.freeWord ctr).toNat % ways) mine else mine

/-- An entry put into the P-cell's TLB (96 sets of 4 ways) and the die's second-level TLB (24,576 entries) (R268). -/
def fillTlb (s : State) (port : Nat) (t : TlbEntry) : State :=
  let s1 := onPort { s with ctr := s.ctr + 2 } port (fun p => { p with tlb := putWay s.ctr 4 (fun x => tlbSet x == tlbSet t) t p.tlb })
  { s1 with tlb2 := Tab.updD s1.tlb2 (portDie port) [] (putWay (s.ctr + 1) 24576 (fun _ => true) t) }

/-- Whether a miss-holding entry waits for the page of an access. -/
def Miss.same (m : Miss) (v va : Nat) : Bool := m.who.vi == v && m.va / 4096 == va / 4096

/-- An access put into a miss-holding entry (R268): one whose page has an entry waits for that, and with 64 taken it waits for one. -/
def holdMiss (s : State) (u : Via) (va : Nat) (write : Bool) (fail : Option WalkFail) : State :=
  bif (portOf s u.port).misses.any (fun m => m.same u.vi va) then
    (match u.plot with
      | some k => onPort s u.port (fun p => { p with misses := p.misses.map (fun m =>
          bif m.same u.vi va && u.plot != m.who.plot && !m.also.contains k then { m with also := k :: m.also } else m) })
      | none => s)
  else bif Nat.ble 64 (portOf s u.port).misses.length then s
  else onPort s u.port (fun p => { p with misses := p.misses ++ [{ who := u, va := va, write := write, walking := false, fail := fail, victim := false, also := [] }] })

/-- The translation of an access of a cell firing at its home port (R268): a hit gives the address or a permission fault;
a miss takes a miss-holding entry, or waits for one; an entry whose walk failed gives its fault. A write needs an entry
with D set, so that the walker has marked the page. -/
def translate (s : State) (u : Via) (va : Nat) (n : Need) : Xl :=
  let write := n == .write
  match lookup s u.port u.vi va with
  | (s, some t) =>
    match permFault? t n with
    | some why => .fail s (.xlate why)
    | none => bif write && !t.dirty then .miss (holdMiss s u va write none) else .ok s (t.pa + va % 2 ^ t.lg)
  | (s, none) =>
    match (portOf s u.port).misses.find? (fun m => m.same u.vi va) with
    | some m =>
      match m.fail with
      | some (.xlate why) =>
        .fail (onPort s u.port (fun p => { p with misses := p.misses.filter (fun m => !m.same u.vi va) })) (.xlate why)
      | _ => .miss (holdMiss s u va write none)
    | none => .miss (holdMiss s u va write none)

/-- The translation of an access of the host link, which has no lookup structure: a walk, with the permissions, A and D. -/
def translateNow (s : State) (v va : Nat) (n : Need) : Xl :=
  match walk s v va with
  | .error e => .fail s e
  | .ok w =>
    match permFault? w.entry n with
    | some why => .fail s (.xlate why)
    | none => .ok (markUsed s v w (n == .write)) (w.entry.pa + va % 2 ^ w.entry.lg)

/-- The translation of an access of the hub, which holds nothing back: a page that is in the CXL tier is reached there
(notes/assumptions/65.md). -/
def translateHub (s : State) (v va : Nat) (n : Need) : Xl :=
  match walkAny s v true va with
  | .error e => .fail s e
  | .ok w =>
    match permFault? w.entry n with
    | some why => .fail s (.xlate why)
    | none => .ok (markUsed s v w (n == .write)) (w.entry.pa + va % 2 ^ w.entry.lg)

/-- What an access by virtual address in one step answers: a value, a fault of R271 by cause and WHY, or a wait, for the Reeve (R272) or
for the line (R292). -/
inductive Acc (α : Type) where
  | ok (s : State) (v : α)
  | fault (cause : Cause) (why : Nat) (va : Nat)
  | wait (s : State)
  deriving DecidableEq, Repr

/-- TINFO of R271. -/
def infoMem (src why va : Nat) : Dword := dw (at_ src 61 + at_ why 57 + va % 2 ^ 57)

/-- The hub as what makes an access for a VI. -/
def Via.hub (v : Nat) : Via := { port := hubPort, vi := v, plot := none, src := 4, firing := none, stream := none, need := [] }

/-- A migration fault that a unit meets in one step asks the Reeve, as a miss entry of its port (R272). -/
def askReeve (s : State) (u : Via) (va : Nat) (write : Bool) : State :=
  match walk s u.vi va with
  | .error (.migrate e p l) => holdMiss s u va write (some (.migrate e p l))
  | _ => s

/-- The physical address of an access in one step: by the lookup of its P-cell or the walk of the hub, populated, its line free (R264, R268,
R292). -/
def reachPa (s : State) (u : Via) (va : Nat) (n : Need) : Acc Nat :=
  match bif u.port == hubPort then translateHub s u.vi va n else translate s u va n with
  | .miss s => .wait s
  | .fail _ (.xlate why) => .fault .xlate why va
  | .fail _ (.migrate _ _ _) => .wait (askReeve s u va (n == .write))
  | .ok s' pa =>
    bif paReserved s pa then .fault .access 2 va
    else bif lineReady s u.port u.vi (pa / 128) then .ok s' pa else .wait s

/-- Dwords read through a P-cell at a virtual address that is a multiple of 8, as acquire loads at module scope; poisoned
data raises ACCESS with WHY 3 (R271). -/
def readDwords (s : State) (u : Via) : (n : Nat) → (va : Nat) → Acc (List Dword)
  | 0, _ => .ok s []
  | n + 1, va =>
    match reachPa s u va .read with
    | .wait s => .wait s
    | .fault c w a => .fault c w a
    | .ok s pa =>
      let (s, x, bad) := readPa s u.port u.vi pa 8
      bif bad then .fault .access 3 va
      else match readDwords s u n (va + 8) with
        | .ok s xs => .ok s (dw x :: xs)
        | .fault c w a => .fault c w a
        | .wait s => .wait s

/-- Dwords written through a P-cell at a virtual address that is a multiple of 8, and performed. -/
def writeDwords (s : State) (u : Via) : (va : Nat) → (ws : List Dword) → Acc Unit
  | _, [] => .ok s ()
  | va, w :: ws =>
    match reachPa s u va .write with
    | .wait s => .wait s
    | .fault c w a => .fault c w a
    | .ok s pa => writeDwords (writePa s u.port u.vi pa 8 w.toNat) u (va + 8) ws

/-- A run of memory at a virtual address in 64-byte units, translated in full before any byte moves (R284): their physical addresses. -/
def translateUnits (s : State) (u : Via) (n : Need) : (units : Nat) → (va : Nat) → Acc (List Nat)
  | 0, _ => .ok s []
  | k + 1, va =>
    match translate s u va n with
    | .miss s => .wait s
    | .fail _ (.xlate why) => .fault .xlate why va
    | .fail s (.migrate _ _ _) => .wait s
    | .ok s pa =>
      bif paReserved s pa then .fault .access 2 va
      else match translateUnits s u n k (va + 64) with
        | .ok s ps => .ok s (pa :: ps)
        | .fault c w a => .fault c w a
        | .wait s => .wait s

end Sys2Proof.Machine
end

