-- ==== Sys2Proof/Machine/Order.lean ====
section
/-!
DEFINITION. Sys2Proof/Machine/Order.lean: fold records (R142), and the memory-path firings of a cell that have issued and wait: what later
accesses, fences and copies wait for (R285-R287, R309, R316, R319).
-/
namespace Sys2Proof.Machine

/-! ### Fold records (R142) -/

def Fold.sid (f : Fold) : Nat := field f.w0 63 52
/-- Class code of R140: 0 frame, 1 acc, 2 near, 3 far. -/
def Fold.cls (f : Fold) : Nat := field f.w0 51 50
/-- The C-cell or S-cell of an on-chip fold. -/
def Fold.cell (f : Fold) : Nat := 64 * field f.w0 43 38 + field f.w0 49 44
def Fold.adopt (f : Fold) : Bool := f.w0.getLsbD 37
/-- The slot size in bytes. -/
def Fold.slotBytes (f : Fold) : Nat := 2 ^ (field f.w0 35 32 + 2)
def Fold.rank (f : Fold) : Nat := field f.w0 31 29
def Fold.adj (f : Fold) : Bool := f.w0.getLsbD 28
def Fold.readers (f : Fold) : Nat := field f.w0 27 20
/-- The byte offset of slot 0 in the class, or its virtual address for far. -/
def Fold.base (f : Fold) : Nat := bif f.cls == 3 then field f.w4 56 0 else field f.w0 19 0 * 128
def Fold.far (f : Fold) : Bool := f.cls == 3

/-- A vector of four 12-bit fields, the first in bits 47-36. -/
def four12 (w : Dword) : List Nat := [field w 47 36, field w 35 24, field w 23 12, field w 11 0]

/-- The moduli of a fold, over its rank. -/
def Fold.moduli (f : Fold) : List Nat := (four12 f.w1).take f.rank

/-- An entry of the skew matrix above its diagonal. -/
def Fold.skew (f : Fold) (d e : Nat) : Int :=
  match d, e with
  | 0, 1 => sx (field f.w3 23 20) 4
  | 0, 2 => sx (field f.w3 19 16) 4
  | 0, 3 => sx (field f.w3 15 12) 4
  | 1, 2 => sx (field f.w3 11 8) 4
  | 1, 3 => sx (field f.w3 7 4) 4
  | 2, 3 => sx (field f.w3 3 0) 4
  | _, _ => 0

/-- The slot count of a fold. -/
def Fold.slots (f : Fold) : Nat := f.moduli.foldl (· * ·) 1

/-- The slot of a name (R143). -/
def foldSlot (f : Fold) (j : List Nat) : Nat :=
  let at' := fun d => (((j[d]?).getD 0 : Nat) : Int)
  let y := (List.range f.rank).map (fun d =>
    let sum := (List.range f.rank).foldl (fun (acc : Int) e => if d < e then acc + f.skew d e * at' e else acc) (at' d)
    (sum % (((f.moduli[d]?).getD 1 : Nat) : Int)).toNat)
  ordinalOf f.moduli y

/-- The first byte of a slot: an offset in the class, or a virtual address. -/
def Fold.slotAt (f : Fold) (n : Nat) : Nat := f.base + n * f.slotBytes

/-- The header array of a far fold (R140). -/
def Fold.hdrAt (f : Fold) (n : Nat) : Nat := (f.base + f.slots * f.slotBytes + 127) / 128 * 128 + 8 * n

/-- The end of the space of a fold: of its slots, or of its header array. -/
def Fold.spaceEnd (f : Fold) : Nat := bif f.far then f.hdrAt f.slots else f.base + f.slots * f.slotBytes

/-- Whether the cells of a plot issue and its generators run: not while its configuration is to be loaded again (R429). -/
def Plot.live (p : Plot) : Bool := p.running && !p.frozen && p.stop == .none && !p.scrub

/-! ### Firings that have issued and wait (R34, R285) -/

/-- The context of a firing that waits, while its instance lives. -/
def Waiting.ctx? (s : State) (w : Waiting) : Option Ctx :=
  (ctxOf? s w.firing).bind (fun c => bif c.inst.run == w.run then some c else none)

/-- The element that a form which fires once for its instance reads its operands from: the first that is not null (R105). -/
def Ctx.lead (c : Ctx) : Nat := ((elemsOf c.inst.len).find? (fun e => !c.null e)).getD 0

/-- The fold of the name that a form on names accesses. -/
def Ctx.nameFold? (c : Ctx) : Option Fold :=
  (c.blk.names[field c.word 22 18]?).bind (fun (e : Dword) => Tab.at? c.plot.folds (field e 63 52))

/-- Whether a firing accesses a far fold by name. -/
def Ctx.onFar (c : Ctx) : Bool := [0x21, 0x22, 0x23, 0x24, 0x26].contains c.opcode && c.nameFold?.any Fold.far

/-- Whether a firing copies. -/
def Ctx.copies (c : Ctx) : Bool := c.opcode == 0xCF || c.opcode == 0xD0

/-- Whether a firing copies into memory, or else into near space (R283). -/
def Ctx.copiesOut (c : Ctx) : Bool := c.opcode == 0xCF && field c.word 23 22 != 0

/-- Whether a firing is an atomic. -/
def Ctx.atomic (c : Ctx) : Bool := Nat.ble 0xD1 c.opcode && Nat.ble c.opcode 0xD6

/-- Whether a firing writes memory as R285 counts it: ST, an atomic, a COPY into memory, SIG, BAR, an access of a far fold. -/
def Ctx.writesMem (c : Ctx) : Bool :=
  c.opcode == 0xCD || c.atomic || c.copiesOut || c.opcode == 0x11 || c.opcode == 0x0F || c.onFar

/-- Whether a firing reads memory as R285 counts it: LD, an atomic, a copy, an access of a far fold. -/
def Ctx.readsMem (c : Ctx) : Bool := c.opcode == 0xCC || c.atomic || c.copies || c.onFar

/-- Whether the place of a firing that waits is kept: of the memory path, of a release or an acquire, of a partition form. -/
def Ctx.keepsPlace (c : Ctx) : Bool :=
  c.writesMem || c.readsMem || [0x10, 0xD7, 0xD8, 0xD9, 0xDA, 0xDB, 0xE4, 0xE5, 0xE8, 0xE9, 0xEB, 0xEE, 0xFC, 0xFD].contains c.opcode

/-- A firing that waits given its place, with what it noted when it issued; one that has a place keeps it. -/
def noteWait (s : State) (f : Firing) (run note : Nat) : State :=
  bif s.waiting.any (fun w => w.firing == f && w.run == run) then s
  else { s with waiting := s.waiting ++ [{ firing := f, run := run, note := note }] }

/-- The firings that wait and have issued before a firing. -/
def earlier (s : State) (c : Ctx) : List Waiting := s.waiting.takeWhile (fun w => !(w.firing == c.f && w.run == c.inst.run))

/-- Whether a firing that has issued before one, and waits, meets a condition. -/
def anyEarlier (s : State) (c : Ctx) (ok : Ctx → Bool) : Bool := (earlier s c).any (fun w => (w.ctx? s).any ok)

/-- Whether a firing of the same cell that has issued before one, and waits, meets a condition. -/
def ownEarlier (s : State) (c : Ctx) (ok : Ctx → Bool) : Bool :=
  anyEarlier s c (fun d => d.f.plot == c.f.plot && d.f.cell == c.f.cell && ok d)

/-- Whether a firing that waits is to write in the line of an address. -/
def Ctx.writesLine (d : Ctx) (va : Nat) : Bool :=
  let within := fun (a n : Nat) => (a / 128).ble (va / 128) && (va / 128).blt ((a + n + 127) / 128)
  let es := waiting d.blk d.inst d.f.slot
  let len := field (d.k (field d.word 21 18 + 3)) 23 0
  bif d.opcode == 0xCD || d.atomic then es.any (fun e => d.elem? 0 e != none && vaOf (d.wide 0 e) / 128 == va / 128)
  else bif d.copiesOut then
    bif field d.word 23 22 == 1 then within (vaOf (d.k2 (field d.word 21 18))) len else es.any (fun e => within (vaOf (d.wide 1 e)) len)
  else bif d.onFar then d.nameFold?.any (fun f => within f.base (f.spaceEnd - f.base))
  else false

/-- Whether a write of the same cell that has issued before a firing, and waits, is to go to the line of an address: the firing's access
comes after it (R316, R319). -/
def lineBlocked (s : State) (c : Ctx) (va : Nat) : Bool := ownEarlier s c (fun d => d.writesMem && d.writesLine va)

end Sys2Proof.Machine
end

