-- ==== Sys2Proof/Machine/Grant.lean ====
section
/-!
DEFINITION. Sys2Proof/Machine/Grant.lean: what a plot's port table gives its cells (R257-R259), the regions of a VI and
their owners (R260, R261), raw references into near space (R212), and the checks that every access of a cell firing
makes.
-/
namespace Sys2Proof.Machine

/-! ### The port table (R259) -/

/-- The key of a P-cell: 96 × die + 24 × edge + index. -/
def portKeyOf (die edge idx : Nat) : Nat := 96 * die + 24 * edge + idx

/-- The type of a port-table entry. -/
def entryType (e : Dword) : Nat := field e 63 62

/-- Whether a plot holds a grant on a P-cell; the Reeve's plot has its own port, key 384 (R452). -/
def granted (p : Plot) (port : Nat) : Bool :=
  (p.role == .reeve && port == 384) ||
    p.ports.any (fun e => entryType e == 0 && portKeyOf p.die (field e 61 60) (field e 59 55) == port)

/-- The contexts and lines a plot's grants give it on a P-cell. -/
def grantOf (p : Plot) (port : Nat) : Nat × Nat :=
  p.ports.foldl (fun (c, l) e =>
    bif entryType e == 0 && portKeyOf p.die (field e 61 60) (field e 59 55) == port then (c + field e 54 51 + 1, l + field e 50 43 + 1)
    else (c, l)) (0, 0)

/-- The home port of a cell (R258). -/
def homePort? (p : Plot) (cell : Nat) : Option Nat :=
  if p.role = .reeve then some 384
  else (p.ports.find? (fun e => entryType e == 1 && field e 61 56 == cell % 64 && field e 55 50 == cell / 64)).map
    (fun e => portKeyOf p.die (field e 47 46) (field e 45 41))

/-- An area of near space that the configuration gives (R259): its S-cell's key, side, byte offset, bytes and kind. -/
structure Area where
  scell : Nat
  side : Nat
  off : Nat
  size : Nat
  kind : Nat
  deriving DecidableEq, Repr

/-- The areas of a plot, in table order. -/
def areasOf (p : Plot) : List Area :=
  (p.ports.filter (fun e => entryType e == 2)).map (fun e =>
    { scell := field e 55 50 * 64 + field e 61 56, side := field e 49 48, off := field e 47 41 * 2048,
      size := (field e 40 34 + 1) * 2048, kind := field e 33 31 })

/-- The neighbour of a site on a side (0 north, 1 east, 2 south, 3 west), plot-relative, where it lies in the plot. -/
def neighbour? (p : Plot) (cell side : Nat) : Option Nat :=
  let x := cell % 64
  let y := cell / 64
  match side with
  | 0 => bif y == 0 then none else some (cell - 64)
  | 1 => bif (p.w).ble (x + 1) then none else some (cell + 1)
  | 2 => bif (p.h).ble (y + 1) then none else some (cell + 64)
  | _ => bif x == 0 then none else some (cell - 1)

/-- The opposite side. -/
def opposite (side : Nat) : Nat := (side + 2) % 4

/-- The bytes of an S-cell's near space. -/
def nearOf (p : Plot) (scell : Nat) : Memory := Tab.atD p.near scell []

/-! ### Raw references (R212, R213) -/

/-- Why a raw near reference of an extent is not valid for a cell: the WHY of R213; or the S-cell it names. -/
def rawNear (p : Plot) (cell : Nat) (ref : Nat) (extent : Nat) : Except Nat Nat :=
  let off := ref % 2 ^ 18
  let side := ref / 2 ^ 18 % 4
  if ref / 2 ^ 21 ≠ 0 ∨ off % 2048 ≠ 0 then .error 0
  else match neighbour? p cell side with
    | none => .error 2
    | some sc =>
      if (areasOf p).any (fun a => a.kind == 0 && a.scell == sc && a.side == opposite side && a.off.ble off &&
          (off + extent).ble (a.off + a.size)) then .ok sc
      else .error 1

/-- TINFO of R213. -/
def infoRaw (opnd why rep ref : Nat) : Dword := dw (at_ opnd 62 + at_ why 60 + at_ rep 56 + ref % 2 ^ 21)

/-! ### Regions and owners (R260, R261) -/

/-- The region of a VI that holds an address. -/
def regionOf? (vi : Vi) (va : Nat) : Option Nat :=
  (vi.regions.find? (fun (_, (b, n)) => b.ble va && va.blt (b + n))).map (·.1)

/-- Whether a write through a P-cell to an address may go on: in an open address, or through the region's owner (R261);
`some false` where a hand-over to this P-cell is under way (R263). -/
def ownerAllows (vi : Vi) (port va : Nat) : Option Bool :=
  match regionOf? vi va with
  | none => some true
  | some r => match Tab.at? vi.owners r with
    | none => none
    | some o => bif o.port == port then some o.here else none

/-! ### The checks of an access of a cell firing -/

/-- A UNDECL or FEATURE of a feature that a value at run time asks for (R264, R391): TINFO of R63 with its FEAT bit. -/
def infoFeat (b : Block) (slot op bit : Nat) : Dword :=
  dw (at_ slot 50 + at_ op 40 + at_ (2 ^ bit) 32 + at_ Config.stepping.toNat 28 + at_ b.step.toNat 24)

/-- What an access of a cell firing meets: a physical address; a wait; a trap. -/
inductive Way where
  | go (s : State) (pa : Nat)
  | wait (s : State)
  | trap (cause : Cause) (info : Dword)
  deriving DecidableEq, Repr

/-- MASKHIT counts a FEATURE of a masked bit (R64, R409). -/
def countMask (s : State) (v : Nat) : State :=
  onVi s v (fun vi => { vi with maskhit := bif vi.maskhit == BitVec.allOnes 32 then vi.maskhit else vi.maskhit + 1 })

/-- An address outside the module: FEAT 6 must be declared by the block and not masked (R264). -/
def remoteFault? (s : State) (c : Ctx) (pa : Nat) : Option (Cause × Dword) :=
  bif !paRemote s pa then none
  else bif !c.blk.feat.getLsbD 6 then some (.undecl, infoFeat c.blk c.f.slot c.opcode 6)
  else bif (viOf s c.plot.vi).featm.getLsbD 6 then some (.feature, infoFeat c.blk c.f.slot c.opcode 6)
  else none

/-- The access of a firing through a P-cell, with SRC of R271. -/
def Ctx.via (c : Ctx) (port src : Nat) : Via :=
  { port := port, vi := c.plot.vi, plot := some c.f.plot, src := src, firing := some c.f, stream := none, need := [] }

/-- The region in whose hand-over to a P-cell a write to an address has to wait (R263). -/
def awaited? (vi : Vi) (port va : Nat) : Option Nat :=
  match regionOf? vi va with
  | none => none
  | some r => match Tab.at? vi.owners r with
    | none => none
    | some o => bif o.port == port && !o.here then some r else none

/-- The region for which a write that reaches a P-cell at an address waits in order: its hand-over is under way, or writes that came before it
wait still (R263). -/
def queuedFor? (s : State) (v port va : Nat) : Option Nat :=
  match awaited? (viOf s v) port va, regionOf? (viOf s v) va with
  | some r, _ => some r
  | none, some r => bif (portOf s port).early.any (fun w => w.vi == v && w.region == r) then some r else none
  | none, none => none

/-- Whether an accepted copy of a P-cell is still to write a 64-byte unit of memory. -/
def CopyJob.covers (j : CopyJob) (pa : Nat) : Bool := (j.dst.drop j.done).any (fun a => a / 64 == pa / 64)

/-- Whether an access of a cell through a P-cell waits for what has gone before it (R263, R292, R316, R319): an earlier write of the cell to the
line, which waits; a copy that is still to write there, for a read one of the cell itself; for a read a write that waits for a hand-over; or
room in the P-cell. -/
def behind (s : State) (c : Ctx) (port va pa : Nat) (n : Need) : Bool :=
  let p := portOf s port
  lineBlocked s c va || p.copies.any (fun j => j.covers pa && (n == .write || (j.plot == c.f.plot && j.cell == c.f.cell))) ||
    (n == .read && p.early.any (fun w => w.who.isNone && w.line == pa / 128)) || !portRoom s port

/-- The way of an access of a cell firing from its home port to memory: home port, owner, translation, address, alignment,
each with its trap (R258, R261, R264, R271, R281). Of several causes the lowest is reported (R128): UNDECL and FEATURE,
ACCESS, XLATE, ALIGN. A write that comes before the hand-over token reaches the P-cell, where it waits (R263). -/
def accessWay (s : State) (c : Ctx) (src va bytes : Nat) (n : Need) : Way :=
  match homePort? c.plot c.f.cell with
  | none => .trap .access (infoMem src 6 va)
  | some port =>
    let owner := if n = .write then ownerAllows (viOf s c.plot.vi) port va else some true
    match translate s (c.via port src) va n with
    | .miss s => .wait s
    | .fail s (.migrate _ _ _) => .wait s
    | .fail _ (.xlate why) => if owner = none then .trap .access (infoMem src 0 va) else .trap .xlate (infoMem src why va)
    | .ok s pa =>
      match remoteFault? s c pa with
      | some (cause, info) => .trap cause info
      | none =>
        if owner = none then .trap .access (infoMem src 0 va)
        else if paReserved s pa then .trap .access (infoMem src 2 va)
        else if va % bytes ≠ 0 then .trap .align (infoMem src 0 va)
        else if behind s c port va pa n then .wait s
        else .go s pa

/-- A fault of an access performed in one step, as the trap of a firing (R271). -/
def accTrap (c : Ctx) (e src : Nat) (cause : Cause) (why va : Nat) : Res := .trap cause (c.tag e) (infoMem src why va)

end Sys2Proof.Machine
end

