-- ==== Sys2Proof/Machine/Hub.lean ====
section
/-!
DEFINITION. Sys2Proof/Machine/Hub.lean: what the hub does for a VI: interrupts (R414-R416), rings and records (R469, R274,
R417, R418, R421), the replay journal (R435-R438), and the accesses it makes as the VI.
-/
namespace Sys2Proof.Machine

/-! ### Interrupts -/

/-- Pending vectors that neither IMASK nor the function's MSI-X table masks are delivered, in the order they became pending, once the cycle
is over in which they did (R415, R461). -/
def deliverIrqs (s : State) (v : Nat) : State :=
  let vi := viOf s v
  let go := vi.iorder.filter (fun x => !vi.imask.getLsbD x.2 && !vi.msix.getLsbD x.2 && x.1 != s.time.toNat)
  bif go.isEmpty then s
  else { onVi s v (fun vi => { vi with iorder := vi.iorder.filter (fun x => !go.contains x) }) with
         msi := s.msi ++ go.map (fun x => (v, x.2)) }

/-- A vector put among those that became pending before it, in ascending order within its cycle (R415). -/
def putIrq (x : Nat × Nat) : List (Nat × Nat) → List (Nat × Nat)
  | [] => [x]
  | y :: t => bif x.1 == y.1 && x.2.blt y.2 then x :: y :: t else y :: putIrq x t

/-- A vector raised (R415): one that is pending already is not delivered again. -/
def raiseIrq (s : State) (v k : Nat) : State :=
  bif (viOf s v).ipend.getLsbD k then s
  else onVi s v (fun vi => { vi with ipend := vi.ipend ||| dw (2 ^ k), iorder := putIrq (s.time.toNat, k) vi.iorder })

/-- What is to be delivered of every VI at the end of a cycle. -/
def deliverAllIrqs (s : State) : State := s.vis.foldl (fun t (v, vi) => bif vi.iorder.isEmpty then t else deliverIrqs t v) s

/-! ### Accesses of the hub as a VI -/

/-- Dwords read for a VI, as acquires. -/
def hubRead (s : State) (v va n : Nat) : Acc (List Dword) := readDwords s (Via.hub v) n va

/-- Whether a run of dwords can be written for a VI. -/
def hubWritable (s : State) (v : Nat) : (n va : Nat) → Bool
  | 0, _ => true
  | n + 1, va => match translateHub s v va .write with
    | .ok s' pa => !paReserved s' pa && hubWritable s v n (va + 8)
    | _ => false

/-- Dwords stored for a VI at system scope; none where one of them cannot be (R469). -/
def hubStore? (s : State) (v va : Nat) (ws : List Dword) : Option State :=
  bif hubWritable s v ws.length va then
    match writeDwords s (Via.hub v) va ws with
    | .ok s' _ => some s'
    | _ => none
  else none

/-- A count that saturates at 2^32 - 1. -/
def satInc (w : Word) : Word := bif w == BitVec.allOnes 32 then w else w + 1

/-- A record put into a ring of `size` records of `bytes` bytes at `base`; none where the ring is full, has no base, or its
slot cannot be written (R469). -/
def ringPut? (s : State) (v base size bytes : Nat) (prod cons : Word) (ws : List Dword) : Option State :=
  if base = 0 ∨ size ≤ (prod - cons).toNat then none
  else hubStore? s v (base + bytes * (prod.toNat % size)) ws

/-- The base of a ring register: bits 56-12. -/
def ringBase (r : Dword) : Nat := field r 56 12 * 4096

/-! ### Fault records (R274, R275) -/

/-- The held fault records of a VI written in order, as far as the ring takes them. -/
def flushFaults : (fuel : Nat) → State → Nat → State
  | 0, s, _ => s
  | fuel + 1, s, v =>
    let vi := viOf s v
    match vi.faults with
    | [] => s
    | r :: rest =>
      match ringPut? s v (ringBase vi.fring) (2 ^ (field vi.fring 3 0 + 6)) 64 vi.frprod vi.frcons r with
      | none => s
      | some s' => flushFaults fuel (raiseIrq (onVi s' v (fun vi => { vi with faults := rest, frprod := vi.frprod + 1 })) v 17) v

/-- The fault records of a VI that wait are tried again. -/
def retryFaults (s : State) (v : Nat) : State := flushFaults ((viOf s v).faults.length) s v

/-- A fault record of a VI (R274): kind, cause, handle, address, ordinal, descriptor. -/
def putFault (s : State) (v kind cause handle va ord desc : Nat) : State :=
  let seq := (viOf s v).fseq + 1
  let r := [dw (at_ kind 56 + at_ cause 48 + at_ v 39 + handle % 2 ^ 32), dw va, dw ord, dw desc, seq, 0, 0, 0]
  retryFaults (onVi s v (fun vi => { vi with fseq := seq, faults := vi.faults ++ [r] })) v

/-! ### Trap records (R127, R418) -/

/-- The plot word of R127. -/
def plotWord (p : Plot) : Dword := dw (at_ p.vi 32 + at_ p.die 24 + at_ p.x 18 + at_ p.y 12 + at_ p.w 6 + p.h)

/-- The 16 words of a trap record (R127). -/
def trapWords (cause tag info cell pw seq : Dword) (entries : List Dword) : List Dword :=
  [cause, tag, info, cell, pw, seq, 0, 0] ++ entries.take 8 ++ List.replicate (8 - Nat.min 8 entries.length) 0

/-- A trap record of a VI with its next sequence number, waiting for its ring (R418). -/
def queueTrap (s : State) (v : Nat) (cause tag info cell pw : Dword) (entries : List Dword) (subject : Option Nat) : State :=
  let seq := (viOf s v).tseq + 1
  onVi s v (fun vi => { vi with tseq := seq, traps := vi.traps ++
    [{ seq := seq, words := trapWords cause tag info cell pw seq entries, subject := subject, written := false, index := 0 }] })

/-- A record with no frozen subject (R420). -/
def raiseRecord (s : State) (v : Nat) (cause : Cause) (tag : Nat) (info cell pw : Dword) : State :=
  queueTrap s v (dw (causeCode cause)) (dw (tag % 2 ^ 40)) info cell pw [] none

/-- The accesses of a plot whose walk found a fault leave their miss entries: an access made again is walked again (R271). -/
def dropFailed (s : State) (key : Nat) : State :=
  { s with pcells := s.pcells.map (fun (k, c) => (k, { c with misses := c.misses.filter (fun m => !(m.who.plot == some key && (match m.fail with
      | some (.xlate _) => true
      | _ => false))) })) }

/-- The hub takes the trap of a plot that has none of its records yet, once the cycle is over in which it trapped: till then a trap at a lower
site can come before it (R125). -/
def collectTrap (s : State) (key : Nat) : State :=
  match Tab.at? s.plots key with
  | none => s
  | some p => match p.trap with
    | none => s
    | some r =>
      match r.seq, p.trapNow with
      | none, false =>
        let s := queueTrap (dropFailed s key) p.vi r.cause r.tag r.info r.cell (plotWord p) r.entries (some key)
        onPlot s key (fun p => { p with trap := some { r with seq := some (viOf s p.vi).tseq } })
      | _, _ => s

/-- The hub takes every trap taken in a step, lowest plot first. -/
def collectTraps (s : State) : State := s.plots.foldl (fun s (k, _) => collectTrap s k) s

/-- The words of a plot's own trap record as TREC shows them (R418). -/
def trecWords (s : State) (p : Plot) : List Dword :=
  match p.subject with
  | some u => u.words
  | none => match p.trap with
    | some r => (match r.seq with
      | some q => ((viOf s p.vi).traps.find? (fun t => t.seq == q)).map (·.words) |>.getD
          (trapWords r.cause r.tag r.info r.cell (plotWord p) q r.entries)
      | none => trapWords r.cause r.tag r.info r.cell (plotWord p) 0 r.entries)
    | none => []

/-! ### Hedge reports (R421, R422) -/

/-- A hedge report offered to the ring of a VI: written with vector 19, or counted in HLOST. -/
def putHedge (s : State) (v : Nat) (ws : List Dword) : State :=
  let vi := viOf s v
  match ringPut? s v (ringBase vi.hring) (2 ^ (field vi.hring 3 0 + 6)) 64 vi.hrprod vi.hrcons ws with
  | none => onVi s v (fun vi => { vi with hlost := satInc vi.hlost })
  | some s' => raiseIrq (onVi s' v (fun vi => { vi with hrprod := vi.hrprod + 1 })) v 19

/-! ### Jobs and the journal (R435-R438) -/

/-- The record that a plot runs. -/
def recOf? (s : State) (p : Plot) : Option (Nat × Rec) :=
  match p.task with
  | none => none
  | some k => (Tab.at? s.recs k).map (fun r => (k, r))

/-- A change of a job. -/
def onJob (s : State) (j : Nat) (g : Job → Job) : State := { s with jobs := Tab.upd s.jobs j g }

/-- The header of a job's journal written (R435). -/
def journalHeader (s : State) (j : Job) : State :=
  let n := bif j.jmode == 2 then j.used.length else j.jcount
  match hubStore? s j.vi j.jbase [dw n, dw ((bif j.nr then 1 else 0) + (bif j.diverged then 2 else 0)), j.tag, 0, 0, 0, 0, 0] with
  | some s' => s'
  | none => s

/-- A job's journal marked as not replayable, or as diverged, with vector 20 (R438). -/
def journalBreak (s : State) (key : Nat) (g : Job → Job) : State :=
  match Tab.at? s.jobs key with
  | none => s
  | some j => raiseIrq (journalHeader (onJob s key g) (g j)) j.vi 20

/-- The first entry of a journal not consumed whose first three words match. -/
def journalFind (s : State) (j : Job) (w0 w1 w2 : Dword) : (fuel i : Nat) → Option (Nat × Dword)
  | 0, _ => none
  | fuel + 1, i =>
    bif j.used.contains i then journalFind s j w0 w1 w2 fuel (i + 1)
    else match hubRead s j.vi (j.jbase + 64 + 32 * i) 4 with
      | .ok _ [a, b, c, d] => bif a == w0 && b == w1 && c == w2 then some (i, d) else journalFind s j w0 w1 w2 fuel (i + 1)
      | _ => journalFind s j w0 w1 w2 fuel (i + 1)

/-- A nondeterministic choice of a job (R436, R437): journalled in record mode; in replay mode the recorded value of the
first entry of its source, or where there is none the value unforced. -/
def journal (s : State) (key : Nat) (w0 w1 w2 value : Dword) : State × Dword :=
  match Tab.at? s.jobs key with
  | none => (s, value)
  | some j =>
    match j.jmode with
    | 1 =>
      bif j.jsize.ble j.jcount then (journalBreak s key (fun j => { j with nr := true }), value)
      else match hubStore? s j.vi (j.jbase + 64 + 32 * j.jcount) [w0, w1, w2, value] with
        | none => (journalBreak s key (fun j => { j with nr := true }), value)
        | some s' => (journalHeader (onJob s' key (fun j => { j with jcount := j.jcount + 1 })) { j with jcount := j.jcount + 1 }, value)
    | 2 =>
      match journalFind s j w0 w1 w2 j.jtotal 0 with
      | none => (journalBreak s key (fun j => { j with diverged := true }), value)
      | some (i, v) => (journalHeader (onJob s key (fun j => { j with used := j.used ++ [i] })) { j with used := j.used ++ [i] }, v)
    | _ => (s, value)

/-- The source words of an entry of a firing (R436). -/
def journalSource (s : State) (c : Ctx) (kind tag : Nat) : Dword × Dword × Dword :=
  let lo := match recOf? s c.plot with
    | some (_, r) => r.lo
    | none => 0
  (dw (at_ kind 56 + at_ c.f.slot 50 + at_ c.f.bidx 46 + at_ (c.f.cell % 64) 40 + at_ (c.f.cell / 64) 34),
   dw (at_ tag 24 + c.plot.code / 64 % 2 ^ 24), dw (at_ lo 24))

/-- A choice of a firing, journalled under the job of its plot's record. -/
def journalFiring (s : State) (c : Ctx) (kind tag : Nat) (value : Dword) : State × Dword :=
  match recOf? s c.plot with
  | none => (s, value)
  | some (_, r) =>
    let (w0, w1, w2) := journalSource s c kind tag
    journal s r.job w0 w1 w2 value

/-! ### Privilege (R410) -/

/-- Whether a plot holds every privilege of VI 0: it is a plot of VI 0 or the Reeve's (R408). -/
def isVi0 (p : Plot) : Bool := p.vi == 0 || p.role == .reeve

/-- Whether a plot is a handler of its VI, a plot of VI 0 or the Reeve's. -/
def isPrivileged (p : Plot) : Bool := isVi0 p || p.role == .handler

/-- TINFO of PRIV (R410). -/
def infoPriv (c : Ctx) : Dword := dw (at_ c.opcode 56 + at_ (field c.word 23 18) 50)

/-- RSVFLD of an operand or a constant word of a firing that breaks its entry's rule (R467). -/
def rsvOperand (c : Ctx) (e bitpos : Nat) : Res := .trap .rsvfld (c.tag e) (infoField c.blk c.f.slot c.opcode bitpos)

/-- TINFO of R63 for a word of a table, template or descriptor that a firing reads: HDR is 1 and SLOT the word's index. -/
def infoHdr (bstep : BitVec 4) (gblk slot bitpos : Nat) : Dword :=
  dw (at_ gblk 56 + at_ slot 50 + at_ 1 49 + at_ Config.stepping.toNat 28 + at_ bstep.toNat 24 + at_ bitpos 18)

/-- RSVFLD of a word that a firing reads from memory. -/
def rsvHdr (c : Ctx) (e slot bitpos : Nat) : Res := .trap .rsvfld (c.tag e) (infoHdr c.blk.step 0 slot bitpos)

/-- What a read or write of memory by a firing meets: the words, or how the firing ends. -/
inductive Got where
  | ok (s : State) (ws : List Dword)
  | stop (r : Res)
  deriving DecidableEq, Repr

/-- How a firing reaches a run of dwords: its home port, or none. -/
def dwordsVia (c : Ctx) (src va n : Nat) : Via := { c.via ((homePort? c.plot c.f.cell).getD hubPort) src with need := [(va, 8 * n)] }

/-- The first address of another module that a firing may not reach among its dwords (R264). -/
def remoteIn? (s : State) (c : Ctx) (u : Via) (va n : Nat) (need : Need) : Option (Cause × Dword) :=
  (List.range n).findSome? (fun i => match bif u.port == hubPort then translateHub s u.vi (va + 8 * i) need else translate s u (va + 8 * i) need with
    | .ok _ pa => remoteFault? s c pa
    | _ => none)

/-- What keeps a run of dwords from being written as one: a fault, or a wait (R272, R292). -/
def dwordsStop? (s : State) (u : Via) : (n va : Nat) → Option (Acc Unit)
  | 0, _ => none
  | n + 1, va => match reachPa s u va .write with
    | .ok _ _ => dwordsStop? s u n (va + 8)
    | .fault c w a => some (.fault c w a)
    | .wait s => some (.wait s)

/-- Dwords that a firing reads through its home port, or through none, as an acquire at module scope, at which the lines held for the
plot's reads are dropped (R317). -/
def cellRead (s : State) (c : Ctx) (e src va n : Nat) : Got :=
  let u := dwordsVia c src va n
  match remoteIn? s c u va n .read with
  | some (cause, info) => .stop (.trap cause (c.tag e) info)
  | none => match readDwords s u n va with
    | .ok s ws => .ok (dropHeld s c.f.plot) ws
    | .fault cause why a => .stop (.trap cause (c.tag e) (infoMem src why a))
    | .wait s => .stop (.stall s)

/-- Dwords that a firing writes as a store of its VI, performed at once. -/
def cellWrite (s : State) (c : Ctx) (e src va : Nat) (ws : List Dword) : Got :=
  let u := dwordsVia c src va ws.length
  match remoteIn? s c u va ws.length .write with
  | some (cause, info) => .stop (.trap cause (c.tag e) info)
  | none =>
    match (dwordsStop? s u ws.length va).getD (writeDwords s u va ws) with
    | .ok s _ => .ok s []
    | .fault cause why a => .stop (.trap cause (c.tag e) (infoMem src why a))
    | .wait s => .stop (.stall s)

/-- The lowest set bit at or above a position. -/
def lowestFrom (v : Nat) (lo n : Nat) : Option Nat := ((List.range n).map (lo + ·)).find? v.testBit

/-- The lowest offending bit of a field that must be zero. -/
def badZero? (w : Dword) (hi lo : Nat) : Option Nat := lowestFrom w.toNat lo (hi + 1 - lo)

/-- The lowest of several offending bits. -/
def lowestBit (l : List (Option Nat)) : Option Nat :=
  l.foldl (fun m x => match m, x with
    | none, x => x
    | some a, none => some a
    | some a, some b => some (Nat.min a b)) none

/-- A bit that offends where a condition fails. -/
def badUnless? (ok : Bool) (bit : Nat) : Option Nat := bif ok then none else some bit

end Sys2Proof.Machine
end

