-- ==== Sys2Proof/Machine/LanesInt.lean ====
section
/-!
DEFINITION. Sys2Proof/Machine/LanesInt.lean: the integer and address forms (R172-R180).
-/
namespace Sys2Proof.Machine

/-- Elements one firing of a form covers: 16 of a 64-bit type, else 32 (R168). -/
def laneLimit (wide : Bool) : Nat := bif wide then 16 else 32

/-- The operand that BSRC governs (R172): the port for 000, else constant word k(BSRC-1), with the next as its high word
for a 64-bit type. -/
def bsrcInt (c : Ctx) (bsrc : BitVec 3) (ty : IntTy) (port e : Nat) : Int :=
  bif bsrc == 0#3 then rdInt ty (c.kind port) (c.val port e)
  else rdInt ty .r64 (bif itWidth ty == 64 then c.k2 (bsrc.toNat - 1) else zx32 (c.k (bsrc.toNat - 1)))

/-- `rd(x, e)` for an integer type (R167). -/
def rdPort (c : Ctx) (ty : IntTy) (port e : Nat) : Int := rdInt ty (c.kind port) (c.val port e)

/-- A form with one operand: `f` gives the exact result from x. -/
def intUn (ty : IntTy) (c1 c0 : Cons) (f : Int → Int) (s : State) : Outcome :=
  let wide := itWidth ty == 64
  fireMap s lat2 (laneLimit wide) c1 c0 wide (fun c e => wrInt ty (f (rdPort c ty 0 e)))

/-- A form of mould I-bin of a given time: `f` gives the exact result from x and y. -/
def intBinIn (u : Lat) (bsrc : BitVec 3) (ty : IntTy) (c1 c0 : Cons) (f : Int → Int → Int) (s : State) : Outcome :=
  let wide := itWidth ty == 64
  fireMap s u (laneLimit wide) c1 c0 wide (fun c e => wrInt ty (f (rdPort c ty 0 e) (bsrcInt c bsrc ty 1 e)))

/-- A form of mould I-bin. -/
def intBin (bsrc : BitVec 3) (ty : IntTy) (c1 c0 : Cons) (f : Int → Int → Int) (s : State) : Outcome :=
  intBinIn lat2 bsrc ty c1 c0 f s

/-- The time of a multiplication, and of a division (R170). -/
def mulLat (ty : IntTy) : Lat := bif itWidth ty == 64 then lat4 else lat2
def divLat (ty : IntTy) : Lat := bif itWidth ty == 64 then ⟨24, 4⟩ else ⟨12, 8⟩

/-- A form of mould I-ter of a given time: `f` gives the exact result from x, y and z. -/
def intTer (u : Lat) (bsrc : BitVec 3) (ty : IntTy) (c1 c0 : Cons) (f : Int → Int → Int → Int) (s : State) : Outcome :=
  let wide := itWidth ty == 64
  fireMap s u (laneLimit wide) c1 c0 wide (fun c e =>
    wrInt ty (f (rdPort c ty 0 e) (rdPort c ty 1 e) (bsrcInt c bsrc ty 2 e)))

/-- The w-bit pattern of a value. -/
def pattern (ty : IntTy) (x : Int) : Nat := (x % (2 ^ itWidth ty : Nat)).toNat

/-- A form of mould I-bin on w-bit patterns. -/
def patBin (bsrc : BitVec 3) (ty : IntTy) (c1 c0 : Cons) (f : Nat → Nat → Nat) (s : State) : Outcome :=
  intBin bsrc ty c1 c0 (fun x y => (f (pattern ty x) (pattern ty y) : Nat)) s

/-- ADD (R175). -/
def execAdd (bsrc : BitVec 3) (ty : IntTy) (c1 c0 : Cons) (s : State) : Outcome := intBin bsrc ty c1 c0 (· + ·) s
/-- SUB (R175). -/
def execSub (bsrc : BitVec 3) (ty : IntTy) (c1 c0 : Cons) (s : State) : Outcome := intBin bsrc ty c1 c0 (· - ·) s
/-- MUL (R175). -/
def execMul (bsrc : BitVec 3) (ty : IntTy) (c1 c0 : Cons) (s : State) : Outcome := intBinIn (mulLat ty) bsrc ty c1 c0 (· * ·) s
/-- MULH (R175): the high half of the exact product. -/
def execMulh (bsrc : BitVec 3) (ty : IntTy) (c1 c0 : Cons) (s : State) : Outcome :=
  intBinIn (mulLat ty) bsrc ty c1 c0 (fun x y => (x * y) / (2 ^ itWidth ty : Nat)) s
/-- MAD (R175). -/
def execMad (bsrc : BitVec 3) (ty : IntTy) (c1 c0 : Cons) (s : State) : Outcome :=
  intTer (mulLat ty) bsrc ty c1 c0 (fun x y z => x * y + z) s
/-- DIV (R175): truncated; 0 for a divisor of 0. -/
def execDiv (bsrc : BitVec 3) (ty : IntTy) (c1 c0 : Cons) (s : State) : Outcome :=
  intBinIn (divLat ty) bsrc ty c1 c0 (fun x y => if y = 0 then 0 else x.tdiv y) s
/-- REM (R175): the dividend for a divisor of 0. -/
def execRem (bsrc : BitVec 3) (ty : IntTy) (c1 c0 : Cons) (s : State) : Outcome :=
  intBinIn (divLat ty) bsrc ty c1 c0 (fun x y => if y = 0 then x else x - x.tdiv y * y) s
/-- AND (R175). -/
def execAnd (bsrc : BitVec 3) (ty : IntTy) (c1 c0 : Cons) (s : State) : Outcome := patBin bsrc ty c1 c0 (· &&& ·) s
/-- OR (R175). -/
def execOr (bsrc : BitVec 3) (ty : IntTy) (c1 c0 : Cons) (s : State) : Outcome := patBin bsrc ty c1 c0 (· ||| ·) s
/-- XOR (R175). -/
def execXor (bsrc : BitVec 3) (ty : IntTy) (c1 c0 : Cons) (s : State) : Outcome := patBin bsrc ty c1 c0 (· ^^^ ·) s
/-- ANDN (R175): x AND NOT y. -/
def execAndn (bsrc : BitVec 3) (ty : IntTy) (c1 c0 : Cons) (s : State) : Outcome :=
  patBin bsrc ty c1 c0 (fun x y => x ^^^ (x &&& y)) s
/-- SHL (R176). -/
def execShl (bsrc : BitVec 3) (ty : IntTy) (c1 c0 : Cons) (s : State) : Outcome :=
  patBin bsrc ty c1 c0 (fun x n => if n < itWidth ty then x * 2 ^ n else 0) s
/-- SHR (R176). -/
def execShr (bsrc : BitVec 3) (ty : IntTy) (c1 c0 : Cons) (s : State) : Outcome :=
  patBin bsrc ty c1 c0 (fun x n => if n < itWidth ty then x / 2 ^ n else 0) s
/-- SAR (R176): bit w-1 shifted in, whatever the signedness of the type. -/
def execSar (bsrc : BitVec 3) (ty : IntTy) (c1 c0 : Cons) (s : State) : Outcome :=
  intBin bsrc ty c1 c0 (fun x y =>
    let n := pattern ty y
    let v := sx (pattern ty x) (itWidth ty)
    if n < itWidth ty then v / (2 ^ n : Nat) else if v < 0 then -1 else 0) s
/-- ROT (R176): left by the count modulo w. -/
def execRot (bsrc : BitVec 3) (ty : IntTy) (c1 c0 : Cons) (s : State) : Outcome :=
  patBin bsrc ty c1 c0 (fun x y => let n := y % itWidth ty; x * 2 ^ n ||| x / 2 ^ (itWidth ty - n)) s
/-- MIN (R175). -/
def execMin (bsrc : BitVec 3) (ty : IntTy) (c1 c0 : Cons) (s : State) : Outcome :=
  intBin bsrc ty c1 c0 (fun x y => if x ≤ y then x else y) s
/-- MAX (R175). -/
def execMax (bsrc : BitVec 3) (ty : IntTy) (c1 c0 : Cons) (s : State) : Outcome :=
  intBin bsrc ty c1 c0 (fun x y => if x ≥ y then x else y) s
/-- ABS (R175). -/
def execAbs (ty : IntTy) (c1 c0 : Cons) (s : State) : Outcome := intUn ty c1 c0 (fun x => if x < 0 then -x else x) s
/-- NEG (R175). -/
def execNeg (ty : IntTy) (c1 c0 : Cons) (s : State) : Outcome := intUn ty c1 c0 (fun x => -x) s
/-- CLZ (R175): w for a pattern of 0. -/
def execClz (ty : IntTy) (c1 c0 : Cons) (s : State) : Outcome :=
  intUn ty c1 c0 (fun x =>
    let u := pattern ty x
    (if u = 0 then itWidth ty else itWidth ty - 1 - Nat.log2 u : Nat)) s
/-- POPC (R175). -/
def execPopc (ty : IntTy) (c1 c0 : Cons) (s : State) : Outcome :=
  intUn ty c1 c0 (fun x => (((List.range (itWidth ty)).filter (pattern ty x).testBit).length : Nat)) s
/-- BREV (R175). -/
def execBrev (ty : IntTy) (c1 c0 : Cons) (s : State) : Outcome :=
  intUn ty c1 c0 (fun x =>
    ((List.range (itWidth ty)).foldl (fun v i => bif (pattern ty x).testBit i then v + 2 ^ (itWidth ty - 1 - i) else v) 0 : Nat)) s
/-- The element of the operand that BSRC governs as it stands, its high bits with it (R177). -/
def bsrcBits (c : Ctx) (bsrc : BitVec 3) (port e : Nat) : Nat :=
  bif bsrc == 0#3 then (c.val port e).toNat else (c.k (bsrc.toNat - 1)).toNat

/-- The field position and the length in an element: bits 5 to 0 and 13 to 8 (R177). -/
def fieldPos (v : Nat) : Nat := v % 64
def fieldLen (v : Nat) : Nat := v / 256 % 64

/-- EXT of a w-bit pattern (R177). -/
def extBits (ty : IntTy) (u y : Nat) : Int :=
  let v := u / 2 ^ fieldPos y % 2 ^ fieldLen y
  if fieldLen y = 0 then 0 else if itSigned ty then sx v (fieldLen y) else (v : Int)

/-- EXT (R177). -/
def execExt (bsrc : BitVec 3) (ty : IntTy) (c1 c0 : Cons) (s : State) : Outcome :=
  let wide := itWidth ty == 64
  fireMap s lat2 (laneLimit wide) c1 c0 wide (fun c e => wrInt ty (extBits ty (pattern ty (rdPort c ty 0 e)) (bsrcBits c bsrc 1 e)))

/-- INS into a w-bit pattern (R177). -/
def insBits (u v z : Nat) : Nat :=
  let mask := (2 ^ fieldLen z - 1) * 2 ^ fieldPos z
  (u ^^^ (u &&& mask)) ||| (v % 2 ^ fieldLen z * 2 ^ fieldPos z)

/-- INS (R177). -/
def execIns (bsrc : BitVec 3) (ty : IntTy) (c1 c0 : Cons) (s : State) : Outcome :=
  let wide := itWidth ty == 64
  fireMap s lat2 (laneLimit wide) c1 c0 wide (fun c e =>
    wrInt ty (insBits (pattern ty (rdPort c ty 0 e)) (pattern ty (rdPort c ty 1 e)) (bsrcBits c bsrc 2 e) : Nat))

/-- ADDSAT (R175). -/
def execAddsat (bsrc : BitVec 3) (ty : IntTy) (c1 c0 : Cons) (s : State) : Outcome :=
  intBin bsrc ty c1 c0 (fun x y => clamp (x + y) (itMin ty) (itMax ty)) s
/-- SUBSAT (R175). -/
def execSubsat (bsrc : BitVec 3) (ty : IntTy) (c1 c0 : Cons) (s : State) : Outcome :=
  intBin bsrc ty c1 c0 (fun x y => clamp (x - y) (itMin ty) (itMax ty)) s
/-- CMP (R180): n32 1 where the condition holds, else 0. -/
def execCmp (cond : Cmp) (ty : IntTy) (c1 c0 : Cons) (s : State) : Outcome :=
  fireMap s lat2 (laneLimit (itWidth ty == 64)) c1 c0 false (fun c e => flag (cmpInt cond (rdPort c ty 0 e) (rdPort c ty 1 e)))
/-- The width that WID names (R172). -/
def widBits (wid : BitVec 3) : Nat := 4 * 2 ^ wid.toNat
/-- SEXT (R178). -/
def execSext (wid : BitVec 3) (ty : IntTy) (c1 c0 : Cons) (s : State) : Outcome :=
  intUn ty c1 c0 (fun x => sx (pattern ty x) (widBits wid)) s
/-- ZEXT (R178). -/
def execZext (wid : BitVec 3) (ty : IntTy) (c1 c0 : Cons) (s : State) : Outcome :=
  intUn ty c1 c0 (fun x => (pattern ty x % 2 ^ widBits wid : Nat)) s
/-- ADDR (R178): a as n64 plus b as i32 times 2^S, modulo 2^64. -/
def execAddr (bsrc : BitVec 3) (scale : BitVec 3) (c1 c0 : Cons) (s : State) : Outcome :=
  fireMap s lat2 (laneLimit true) c1 c0 true (fun c e =>
    wrInt .n64 (rdPort c .n64 0 e + bsrcInt c bsrc .i32 1 e * (2 ^ scale.toNat : Nat)))
/-- ADDC (R179): the sum to C0, the carry as n32 to C1. -/
def execAddc (bsrc : BitVec 3) (ty : IntTy) (c1 c0 : Cons) (s : State) : Outcome :=
  let wide := itWidth ty == 64
  fireLanes s lat2 (laneLimit wide) (fun c es =>
    let sum := fun e => rdPort c ty 0 e + rdPort c ty 1 e + (if bsrcInt c bsrc ty 2 e = 0 then 0 else 1)
    [{ cons := c0, kind := runKind wide, elems := mapElems c es (fun e => wrInt ty (sum e)) },
     { cons := c1, kind := .r32, elems := mapElems c es (fun e => carryOut (itWidth ty) (sum e)) }])

end Sys2Proof.Machine
end

