-- ==== Sys2Proof/Machine/Special.lean ====
section
/-!
DEFINITION. Sys2Proof/Machine/Special.lean: the special functions of R187, each correctly rounded. A function is
enclosed between two fixed-point numbers of P fraction bits; where both ends agree on enough leading bits, these bits and a mark
`more` (the value lies strictly above them) decide every rounding of R86-R88. Where the enclosure straddles, a larger P is
taken. Exact values and the arguments of the table of R187 are answered before.
-/
namespace Sys2Proof.Machine

/-- π × 2^640, rounded down. -/
def piFix : Nat := 0x3243F6A8885A308D313198A2E03707344A4093822299F31D0082EFA98EC4E6C89452821E638D01377BE5466CF34E90C6CC0AC29B7C97C50DD3F84D5B5B54709179216D5D98979FB1BD1310BA698DFB5AC

/-- ln 2 × 2^640, rounded down. -/
def ln2Fix : Nat := 0xB17217F7D1CF79ABC9E3B39803F2F6AF40F343267298B62D8A0D175B8BAAFA2BE7B876206DEBAC98559552FB4AFA1B10ED2EAE35C138214427573B291169B8253E96CA16224AE8C51ACBDA11317C387E

/-- An enclosure: a centre and an error, in units of 2^-P. -/
structure Encl where
  c : Int
  err : Nat
  deriving DecidableEq, Repr

/-- A positive real as a floating magnitude m × 2^e, and a little more where `more`. -/
structure Mag where
  m : Nat
  e : Int
  more : Bool
  deriving DecidableEq, Repr

/-- The leading bits on which both ends of an enclosure of a positive number agree, at least 64 of them. `fuel` bits are
dropped at most. -/
def agree (p : Nat) : (fuel lo hi dropped : Nat) → Option Mag
  | 0, _, _, _ => none
  | fuel + 1, lo, hi, dropped =>
    if lo = hi then
      if 2 ^ 64 ≤ lo then some { m := lo, e := (dropped : Int) - p, more := true } else none
    else agree p fuel (lo / 2) (hi / 2) (dropped + 1)

/-- The magnitude within an enclosure of a positive number. -/
def Encl.mag? (p : Nat) (x : Encl) : Option Mag :=
  let lo := x.c - x.err
  if lo ≤ 0 then none else agree p 64 lo.toNat (x.c + x.err).toNat 0

/-- A constant given with 640 fraction bits, at P bits. -/
def atP (p v : Nat) : Nat := v / 2 ^ (640 - p)

/-- Fixed-point product, rounded down. -/
def mulP (p : Nat) (a b : Int) : Int := (a * b) / (2 ^ p : Nat)

/-- The terms of a power series: `t` is the term at index `k`, the next is t × x ÷ d(k). -/
def seriesP (p : Nat) (x : Int) (d : Nat → Int) : (fuel k : Nat) → (t acc : Int) → Int
  | 0, _, _, acc => acc
  | fuel + 1, k, t, acc =>
    let t' := mulP p t x / d k
    seriesP p x d fuel (k + 1) t' (acc + t')

/-- Terms of a series that are taken at P bits: enough for arguments below 2 to leave a tail below one unit. -/
def termsP (p : Nat) : Nat := p / 4 + 40

/-- e^r for 0 ≤ r < 1 at P bits (Taylor). -/
def expP (p : Nat) (r : Int) : Encl :=
  { c := seriesP p r (fun k => (k + 1 : Nat)) (termsP p) 0 (2 ^ p : Nat) (2 ^ p : Nat), err := 4 * termsP p + 8 }

/-- e^x for an exact x = c × 2^-P with error `err`: n, and the enclosure of e^x × 2^-n. -/
def expSplit (p : Nat) (x : Encl) : Int × Encl :=
  let l : Int := atP p ln2Fix
  let n := x.c / l
  let r := x.c - n * l
  let y := expP p (if r < 0 then 0 else r)
  (n, { c := y.c, err := y.err + 4 * (x.err + n.natAbs + 2) + 4 })

/-- A quotient 1 ÷ y of an enclosed y between 1/2 and 2^40, at P bits. -/
def recipP (p : Nat) (y : Encl) : Encl :=
  { c := ((2 ^ (2 * p) : Nat) : Int) / y.c, err := 8 * y.err + 8 }

/-- The natural logarithm of y, 1 ≤ y < 2, given at P bits exactly: 2 artanh((y-1)/(y+1)). -/
def lnP (p : Nat) (y : Nat) : Encl :=
  let one := 2 ^ p
  let z : Int := (((y - one) * one / (y + one) : Nat) : Int)
  let z2 := mulP p z z
  let rec go : (fuel k : Nat) → (t acc : Int) → Int
    | 0, _, _, acc => acc
    | fuel + 1, k, t, acc =>
      let t' := mulP p t z2
      go fuel (k + 1) t' (acc + t' / (2 * (k : Int) + 3))
  { c := 2 * go (p / 3 + 8) 0 z z, err := 8 * (p / 3 + 8) + 16 }

/-- sin r (`odd`) or cos r at P bits, for an enclosed r between -1 and 2 (Taylor). -/
def sincosP (p : Nat) (odd : Bool) (r : Encl) : Encl :=
  let r2 := -(mulP p r.c r.c)
  let c := bif odd then seriesP p r2 (fun k => ((2 * k + 2) * (2 * k + 3) : Nat)) (termsP p / 2) 0 r.c r.c
    else seriesP p r2 (fun k => ((2 * k + 1) * (2 * k + 2) : Nat)) (termsP p / 2) 0 (2 ^ p : Nat) (2 ^ p : Nat)
  { c := c, err := 4 * r.err + 8 * termsP p + 16 }

/-- An exact magnitude m × 2^e at P bits, rounded down, with the error that leaves. -/
def fixP (p m : Nat) (e : Int) : Encl :=
  let s := e + p
  if 0 ≤ s then { c := ((m * 2 ^ s.toNat : Nat) : Int), err := 0 } else { c := ((m / 2 ^ (-s).toNat : Nat) : Int), err := 1 }

/-- The first answer at the precisions tried; the enclosures of all arguments of f32 and bf16 agree at the first or the
second. -/
def tryP (f : Nat → Option Mag) (other : Mag) : Mag :=
  match f 352 with
  | some m => m
  | none => match f 480 with
    | some m => m
    | none => other

/-- A positive real a little below m × 2^e. -/
def below (m : Nat) (e : Int) : Mag := { m := m * 2 ^ 80 - 1, e := e - 80, more := true }

/-- A positive real a little above m × 2^e. -/
def above (m : Nat) (e : Int) : Mag := { m := m * 2 ^ 80, e := e - 80, more := true }

/-- A positive real below every half of a smallest subnormal. -/
def tiny : Mag := { m := 1, e := -1000, more := true }

/-- The power of two just above the magnitude of m × 2^e (m not zero). -/
def ceilExp (m : Nat) (e : Int) : Int := (Nat.log2 m : Int) + 1 + e

/-- An exact result. -/
def exact (m : Nat) (e : Int) : Mag := { m := m, e := e, more := false }

/-- 2^x for x = ± m × 2^e, not zero. -/
def exp2Mag (neg : Bool) (m : Nat) (e : Int) : Mag :=
  if 9 ≤ ceilExp m e then bif neg then tiny else exact 1 1000
  else if ceilExp m e ≤ -60 then bif neg then below 1 0 else above 1 0
  else if 0 ≤ e then exact 1 (signed neg (m * 2 ^ e.toNat))
  else
    let d := (-e).toNat
    let n := signed neg m / (2 ^ d : Nat)
    let fr := (signed neg m - n * (2 ^ d : Nat)).toNat
    if fr = 0 then exact 1 n
    else
      tryP (fun p =>
        let x := fixP p fr e
        let y := expP p (mulP p x.c (atP p ln2Fix))
        ({ c := y.c, err := y.err + 4 * x.err + 16 } : Encl).mag? p |>.map (fun g => { g with e := g.e + n })) tiny

/-- log₂ x for x = m × 2^e, not zero: the sign and magnitude. -/
def log2Mag (m : Nat) (e : Int) : Bool × Mag :=
  let n := (Nat.log2 m : Int) + e
  if m = 2 ^ Nat.log2 m then (decide (n < 0), exact n.natAbs 0)
  else
    let val := fun p =>
      let y := m * 2 ^ (p - Nat.log2 m)
      let l := lnP p y
      let q : Int := (l.c * (2 ^ p : Nat)) / (atP p ln2Fix : Nat)
      ({ c := n * (2 ^ p : Nat) + q, err := 4 * l.err + 16 } : Encl)
    let neg := decide (n < 0)
    (neg, tryP (fun p => let v := val p; ({ v with c := if neg then -v.c else v.c } : Encl).mag? p) tiny)

/-- The square root of a natural number, rounded down, bit by bit. -/
def isqrt (v : Nat) : (bits r : Nat) → Nat
  | 0, r => r
  | b + 1, r => let r' := r + 2 ^ b; if r' * r' ≤ v then isqrt v b r' else isqrt v b r

/-- 1/x for x = m × 2^e, not zero. -/
def rcpMag (m : Nat) (e : Int) : Mag :=
  { m := 2 ^ 160 / m, e := -160 - e, more := 2 ^ 160 % m != 0 }

/-- √x for x = m × 2^e, not zero. -/
def sqrtMag (m : Nat) (e : Int) : Mag :=
  let odd := e % 2 = 1
  let v := (if odd then 2 * m else m) * 2 ^ 160
  let r := isqrt v 100 0
  { m := r, e := ((if odd then e - 1 else e) - 160) / 2, more := r * r != v }

/-- 1/√x for x = m × 2^e, not zero. -/
def rsqrtMag (m : Nat) (e : Int) : Mag :=
  let odd := e % 2 = 1
  let d := if odd then 2 * m else m
  let v := 2 ^ 240 / d
  let r := isqrt v 124 0
  { m := r, e := -(120 + (if odd then e - 1 else e) / 2), more := !(r * r * d == 2 ^ 240) }

/-- sin x (`odd`) or cos x for a positive x = m × 2^e: the sign and magnitude. -/
def sincosMag (odd : Bool) (m : Nat) (e : Int) : Bool × Mag :=
  if ceilExp m e ≤ -60 then (false, bif odd then below m e else below 1 0)
  else
    let atPrec := fun p =>
      let half : Int := piFix / 2
      let x := fixP 640 m e
      let k := x.c / half
      let r := x.c - k * half
      let quad := bif odd then k % 4 else (k + 1) % 4
      let useSin := quad == 0 || quad == 2
      let rp : Encl := { c := r / (2 ^ (640 - p) : Nat), err := 2 + (k.natAbs + 1) / 2 ^ (640 - p) + x.err }
      (quad == 2 || quad == 3, sincosP p useSin rp)
    ((atPrec 352).1, tryP (fun p => ((atPrec p).2).mag? p) tiny)

/-- tanh x for a positive x = m × 2^e: by e^2x. -/
def tanhMag (m : Nat) (e : Int) : Mag :=
  if ceilExp m e ≤ -60 then below m e
  else if 7 ≤ ceilExp m e then below 1 0
  else tryP (fun p =>
    let (n, y) := expSplit p (fixP p (2 * m) e)
    -- with t = e^-2x = 2^-n / y, tanh = (1 - t)/(1 + t)
    let t := recipP p y
    let t : Encl := { c := t.c / (2 ^ n.toNat : Nat), err := t.err + 1 }
    let num : Int := (2 ^ p : Nat) - t.c
    let den : Int := (2 ^ p : Nat) + t.c
    ({ c := num * (2 ^ p : Nat) / den, err := 4 * t.err + 4 } : Encl).mag? p) tiny

/-- 1/(1+e^-x) for x = ± m × 2^e, not zero. -/
def sigmMag (neg : Bool) (m : Nat) (e : Int) : Mag :=
  if ceilExp m e ≤ -60 then bif neg then below 1 (-1) else above 1 (-1)
  else if 9 ≤ ceilExp m e then bif neg then tiny else below 1 0
  else tryP (fun p =>
    let (n, y) := expSplit p (fixP p m e)
    -- t = e^-|x| = 2^-n / y; the result is 1/(1+t) for a positive x and t/(1+t) for a negative one
    let t := recipP p y
    bif neg then
      let den : Int := (2 ^ p : Nat) + t.c / (2 ^ n.toNat : Nat)
      (({ c := t.c * (2 ^ p : Nat) / den, err := 8 * t.err + 8 } : Encl).mag? p).map (fun g => { g with e := g.e - n })
    else
      let u : Encl := { c := t.c / (2 ^ n.toNat : Nat), err := t.err + 1 }
      ({ c := (2 ^ (2 * p) : Nat) / ((2 ^ p : Nat) + u.c), err := 4 * u.err + 8 } : Encl).mag? p) tiny

end Sys2Proof.Machine
end

