-- ==== Sys2Proof/Machine/LanesFloat.lean ====
section
/-!
DEFINITION. Sys2Proof/Machine/LanesFloat.lean: the floating-point forms, conversion and quantisation (R181-R193).
-/
namespace Sys2Proof.Machine

/-- The rounding of an element of a firing: under SR, its stochastic word from the plot's seed, the tag and the lane
(R88, R89, R202). -/
def rndOf (c : Ctx) (rm : Rm) (e : Nat) : Rnd :=
  { mode := rm, word := match rm with
      | .sr => srWord c.plot.srseed (c.tag e) e
      | _ => 0 }

/-- `rd(x, e)` for a floating-point type. -/
def rdF (c : Ctx) (f : Fmt) (port e : Nat) : FVal := decodeF f (c.val port e).toNat

/-- A floating-point pattern as an element. -/
def patF (v : Nat) : Dword := dw v

/-- A form that rounds the exact result `g` of its operands once (R182). -/
def floatOp (rm : Rm) (ty : Ty) (c1 c0 : Cons) (g : Ctx → Fmt → Nat → FVal) (s : State) : Outcome :=
  fireMap s lat4 32 c1 c0 false (fun c e => patF (roundF (fmtOf ty) (rndOf c rm e) false (g c (fmtOf ty) e)))

/-- FADD (R182). -/
def execFadd (rm : Rm) (ty : Ty) (c1 c0 : Cons) (s : State) : Outcome :=
  floatOp rm ty c1 c0 (fun c f e => addF (rdF c f 0 e) (rdF c f 1 e)) s
/-- FSUB (R182). -/
def execFsub (rm : Rm) (ty : Ty) (c1 c0 : Cons) (s : State) : Outcome :=
  floatOp rm ty c1 c0 (fun c f e => addF (rdF c f 0 e) (negF (rdF c f 1 e))) s
/-- FMUL (R182). -/
def execFmul (rm : Rm) (ty : Ty) (c1 c0 : Cons) (s : State) : Outcome :=
  floatOp rm ty c1 c0 (fun c f e => mulF (rdF c f 0 e) (rdF c f 1 e)) s
/-- FMA (R182): one rounding of the exact product and sum. -/
def execFma (rm : Rm) (ty : Ty) (c1 c0 : Cons) (s : State) : Outcome :=
  floatOp rm ty c1 c0 (fun c f e => addF (mulF (rdF c f 0 e) (rdF c f 1 e)) (rdF c f 2 e)) s

/-- The smaller (`less`) or greater of two patterns, −0 below +0; NaN by NANP (R183). -/
def minmaxF (less nanp : Bool) (f : Fmt) (x y : Nat) : Nat :=
  let vx := decodeF f x
  let vy := decodeF f y
  let px := x % 2 ^ f.width
  let py := y % 2 ^ f.width
  if vx.isNan && vy.isNan then f.nan
  else if vx.isNan then (bif nanp then f.nan else py)
  else if vy.isNan then (bif nanp then f.nan else px)
  else if ltSigned vy vx == less then py else px

/-- FMIN (R183). -/
def execFmin (nanp : Bool) (ty : Ty) (c1 c0 : Cons) (s : State) : Outcome :=
  fireMap s lat4 32 c1 c0 false (fun c e => patF (minmaxF true nanp (fmtOf ty) (c.val 0 e).toNat (c.val 1 e).toNat))
/-- FMAX (R183). -/
def execFmax (nanp : Bool) (ty : Ty) (c1 c0 : Cons) (s : State) : Outcome :=
  fireMap s lat4 32 c1 c0 false (fun c e => patF (minmaxF false nanp (fmtOf ty) (c.val 0 e).toNat (c.val 1 e).toNat))

/-- The pattern with its sign changed by `g`; the default NaN for NaN (R184). -/
def signF (g : Bool → Bool) (f : Fmt) (x : Nat) : Nat :=
  let mag := x % 2 ^ (f.width - 1)
  if (decodeF f x).isNan then f.nan else signBit f (g (x / 2 ^ (f.width - 1) % 2 == 1)) + mag

/-- FABS (R184). -/
def execFabs (ty : Ty) (c1 c0 : Cons) (s : State) : Outcome :=
  fireMap s lat2 32 c1 c0 false (fun c e => patF (signF (fun _ => false) (fmtOf ty) (c.val 0 e).toNat))
/-- FNEG (R184). -/
def execFneg (ty : Ty) (c1 c0 : Cons) (s : State) : Outcome :=
  fireMap s lat2 32 c1 c0 false (fun c e => patF (signF (!·) (fmtOf ty) (c.val 0 e).toNat))
/-- FCMP (R185). -/
def execFcmp (cond : Cmp) (ty : Ty) (c1 c0 : Cons) (s : State) : Outcome :=
  fireMap s lat4 32 c1 c0 false (fun c e => flag (cmpFloat cond (rdF c (fmtOf ty) 0 e) (rdF c (fmtOf ty) 1 e)))
/-- FCLASS (R184). -/
def execFclass (ty : Ty) (c1 c0 : Cons) (s : State) : Outcome :=
  fireMap s lat2 32 c1 c0 false (fun c e => dw (classMask (fmtOf ty) (c.val 0 e).toNat))

/-- The integral value of FRND (R186): rounded with a step of 1; a zero keeps the sign of x. -/
def frndF (f : Fmt) (r : Rnd) (x : Nat) : Nat :=
  match decodeF f x with
  | .nan => f.nan
  | .inf neg => signBit f neg + (f.inf.getD f.maxFin)
  | .fin neg m e => roundMag f rne false neg (roundStep r neg m e 0 false) 0 false

/-- FRND (R186). -/
def execFrnd (rm : Rm) (ty : Ty) (c1 c0 : Cons) (s : State) : Outcome :=
  fireMap s lat4 32 c1 c0 false (fun c e => patF (frndF (fmtOf ty) (rndOf c rm e) (c.val 0 e).toNat))

/-- The special functions of R187. -/
inductive Func where
  | exp2 | log2 | rcp | rsqrt | sqrt | sin | cos | tanh | sigm
  deriving DecidableEq, Repr

/-- The magnitude of a special function at a finite nonzero argument, with the sign of the result; none is NaN (R187).
-/
def funcMag (g : Func) (neg : Bool) (m : Nat) (e : Int) : Option (Bool × Mag) :=
  match g with
  | .exp2 => some (false, exp2Mag neg m e)
  | .log2 => bif neg then none else some (log2Mag m e)
  | .rcp => some (neg, rcpMag m e)
  | .rsqrt => bif neg then none else some (false, rsqrtMag m e)
  | .sqrt => bif neg then none else some (false, sqrtMag m e)
  | .sin => let r := sincosMag true m e; some (r.1 != neg, r.2)
  | .cos => some (sincosMag false m e)
  | .tanh => some (neg, tanhMag m e)
  | .sigm => some (false, sigmMag neg m e)

/-- The pattern of a signed infinity, zero or one of a format. -/
def infPat (f : Fmt) (neg : Bool) : Nat := signBit f neg + f.inf.getD f.maxFin

/-- A power of two as a pattern. -/
def powPat (f : Fmt) (neg : Bool) (e : Int) : Nat := roundMag f rne false neg 1 e false

/-- A special function of a pattern, by the table of R187 and the magnitudes of Special.lean. -/
def funcF (g : Func) (f : Fmt) (r : Rnd) (x : Nat) : Nat :=
  match decodeF f x with
  | .nan => f.nan
  | .inf neg =>
    match g with
    | .exp2 => bif neg then 0 else infPat f false
    | .log2 | .sqrt => bif neg then f.nan else infPat f false
    | .rcp => signBit f neg
    | .rsqrt => bif neg then f.nan else 0
    | .sin | .cos => f.nan
    | .tanh => powPat f neg 0
    | .sigm => bif neg then 0 else powPat f false 0
  | .fin neg m e =>
    if m = 0 then
      match g with
      | .exp2 | .cos => powPat f false 0
      | .log2 => infPat f true
      | .rcp | .rsqrt => infPat f neg
      | .sqrt | .sin | .tanh => signBit f neg
      | .sigm => powPat f false (-1)
    else
      match funcMag g neg m e with
      | none => f.nan
      | some (sg, v) => roundMag f r false sg v.m v.e v.more

/-- A form that gives a special function of its operand. -/
def funcOp (g : Func) (rm : Rm) (ty : Ty) (c1 c0 : Cons) (s : State) : Outcome :=
  fireMap s ⟨12, 8⟩ 32 c1 c0 false (fun c e => patF (funcF g (fmtOf ty) (rndOf c rm e) (c.val 0 e).toNat))

/-- EXP2 (R187). -/
def execExp2 (rm : Rm) (ty : Ty) (c1 c0 : Cons) (s : State) : Outcome := funcOp .exp2 rm ty c1 c0 s
/-- LOG2 (R187). -/
def execLog2 (rm : Rm) (ty : Ty) (c1 c0 : Cons) (s : State) : Outcome := funcOp .log2 rm ty c1 c0 s
/-- RCP (R187). -/
def execRcp (rm : Rm) (ty : Ty) (c1 c0 : Cons) (s : State) : Outcome := funcOp .rcp rm ty c1 c0 s
/-- RSQRT (R187). -/
def execRsqrt (rm : Rm) (ty : Ty) (c1 c0 : Cons) (s : State) : Outcome := funcOp .rsqrt rm ty c1 c0 s
/-- SQRT (R187). -/
def execSqrt (rm : Rm) (ty : Ty) (c1 c0 : Cons) (s : State) : Outcome := funcOp .sqrt rm ty c1 c0 s
/-- SIN (R187). -/
def execSin (rm : Rm) (ty : Ty) (c1 c0 : Cons) (s : State) : Outcome := funcOp .sin rm ty c1 c0 s
/-- COS (R187). -/
def execCos (rm : Rm) (ty : Ty) (c1 c0 : Cons) (s : State) : Outcome := funcOp .cos rm ty c1 c0 s
/-- TANH (R187). -/
def execTanh (rm : Rm) (ty : Ty) (c1 c0 : Cons) (s : State) : Outcome := funcOp .tanh rm ty c1 c0 s
/-- SIGM (R187). -/
def execSigm (rm : Rm) (ty : Ty) (c1 c0 : Cons) (s : State) : Outcome := funcOp .sigm rm ty c1 c0 s

/-- RCPA (R188): RCP under RZ with mantissa bits 10-0 cleared; a special operand gives the result of RCP. -/
def rcpaF (x : Nat) : Nat :=
  let v := funcF .rcp fmtF32 { mode := .rz, word := 0 } x
  match decodeF fmtF32 x with
  | .fin _ m _ => if m = 0 then v else v / 2 ^ 11 * 2 ^ 11
  | _ => v

/-- RCPA (R188). -/
def execRcpa (_ty : Ty) (c1 c0 : Cons) (s : State) : Outcome :=
  fireMap s ⟨12, 8⟩ 32 c1 c0 false (fun c e => patF (rcpaF (c.val 0 e).toNat))

/-! ### Conversion (R189-R191) -/

/-- The source format of a float source of CVT. -/
def cvtSrc (cv : Nat) : Fmt :=
  if cv = 4 ∨ 13 ≤ cv then fmtBf16 else if cv = 5 then fmtE4m3 else if cv = 6 then fmtE5m2 else fmtF32

/-- The destination format of a float destination of CVT. -/
def cvtDst (cv : Nat) : Fmt :=
  if cv = 0 then fmtBf16 else if cv = 1 ∨ cv = 13 then fmtE4m3 else if cv = 2 ∨ cv = 3 ∨ cv = 14 then fmtE5m2 else fmtF32

/-- The integer type of a conversion to or from an integer. -/
def cvtInt (cv : Nat) : IntTy :=
  if cv = 8 ∨ cv = 11 then .n32 else if cv = 9 ∨ cv = 12 then .i64 else .i32

/-- The result of a conversion code on an element (R190, R191). -/
def cvtElem (cv : Nat) (r : Rnd) (k : Kind) (v : Dword) : Dword :=
  if 7 ≤ cv ∧ cv ≤ 9 then
    let t := cvtInt cv
    wrInt t (toIntF r (itMin t) (itMax t) (decodeF fmtF32 v.toNat))
  else if 10 ≤ cv ∧ cv ≤ 12 then patF (roundF fmtF32 r false (ofInt (rdInt (cvtInt cv) k v)))
  else patF (roundF (cvtDst cv) r (cv == 3) (decodeF (cvtSrc cv) v.toNat))

/-- CVT (R191); a firing that reads or writes i64 covers 16 elements (R168). -/
def execCvt (rm : Rm) (cv : BitVec 4) (c1 c0 : Cons) (s : State) : Outcome :=
  fireMap s lat4 (laneLimit (cv == 9#4 || cv == 12#4)) c1 c0 (cv == 9#4) (fun c e => cvtElem cv.toNat (rndOf c rm e) (c.kind 0) (c.val 0 e))

/-- QNT of an f32 element by an E8M0 scale (R192). -/
def qntElem (ty : Ty) (r : Rnd) (x scale : Nat) : Dword :=
  let v := decodeF fmtF32 x
  if scale = 255 ∨ v.isNan then (match ty with
    | .e4m3 => 0x7F
    | _ => 0)
  else
    let y := scaleF (127 - (scale : Int)) v
    match ty with
    | .e4m3 => patF (roundF fmtE4m3 r false y)
    | .i4x => dw (((toIntF r (-7) 7 y) % 16).toNat)
    | _ => wrInt .i8 (toIntF r (-128) 127 y)

/-- QNT (R192). -/
def execQnt (rm : Rm) (ty : Ty) (c1 c0 : Cons) (s : State) : Outcome :=
  fireMap s lat4 32 c1 c0 false (fun c e => qntElem ty (rndOf c rm e) (c.val 0 e).toNat ((c.val 1 e).toNat % 256))

/-- DQNT of an element by an E8M0 scale: the pattern, and whether it sets FX (R193). -/
def dqntElem (ty : Ty) (x scale : Nat) : Dword × Bool :=
  if scale = 255 then (patF fmtF32.nan, false)
  else
    let n : Int := (scale : Int) - 127
    match ty with
    | .i4x => let (v, fx) := bareI4x x; (patF (roundF fmtF32 rne false (scaleF n (ofInt v))), fx)
    | .i8 => (patF (roundF fmtF32 rne false (scaleF n (ofInt (sx x 8)))), false)
    | t => (patF (roundF fmtF32 rne false (scaleF n (decodeF (fmtOf t) x))), false)

/-- DQNT (R193): it sets FX for a bare marker. -/
def execDqnt (ty : Ty) (c1 c0 : Cons) (s : State) : Outcome :=
  match ctxOf? s s.cur with
  | none => .fault .noFiring
  | some c =>
    match readyElems c.blk c.inst c.f.slot with
    | [] => .next s
    | es =>
      let one := fun e => dqntElem ty (c.val 0 e).toNat ((c.val 1 e).toNat % 256)
      let fx := es.any (fun e => !c.null e && (one e).2)
      let s := onPlot s c.f.plot (fun p => { p with numst := setFx p.numst fx })
      .next (complete s c 4 es (both c1 c0 .r32 (mapElems c es (fun e => (one e).1))))

end Sys2Proof.Machine
end

