-- ==== Sys2Proof/Machine/Ports.lean ====
section
/-!
DEFINITION. Sys2Proof/Machine/Ports.lean: the memory-path forms of a cell (R281-R287, R290, R263) and the occurrences that
carry their requests to the slices and their replies back (R262, R292, R307, R282, R284).
-/
namespace Sys2Proof.Machine

/-! ### Requests -/

/-- The home port of the cell of a firing; 0 where it has none, which the way of an access has ruled out. -/
def Ctx.port (c : Ctx) : Nat := (homePort? c.plot c.f.cell).getD 0

/-- A request put at the end of a P-cell's queue, after the coalescer buffer of its line (R262). -/
def sendReq (s : State) (port v line : Nat) (k : ReqKind) : State :=
  let s := flushBuffer s port line
  let r := mkReq s port v line k
  onPort s port (fun p => { p with out := p.out ++ [r] })

/-- A write taken by a P-cell: into its coalescer, or, an atomic or a stream's store, on its way to the home slice. The line that the P-cell
holds is older (R319). -/
def takeWrite (s : State) (port v line : Nat) (k : ReqKind) : State :=
  match k with
  | .write d mask side by_ => by_.foldl (fun s b => mergeWrite s port v line d mask side b) s
  | k => dropLine (sendReq s port v line k) port line

/-- A write that reaches a P-cell at an address: taken, or, where the hand-over of its region to the P-cell is under way, left to wait for the
token behind those that came before it (R263). -/
def reachPort (s : State) (port v va line : Nat) (k : ReqKind) : State :=
  match queuedFor? s v port va with
  | none => takeWrite s port v line k
  | some r => onPort s port (fun p => { p with early := p.early ++ [{ vi := v, region := r, line := line, kind := k, who := none }] })

/-- Whether the hand-over token of a region is at a P-cell. -/
def tokenHere (s : State) (port v region : Nat) : Bool :=
  match Tab.at? (viOf s v).owners region with
  | some o => o.port == port && o.here
  | none => true

/-- Whether a place kept among the writes that wait is still wanted: its firing lives in a plot that issues, and has not resolved the
element. -/
def EarlyWrite.lives (s : State) (w : EarlyWrite) : Bool :=
  match w.who with
  | none => true
  | some (f, e) => (ctxOf? s f).any (fun c => c.plot.live && !(Tab.atD c.inst.done f.slot 0).getLsbD e)

/-- The writes that wait at a P-cell for the hand-over of regions taken in order, once the token is there, up to the place of a firing that is
to be tried again (R263). -/
def takeEarly (port : Nat) : (shut : List (Nat × Nat)) → List EarlyWrite → State → State
  | _, [], s => s
  | shut, w :: rest, s =>
    bif !w.lives s then takeEarly port shut rest s
    else bif w.who.isSome || shut.contains (w.vi, w.region) || !tokenHere s port w.vi w.region then
      takeEarly port ((w.vi, w.region) :: shut) rest (onPort s port (fun p => { p with early := p.early ++ [w] }))
    else takeEarly port shut rest (takeWrite s port w.vi w.line w.kind)

/-- The writes that wait at a P-cell for a hand-over looked at again. -/
def settleEarly (s : State) (port : Nat) : State :=
  takeEarly port [] (portOf s port).early (onPort s port (fun p => { p with early := [] }))

/-- The turn of an element's write to a far fold at its P-cell (R263): it may go on, or keeps a place behind the writes that came before it. -/
def farTurn (s : State) (f : Firing) (e port v va : Nat) : State × Bool :=
  match queuedFor? s v port va with
  | none => (s, true)
  | some r =>
    let me : EarlyWrite := { vi := v, region := r, line := va / 128, kind := .prefetch, who := some (f, e) }
    let mine := fun (w : EarlyWrite) => w.vi == v && w.region == r
    match (portOf s port).early.find? mine with
    | some w =>
      bif tokenHere s port v r && w.who == me.who then (s, true)
      else bif (portOf s port).early.any (fun x => x.who == me.who) then (s, false)
      else (onPort s port (fun p => { p with early := p.early ++ [me] }), false)
    | none => (onPort s port (fun p => { p with early := p.early ++ [me] }), false)

/-- Where the reply of an element goes. -/
def Ctx.reply (c : Ctx) (e va : Nat) : Reply := { firing := c.f, first := c.inst.first, elem := e, va := va }

/-- The value of a type at a byte offset of a line. -/
def lineVal (d : Line) (o bytes : Nat) : Nat := d.toNat / 2 ^ (8 * o) % 2 ^ (8 * bytes)

/-- The bytes of a type. -/
def tyBytes (ty : Ty) : Nat := tyWidth ty / 8

/-- Whether results of a type are 64-bit elements. -/
def tyWide (ty : Ty) : Bool := tyWidth ty == 64

/-- A line that a P-cell holds for the reads of a cell (R285), where the model chooses to serve a read from it
(notes/assumptions/5.md). -/
def heldFor? (s : State) (c : Ctx) (line : Nat) : Option Line :=
  match Tab.at? (portOf s c.port).held line with
  | none => none
  | some h => bif h.vi == c.plot.vi && h.plot == c.f.plot && h.cell == c.f.cell && Config.freeChoice s.ctr then some h.data else none

/-! ### Element-wise forms (R281, R282) -/

/-- LD of one element. -/
def loadElem (ty : Ty) (s : State) (c : Ctx) (e : Nat) : ElemRes :=
  let va := vaOf (c.wide 0 e)
  match accessWay s c 0 va (tyBytes ty) .read with
  | .trap cause info => .trap cause (c.tag e) info
  | .wait s => .wait s
  | .go s pa =>
    match heldFor? s c (pa / 128) with
    | some d => .done s (some (widenLoad ty (lineVal d (pa % 128) (tyBytes ty))))
    | none => .issued (sendReq s c.port c.plot.vi (pa / 128) (.read (c.reply e va) (pa % 128) ty))

/-- LD (R281). -/
def execLd (ty : Ty) (c1 c0 : Cons) (s : State) : Outcome := fireEach s 2 c1 c0 (runKind (tyWide ty)) (loadElem ty)

/-- ST of one element: its low bytes are merged into the coalescer. -/
def storeElem (ty : Ty) (s : State) (c : Ctx) (e : Nat) : ElemRes :=
  let va := vaOf (c.wide 0 e)
  match accessWay s c 0 va (tyBytes ty) .write with
  | .trap cause info => .trap cause (c.tag e) info
  | .wait s => .wait s
  | .go s pa =>
    let v := (bif tyWide ty then (c.wide 1 e).toNat else (c.val 1 e).toNat) % 2 ^ tyWidth ty
    .done (reachPort s c.port c.plot.vi va (pa / 128) (.write (BitVec.ofNat 1024 (v * 2 ^ (8 * (pa % 128)))) (maskAt (pa % 128) (tyBytes ty))
      none [(c.f.plot, c.f.cell)])) none

/-- ST (R281). -/
def execSt (ty : Ty) (s : State) : Outcome := fireEach s 2 0x1FF#9 0x1FF#9 .r32 (storeElem ty)

/-- PREF of one element: without a home port it raises ACCESS (R258); it traps for nothing else. -/
def prefElem (s : State) (c : Ctx) (e : Nat) : ElemRes :=
  let va := vaOf (c.wide 0 e)
  match homePort? c.plot c.f.cell with
  | none => .trap .access (c.tag e) (infoMem 0 6 va)
  | some port =>
    match translate s (c.via port 0) va .read with
    | .miss s => .wait s
    | .fail s (.migrate _ _ _) => .wait s
    | .fail s (.xlate _) => .done s none
    | .ok s pa =>
      bif paReserved s pa || paRemote s pa then .done s none
      else bif portRoom s port then .done (sendReq s port c.plot.vi (pa / 128) .prefetch) none
      else .wait s

/-- PREF (R281). -/
def execPref (s : State) : Outcome := fireEach s 2 0x1FF#9 0x1FF#9 .r32 prefElem

/-- SLICEOF of one element (R281). -/
def sliceElem (s : State) (c : Ctx) (e : Nat) : ElemRes :=
  let va := vaOf (c.wide 0 e)
  match homePort? c.plot c.f.cell with
  | none => .trap .access (c.tag e) (infoMem 0 6 va)
  | some port =>
    match translate s (c.via port 0) va .none with
    | .miss s => .wait s
    | .fail s (.migrate _ _ _) => .wait s
    | .fail _ (.xlate why) => .trap .xlate (c.tag e) (infoMem 0 why va)
    | .ok s pa =>
      .done s (some (match bif paReserved s pa then none else homeSlice? s c.plot.vi pa with
        | some n => dw n
        | none => 0xFFFFFFFF))

/-- SLICEOF (R281). -/
def execSliceof (c1 c0 : Cons) (s : State) : Outcome := fireEach s 2 c1 c0 .r32 sliceElem

/-- An atomic of one element: it needs the page readable and writable, and goes to the home slice (R282). -/
def atomElem (ty : Ty) (op : AtomOp) (s : State) (c : Ctx) (e : Nat) : ElemRes :=
  let va := vaOf (c.wide 0 e)
  match accessWay s c 0 va (tyBytes ty) .write with
  | .trap cause info => .trap cause (c.tag e) info
  | .wait s => .wait s
  | .go s _ =>
    match accessWay s c 0 va (tyBytes ty) .read with
    | .trap cause info => .trap cause (c.tag e) info
    | .wait s => .wait s
    | .go s pa =>
      .issued (reachPort s c.port c.plot.vi va (pa / 128) (.atomic (c.reply e va) (pa % 128) ty op (c.wide 1 e) (c.wide 2 e)))

/-- The firing of an atomic (R282). -/
def fireAtom (ty : Ty) (op : AtomOp) (c1 c0 : Cons) (s : State) : Outcome :=
  fireEach s 2 c1 c0 (runKind (tyWide ty)) (atomElem ty op)

/-- ATOM.ADD (R282). -/
def execAtomAdd (ty : Ty) (c1 c0 : Cons) (s : State) : Outcome := fireAtom ty .add c1 c0 s
/-- ATOM.FADD (R282). -/
def execAtomFadd (ty : Ty) (c1 c0 : Cons) (s : State) : Outcome := fireAtom ty .fadd c1 c0 s
/-- ATOM.MIN (R282). -/
def execAtomMin (ty : Ty) (c1 c0 : Cons) (s : State) : Outcome := fireAtom ty .min c1 c0 s
/-- ATOM.MAX (R282). -/
def execAtomMax (ty : Ty) (c1 c0 : Cons) (s : State) : Outcome := fireAtom ty .max c1 c0 s
/-- ATOM.BIT (R282): 00 AND, 01 OR, 10 XOR. -/
def execAtomBit (bop : BitVec 2) (ty : Ty) (c1 c0 : Cons) (s : State) : Outcome :=
  fireAtom ty (bif bop == 0#2 then .and else bif bop == 1#2 then .or else .xor) c1 c0 s
/-- ATOM.SWAP (R282). -/
def execAtomSwap (ty : Ty) (c1 c0 : Cons) (s : State) : Outcome := fireAtom ty .swap c1 c0 s
/-- ATOM.CAS (R282). -/
def execAtomCas (ty : Ty) (c1 c0 : Cons) (s : State) : Outcome := fireAtom ty .cas c1 c0 s

/-- The new value that an atomic writes (R282). -/
def atomNew (ty : Ty) (op : AtomOp) (old : Nat) (b c : Dword) : Nat :=
  let w := tyWidth ty
  let x := rdInt (tyInt ty) .r64 (dw old)
  let y := rdInt (tyInt ty) .r64 b
  let bv := b.toNat % 2 ^ w
  match op with
  | .add => (wrInt (tyInt ty) (x + y)).toNat % 2 ^ w
  | .fadd => roundF (fmtOf ty) rne false (addF (decodeF (fmtOf ty) old) (decodeF (fmtOf ty) bv))
  | .min => if x ≤ y then old else bv
  | .max => if y ≤ x then old else bv
  | .and => old &&& bv
  | .or => old ||| bv
  | .xor => old ^^^ bv
  | .swap => bv
  | .cas => if old = bv then c.toNat % 2 ^ w else old

/-! ### Requests at the slices (R292, R307) -/

/-- The oldest request of a P-cell that it may send: none of its own for that line is unacknowledged (R292). -/
def nextReq? (s : State) (port : Nat) : Option Req := (portOf s port).out.find? (fun r => !lineBusy s port r.line)

/-- A list without the first entry that equals one. -/
def dropFirst {α : Type} [DecidableEq α] (x : α) : List α → List α
  | [] => []
  | y :: t => if x = y then t else y :: dropFirst x t

/-- The network of a die. -/
def netOf (s : State) (die : Nat) : Net := Tab.atD s.nets die { credit := [], turn := .idle }

/-- The slot of a die used. -/
def useSlot (s : State) (die : Nat) : State := { s with nets := Tab.updD s.nets die { credit := [], turn := .idle } (fun n => { n with turn := .idle }) }

/-- Whether the slot of its die serves a request of a P-cell (R396); those of the Reeve's port go by no die's network. -/
def slotServes (s : State) (port : Nat) (r : Req) : Bool :=
  match dieOf? port with
  | none => true
  | some die => (netOf s die).turn == .demand r.vi

/-- The slot that serves a request of a P-cell used. -/
def usePortSlot (s : State) (port : Nat) : State :=
  match dieOf? port with
  | none => s
  | some die => useSlot s die

/-- A request as it leaves its P-cell: its home computed then (R295); one that has left keeps what it left with. -/
def Req.leave (s : State) (r : Req) : Req := bif r.sent then r else { mkReq s r.port r.vi r.line r.kind with sent := true }

/-- The next request of a P-cell leaves it. -/
def sendNext (s : State) (port : Nat) : State :=
  match nextReq? s port with
  | none => s
  | some r => bif r.sent then s else onPort s port (fun p => { p with out := p.out.map (fun x => if x = r then r.leave s else x) })

/-- A request answered with a NACK: a write goes back into the buffer of its line (R307). -/
def nackReq (s : State) (r : Req) : State :=
  let s := match r.kind with
    | .write data mask side by_ => rebuffer s r data mask side by_
    | _ => s
  onPort s r.port (fun p => { p with nacked := p.nacked ++ [r] })

/-- SLICE_REQUEST (R292, R307, R396): in a slot that serves it, the request enters its slice's queue, waits for an entry, or is NACKed. -/
def execSliceRequest (port : Nat) (s : State) : Outcome :=
  match nextReq? s port with
  | none => .next s
  | some x =>
    let r := x.leave s
    let gone := fun s => onPort (usePortSlot s port) port (fun p => { p with out := dropFirst x p.out })
    bif !slotServes s port r then .next s
    else bif !reqCurrent s r then .next (nackReq (gone s) r)
    else
      let n := reqQueue s r
      match entryFor? s (sliceOf s n).queue n r.vi with
      | none => .next s
      | some o => .next (onSlice (gone s) n (fun sl => { sl with queue := sl.queue ++ [{ r with owned := o }] }))

/-- NACK_RESEND (R307): the home is computed again from the VI's present partition and masks, and the request, or the buffer that holds the
write, is sent before the P-cell's others. -/
def execNackResend (port : Nat) (s : State) : Outcome :=
  match (portOf s port).nacked with
  | [] => .next s
  | r :: rest =>
    let s := onPort s port (fun p => { p with nacked := rest })
    let again := fun s k => onPort s port (fun p => { p with out := (mkReq s port r.vi r.line k).leave s :: p.out })
    match r.kind, Tab.at? (portOf s port).lines r.line with
    | .write .., some b => .next (again (onPort s port (fun p => { p with lines := Tab.del p.lines r.line })) (.write b.data b.mask b.side b.by_))
    | .write .., none => .next s
    | k, _ => .next (again s k)

/-- The first request of a queue of a kind with no earlier one for its line (R292); an atomic that replay holds until its ticket is next is
set aside, and lets others pass (R437). -/
def serveReq? (ok held : Req → Bool) : (seen : List Nat) → List Req → Option Req
  | _, [] => none
  | seen, r :: t => bif ok r && !seen.contains r.line then some r else serveReq? ok held (bif held r then seen else r.line :: seen) t

/-- A queue without a request that has been served. -/
def served (s : State) (n : Nat) (r : Req) : State := onSlice s n (fun sl => { sl with queue := dropFirst r sl.queue })

/-- An element's reply that reaches its firing: the result delivered. -/
def replyValue (s : State) (rpl : Reply) (wide : Bool) (v : Dword) : State :=
  match ctxOf? s rpl.firing with
  | none => s
  | some c =>
    bif c.inst.first == rpl.first then complete s c 0 [rpl.elem] (both c.c1 c.c0 (runKind wide) [(rpl.elem, .val v)]) else s

/-- An element's reply that brings poisoned data: ACCESS with WHY 3, and the firing without effect (R271). -/
def replyPoison (s : State) (rpl : Reply) : State :=
  match ctxOf? s rpl.firing with
  | none => s
  | some c =>
    bif c.inst.first == rpl.first then
      onPlot s rpl.firing.plot (fun p => takeTrap (unissue p rpl.firing [rpl.elem]) .access (c.tag rpl.elem) (infoMem 0 3 rpl.va)
        (tcellOf p rpl.firing.cell rpl.firing.bidx rpl.firing.slot) [])
    else s

/-- Whether a request reads. -/
def Req.isRead (r : Req) : Bool :=
  match r.kind with
  | .read .. | .prefetch | .streamRead .. => true
  | _ => false

/-- The job whose journal orders the atomics of a firing, with its mode. -/
def atomJob? (s : State) (rpl : Reply) : Option (Nat × Job) :=
  match Tab.at? s.plots rpl.firing.plot with
  | none => none
  | some p => match recOf? s p with
    | none => none
    | some (_, r) => (Tab.at? s.jobs r.job).map (fun j => (r.job, j))

/-- The line of an atomic as a ticket names it: VA bits 56-7 (R436). -/
def ticketLine (va : Nat) : Nat := va / 128 % 2 ^ 50

/-- The recorded ticket of an atomic in replay mode. -/
def recordedTicket? (s : State) (j : Job) (rpl : Reply) : Option (Nat × Nat) :=
  match ctxOf? s rpl.firing with
  | none => none
  | some c =>
    let (w0, w1, w2) := journalSource s c 6 (c.inst.first + rpl.elem)
    (journalFind s j w0 w1 w2 j.jtotal 0).map (fun (i, v) => (i, field v 63 50))

/-- Whether a slice may apply an atomic now: in replay mode it is held until its ticket is next (R437). -/
def atomReady (s : State) (r : Req) : Bool :=
  match r.kind with
  | .atomic rpl _ _ _ _ _ =>
    (match atomJob? s rpl with
    | none => true
    | some (_, j) => bif j.jmode == 2 then
        (match recordedTicket? s j rpl with
        | none => true
        | some (_, t) => t == Tab.atD j.tickets (ticketLine rpl.va) 0)
      else true)
  | _ => false

/-- The ticket of an atomic taken and journalled (R436). -/
def takeTicket (s : State) (rpl : Reply) : State :=
  match atomJob? s rpl with
  | none => s
  | some (key, j) =>
    let line := ticketLine rpl.va
    let t := Tab.atD j.tickets line 0
    let s := onJob s key (fun j => { j with tickets := Tab.set j.tickets line (t + 1) })
    match ctxOf? s rpl.firing with
    | none => s
    | some c =>
      let (w0, w1, w2) := journalSource s c 6 (c.inst.first + rpl.elem)
      (journal s key w0 w1 w2 (dw (at_ (t % 2 ^ 14) 50 + line))).1

/-- Whether replay holds an atomic: its ticket is not next (R437). -/
def replayHolds (s : State) (r : Req) : Bool :=
  match r.kind with
  | .atomic .. => !atomReady s r
  | _ => false

/-- The next request of a kind that a slice serves (R292). -/
def nextServed? (s : State) (slice : Nat) (ok : Req → Bool) : Option Req := serveReq? ok (replayHolds s) [] (sliceOf s slice).queue

/-- Whether a P-cell has a write of its own for a line that a reply may be older than: it does not hold the line then (R262, R319). -/
def newerWrite (s : State) (port line : Nat) : Bool :=
  let p := portOf s port
  Tab.has p.lines line || p.out.any (fun r => r.line == line && !r.isRead) || p.early.any (fun w => w.who.isNone && w.line == line) ||
    p.copies.any (fun j => j.covers (128 * line) || j.covers (128 * line + 64))

/-- The line of a decoupling queue that has come: its bytes, kept with their side word in the window too where one serves it (R293, R304).
-/
def streamLine (s : State) (port ctx handle ord : Nat) (g : Fetched) : State :=
  onPort s port (fun p => { p with ctxs := Tab.upd p.ctxs ctx (fun t =>
    match t.handle == handle, t.slines.find? (fun l => l.ord == ord) with
    | true, some x =>
      let w : WLine := { line := x.line, data := g.data, side := g.side, poison := g.poison, mask := 0, n := 0 }
      { t with slines := t.slines.map (fun l => bif l.ord == ord then { l with data := some (g.data, g.poison) } else l),
               wlines := match x.win with
                 | some o => bif o.blt t.tail then t.wlines else Tab.set t.wlines o w
                 | none => t.wlines }
    | _, _ => t) })

/-- The slice at which a queue's requests are served; those of the last queue bypass L2 (R301). -/
def queueHome (n : Nat) : Option Nat := bif n == bypassQueue then none else some n

/-- The die of the window line at an offset of a stream's window (R303). -/
def Stream.windowDie (t : Stream) (off : Nat) : Option Nat :=
  (t.givers[off / 128 % Nat.max 1 t.givers.length]?).bind sliceDie

/-- The die that the line of a read stream is fetched to: that of its window line, or of its P-cell (R303, R304). -/
def fetchDie (s : State) (port ctx ord : Nat) : Option Nat :=
  match (Tab.at? (portOf s port).ctxs ctx).bind (fun t => (t.slines.find? (fun l => l.ord == ord)).bind (fun l => l.win.map t.windowDie)) with
  | some die => die
  | none => dieOf? port

/-- LD_REPLY (R281): the slice serves a read, and the reply carrying its tag returns to the cell, or the line to its stream; a prefetch only
fills. -/
def execLdReply (slice : Nat) (s : State) : Outcome :=
  match nextServed? s slice Req.isRead with
  | none => .next s
  | some r =>
    let s := served s slice r
    let fetch := fun (die : Option Nat) (n : Nat) => fetchAt (queueHome slice) s die r.vi r.line n
    match r.kind with
    | .read rpl off ty =>
      let g := fetch (dieOf? r.port) (tyBytes ty)
      bif g.poison then .next (replyPoison g.s rpl)
      else
        let h : HeldLine := { vi := r.vi, plot := rpl.firing.plot, cell := rpl.firing.cell, data := g.data }
        let s := bif newerWrite g.s r.port r.line then g.s else onPort g.s r.port (fun p => { p with held := Tab.set p.held r.line h })
        .next (replyValue s rpl (tyWide ty) (widenLoad ty (lineVal g.data off (tyBytes ty))))
    | .streamRead ctx handle ord =>
      let die := fetchDie s r.port ctx ord
      let g := fetch die 128
      .next (streamLine (carry g.s r.vi 128 die (dieOf? r.port)) r.port ctx handle ord g)
    | _ => .next (fetch (dieOf? r.port) 0).s

/-- Whether a request writes. -/
def Req.isWrite (r : Req) : Bool :=
  match r.kind with
  | .write .. | .streamWrite .. => true
  | _ => false

/-- WRITE_ACKNOWLEDGE (R285): the slice performs a write and acknowledges it at its P-cell. -/
def execWriteAcknowledge (slice : Nat) (s : State) : Outcome :=
  match nextServed? s slice Req.isWrite with
  | none => .next s
  | some r =>
    let s := served s slice r
    match r.kind with
    | .write data mask side _ => .next (storeAt (queueHome slice) s (dieOf? r.port) r.vi r.line data mask side)
    | .streamWrite ctx handle n data mask die =>
      let s := storeAt (queueHome slice) s die r.vi r.line data mask none
      .next (onPort s r.port (fun p => { p with ctxs := Tab.upd p.ctxs ctx (fun t =>
        bif t.handle == handle then { t with sent := t.sent - n, performed := t.performed + n } else t) }))
    | _ => .next s

/-- ATOMIC_PERFORM (R282): the home slice applies an atomic to its line and the old value returns. -/
def execAtomicPerform (slice : Nat) (s : State) : Outcome :=
  match nextServed? s slice (atomReady s) with
  | none => .next s
  | some r =>
    let s := served s slice r
    match r.kind with
    | .atomic rpl off ty op b c =>
      let s := takeTicket s rpl
      let g := fetchAt (queueHome slice) s (dieOf? r.port) r.vi r.line 0
      bif g.poison then .next (replyPoison g.s rpl)
      else
        let old := lineVal g.data off (tyBytes ty)
        let new := atomNew ty op old b c
        let s := storeAt (queueHome slice) g.s (dieOf? r.port) r.vi r.line (BitVec.ofNat 1024 (new * 2 ^ (8 * off))) (maskAt off (tyBytes ty)) none
        .next (replyValue (dropLine s r.port r.line) rpl (tyWide ty) (widenLoad ty old))
    | _ => .next s

/-- COALESCER_FLUSH (R262): a line buffer is written to its slice. -/
def execCoalescerFlush (port line : Nat) (s : State) : Outcome := .next (flushBuffer s port line)

/-! ### Copies (R283, R284) -/

/-- Bytes of headers that follow a near extent of a length (R208, R283). -/
def headerBytes (bf len : Nat) : Nat :=
  match bf with
  | 1 => (len + 63) / 64 * 2
  | 2 => (len + 127) / 128 * 2
  | _ => 0

/-- A constant word of a copy found wrong: the lowest offending bit of k[n+3], or k[n+2] for DIR mem (R283). -/
def copyField? (mem : Bool) (k2 k3 : Word) : Option Nat :=
  let bad := bif mem && k2 != 0 then lowestFrom k2.toNat 0 32 else none
  match bad with
  | some b => some b
  | none =>
    match lowestFrom k3.toNat 24 6 with
    | some b => some b
    | none => bif field k3 31 30 == 3 then some 30 else none

/-- Whether a line is poisoned as a VI would read it. -/
def poisoned (s : State) (v line : Nat) : Bool :=
  match homeSlice? s v (128 * line) with
  | none => s.poison.contains line
  | some n => match findLine? (sliceOf s n) v line with
    | some (_, l) => l.poison
    | none => s.poison.contains line

/-- The first unit of a copy's side of a kind. -/
def unitWhere? (units : Nat) (ok : Nat → Bool) : Option Nat := (List.range units).find? ok

/-- The way of one side of a copy in memory: the physical addresses of its 64-byte units, or the trap with the address at fault (R284,
R261, R271). -/
def copySide (s : State) (c : Ctx) (u : Via) (va units : Nat) (n : Need) : Acc (List Nat) ⊕ (Cause × Dword) :=
  let owned := fun i => ownerAllows (viOf s c.plot.vi) u.port (va + 64 * i) == none
  match bif n == .write then unitWhere? units owned else none, translateUnits s u n units va with
  | _, .wait s => .inl (.wait s)
  | some i, .fault _ _ _ => .inr (.access, infoMem u.src 0 (va + 64 * i))
  | none, .fault cause why a => .inr (cause, infoMem u.src why a)
  | bad, .ok s pas =>
    match pas.findSome? (fun pa => remoteFault? s c pa), bad with
    | some t, _ => .inr t
    | none, some i => .inr (.access, infoMem u.src 0 (va + 64 * i))
    | none, none =>
      match bif n == .read then unitWhere? units (fun i => poisoned s c.plot.vi (((pas[i]?).getD 0) / 128)) else none with
      | some i => .inr (.access, infoMem u.src 3 (va + 64 * i))
      | none => .inl (.ok s pas)

/-- The regions of a copy's destination whose hand-over to the P-cell is under way (R263). -/
def copyAwaits (s : State) (v port va units : Nat) : List Nat :=
  ((List.range units).filterMap (fun i => awaited? (viOf s v) port (va + 64 * i))).eraseDups

/-- The firing of a copy (R283, R284): checked in full, then put at the end of the home port's copies, in issue order: it waits for the cell's
earlier copies and writes that wait (R316). -/
def fireCopy (dir n : Nat) (mm : Bool) (c1 c0 : Cons) (s : State) : Outcome :=
  fireOnce s c1 c0 .s32 (fun c e =>
    let k2 := c.k (n + 2)
    let k3 := c.k (n + 3)
    match copyField? (dir == 2) k2 k3 with
    | some b => rsvOperand c e b
    | none =>
      let va := vaOf (c.k2 n)
      let vb := vaOf (c.wide 1 e)
      let len := field k3 23 0
      let units := (len + 63) / 64
      let bf := field k3 31 30
      let memSrc := dir == 0 || dir == 2
      match homePort? c.plot c.f.cell, ownEarlier s c (fun d => d.copies || d.writesMem) with
      | none, _ => .trap .access (c.tag e) (infoMem (bif memSrc then 1 else 2) 6 va)
      | _, true => .stall s
      | some port, _ =>
        let near := if dir = 2 then Except.ok 0 else rawNear c.plot c.f.cell k2.toNat (len + headerBytes bf len)
        match near with
        | .error why => .trap .access (c.tag e) (infoRaw (bif dir == 0 then 2 else 0) why 0 k2.toNat)
        | .ok sc =>
          let dst := bif dir == 2 then vb else va
          let need := (bif memSrc then [(va, 64 * units)] else []) ++ (bif dir == 0 then [] else [(dst, 64 * units)])
          let u := fun src => { c.via port src with need := need }
          let from_ := if memSrc then copySide s c (u 1) va units .read else .inl (.ok s [])
          match from_ with
          | .inr (cause, info) => .trap cause (c.tag e) info
          | .inl (.wait s) => .stall s
          | .inl (.fault cause why a) => .trap cause (c.tag e) (infoMem 1 why a)
          | .inl (.ok s src) =>
            let to_ := if dir = 0 then .inl (.ok s []) else copySide s c (u 2) dst units .write
            match to_ with
            | .inr (cause, info) => .trap cause (c.tag e) info
            | .inl (.wait s) => .stall s
            | .inl (.fault cause why a) => .trap cause (c.tag e) (infoMem 2 why a)
            | .inl (.ok s dsts) =>
              if (memSrc ∧ va % 64 ≠ 0) ∨ (dir ≠ 0 ∧ dst % 64 ≠ 0) then
                .trap .align (c.tag e) (infoMem (bif memSrc && va % 64 != 0 then 1 else 2) 0 (bif memSrc && va % 64 != 0 then va else dst))
              else if len = 0 ∨ len % 64 ≠ 0 then .trap .align (c.tag e) (infoMem (bif memSrc then 1 else 2) 1 va)
              else
                let job : CopyJob :=
                  { plot := c.f.plot, cell := c.f.cell, vi := c.plot.vi, dir := dir, scell := sc, off := k2.toNat % 2 ^ 18,
                    len := len, src := src, dst := dsts, bf := bf, done := 0, mm := bif mm then some (c.f, zx32 k2) else none,
                    awaits := bif dir == 0 then [] else copyAwaits s c.plot.vi port dst units }
                let s := onPort s port (fun p => { p with copies := p.copies ++ [job] })
                if mm then .issued s else .done s (scalarOut c1 c0 .s32 0))

/-- COPY (R283). -/
def execCopy (dir : BitVec 2) (n : BitVec 4) (c1 c0 : Cons) (s : State) : Outcome := fireCopy dir.toNat n.toNat false c1 c0 s

/-- COPY.MM (R283, R219). -/
def execCopyMm (n : BitVec 4) (c0 : Cons) (s : State) : Outcome := fireCopy 0 n.toNat true 0x1FF#9 c0 s

/-- The 64 bytes of a unit of memory and the header beside it: the half-line's 16 bits of the side word; for be4m3 those
of the first half (R81, R265). -/
def readUnit (s : State) (port v pa bf : Nat) : State × Nat × Nat :=
  let g := readLine s port v (pa / 128) 64
  let o := pa % 128
  (g.s, g.data.toNat / 2 ^ (8 * o) % 2 ^ 512, bif bf == 1 && o == 64 then g.side.toNat / 2 ^ 16 else g.side.toNat % 2 ^ 16)

/-- A header as it is written: its reserved bits zero, for be4m3 the bits of E too (R81, R83). -/
def cleanHeader (bf hdr : Nat) : Nat := bif bf == 2 then hdr % 2 ^ 8 else hdr / 2 ^ 12 % 2 ^ 4 * 2 ^ 12 + hdr % 2 ^ 8

/-- A unit of 64 bytes written to memory, with its header where the copy has one: of be4m3 only the first half of a line has one, and the
side word's other bits are zero (R83). -/
def writeUnit (s : State) (port v pa bf val hdr : Nat) : State :=
  let s := dropLine (flushNow s port (pa / 128)) port (pa / 128)
  let o := pa % 128
  let side := match bf with
    | 0 => none
    | _ =>
      let old := (fetchLine s port v (pa / 128) 0).side.toNat
      let h := cleanHeader bf hdr
      some (BitVec.ofNat 32 (match bf, o with
        | 1, 0 => old / 2 ^ 16 * 2 ^ 16 + h
        | 1, _ => h * 2 ^ 16 + old % 2 ^ 16
        | _, 0 => h
        | _, _ => old % 2 ^ 16))
  storeLine s port v (pa / 128) (BitVec.ofNat 1024 (val * 2 ^ (8 * o))) (maskAt o 64) side

/-- A change of the near bytes of an S-cell of a plot. -/
def onNear (s : State) (plot scell : Nat) (g : Memory → Memory) : State :=
  onPlot s plot (fun p => { p with near := Tab.updD p.near scell [] g })

/-- The place of a unit's header behind a near extent, where it has one: each unit of b4x, each second one of be4m3. -/
def headerAt? (bf off len u : Nat) : Option Nat :=
  match bf with
  | 1 => some (off + len + 2 * u)
  | 2 => bif u % 2 == 0 then some (off + len + u) else none
  | _ => none

/-- One 64-byte unit of a copy (R284). -/
def copyUnit (s : State) (port : Nat) (j : CopyJob) : State :=
  let u := j.done
  let near := match Tab.at? s.plots j.plot with
    | none => ([] : Memory)
    | some p => nearOf p j.scell
  let (s, val, hdr) := match j.src[u]? with
    | some pa => readUnit s port j.vi pa j.bf
    | none => (s, readN near 64 (j.off + 64 * u), match headerAt? j.bf j.off j.len u with
      | some a => readN near 2 a
      | none => 0)
  match j.dst[u]? with
  | some pa => writeUnit s port j.vi pa j.bf val hdr
  | none =>
    onNear s j.plot j.scell (fun m =>
      let m := writeN m 64 (j.off + 64 * u) val
      match headerAt? j.bf j.off j.len u with
      | some a => writeN m 2 a (cleanHeader j.bf hdr)
      | none => m)

/-- Whether the next unit of a copy can be moved now: the regions it writes are handed over (R263), its lines free (R292). -/
def unitReady (s : State) (port : Nat) (j : CopyJob) : Bool :=
  let ready := fun (pas : List Nat) => match pas[j.done]? with
    | some pa => lineReady s port j.vi (pa / 128)
    | none => true
  !j.awaits.any (fun r => match Tab.at? (viOf s j.vi).owners r with
    | some o => o.port == port && !o.here
    | none => false) && ready j.src && ready j.dst

/-- COPY_PERFORM (R284): the home port moves the next unit of its oldest copy that has bytes to move. -/
def execCopyPerform (port : Nat) (s : State) : Outcome :=
  match (portOf s port).copies.find? (fun j => (64 * j.done).blt j.len) with
  | none => .next s
  | some j =>
    bif !unitReady s port j then .next s
    else
      let s := copyUnit s port j
      let j' := { j with done := j.done + 1 }
      let ended := j.len.ble (64 * j'.done) && j.mm == none
      let next := fun js => bif ended then dropFirst j js else js.map (fun k => if k = j then j' else k)
      .next (onPort s port (fun p => { p with copies := next p.copies }))

/-- COPY_MM_DELIVER (R219): after the last byte has landed, the raw reference is delivered. -/
def execCopyMmDeliver (port : Nat) (s : State) : Outcome :=
  match (portOf s port).copies.find? (fun j => j.len.ble (64 * j.done) && j.mm != none) with
  | none => .next s
  | some j =>
    let s := onPort s port (fun p => { p with copies := dropFirst j p.copies })
    match j.mm with
    | some (f, v) => .next (finishScalar s f .s64 v)
    | none => .next s

/-! ### Fences, DRAIN, QFENCE (R285-R287) -/

/-- Whether what is asked of a slice is a write of a cell. -/
def ReqKind.writeOf (k : ReqKind) (plot cell : Nat) : Bool :=
  match k with
  | .write _ _ _ by_ => by_.contains (plot, cell)
  | .atomic rpl _ _ _ _ _ => rpl.firing.plot == plot && rpl.firing.cell == cell
  | _ => false

/-- Whether what is asked of a slice is a read of a cell. -/
def ReqKind.readOf (k : ReqKind) (plot cell : Nat) : Bool :=
  match k with
  | .read rpl _ _ | .atomic rpl _ _ _ _ _ => rpl.firing.plot == plot && rpl.firing.cell == cell
  | _ => false

/-- Every request on its way, those that wait for a hand-over among them. -/
def allKinds (s : State) : List ReqKind :=
  s.pcells.flatMap (fun (_, p) => p.out.map (·.kind) ++ p.nacked.map (·.kind) ++ p.early.map (·.kind)) ++
    s.slices.flatMap (fun (_, sl) => sl.queue.map (·.kind))

/-- Whether a write of a cell is not performed: buffered, on its way, a copy into memory, or a SIG that has not reached its barrier (R285).
-/
def writesPending (s : State) (plot cell : Nat) : Bool :=
  s.pcells.any (fun (_, p) => p.lines.any (fun (_, b) => b.by_.contains (plot, cell)) ||
      p.copies.any (fun j => j.plot == plot && j.cell == cell && j.dir != 0 && (64 * j.done).blt j.len)) ||
    (allKinds s).any (fun k => k.writeOf plot cell) ||
    (s.sigs ++ s.plots.flatMap (fun (_, p) => p.arrivals)).any (fun x => x.by_ == (plot, cell))

/-- Whether a read of a cell is not performed. -/
def readsPending (s : State) (plot cell : Nat) : Bool :=
  s.pcells.any (fun (_, p) => p.copies.any (fun j => j.plot == plot && j.cell == cell && (64 * j.done).blt j.len)) ||
    (allKinds s).any (fun k => k.readOf plot cell)

/-- Whether a write of a firing's cell that has issued before it is not performed (R285). -/
def priorWrites (s : State) (c : Ctx) : Bool := writesPending s c.f.plot c.f.cell || ownEarlier s c Ctx.writesMem

/-- Whether a read of a firing's cell that has issued before it is not performed (R285). -/
def priorReads (s : State) (c : Ctx) : Bool := readsPending s c.f.plot c.f.cell || ownEarlier s c Ctx.readsMem

/-- Every buffer of a P-cell sent to its slice (R262). -/
def flushAll (s : State) (port : Nat) : State := (portOf s port).lines.foldl (fun s (k, _) => flushBuffer s port k) s

/-- Lines of the slices that meet a condition and are dirty written back and cleaned. -/
def writeBackWhere (s : State) (ok : L2Line → Bool) : State :=
  s.slices.foldl (fun s (n, sl) => sl.lines.foldl (fun s (k, l) =>
    bif l.dirty && ok l then
      onSlice (writeBack s n l) n (fun sl => { sl with lines := Tab.set sl.lines k { l with dirty := false } })
    else s) s) s

/-- What a release at a scope has done once every write of the cell is performed at its home slice: at system scope the lines of the CXL
tier have come to it too (R285). -/
def reachScope (s : State) (v : Nat) (scope : BitVec 3) : State :=
  bif scope == 5#3 then writeBackWhere s (fun l => l.vi == v && Nat.ble (2 ^ 42) (128 * l.line % 2 ^ 46)) else s

/-- The firing of a fence: a release waits for the cell's earlier writes, an acquire for its reads; the lines held for the plot's reads are
dropped, since every cell on a token path from the fence reads anew (R317). The scopes cell to module are acknowledged at the home slice, domain with them, since a write to another module is performed there at once. -/
def fireFence (rel acq : Bool) (scope : BitVec 3) (c1 c0 : Cons) (s : State) : Outcome :=
  fireOnce s c1 c0 .s32 (fun c e =>
    match homePort? c.plot c.f.cell with
    | none => .trap .access (c.tag e) (infoMem 0 6 0)
    | some port =>
      let s := bif rel then flushAll s port else s
      if (rel ∧ priorWrites s c = true) ∨ (acq ∧ priorReads s c = true) then .stall s
      else .done (dropHeld (bif rel then reachScope s c.plot.vi scope else s) c.f.plot) (scalarOut c1 c0 .s32 0))

/-- FENCE.ACQ (R285). -/
def execFenceAcq (scope : BitVec 3) (c1 c0 : Cons) (s : State) : Outcome := fireFence false true scope c1 c0 s
/-- FENCE.REL (R285). -/
def execFenceRel (scope : BitVec 3) (c1 c0 : Cons) (s : State) : Outcome := fireFence true false scope c1 c0 s
/-- FENCE.AR (R285). -/
def execFenceAr (scope : BitVec 3) (c1 c0 : Cons) (s : State) : Outcome := fireFence true true scope c1 c0 s

/-- Every dirty line of a VI in L2 written back and cleaned. -/
def writeBackVi (s : State) (v : Nat) : State := writeBackWhere s (fun l => l.vi == v)

/-- DRAIN (R287): waits for the cell's copies into near space, or into memory; far, their bytes are written through. -/
def execDrain (mem : BitVec 2) (c1 c0 : Cons) (s : State) : Outcome :=
  fireOnce s c1 c0 .s32 (fun c e =>
    match homePort? c.plot c.f.cell with
    | none => .trap .access (c.tag e) (infoMem 0 6 0)
    | some port =>
      if (portOf s port).copies.any (fun j => j.plot == c.f.plot && j.cell == c.f.cell && (j.dir == 0) == (mem == 0#2) &&
          (64 * j.done).blt j.len) || ownEarlier s c (fun d => d.copies && d.copiesOut == (mem != 0#2)) then .stall s
      else .done (dropHeld (bif mem == 2#2 then writeBackVi s c.plot.vi else s) c.f.plot) (scalarOut c1 c0 .s32 0))

/-! ### Windows (R304, R305) -/

/-- A change of a stream. -/
def onStream (s : State) (port ctx : Nat) (g : Stream → Stream) : State :=
  onPort s port (fun p => { p with ctxs := Tab.upd p.ctxs ctx g })

/-- Whether a stream writes. -/
def Stream.writes (t : Stream) : Bool := ((t.desc[0]?).getD 0).getLsbD 63

/-- The stores of the window line at an offset on their way to the home slice: its written bytes, from the slice of the window line. -/
def sendWLine (port ctx : Nat) (t : Stream) (s : State) (x : Nat × WLine) : State :=
  let l := x.2
  bif l.mask == 0 then s
  else reachPort s port t.vi (field ((t.desc[0]?).getD 0) 56 0 / 128 * 128 + x.1) l.line
    (.streamWrite ctx t.handle l.n l.data l.mask (t.windowDie x.1))

/-- A window line of a stream written back and invalidated, where its P-cell has room for the request (R292). -/
def retireLine (port ctx : Nat) (t : Stream) (s : State) (x : Nat × WLine) : State :=
  bif x.2.mask != 0 && !portRoom s port then s
  else onStream (sendWLine port ctx t s x) port ctx (fun t => { t with wlines := Tab.del t.wlines x.1, sent := t.sent + x.2.n })

/-- The window lines of a stream below an offset written back and invalidated, in the order of their offsets. -/
def retireLines (s : State) (port ctx below : Nat) (t : Stream) : State :=
  (t.wlines.filter (fun (o, _) => o.blt below)).foldl (retireLine port ctx t) s

/-- Every held store of a window sent to its home slice. -/
def flushWindow (s : State) (port ctx : Nat) : State :=
  match Tab.at? (portOf s port).ctxs ctx with
  | none => s
  | some t => retireLines s port ctx (t.head + 1) t

/-- The windows of the write streams of a plot on a P-cell, or of all, flushed. -/
def flushWindows (s : State) (port : Nat) (ok : Nat → Stream → Bool) : State :=
  (portOf s port).ctxs.foldl (fun s (ctx, t) => bif t.writes && ok ctx t then flushWindow s port ctx else s) s

/-- Whether a stream has an entry that is not performed: a store accepted, a line asked for. -/
def Stream.busy (t : Stream) : Bool := bif t.writes then t.performed.blt t.accepted else t.slines.any (fun l => l.data.isNone)

/-- A stream context with the lines of its read window invalidated (R305). -/
def Stream.dropWindow (t : Stream) : Stream :=
  bif t.writes then t else { t with wlines := [] }

/-- QFENCE (R286): the joined queues of a P-cell, of the Reeve's plot its own port (R452): what was enqueued before is performed before it
emits. -/
def execQfence (n : BitVec 4) (c1 c0 : Cons) (s : State) : Outcome :=
  fireOnce s c1 c0 .s32 (fun c e =>
    match homePort? c.plot c.f.cell with
    | none => .trap .access (c.tag e) (infoMem 5 6 0)
    | some port =>
      let w := c.k n.toNat
      let own := c.plot.role == .reeve
      let target := bif own then 384 else portKeyOf (field w 24 23) (field w 22 21) (field w 20 16)
      if field w 31 27 ≠ 0 ∨ (own = false ∧ (field w 24 23 ≠ c.plot.die ∨ 24 ≤ field w 20 16)) ∨ granted c.plot target = false then
        .trap .access (c.tag e) (infoMem 5 4 0)
      else
        let joins := fun (k : Nat) (t : Stream) => w.getLsbD k && t.plot == c.f.plot
        let s := flushWindows (bif w.getLsbD 25 then flushAll s port else s) target joins
        let path := w.getLsbD 25 && (priorWrites s c || priorReads s c)
        if path ∨ (portOf s target).ctxs.any (fun (k, t) => joins k t && t.busy) = true then .stall s
        else
          let s := onPort s target (fun p => { p with ctxs := p.ctxs.map (fun (k, t) => (k, bif joins k t then Stream.dropWindow t else t)) })
          .done (dropHeld s c.f.plot) (scalarOut c1 c0 .s32 0))

/-! ### OWN and TLBINV (R263, R290) -/

/-- The configured plot of a VI that holds a grant on a P-cell, the first of them. -/
def grantee? (s : State) (v port : Nat) : Option Nat :=
  (s.plots.find? (fun (_, p) => p.vi == v && granted p port)).map (·.1)

/-- Whether a write that went through a P-cell for a VI is not acknowledged. -/
def portWrites (s : State) (port v : Nat) : Bool :=
  (portOf s port).lines.any (fun (_, b) => b.vi == v) ||
    ((portOf s port).out ++ (portOf s port).nacked ++ s.slices.flatMap (fun (_, sl) => sl.queue.filter (fun r => r.port == port))).any
      (fun r => r.vi == v && !r.isRead) ||
    (portOf s port).copies.any (fun j => j.vi == v && j.dir != 0 && (64 * j.done).blt j.len)

/-- OWN (R263, R290): the writes that have reached the old owner before it go first; the old owner then takes no more to the region, waits for
the earlier ones, and sends the token. -/
def execOwn (n : BitVec 4) (c1 c0 : Cons) (s : State) : Outcome :=
  fireOnce s c1 c0 .s32 (fun c e =>
    let w := c.k n.toNat
    let v := c.plot.vi
    match lowestFrom w.toNat 17 15 with
    | some b => rsvOperand c e b
    | none =>
      match homePort? c.plot c.f.cell with
      | none => .trap .access (c.tag e) (infoMem 5 6 0)
      | some port =>
        let region := field w 7 0
        let dest := portKeyOf (field w 16 15) (field w 14 13) (field w 12 8)
        match (portOf s port).tokens.find? (fun h => h.firing == c.f && !h.sent) with
        | some h =>
          let s := flushWindows (flushAll s port) port (fun _ t => t.vi == v)
          if portWrites s port v then .stall s
          else
            let send := fun k : HandOver => if k = h then { h with sent := true } else k
            let s := onPort s port (fun p => { p with tokens := p.tokens.map send })
            .done (dropHeld s c.f.plot) (scalarOut c1 c0 .s32 0)
        | none =>
          match Tab.at? (viOf s v).owners region, grantee? s v dest with
          | some o, some q =>
            if o.port ≠ port ∨ o.here = false ∨ 24 ≤ field w 12 8 then .trap .access (c.tag e) (infoMem 5 0 0)
            else if anyEarlier s c (fun d => d.writesMem && d.plot.vi == v && homePort? d.plot d.f.cell == some port) = true then .stall s
            else
              let s := onVi s v (fun vi => { vi with owners := Tab.set vi.owners region { port := dest, here := false, plot := q } })
              let s := onPort s port (fun p => { p with tokens := p.tokens ++
                [{ vi := v, region := region, dest := dest, firing := c.f, sent := false }] })
              .stall (flushAll s port)
          | _, _ => .trap .access (c.tag e) (infoMem 5 0 0))

/-- OWN_TOKEN_ARRIVAL (R263): a hand-over token that a P-cell has sent reaches the new owner, which takes the writes that wait for it in the
order in which they came. -/
def execOwnTokenArrival (port : Nat) (s : State) : Outcome :=
  match (portOf s port).tokens.find? (fun h => h.sent) with
  | none => .next s
  | some h =>
    let s := onPort s port (fun p => { p with tokens := dropFirst h p.tokens })
    let s := onVi s h.vi (fun vi => { vi with owners := Tab.upd vi.owners h.region (fun o =>
      bif o.port == h.dest then { o with here := true } else o) })
    .next (settleEarly s h.dest)

/-- Translation entries dropped from a P-cell: its TLB, its range registers, and walks of theirs that have failed. -/
def dropEntries (hit : TlbEntry → Bool) (v : Nat) (p : PCell) : PCell :=
  { p with tlb := p.tlb.filter (fun t => !hit t), ranges := p.ranges.filter (fun (_, t) => !hit t),
           misses := p.misses.filter (fun m => !(m.who.vi == v && (match m.fail with
             | some (.xlate _) => true
             | _ => false))) }

/-- The entries dropped on the home port, or with ALL on every P-cell and second-level TLB of the module; walkers read the VI's tables again
(R270). -/
def invalidate (s : State) (all : Bool) (port v : Nat) (hit : TlbEntry → Bool) : State :=
  let s := onVi s v (fun vi => { vi with walked := [] })
  bif all then { s with pcells := s.pcells.map (fun (k, p) => (k, dropEntries hit v p)),
                        tlb2 := s.tlb2.map (fun (k, l) => (k, l.filter (fun t => !hit t))) }
  else onPort s port (dropEntries hit v)

/-- TLBINV (R290): entries by virtual address, by VI, or by guest-physical page. -/
def execTlbinv (all : Bool) (ks : BitVec 2) (c1 c0 : Cons) (s : State) : Outcome :=
  fireOnce s c1 c0 .s32 (fun c e =>
    let a := c.wide 0 e
    let b := c.wide 1 e
    let named := a.toNat % 512
    let byVa := ks == 0#2
    if (c.plot.role = .graph) ∨ (ks = 2#2 ∧ isVi0 c.plot = false) ∨
        (ks = 1#2 ∧ named ≠ c.plot.vi ∧ isVi0 c.plot = false) then .trap .priv (c.tag e) (infoPriv c)
    else match bif byVa then none else lowestFrom a.toNat 9 55 with
      | some bit => rsvOperand c e bit
      | none =>
        match all, homePort? c.plot c.f.cell with
        | false, none => .trap .access (c.tag e) (infoMem 5 6 (bif byVa then vaOf a else 0))
        | _, port? =>
          let port := port?.getD 0
          let v := bif byVa then c.plot.vi else named
          let hit := fun t : TlbEntry =>
            bif byVa then t.covers v (vaOf a)
            else bif ks == 1#2 then t.vi == v
            else t.vi == v && t.gpa / 2 ^ t.lg2 == b.toNat / 2 ^ t.lg2
          .done (invalidate s all port v hit) (scalarOut c1 c0 .s32 0))

end Sys2Proof.Machine
end

