-- ==== Sys2Proof/Machine/Names.lean ====
section
/-!
DEFINITION. Sys2Proof/Machine/Names.lean: named storage (R136-R160): names and lattices, fold records and their checks,
slot headers, and the forms 0x20-0x28 (R162-R166).
-/
namespace Sys2Proof.Machine

/-! ### Fold records (R142) -/

/-- The P-cell of a far fold. -/
def Fold.port (p : Plot) (f : Fold) : Nat := portKeyOf p.die (field f.w4 63 62) (field f.w4 61 57)

/-! ### Statements and names (R136-R139, R232) -/

/-- The statement that a storing slot of a block names. -/
def storedSid? (b : Block) (w : Word) : Option Nat :=
  bif field w 31 24 == 0x22 || field w 31 24 == 0x24 then
    (b.names[field w 22 18]?).map (fun (e : Dword) => field e 63 52)
  else none

/-- The producer block of a statement: the block with its storing slot. -/
def storingBlock? (p : Plot) (sid : Nat) : Option Block :=
  p.cells.findSome? (fun (_, c) => c.blocks.findSome? (fun (_, b) =>
    bif b.words.any (fun w => storedSid? b w == some sid) then some b else none))

/-- The producer block of a statement; an adjoint statement without a storing slot has that of its primal (R232). -/
def producer? (p : Plot) (sid : Nat) : Option Block :=
  match storingBlock? p sid with
  | some b => some b
  | none => bif (2048).ble sid then storingBlock? p (sid - 2048) else none

/-- The bounds of a statement in the current round (R139). -/
def sidBounds (p : Plot) (sid : Nat) : List Nat :=
  match producer? p sid with
  | some b => b.bounds
  | none => []

/-- Index expression d of a name-table entry for an iteration of a block (R137). -/
def indexExpr (e : Dword) (v : List Nat) (d : Nat) : Int :=
  let off := field e (43 - 11 * d) (33 - 11 * d)
  if e.getLsbD (44 + d) then (off : Int) else (((v[d]?).getD 0 : Nat) : Int) + sx off 11

/-- The name vector of an entry for a tag of a block; none outside the domain (R139). -/
def nameOf? (p : Plot) (b : Block) (e : Dword) (tag : Nat) : Option (List Nat) :=
  let bounds := sidBounds p (field e 63 52)
  let v := vectorOf b.bounds tag
  let j := (List.range bounds.length).map (indexExpr e v)
  if (j.zip bounds).all (fun (x, n) => decide (0 ≤ x ∧ x < (n : Int))) then some (j.map Int.toNat) else none

/-! ### Slot headers (R146, R147) -/

def hdrOcc (h : Dword) : Nat := field h 63 24
/-- 0 empty, 1 full, 2 dead, 3 poison. -/
def hdrState (h : Dword) : Nat := field h 23 22
def hdrReaders (h : Dword) : Nat := field h 21 14

/-- A header. -/
def mkHdr (occ st readers : Nat) (gen : BitVec 8) : Dword :=
  dw (at_ (occ % 2 ^ 40) 24 + at_ st 22 + at_ readers 14 + at_ gen.toNat 6)

def unclaimed (h : Dword) : Bool := hdrState h == 0 && hdrReaders h == 0

/-- A header that is live or claimed (R146). -/
def hdrLive (h : Dword) : Bool := hdrReaders h != 0

/-- A header that REFOLD and a marker wave keep: live, claimed or poison (R157, R160). -/
def hdrKept (h : Dword) : Bool := hdrLive h || hdrState h == 3

/-- A header with a reader fewer (R147). -/
def dropReader (h : Dword) : Dword :=
  let r := hdrReaders h - 1
  mkHdr (hdrOcc h) (bif r == 0 then 2 else hdrState h) r (h.extractLsb' 6 8)

/-- What a read finds (R147). -/
inductive ReadCase where
  | deliver | wait
  | expired (why : Nat)
  deriving DecidableEq, Repr

/-- The read column of R147. A poison header with occupant 0 is also what an error in a header leaves, so it is read as
R158 gives (notes/assumptions/20.md). -/
def readCase (h : Dword) (J : Nat) : ReadCase :=
  if unclaimed h then .wait
  else if J < hdrOcc h then .expired 0
  else if hdrState h = 3 then
    if hdrOcc h = J then .expired 2 else if hdrOcc h = 0 then .expired 0 else .wait
  else if hdrOcc h < J ∨ hdrState h = 0 then .wait
  else .deliver

/-- What a write finds (R147, R150). -/
inductive WriteCase where
  | write | stall | add | expired
  deriving DecidableEq, Repr

/-- The write column of R147. -/
def writeCase (h : Dword) (J : Nat) (adj : Bool) : WriteCase :=
  if unclaimed h then .write
  else if J < hdrOcc h then .expired
  else if hdrState h = 1 then (if hdrOcc h = J ∧ adj = true then .add else .stall)
  else if hdrState h = 0 then .stall
  else .write

/-- TINFO of R159. -/
def infoFold (sid cls : Nat) (w rev : Bool) (why nidx ord : Nat) : Dword :=
  dw (at_ sid 52 + at_ cls 50 + at_ (bif w then 1 else 0) 49 + at_ (bif rev then 1 else 0) 48 + at_ why 45 + at_ nidx 40 +
    ord % 2 ^ 40)

/-! ### The store of a fold -/

/-- How an access ends short of its effect: a wait, a wait at the home of an on-chip name (R147), or a trap. -/
inductive Halt where
  | wait (s : State)
  | hold (s : State)
  | trap (cause : Cause) (info : Dword)
  deriving DecidableEq, Repr

/-- The answer of a firing for a halt. -/
def Halt.res (h : Halt) (c : Ctx) (e : Nat) : Res :=
  match h with
  | .wait s => .stall s
  | .hold s => .hold s
  | .trap cause info => .trap cause (c.tag e) info

/-- The answer of one element for a halt. -/
def Halt.elem (h : Halt) (c : Ctx) (e : Nat) : ElemRes :=
  match h with
  | .wait s => .wait s
  | .hold s => .hold s
  | .trap cause info => .trap cause (c.tag e) info

/-- The bytes of the class of an on-chip fold (R140). -/
def chipBytes (p : Plot) (f : Fold) : Memory :=
  match f.cls with
  | 0 => (Tab.atD p.cells f.cell Cell.empty).frame
  | 1 => (Tab.atD p.cells f.cell Cell.empty).acc
  | _ => nearOf p f.cell

/-- A change of the bytes of the class of an on-chip fold. -/
def onChip (p : Plot) (f : Fold) (g : Memory → Memory) : Plot :=
  match f.cls with
  | 0 => { p with cells := Tab.updD p.cells f.cell Cell.empty (fun c => { c with frame := g c.frame }) }
  | 1 => { p with cells := Tab.updD p.cells f.cell Cell.empty (fun c => { c with acc := g c.acc }) }
  | _ => { p with near := Tab.updD p.near f.cell [] g }

/-- A change of a fold of a plot. -/
def onFold (p : Plot) (sid : Nat) (g : Fold → Fold) : Plot := { p with folds := Tab.upd p.folds sid g }

/-- The physical address of a far access of a firing through the fold's P-cell (R264, R271). -/
def farPa (s : State) (c : Ctx) (port va : Nat) (n : Need) : Except Halt (State × Nat) :=
  match translate s (c.via port 4) va n with
  | .miss s => .error (.wait s)
  | .fail _ (.xlate why) => .error (.trap .xlate (infoMem 4 why va))
  | .fail s (.migrate _ _ _) => .error (.wait s)
  | .ok s' pa =>
    match remoteFault? s c pa with
    | some (cause, info) => .error (.trap cause info)
    | none =>
      if paReserved s pa then .error (.trap .access (infoMem 4 2 va))
      else if behind s c port va pa n = true ∨ lineReady s port c.plot.vi (pa / 128) = false then .error (.wait s)
      else .ok (s', pa)

/-- Up to 8 bytes of a far fold read as an acquire at module scope, and whether they are uncorrectable. -/
def farBytes (s : State) (c : Ctx) (port va n : Nat) : Except Halt (State × Nat × Bool) :=
  match farPa s c port va .read with
  | .error h => .error h
  | .ok (s, pa) => .ok (readPa s port c.plot.vi pa n)

/-- Up to 8 bytes of the headers of a far fold read. -/
def farRead (s : State) (c : Ctx) (port va n : Nat) : Except Halt (State × Nat) :=
  match farBytes s c port va n with
  | .error h => .error h
  | .ok (s, v, bad) => if bad then .error (.trap .access (infoMem 4 3 va)) else .ok (s, v)

/-- Up to 8 bytes of a far fold written. -/
def farWrite (s : State) (c : Ctx) (port va n v : Nat) : Except Halt State :=
  match farPa s c port va .write with
  | .error h => .error h
  | .ok (s, pa) => .ok (writePa s port c.plot.vi pa n v)

/-- Whether a far fold is read-only: its P-cell does not own its region (R156). -/
def readOnly (s : State) (p : Plot) (f : Fold) : Bool :=
  f.far && (ownerAllows (viOf s p.vi) (f.port p) f.base).isNone

/-- The turn of an element's write to a fold: that to a far one waits in order for the hand-over of its region (R263). -/
def writeTurn (s : State) (c : Ctx) (e : Nat) (f : Fold) : Except Halt State :=
  if f.far then
    match farTurn s c.f e (f.port c.plot) c.plot.vi f.base with
    | (s, true) => .ok s
    | (s, false) => .error (.wait s)
  else .ok s

/-- Every address of a far fold that is to be written found writable now, before anything is written. -/
def farReady (s : State) (c : Ctx) (f : Fold) (vas : List Nat) : Except Halt State :=
  vas.foldl (fun (r : Except Halt State) va => match r with
    | .error h => .error h
    | .ok s => (farPa s c (f.port c.plot) va .write).map (·.1)) (.ok s)

/-- The plot of a firing as it now stands. -/
def plotNow (s : State) (c : Ctx) : Plot := (Tab.at? s.plots c.f.plot).getD c.plot

/-- The header of a slot; a far access of a cell that has no home port raises ACCESS (R258). -/
def getHdr (s : State) (c : Ctx) (f : Fold) (n : Nat) : Except Halt (State × Dword) :=
  if f.far ∧ homePort? c.plot c.f.cell = none then .error (.trap .access (infoMem 4 6 (f.hdrAt n)))
  else if f.far then
    match farRead s c (f.port c.plot) (f.hdrAt n) 8 with
    | .error h => .error h
    | .ok (s, v) => .ok (s, dw v)
  else match Tab.at? (plotNow s c).folds f.sid with
    | some f => .ok (s, Tab.atD f.hdrs n 0)
    | none => .ok (s, 0)

/-- The header of a slot written; for a far fold as a release at module scope. -/
def putHdr (s : State) (c : Ctx) (f : Fold) (n : Nat) (h : Dword) : Except Halt State :=
  if f.far then farWrite s c (f.port c.plot) (f.hdrAt n) 8 h.toNat
  else .ok (onPlot s c.f.plot (fun p => onFold p f.sid (fun f => { f with hdrs := Tab.put f.hdrs n h 0 })))

/-- Up to 8 bytes of data of a slot; none where those of a far one are uncorrectable, so that the slot is poisoned (R158). -/
def getData (s : State) (c : Ctx) (f : Fold) (n bytes : Nat) : Except Halt (State × Option Nat) :=
  if f.far then
    match farBytes s c (f.port c.plot) (f.slotAt n) bytes with
    | .error h => .error h
    | .ok (s, v, bad) => .ok (s, if bad then none else some v)
  else .ok (s, some (readN (chipBytes (plotNow s c) f) bytes (f.slotAt n)))

/-- The pieces of at most 8 bytes in which `n` bytes from an address are written. -/
def pieces (va n : Nat) : List (Nat × Nat) :=
  (List.range ((n + 7) / 8)).map (fun k => (va + 8 * k, Nat.min 8 (n - 8 * k)))

/-- Bytes of data of a slot and its header written, the data first; of a far slot every address is found writable before any byte is written
(R147, R156). -/
def putSlot (s : State) (c : Ctx) (f : Fold) (n bytes v : Nat) (h : Dword) : Except Halt State :=
  if f.far then
    match farReady s c f (f.hdrAt n :: (pieces (f.slotAt n) bytes).map (·.1)) with
    | .error e => .error e
    | .ok s =>
      let data := (pieces (f.slotAt n) bytes).foldl (fun (r : Except Halt State) (va, k) => match r with
        | .error e => .error e
        | .ok s => farWrite s c (f.port c.plot) va k (v / 2 ^ (8 * (va - f.slotAt n)))) (.ok s)
      match data with
      | .error e => .error e
      | .ok s => putHdr s c f n h
  else putHdr (onPlot s c.f.plot (fun p => onChip p f (fun m => writeN m bytes (f.slotAt n) v))) c f n h

/-! ### LDN, STN, KILL, LDN.T, STN.T (R163, R164) -/

/-- The name-table entry of a NIDX. -/
def Ctx.name (c : Ctx) (nidx : Nat) : Dword := ((c.blk.names[nidx]?).getD 0 : Dword)

/-- The trap flag of port a of a slot (R129, R147). -/
def Ctx.trapFlag (c : Ctx) (port : Nat) : Bool := (Tab.atD c.blk.flags c.f.slot 0).testBit port

/-- The header line of a slot of a far fold watched for the firings of a plot, once (R156). -/
def watchHdr (s : State) (c : Ctx) (f : Fold) (slot : Nat) : State :=
  match translate s (c.via (f.port c.plot) 4) (f.hdrAt slot) .read with
  | .ok s pa =>
    let w : Watch := { plot := c.f.plot, line := pa / 128, hit := false }
    onPort s (f.port c.plot) (fun p => bif p.watches.contains w then p else { p with watches := p.watches ++ [w] })
  | _ => s

/-- A wait for the header of a name (R147): at the home of an on-chip fold, until the header changes; of a far one, until the line's slice
reports a write to it (R156). -/
def waitHome (s : State) (c : Ctx) (f : Fold) (slot : Nat) : Halt := .hold (bif f.far then watchHdr s c f slot else s)

/-- A read that waits, or EMPTY where port a has trap flag 1 (R147). -/
def waitRead (s : State) (c : Ctx) (f : Fold) (slot : Nat) : Halt :=
  if c.trapFlag 0 then .trap .empty (infoPort c.f.slot 0 0) else waitHome s c f slot

/-- A name that an element accesses: its fold, ordinal and slot. -/
structure Named where
  f : Fold
  ord : Nat
  slot : Nat
  deriving DecidableEq, Repr

/-- The name of an entry for an element; none outside the domain, or where the statement has no fold. -/
def named? (s : State) (c : Ctx) (e nidx : Nat) : Option Named :=
  let p := plotNow s c
  let ent := c.name nidx
  match nameOf? p c.blk ent (c.tag e), Tab.at? p.folds (field ent 63 52) with
  | some j, some f => some { f := f, ord := ordinalOf (sidBounds p f.sid) j, slot := foldSlot f j }
  | _, _ => none

/-- The type of a name-table entry. -/
def nameTy (e : Dword) : Ty := tyOf (e.extractLsb' 48 4)

/-- One element of LDN: a name outside the domain is read as null (R139). -/
def ldnElem (keep : Bool) (nidx : Nat) (s : State) (c : Ctx) (e : Nat) : ElemRes :=
  match nameOf? (plotNow s c) c.blk (c.name nidx) (c.tag e), named? s c e nidx with
  | none, _ => .null s
  | _, none => .wait s
  | _, some x =>
    let ty := nameTy (c.name nidx)
    match getHdr s c x.f x.slot with
    | .error h => h.elem c e
    | .ok (s, h) =>
      match readCase h x.ord with
      | .wait => (waitRead s c x.f x.slot).elem c e
      | .expired why => .trap .expired (c.tag e) (infoFold x.f.sid x.f.cls false false why nidx (hdrOcc h))
      | .deliver =>
        match getData s c x.f x.slot (tyWidth ty / 8) with
        | .error h => h.elem c e
        | .ok (_, none) => .trap .expired (c.tag e) (infoFold x.f.sid x.f.cls false false 2 nidx (hdrOcc h))
        | .ok (s, some v) =>
          if keep ∨ hdrState h ≠ 1 ∨ readOnly s c.plot x.f = true then .done s (some (widenLoad ty v))
          else match writeTurn s c e x.f with
            | .error h => h.elem c e
            | .ok s => match putHdr s c x.f x.slot (dropReader h) with
              | .error h => h.elem c e
              | .ok s => .done s (some (widenLoad ty v))

/-- The cycles to the delivery of LDN by the class of a fold (R140); those of the far class are not fixed, and taken as of near. -/
def ldnLat (cls : Nat) : Nat := bif cls.blt 2 then 3 else 6

/-- The cycles to delivery of a name (R140, R447). -/
def Ctx.nameLat (c : Ctx) (nidx : Nat) : Nat :=
  match Tab.at? c.plot.folds (field (c.name nidx) 63 52) with
  | some f => ldnLat f.cls
  | none => 3

/-- LDN (R163). -/
def execLdn (keep : Bool) (nidx : BitVec 5) (c1 c0 : Cons) (s : State) : Outcome :=
  match ctxOf? s s.cur with
  | none => .fault .noFiring
  | some c => fireNames s (c.nameLat nidx.toNat) c1 c0 (runKind (tyWidth (nameTy (c.name nidx.toNat)) == 64)) (ldnElem keep nidx.toNat)

/-- PSTALL rises the first time a write element stalls (R149). -/
def countStall (s : State) (c : Ctx) (e sid : Nat) : State :=
  let seen := match ctxOf? s c.f with
    | some c => (Tab.atD c.inst.stalled c.f.slot 0).getLsbD e
    | none => true
  bif seen then s
  else onPlot s c.f.plot (fun p =>
    let p := onInst p c.f.cell c.f.bidx c.f.frame (fun i =>
      { i with stalled := Tab.updD i.stalled c.f.slot 0 (· ||| maskOf [e]) })
    onFold p sid (fun f => { f with pstall := satInc f.pstall }))

/-- The bytes of a slot that a store of `bytes` bytes writes: of an adjoint slot all, those beyond the value +0 (R254). -/
def Fold.storeBytes (f : Fold) (bytes : Nat) : Nat := bif f.adj then Nat.max bytes f.slotBytes else bytes

/-- A store or a claim of a name by R147 and R150: `data` gives the value, where it is no claim. -/
def writeName (s : State) (c : Ctx) (e nidx : Nat) (x : Named) (data : Option (Nat × Nat)) : Except Halt State :=
  if readOnly s c.plot x.f then .error (.trap .access (infoMem 4 0 (x.f.slotAt x.slot)))
  else match getHdr s c x.f x.slot with
    | .error h => .error h
    | .ok (s, h) =>
      let full := fun st => mkHdr x.ord st x.f.readers x.f.gen
      match writeCase h x.ord (x.f.adj && data.isSome) with
      | .expired => .error (.trap .expired (infoFold x.f.sid x.f.cls true false 1 nidx (hdrOcc h)))
      | .stall => .error (waitHome (countStall s c e x.f.sid) c x.f x.slot)
      | .write => match writeTurn s c e x.f, data with
        | .error h, _ => .error h
        | .ok s, none => putHdr s c x.f x.slot (full 0)
        | .ok s, some (bytes, v) => putSlot s c x.f x.slot (x.f.storeBytes bytes) v (full 1)
      | .add => match writeTurn s c e x.f with
        | .error h => .error h
        | .ok s => match getData s c x.f x.slot 4 with
          | .error h => .error h
          | .ok (s, none) => putSlot s c x.f x.slot (x.f.storeBytes 4) ((data.getD (0, 0)).2 % 2 ^ 32) (full 1)
          | .ok (s, some old) =>
            let v := (data.getD (0, 0)).2 % 2 ^ 32
            putSlot s c x.f x.slot 4 (roundF fmtF32 rne false (addF (decodeF fmtF32 old) (decodeF fmtF32 v))) h

/-- One element of STN. -/
def stnElem (nidx : Nat) (s : State) (c : Ctx) (e : Nat) : ElemRes :=
  match named? s c e nidx with
  | none => .wait s
  | some x =>
    let bytes := tyWidth (nameTy (c.name nidx)) / 8
    match writeName s c e nidx x (some (bytes, (c.wide 0 e).toNat % 2 ^ (8 * bytes))) with
    | .error h => h.elem c e
    | .ok s => .done s none

/-- STN (R163). -/
def execStn (nidx : BitVec 5) (s : State) : Outcome := fireNames s 2 0x1FF#9 0x1FF#9 .r32 (stnElem nidx.toNat)

/-- One element of KILL. -/
def killElem (nidx : Nat) (s : State) (c : Ctx) (e : Nat) : ElemRes :=
  match named? s c e nidx with
  | none => .done s none
  | some x =>
    if readOnly s c.plot x.f then .trap .access (c.tag e) (infoMem 4 0 (x.f.slotAt x.slot))
    else match getHdr s c x.f x.slot with
      | .error h => h.elem c e
      | .ok (s, h) =>
        if hdrOcc h = x.ord ∧ (hdrState h = 1 ∨ hdrState h = 3) then
          match writeTurn s c e x.f with
          | .error h => h.elem c e
          | .ok s => match putHdr s c x.f x.slot (mkHdr x.ord 2 0 (h.extractLsb' 6 8)) with
            | .error h => h.elem c e
            | .ok s => .done s none
        else .done s none

/-- KILL (R163). -/
def execKill (nidx : BitVec 5) (s : State) : Outcome := fireNames s 2 0x1FF#9 0x1FF#9 .r32 (killElem nidx.toNat)

/-- The payload of a tile handle (R153). -/
def mkHandle (sid : Nat) (gen : BitVec 8) (keep : Bool) (ord : Nat) : Dword :=
  dw (at_ sid 52 + at_ gen.toNat 44 + at_ (bif keep then 1 else 0) 43 + ord % 2 ^ 40)

/-- LDN.T (R153, R164): the handle of a name that is full or dead; null outside the domain. -/
def execLdnT (keep : Bool) (nidx : BitVec 5) (c1 c0 : Cons) (s : State) : Outcome :=
  fireOnce s c1 c0 .tile (fun c e =>
    match nameOf? (plotNow s c) c.blk (c.name nidx.toNat) (c.tag e), named? s c e nidx.toNat with
    | none, _ => .done s (both c1 c0 .tile [(0, .null)])
    | _, none => .stall s
    | _, some x => match getHdr s c x.f x.slot with
      | .error h => h.res c e
      | .ok (s, h) =>
        match readCase h x.ord with
        | .wait => (waitRead s c x.f x.slot).res c e
        | .expired why => .trap .expired (c.tag e) (infoFold x.f.sid x.f.cls false false why nidx.toNat (hdrOcc h))
        | .deliver => .doneIn (c.nameLat nidx.toNat) s (scalarOut c1 c0 .tile (mkHandle x.f.sid x.f.gen keep x.ord)))

/-- STN.T (R153, R164): the slot is claimed and its write handle emitted. -/
def execStnT (nidx : BitVec 5) (c1 c0 : Cons) (s : State) : Outcome :=
  fireOnce s c1 c0 .tile (fun c e =>
    match named? s c e nidx.toNat with
    | none => .stall s
    | some x => match writeName s c e nidx.toNat x none with
      | .error h => h.res c e
      | .ok s => .doneIn (c.nameLat nidx.toNat) s (scalarOut c1 c0 .tile (mkHandle x.f.sid x.f.gen false x.ord)))

/-! ### The checks of a fold record (R144) -/

/-- What a check of R144 finds wrong. -/
inductive FoldErr where
  | rsv (word bit : Nat)
  | feature (masked : Bool)
  | undecl
  | size (why ord : Nat)
  | range (why : Nat)
  deriving DecidableEq, Repr

/-- The offending bits of a word of four 12-bit entries of which `rank` must be nonzero and the others zero (R142). -/
def badFour? (w : Dword) (rank : Nat) : Option Nat :=
  lowestBit ([0, 1, 2, 3].map (fun d =>
    let lo := 36 - 12 * d
    bif d.blt rank then badUnless? (field w (lo + 11) lo != 0) lo else badZero? w (lo + 11) lo) ++ [badZero? w 63 48])

/-- Check 1 of R144: the record's first offending word and its lowest offending bit. -/
def badRecord? (f : Fold) (rank : Option Nat) : Option (Nat × Nat) :=
  let far := f.far
  let w0 := lowestBit [bif far then badZero? f.w0 19 0 else none, badUnless? (f.readers != 0) 20,
    badUnless? (rank == some f.rank && f.rank.ble 4) 29, badUnless? ((field f.w0 35 32).blt 12) 32, badZero? f.w0 36 36,
    bif far then badZero? f.w0 49 38 else badZero? f.w0 37 37]
  let w3 := lowestBit [badZero? f.w3 63 24, bif f.rank.blt 2 then badZero? f.w3 23 20 else none,
    bif f.rank.blt 3 then badZero? f.w3 19 16 else none, bif f.rank.blt 3 then badZero? f.w3 11 8 else none,
    bif f.rank.blt 4 then badZero? f.w3 15 12 else none, bif f.rank.blt 4 then badZero? f.w3 7 0 else none]
  let w4 := bif far then lowestBit [badZero? f.w4 6 0, badUnless? ((field f.w4 61 57).blt 24) 57] else badZero? f.w4 63 0
  ([(0, w0), (1, badFour? f.w1 f.rank), (2, badFour? f.w2 f.rank), (3, w3), (4, w4)].findSome? (fun (i, b) =>
    b.map (fun b => (i, b))))

/-- Whether two ranges of bytes meet. -/
def meets (a a' b b' : Nat) : Bool := a.blt b' && b.blt a'

/-- The bytes of an on-chip class. -/
def classBytes : Nat → Nat
  | 0 => 2 ^ 16
  | 1 => 2 ^ 15
  | 2 => 2 ^ 18
  | _ => 2 ^ 57

/-- Whether a site of a plot is a C-cell (R6); plot origins are even. -/
def isCcell (cell : Nat) : Bool := (cell % 64 + cell / 64) % 2 == 0

/-- Check 6 of R144. -/
def foldFits (p : Plot) (f : Fold) : Bool :=
  f.spaceEnd.ble (classBytes f.cls) &&
  (bif f.far then granted p (f.port p)
   else (f.cell % 64).blt p.w && (f.cell / 64).blt p.h && isCcell f.cell == f.cls.blt 2 &&
     (f.cls != 2 || !(areasOf p).any (fun a => a.scell == f.cell && meets f.base f.spaceEnd a.off (a.off + a.size))))

/-- Whether two folds share a space (R144, checks 7 and 8): the same cell and class, the same S-cell, the same plot. -/
def sameSpace (f g : Fold) : Bool := f.cls == g.cls && (f.far || f.cell == g.cell)

/-- Whether a cell can reach a fold (R141). -/
def reaches (p : Plot) (f : Fold) (cell : Nat) : Bool :=
  match f.cls with
  | 0 | 1 => cell == f.cell
  | 2 => [0, 1, 2, 3].any (fun d => neighbour? p cell d == some f.cell)
  | _ => true

/-- Check 9 of R144. -/
def namesReach (p : Plot) (f : Fold) : Bool :=
  p.cells.all (fun (k, c) => c.blocks.all (fun (_, b) => b.names.all (fun e =>
    field e 63 52 != f.sid || (reaches p f k && (!f.adj || field e 51 48 == 8)))))

/-- Check 10 of R144. -/
def inRegion (vi : Vi) (lo hi : Nat) : Bool := vi.regions.any (fun (_, (b, n)) => b.ble lo && hi.ble (b + n))

/-- The checks of R144, in order. The fold the statement has is exempt from the checks of space. -/
def checkFold? (s : State) (p : Plot) (f : Fold) : Option FoldErr :=
  let prod := producer? p f.sid
  let others := (p.folds.filter (fun (k, g) => k != f.sid && sameSpace f g)).map (·.2)
  let shared := (p.folds.filter (fun (k, g) => k != f.sid && g.cell == f.cell && g.cls.blt 2 == f.cls.blt 2 && !g.far)).map (·.2)
  match badRecord? f (prod.map (fun b => b.dom.length)) with
  | some (w, b) => some (.rsv w b)
  | none =>
    if f.far ∧ Config.present.getLsbD 5 = false then some (.feature false)
    else if f.far ∧ (viOf s p.vi).featm.getLsbD 5 = true then some (.feature true)
    else if f.far ∧ (prod.map (fun b => b.feat.getLsbD 5)).getD false = false then some .undecl
    else if (f.moduli.zip (four12 f.w2)).any (fun (m, sp) => m.blt sp) then some (.size 0 0)
    else if 128 ≤ f.slotBytes ∧ f.base % f.slotBytes ≠ 0 then some (.range 2)
    else if foldFits p f = false then some (.range 0)
    else if others.any (fun g => meets f.base f.spaceEnd g.base g.spaceEnd) then some (.range 1)
    else if f.far = false ∧ (bif f.cls == 2 then 16384 else 8192) < shared.foldl (fun n g => n + g.slots) f.slots then some (.range 3)
    else if namesReach p f = false then some (.range 4)
    else if f.far ∧ inRegion (viOf s p.vi) f.base f.spaceEnd = false then some (.range 5)
    else none

/-- The trap of a FOLD or REFOLD for what a check finds (R144, R159, R467; the layout of RSVFLD: notes/assumptions/62.md). -/
def foldTrap (s : State) (c : Ctx) (e : Nat) (f : Fold) : FoldErr → Res
  | .rsv w b => rsvHdr c e w b
  | .feature masked =>
    let info := infoFeat c.blk c.f.slot c.opcode 5
    if masked then .counted (countMask s c.plot.vi) .feature (c.tag e) info else .trap .feature (c.tag e) info
  | .undecl => .trap .undecl (c.tag e) (infoFeat c.blk c.f.slot c.opcode 5)
  | .size why ord => .trap .foldsize (c.tag e) (infoFold f.sid f.cls false false why 0 ord)
  | .range why => .trap .foldrange (c.tag e) (infoFold f.sid f.cls false false why 0 0)

/-! ### FOLD and REFOLD (R160, R165) -/

/-- A fold as a record's five words give it. -/
def foldOf (ws : List Dword) (gen : BitVec 8) (pstall : Word) : Fold :=
  let w := fun (i : Nat) => ((ws[i]?).getD 0 : Dword)
  { w0 := w 0, w1 := w 1, w2 := w 2, w3 := w 3, w4 := w 4, gen := gen, hdrs := [], pstall := pstall }

/-- The headers of a far fold read through its P-cell. -/
def farHdrs (s : State) (c : Ctx) (f : Fold) : (k : Nat) → Except Halt (State × Tab Dword)
  | 0 => .ok (s, [])
  | k + 1 => match farHdrs s c f k with
    | .error h => .error h
    | .ok (s, t) => match getHdr s c f k with
      | .error h => .error h
      | .ok (s, v) => .ok (s, Tab.put t k v 0)

/-- All headers of a fold that are not zero. -/
def allHdrs (s : State) (c : Ctx) (f : Fold) : Except Halt (State × Tab Dword) :=
  if f.far then farHdrs s c f f.slots else .ok (s, f.hdrs)

/-- Headers of a far fold written; the first pass finds every fault before anything is written. -/
def farPutHdrs (s : State) (c : Ctx) (f : Fold) (t : Tab Dword) : Except Halt State :=
  if readOnly s c.plot f then .error (.trap .access (infoMem 4 0 f.base))
  else match writeTurn s c 0 f with
  | .error h => .error h
  | .ok s => match farReady s c f ((List.range f.slots).map f.hdrAt) with
    | .error h => .error h
    | .ok s => (List.range f.slots).foldl (fun (r : Except Halt State) n => match r with
      | .error h => .error h
      | .ok s => farWrite s c (f.port c.plot) (f.hdrAt n) 8 (Tab.atD t n 0).toNat) (.ok s)

/-- The tile handles of a statement not yet consumed, by generation (R154): operands, tokens and results on their way. -/
def handleOut (p : Plot) (sid : Nat) (gen : BitVec 8) : Bool :=
  let hit := fun (x : Elem) => match x with
    | .val v => field v 63 52 == sid && field v 51 44 == gen.toNat
    | .null => false
  let inOp := fun (o : Operand) => o.kind == .tile && o.elems.any (fun (_, x) => hit x)
  p.tokens.any (fun t => t.kind == .tile && t.elems.any (fun (_, x) => hit x)) ||
  p.cells.any (fun (_, c) => c.pend.any (fun d => d.out.any (fun o => o.kind == .tile && o.elems.any (fun (_, x) => hit x))) ||
    c.blocks.any (fun (_, b) => b.early.any (fun (_, o) => inOp o) ||
    b.insts.any (fun (_, i) => i.ops.any (fun (k, o) => inOp o &&
      (elemsOf i.len).any (fun e => !resolved b i (k / 4) e)))))

/-- Whether an issued tile firing of a plot names a statement (R217). -/
def tileUses (p : Plot) (sid : Nat) : Bool :=
  p.cells.any (fun (_, k) => k.array.any (fun j => match ctxIn? p j.firing with
    | none => false
    | some c => [0, 1, 2].any (fun q => c.kind q == .tile && (elemsOf c.inst.len).any (fun e => field (c.val q e) 63 52 == sid))))

/-- The record of a FOLD or REFOLD at k[n+1]:k[n] (R165). -/
def foldRecord (s : State) (c : Ctx) (e n : Nat) : Got :=
  let va := (c.k2 n).toNat
  if homePort? c.plot c.f.cell = none then .stop (.trap .access (c.tag e) (infoMem 4 6 va))
  else match cellRead s c e 4 va 5 with
    | .stop r => .stop r
    | .ok s ws => if va % 8 ≠ 0 then .stop (.trap .align (c.tag e) (infoMem 4 0 va)) else .ok s ws

/-- The new fold of a statement put in place (R145, R165). -/
def installFold (s : State) (c : Ctx) (e : Nat) (f : Fold) : Res :=
  let put := fun s : State => onPlot s c.f.plot (fun p => { p with folds := Tab.set p.folds f.sid f })
  if f.far ∧ f.adopt = false then
    match farPutHdrs s c f [] with
    | .error h => h.res c e
    | .ok s => .done (put s) []
  else .done (put s) []

/-- FOLD (R165), on the record's words. -/
def foldWith (s : State) (c : Ctx) (e : Nat) (ws : List Dword) : Res :=
  let p := plotNow s c
  let f := foldOf ws 0 0
  match checkFold? s p f with
  | some err => foldTrap s c e f err
  | none =>
    match Tab.at? p.folds f.sid with
    | none => installFold s c e f
    | some old =>
      match allHdrs s c old with
        | .error h => h.res c e
        | .ok (s, t) =>
          if t.any (fun (_, h) => hdrKept h) then foldTrap s c e f (.size 2 0)
          else installFold s c e { f with gen := old.gen + 1 }

/-- FOLD (R165). -/
def execFold (n : BitVec 4) (s : State) : Outcome :=
  fireOnce s 0x1FF#9 0x1FF#9 .r32 (fun c e =>
    match foldRecord s c e n.toNat with
    | .stop r => r
    | .ok s ws => foldWith s c e ws)

/-- Whether a record differs from the fold in force in a field that REFOLD may not change (R160). -/
def fixedDiffers (old new : Fold) : Bool :=
  let m0 : Dword := 0xFFFFFFDFFFF00000
  (old.w0 &&& m0) != (new.w0 &&& m0) || old.w2 != new.w2 || field old.w1 63 48 != field new.w1 63 48 ||
    field old.w3 63 24 != field new.w3 63 24 || (bif old.far then field old.w4 63 57 != field new.w4 63 57 else old.w4 != new.w4)

/-- A slot that REFOLD moves: its new place, its header, its data. -/
structure Moved where
  slot : Nat
  hdr : Dword
  data : Nat
  deriving DecidableEq, Repr

/-- The bytes of a slot, in pieces of 4, through the fold's P-cell where it is far, and whether some are uncorrectable. -/
def slotBytesOf (s : State) (c : Ctx) (f : Fold) (n : Nat) : (k : Nat) → Except Halt (State × Nat × Bool)
  | 0 => .ok (s, 0, false)
  | k + 1 => match slotBytesOf s c f n k with
    | .error h => .error h
    | .ok (s, v, bad) =>
      if f.far then match farBytes s c (f.port c.plot) (f.slotAt n + 4 * k) 4 with
        | .error h => .error h
        | .ok (s, x, bad') => .ok (s, v + x * 2 ^ (32 * k), bad || bad')
      else .ok (s, v + readN (chipBytes (plotNow s c) f) 4 (f.slotAt n + 4 * k) * 2 ^ (32 * k), bad)

/-- The header of a slot whose data are uncorrectable: poison, with no readers; OCC and GEN stay (R158). -/
def poisonHdr (h : Dword) : Dword := mkHdr (hdrOcc h) 3 0 (h.extractLsb' 6 8)

/-- The slots that REFOLD moves, with their places in the new layout (R160). -/
def movedSlots (s : State) (c : Ctx) (old new : Fold) (bounds : List Nat) : Tab Dword → Except Halt (State × List Moved)
  | [] => .ok (s, [])
  | (n, h) :: t =>
    bif !hdrKept h then movedSlots s c old new bounds t
    else match slotBytesOf s c old n (old.slotBytes / 4) with
      | .error h => .error h
      | .ok (s, v, bad) => match movedSlots s c old new bounds t with
        | .error h => .error h
        | .ok (s, l) => .ok (s, { slot := foldSlot new (vectorOf bounds (hdrOcc h)), hdr := bif bad then poisonHdr h else h, data := v } :: l)

/-- The lower ordinal of the first pair of slots that fall together (R159, R160). -/
def collision? : List Moved → Option Nat
  | [] => none
  | m :: l => match l.find? (fun x => x.slot == m.slot) with
    | some x => some (Nat.min (hdrOcc m.hdr) (hdrOcc x.hdr))
    | none => collision? l

/-- A header with a generation. -/
def withGen (h : Dword) (gen : BitVec 8) : Dword := mkHdr (hdrOcc h) (hdrState h) (hdrReaders h) gen

/-- The moved slots written in the new layout, the data first. -/
def placeMoved (s : State) (c : Ctx) (f : Fold) (l : List Moved) : Except Halt State :=
  let put := fun (r : Except Halt State) (m : Moved) => match r with
    | .error h => .error h
    | .ok s =>
      if f.far then (List.range (f.slotBytes / 4)).foldl (fun (r : Except Halt State) k => match r with
        | .error h => .error h
        | .ok s => farWrite s c (f.port c.plot) (f.slotAt m.slot + 4 * k) 4 (m.data / 2 ^ (32 * k))) (.ok s)
      else .ok (onPlot s c.f.plot (fun p => onChip p f (fun b => writeN b f.slotBytes (f.slotAt m.slot) m.data)))
  l.foldl put (.ok s)

/-- Every address that the move of a far fold writes translated, before anything is written (R156, R160). -/
def farTest (s : State) (c : Ctx) (f : Fold) (l : List Moved) : Except Halt State :=
  if readOnly s c.plot f then .error (.trap .access (infoMem 4 0 f.base))
  else match writeTurn s c 0 f with
  | .error h => .error h
  | .ok s => farReady s c f ((List.range f.slots).map f.hdrAt ++
      l.flatMap (fun m => (List.range (f.slotBytes / 4)).map (fun k => f.slotAt m.slot + 4 * k)))

/-- REFOLD on a statement that has a fold (R160). A REFOLD of a far fold with ADOPT 1 takes the headers as it finds them and
moves nothing (notes/assumptions/21.md). -/
def refoldWith (s : State) (c : Ctx) (e : Nat) (old : Fold) (ws : List Dword) : Res :=
  let p := plotNow s c
  let new := foldOf ws (old.gen + 1) old.pstall
  if tileUses p old.sid ∨ handleOut p old.sid (old.gen + 1) then .stall s
  else if fixedDiffers old new then foldTrap s c e new (.range 6)
  else match checkFold? s p new with
    | some err => foldTrap s c e new err
    | none =>
      match allHdrs s c old with
      | .error h => h.res c e
      | .ok (s, t) => match movedSlots s c old new (sidBounds p old.sid) t with
        | .error h => h.res c e
        | .ok (s, l) =>
          match collision? l with
          | some ord => foldTrap s c e new (.size 1 ord)
          | none =>
            let hdrs := l.foldl (fun (t : Tab Dword) m => Tab.put t m.slot (withGen m.hdr new.gen) 0) []
            let put := fun s : State => onPlot s c.f.plot (fun p =>
              { p with folds := Tab.set p.folds new.sid { new with hdrs := bif new.far then [] else hdrs } })
            if new.far ∧ new.adopt = true then .done (put s) []
            else if new.far then match farTest s c new l with
              | .error h => h.res c e
              | .ok s => match placeMoved s c new l with
                | .error h => h.res c e
                | .ok s => match farPutHdrs s c new hdrs with
                  | .error h => h.res c e
                  | .ok s => .done (put s) []
            else match placeMoved s c new l with
              | .error h => h.res c e
              | .ok s => .done (put s) []

/-- REFOLD (R160, R165). -/
def execRefold (n : BitVec 4) (s : State) : Outcome :=
  fireOnce s 0x1FF#9 0x1FF#9 .r32 (fun c e =>
    match foldRecord s c e n.toNat with
    | .stop r => r
    | .ok s ws =>
      match Tab.at? (plotNow s c).folds (field ((ws[0]?).getD 0 : Dword) 63 52) with
      | none => foldWith s c e ws
      | some old => refoldWith s c e old ws)

/-! ### PROBE and FOLDQ (R166) -/

/-- PROBE (R166). -/
def execProbe (which : BitVec 2) (n : BitVec 4) (c1 c0 : Cons) (s : State) : Outcome :=
  fireOnce s c1 c0 .s64 (fun c e =>
    let k := c.k n.toNat
    match lowestFrom k.toNat 12 20 with
    | some b => rsvOperand c e b
    | none =>
      match Tab.at? c.plot.folds (field k 11 0) with
      | none => .done s (scalarOut c1 c0 .s64 0)
      | some f =>
        match which.toNat with
        | 0 =>
          let i := (c.low 0 e).toNat
          if f.slots ≤ i then .done s (scalarOut c1 c0 .s64 0)
          else match getHdr s c f i with
            | .error h => h.res c e
            | .ok (s, h) => .done s (scalarOut c1 c0 .s64 h)
        | 1 => .done s (scalarOut c1 c0 .s64 (zx32 f.pstall))
        | 2 => .done (onPlot s c.f.plot (fun p => onFold p f.sid (fun f => { f with pstall := 0 })))
            (scalarOut c1 c0 .s64 (zx32 f.pstall))
        | _ => match allHdrs s c f with
          | .error h => h.res c e
          | .ok (s, t) => .done s (scalarOut c1 c0 .s64 (dw (t.filter (fun (_, h) => hdrLive h)).length)))

/-- FOLDQ (R166). -/
def execFoldq (n : BitVec 4) (c1 c0 : Cons) (s : State) : Outcome :=
  fireOnce s c1 c0 .s64 (fun c e =>
    let k := c.k n.toNat
    match lowestFrom k.toNat 15 17 with
    | some b => rsvOperand c e b
    | none =>
      match Tab.at? c.plot.folds (field k 11 0) with
      | none => .done s (scalarOut c1 c0 .s64 0)
      | some f =>
        .done s (scalarOut c1 c0 .s64 (match field k 14 12 with
          | 0 => f.w0
          | 1 => f.w1
          | 2 => f.w2
          | 3 => f.w3
          | 4 => f.w4
          | 5 => dw f.gen.toNat
          | _ => 0)))

end Sys2Proof.Machine
end

