-- ==== Sys2Proof/Machine/Log.lean ====
section
/-!
DEFINITION. Sys2Proof/Machine/Log.lean: the furrow log of a plot (R233-R239): its registers, its bytes, appends.
-/
namespace Sys2Proof.Machine

/-! ### The registers (R234) -/

def noOff : Nat := 0xFFFFFFFF

def logOn (p : Plot) : Bool := p.logst.getLsbD 63
def logRev (p : Plot) : Bool := p.logst.getLsbD 62
def logTrunc (p : Plot) : Bool := p.logst.getLsbD 61
def logOpen (p : Plot) : Bool := p.logst.getLsbD 60
def logIdx (p : Plot) : Nat := field p.logst 59 57
def logSize (p : Plot) : Nat := field p.logst 31 0
def logTail (p : Plot) : Nat := field p.logpos 63 32
def logLast (p : Plot) : Nat := field p.logpos 31 0
def logMark (p : Plot) : Nat := field p.logseg 63 32
def logDone (p : Plot) : Nat := field p.logseg 31 0

/-- A word with a bit set to a value. -/
def setBit (w : Dword) (i : Nat) (b : Bool) : Dword :=
  bif b then w ||| dw (2 ^ i) else w &&& ~~~(dw (2 ^ i))

/-- LOGPOS. -/
def mkPos (tail last : Nat) : Dword := dw (at_ tail 32 + last)
/-- LOGSEG. -/
def mkSeg (mark done : Nat) : Dword := dw (at_ mark 32 + done)
/-- LOGST with a log and its size. -/
def withLog (p : Plot) (idx size : Nat) : Dword :=
  dw (field p.logst 63 60 * 2 ^ 60 + at_ idx 57 + size % 2 ^ 32)

/-- The descriptor of a log. -/
def logDesc (p : Plot) (i : Nat) : Dword × Dword := (p.logs[i]?).getD (0, 0)
def descFar (d : Dword × Dword) : Bool := field d.1 63 62 == 3
/-- OVF 1: an append that does not fit stops the recording. -/
def descStop (d : Dword × Dword) : Bool := d.1.getLsbD 61
def descBase (d : Dword × Dword) : Nat := field d.1 56 0
def descSize (d : Dword × Dword) : Nat := field d.2 31 0

/-- The S-cell of near logs: plot-relative (1, 0). -/
def logScell : Nat := 1

/-- The space for furrow logs that the configuration gives in the log S-cell holds a range. -/
def inLogSpace (p : Plot) (lo hi : Nat) : Bool :=
  hi.ble (2 ^ 18) && (List.range ((hi + 2047) / 2048 - lo / 2048)).all (fun i => (areasOf p).any (fun a => a.kind == 1 && a.scell == logScell &&
    a.off.ble ((lo / 2048 + i) * 2048) && ((lo / 2048 + i + 1) * 2048).ble (a.off + a.size)))

/-- The P-cell of a plot that owns the region in which a far log of a size lies (R233). -/
def logOwner? (s : State) (p : Plot) (d : Dword × Dword) (size : Nat) : Option Nat :=
  let vi := viOf s p.vi
  match (vi.regions.find? (fun (_, (b, n)) => b.ble (descBase d) && (descBase d + size).ble (b + n))).map (·.1) with
  | none => none
  | some r => match Tab.at? vi.owners r with
    | none => none
    | some o => bif granted p o.port then some o.port else none

/-- TINFO of LOGSTATE (R246). -/
def infoLog (why opnd off : Nat) : Dword := dw (at_ why 60 + at_ opnd 58 + off)
/-- TINFO of LOGFULL. -/
def infoFull (rev : Bool) (need tail : Nat) : Dword := dw (at_ (bif rev then 1 else 0) 63 + at_ (need % 2 ^ 31) 32 + tail)

/-! ### Bytes of the open log -/

/-- The dwords of a far range read through a P-cell. -/
def farReadMany (s : State) (c : Ctx) (port va : Nat) : (n : Nat) → Except Halt (State × List Dword)
  | 0 => .ok (s, [])
  | n + 1 => match farReadMany s c port va n with
    | .error h => .error h
    | .ok (s, l) => match farRead s c port (va + 8 * n) 8 with
      | .error h => .error h
      | .ok (s, v) => .ok (s, l ++ [dw v])

/-- Dwords written to a far range; every address is translated before anything is written. -/
def farWriteMany (s : State) (c : Ctx) (port va : Nat) (ws : List Dword) : Except Halt State :=
  let test := (List.range ws.length).foldl (fun (r : Except Halt State) n => match r with
    | .error h => .error h
    | .ok s => (farPa s c port (va + 8 * n) .write).map (·.1)) (.ok s)
  match test with
  | .error h => .error h
  | .ok s => (List.range ws.length).foldl (fun (r : Except Halt State) n => match r with
    | .error h => .error h
    | .ok s => farWrite s c port (va + 8 * n) 8 ((ws[n]?).getD 0).toNat) (.ok s)

/-- The dwords of a number of bytes. -/
def dwordsOf (bytes v : Nat) : List Dword := (List.range (bytes / 8)).map (fun i => dw (v / 2 ^ (64 * i)))

/-- `n` dwords of the open log of a plot, from a byte offset. -/
def logRead (s : State) (c : Ctx) (p : Plot) (off n : Nat) : Except Halt (State × List Dword) :=
  let d := logDesc p (logIdx p)
  if descFar d then match logOwner? s p d (logSize p) with
    | none => .error (.trap .access (infoMem 4 0 (descBase d + off)))
    | some port => farReadMany s c port (descBase d + off) n
  else .ok (s, (List.range n).map (fun i => dw (readN (nearOf p logScell) 8 (descBase d + off + 8 * i))))

/-- Dwords written into the open log of a plot. -/
def logWrite (s : State) (c : Ctx) (key : Nat) (p : Plot) (off : Nat) (ws : List Dword) : Except Halt State :=
  let d := logDesc p (logIdx p)
  if descFar d then match logOwner? s p d (logSize p) with
    | none => .error (.trap .access (infoMem 4 0 (descBase d + off)))
    | some port => farWriteMany s c port (descBase d + off) ws
  else .ok (onPlot s key (fun p => { p with near := Tab.updD p.near logScell [] (fun m =>
    (List.range ws.length).foldl (fun m i => writeN m 8 (descBase d + off + 8 * i) ((ws[i]?).getD 0).toNat) m) }))

/-! ### Records (R235-R238) -/

/-- What an append answers: appended; refused under OVF 1; a halt. -/
inductive Appended where
  | ok (s : State)
  | refused (s : State)
  | halt (h : Halt)
  deriving DecidableEq, Repr

/-- The length of the preceding record in 32-byte units. -/
def prevUnits (p : Plot) : Nat := bif logLast p == noOff then 0 else (logTail p - logLast p) / 32

/-- Whether an append of `need` bytes passes the end of the open log (R238). -/
def logFull (p : Plot) (need : Nat) : Bool := (logSize p).blt (logTail p + need)

/-- What an append that does not fit does (R238): under OVF 1 the recording stops; else LOGFULL. -/
def overflow (s : State) (c : Ctx) (p : Plot) (need : Nat) : Appended :=
  bif descStop (logDesc p (logIdx p)) then
    .refused (onPlot s c.f.plot (fun p => { p with logst := setBit (setBit p.logst 63 false) 61 true }))
  else .halt (.trap .logfull (infoFull false need (logTail p)))

/-- A record appended to the open log (R236, R238): `words` is given its PREV field. -/
def appendRecord (s : State) (c : Ctx) (words : Nat → List Dword) : Appended :=
  let p := plotNow s c
  let ws := words (prevUnits p)
  let need := 8 * ws.length
  let tail := logTail p
  if logFull p need then overflow s c p need
  else match logWrite s c c.f.plot p tail ws with
    | .error h => .halt h
    | .ok s => .ok (onPlot s c.f.plot (fun p => { p with logpos := mkPos (tail + need) tail }))

/-! ### A record taken back (R217) -/

/-- The length of the preceding record, in 32-byte units, in a record's first word. -/
def prevOf (w0 : Dword) : Nat := field w0 23 12

/-- A record's first word with another PREV. -/
def withPrev (w0 : Dword) (n : Nat) : Dword := (w0 &&& ~~~(dw (4095 * 2 ^ 12))) ||| dw (at_ (n % 2 ^ 12) 12)

/-- The record that follows the one at `off`, sought from `x` back: its offset and first word. -/
def followerOf (s : State) (c : Ctx) (p : Plot) (off : Nat) : (fuel x : Nat) → Except Halt (Option (Nat × Dword))
  | 0, _ => .ok none
  | fuel + 1, x =>
    match logRead s c p x 1 with
    | .error h => .error h
    | .ok (_, ws) =>
      let w := (ws[0]?).getD 0
      if prevOf w = 0 ∨ x ≤ off then .ok none
      else if x - 32 * prevOf w = off then .ok (some (x, w))
      else followerOf s c p off fuel (x - 32 * prevOf w)

/-- The record of a firing that completes with no effect taken out of the log again (R217): the space is free if it is still the last;
else the record after it names the one before it as its predecessor (notes/assumptions/64.md). -/
def takeBack (s : State) (c : Ctx) (off : Nat) (hdr : List Dword) : Except Halt State :=
  let p := plotNow s c
  match logRead s c p off 4 with
  | .error h => .error h
  | .ok (s, now) =>
    let bare := fun (l : List Dword) => withPrev ((l[0]?).getD 0) 0 :: l.drop 1
    let prev := prevOf ((now[0]?).getD 0)
    if logOpen p = false ∨ logTail p ≤ off ∨ bare now ≠ bare hdr then .ok s
    else if logLast p = off then
      .ok (onPlot s c.f.plot (fun p => { p with logpos := mkPos off (bif prev == 0 then noOff else off - 32 * prev) }))
    else match followerOf s c p off (logTail p / 32 + 1) (logLast p) with
      | .error h => .error h
      | .ok none => .ok s
      | .ok (some (x, w)) => logWrite s c c.f.plot p x [withPrev w (bif prev == 0 then 0 else prevOf w + prev)]

end Sys2Proof.Machine
end

