-- ==== Sys2Proof/Machine/Image.lean ====
section
/-!
DEFINITION. Sys2Proof/Machine/Image.lean: graph images: the container (R40-R45), the checks of the loader (R61-R64), the
legacy table (R71), and what the loader computes for the block stores (R97, R101, R112, R129).
-/
namespace Sys2Proof.Machine

/-! ### The container -/

/-- A block entry of an image (R42). -/
structure ImgBlock where
  desc : Dword
  hdr : Word
  words : List Word
  ks : List Word
  names : List Dword
  deriving DecidableEq, Repr

/-- A graph image taken apart: its header words, block entries and tables. -/
structure Image where
  head : List Dword
  blocks : List ImgBlock
  folds : List (List Dword)
  logs : List (List Dword)
  ports : List Dword
  routes : List (List Dword)
  groups : List (List Dword)
  fixups : List Dword
  deriving DecidableEq, Repr

def Image.h (m : Image) (i : Nat) : Dword := (m.head[i]?).getD 0
def Image.pw (m : Image) : Nat := field (m.h 0) 55 50
def Image.ph (m : Image) : Nat := field (m.h 0) 49 44
def Image.pin (m : Image) : Bool := (m.h 0).getLsbD 43
def Image.pdie (m : Image) : Nat := field (m.h 0) 42 41
def Image.px (m : Image) : Nat := field (m.h 0) 40 35
def Image.py (m : Image) : Nat := field (m.h 0) 34 29

def ImgBlock.cell (b : ImgBlock) : Nat := 64 * field b.desc 57 52 + field b.desc 63 58
def ImgBlock.bidx (b : ImgBlock) : Nat := field b.desc 51 48
def ImgBlock.frames (b : ImgBlock) : Nat := field b.desc 47 43 + 1
def ImgBlock.icount (b : ImgBlock) : Nat := field b.hdr 31 26
def ImgBlock.rank (b : ImgBlock) : Nat := field b.hdr 21 19
def ImgBlock.feat (b : ImgBlock) : BitVec 8 := b.hdr.extractLsb' 9 8
def ImgBlock.step (b : ImgBlock) : BitVec 4 := b.hdr.extractLsb' 5 4
def ImgBlock.exits (b : ImgBlock) : Nat := field b.hdr 4 2
/-- The constant word of a bound. -/
def ImgBlock.dom (b : ImgBlock) (d : Nat) : Nat := field b.desc (35 - 4 * d) (32 - 4 * d)

/-- The 32-bit word at a byte offset of an image. -/
def imgWord (img : List Dword) (off : Nat) : Word := BitVec.ofNat 32 (((img[off / 8]?).getD 0).toNat / 2 ^ (8 * (off % 8)))

/-- The 64-bit words from a byte offset of an image. -/
def imgDwords (img : List Dword) (off n : Nat) : List Dword := (List.range n).map (fun i => (img[off / 8 + i]?).getD 0)

/-- The block entry at a byte offset, and the offset after it (R42). -/
def imgBlock (img : List Dword) (off : Nat) : ImgBlock × Nat :=
  let desc := (img[off / 8]?).getD 0
  let hdr := imgWord img (off + 8)
  let n := field hdr 31 26 + 1
  let k := field hdr 25 22
  let words := (List.range n).map (fun i => imgWord img (off + 12 + 4 * i))
  let ks := (List.range k).map (fun i => imgWord img (off + 12 + 4 * (n + i)))
  let t := (off + 12 + 4 * (n + k) + 7) / 8 * 8
  let c := field desc 41 36
  ({ desc := desc, hdr := hdr, words := words, ks := ks, names := imgDwords img t c }, t + 8 * c)

/-- The block entries from an offset, and the end of the last; none where one passes BYTES. -/
def imgBlocks (img : List Dword) (bytes : Nat) : (n off : Nat) → Option (List ImgBlock × Nat)
  | 0, off => some ([], off)
  | n + 1, off =>
    bif bytes.blt (off + 12) then none
    else
      let (b, e) := imgBlock img off
      bif bytes.blt e then none
      else match imgBlocks img bytes n e with
        | none => none
        | some (l, e') => some (b :: l, e')

/-- A table of an image, in the writing order of R40: its count, the bytes of a record (0 for block entries), the word and
the lowest bit of its offset field. -/
structure ImgTable where
  count : Nat
  rec_ : Nat
  word : Nat
  bit : Nat
  off : Nat
  deriving DecidableEq, Repr

/-- The tables that a header names (R40). -/
def imgTables (h : List Dword) : List ImgTable :=
  let w := fun (i : Nat) => ((h[i]?).getD 0 : Dword)
  let hi := fun i => field (w i) 63 32
  let lo := fun i => field (w i) 31 0
  [{ count := field (w 1) 63 48, rec_ := 0, word := 3, bit := 32, off := hi 3 },
   { count := field (w 1) 47 32, rec_ := 40, word := 3, bit := 0, off := lo 3 },
   { count := field (w 1) 31 24, rec_ := 16, word := 4, bit := 32, off := hi 4 },
   { count := field (w 1) 23 16, rec_ := 8, word := 4, bit := 0, off := lo 4 },
   { count := field (w 2) 63 48, rec_ := 32, word := 5, bit := 32, off := hi 5 },
   { count := field (w 1) 15 8, rec_ := 16, word := 5, bit := 0, off := lo 5 },
   { count := field (w 2) 47 32, rec_ := 8, word := 6, bit := 32, off := hi 6 }]

/-- The end of a table; none where it passes BYTES. -/
def ImgTable.end? (t : ImgTable) (img : List Dword) (bytes : Nat) : Option Nat :=
  let e := if t.rec_ = 0 then (imgBlocks img bytes t.count t.off).map (·.2) else some (t.off + t.rec_ * t.count)
  e.bind (fun e => if bytes < e then none else some e)

/-- Check 1 of R62: the faults of the header, each as word and bit. -/
def headerFaults (img : List Dword) : List (Nat × Nat) :=
  let w := fun (i : Nat) => ((img[i]?).getD 0 : Dword)
  let at' := fun (i : Nat) (b : Option Nat) => (b.toList).map (fun b => (i, b))
  let gen := field (w 0) 63 56
  let size := fun v => decide (v % 4 = 0 ∧ 4 ≤ v ∧ v ≤ 48)
  let pw := field (w 0) 55 50
  let ph := field (w 0) 49 44
  let pin := (w 0).getLsbD 43
  let origin := fun v n b => bif !pin then badUnless? (v == 0) b
    else bif v % 4 != 0 then (lowestFrom v 0 2).map (b + ·) else badUnless? ((v + n).ble 48) b
  let bytes := field (w 2) 31 0
  let ts := (imgTables img).zip (List.range 7)
  let tableBit := fun (t : ImgTable) =>
    if t.count = 0 then badUnless? (t.off == 0) t.bit
    else if t.off % 8 ≠ 0 then (lowestFrom t.off 0 3).map (t.bit + ·)
    else badUnless? (t.end? img bytes).isSome t.bit
  let overlaps := fun (t u : ImgTable × Nat) =>
    u.1.count != 0 && (u.1.off.blt t.1.off || (u.1.off == t.1.off && u.2.blt t.2)) &&
      (match u.1.end? img bytes with
        | some e => t.1.off.blt e
        | none => false)
  at' 0 (badUnless? (gen == 3 || gen == 4) 56) ++ at' 0 (badUnless? (size pw) 50) ++ at' 0 (badUnless? (size ph) 44) ++
  at' 0 (badUnless? (pin || field (w 0) 42 41 == 0) 41) ++ at' 0 (origin (field (w 0) 40 35) pw 35) ++
  at' 0 (origin (field (w 0) 34 29) ph 29) ++ at' 0 (badZero? (w 0) 28 0) ++
  at' 1 (badUnless? (field (w 1) 63 48 != 0) 48) ++ at' 1 (badUnless? ((field (w 1) 31 24).ble 8) 24) ++
  at' 1 (badZero? (w 1) 7 0) ++ at' 6 (badZero? (w 6) 31 0) ++ at' 7 (badZero? (w 7) 63 0) ++
  ts.flatMap (fun (t, i) => at' t.word (tableBit t) ++
    at' t.word (badUnless? (t.count == 0 || !ts.any (overlaps (t, i))) t.bit))

/-- The first of the faults, by word and then by bit. -/
def firstFault (l : List (Nat × Nat)) : Option (Nat × Nat) :=
  l.foldl (fun m x => match m with
    | none => some x
    | some y => bif x.1.blt y.1 || (x.1 == y.1 && x.2.blt y.2) then some x else some y) none

/-- An image that passes check 1, taken apart. -/
def takeApart (img : List Dword) : Image :=
  let ts := imgTables img
  let t := fun (i : Nat) => (ts[i]?).getD { count := 0, rec_ := 0, word := 0, bit := 0, off := 0 }
  let recs := fun i => (List.range (t i).count).map (fun k => imgDwords img ((t i).off + (t i).rec_ * k) ((t i).rec_ / 8))
  let ones := fun i => (recs i).map (fun l => ((l[0]?).getD 0 : Dword))
  { head := img.take 8, blocks := ((imgBlocks img (field ((img[2]?).getD 0) 31 0) (t 0).count (t 0).off).map (·.1)).getD [],
    folds := recs 1, logs := recs 2, ports := ones 3, routes := recs 4, groups := recs 5, fixups := ones 6 }

/-- The selector that the legacy table gives a generation-3 word (R71). -/
def legacySel? (w : Word) : Option (BitVec 6) :=
  let op := field w 31 24
  if 0x5A ≤ op ∧ op ≤ 0x5F then some (BitVec.ofNat 6 (op - 0x5A)) else none

/-- A block entry of a generation-3 image through the legacy table (R71). -/
def legacyBlock (b : ImgBlock) : ImgBlock :=
  let hit := fun w => (legacySel? w).isSome && field w 23 18 == 0
  { b with words := b.words.map (fun w => match legacySel? w with
             | some s => bif hit w then mkWord 0xFE#8 s (w.extractLsb' 9 9) (w.extractLsb' 0 9) else w
             | none => w),
           hdr := bif b.words.any hit then b.hdr ||| 0x10000 else b.hdr }

/-- An image as the loader checks it. -/
def Image.legacy (m : Image) : Image :=
  bif field (m.h 0) 63 56 == 3 then { m with blocks := m.blocks.map legacyBlock } else m

/-! ### Failures (R63, R64) -/

/-- A failed load or configuration: the cause, TINFO, the cell that TCELL names, whether MASKHIT counts it. -/
structure LoadErr where
  cause : Cause
  info : Dword
  cell : Nat
  masked : Bool
  deriving DecidableEq, Repr

/-- TINFO of R63. GBLK has 8 bits: of a block or record whose index is 256 or more it shows the index modulo 256, which is the model's
choice, since R63 does not say (notes/assumptions/61.md). -/
def infoLoad (gblk slot : Nat) (hdr nte : Bool) (op fbit bstep bitpos : Nat) : Dword :=
  dw (at_ gblk 56 + at_ slot 50 + at_ (bif hdr then 1 else 0) 49 + at_ (bif nte then 1 else 0) 48 + at_ op 40 + at_ fbit 32 +
    at_ Config.stepping.toNat 28 + at_ bstep 24 + at_ bitpos 18)

/-- RSVFLD in a record of a table (R63). -/
def badRec (i word bit : Nat) : LoadErr :=
  { cause := .rsvfld, info := infoLoad i word true false 0 0 0 bit, cell := 0, masked := false }

/-- The first failure of a list of records, each with its offending words and bits: the record's index, the word and the bit. -/
def firstBad? (l : List (List (Nat × Nat))) : Option (Nat × Nat × Nat) :=
  (l.zip (List.range l.length)).findSome? (fun (bad, i) => (firstFault bad).map (fun x => (i, x)))

/-- The first failure of a list of records as a load failure. -/
def badRecs? (l : List (List (Nat × Nat))) : Option LoadErr := (firstBad? l).map (fun (i, w, b) => badRec i w b)

/-! ### Routes (R41, R112, R446) -/

/-- The site a hop leads to, as column and row in integers. -/
def hopFrom (x : Int × Int) (h : Nat) : Int × Int :=
  match h with
  | 0 => (x.1, x.2 - 1)
  | 1 => (x.1 + 1, x.2)
  | 2 => (x.1, x.2 + 1)
  | _ => (x.1 - 1, x.2)

/-- The hops of a route record. -/
def recHops (r : List Dword) : List Nat :=
  (List.range (Nat.min 96 (field ((r[0]?).getD 0) 39 32))).map (fun h =>
    field ((r[1 + h / 32]?).getD 0) (2 * (h % 32) + 1) (2 * (h % 32)))

/-- The sites of hops taken from a site, it included. -/
def hopSites (x : Int × Int) : List Nat → List (Int × Int)
  | [] => [x]
  | h :: t => x :: hopSites (hopFrom x h) t

/-- The source and destination cells of a route record. -/
def recSrc (r : List Dword) : Nat := 64 * field ((r[0]?).getD 0) 57 52 + field ((r[0]?).getD 0) 63 58
def recDst (r : List Dword) : Nat := 64 * field ((r[0]?).getD 0) 45 40 + field ((r[0]?).getD 0) 51 46

/-- The site of a cell in integers. -/
def cellSite (cell : Nat) : Int × Int := (((cell % 64 : Nat) : Int), ((cell / 64 : Nat) : Int))

/-- Whether a site lies inside a plot. -/
def siteIn (p : Plot) (x : Int × Int) : Bool := decide (0 ≤ x.1 ∧ x.1 < (p.w : Int) ∧ 0 ≤ x.2 ∧ x.2 < (p.h : Int))

/-- Whether a cell of a table entry is a C-cell, or an S-cell, of a plot. -/
def cellIn (p : Plot) (c : Bool) (cell : Nat) : Bool := siteIn p (cellSite cell) && isCcell cell == c

/-- The sites inside a plot at which a route record takes a table entry (R446). -/
def takenSites (p : Plot) (r : List Dword) : List (Int × Int) := (hopSites (cellSite (recSrc r)) (recHops r)).filter (siteIn p)

/-- The faults of a route record that its own bits show (R41). Hops that do not end at the destination are reported at DCY, the lower of
the two fields that name it, which is the model's choice (notes/assumptions/61.md). -/
def routeFaults (p : Plot) (r : List Dword) : List (Nat × Nat) :=
  let w := fun (i : Nat) => ((r[i]?).getD 0 : Dword)
  let n := field (w 0) 39 32
  let one := fun (i : Nat) (b : Option Nat) => (b.toList).map (fun b => (i, b))
  let site := fun cell x y => bif !(siteIn p (((cell % 64 : Nat) : Int), 0)) then some x else badUnless? (cellIn p true cell) y
  let own := one 0 (badZero? (w 0) 31 0) ++ one 0 (badUnless? (n != 0 && n.ble 96) 32) ++
    one 0 (site (recSrc r) 58 52) ++ one 0 (site (recDst r) 46 40) ++
    [1, 2, 3].flatMap (fun i => one i (lowestFrom (w i).toNat (2 * Nat.min 32 (n - 32 * (i - 1))) (64 - 2 * Nat.min 32 (n - 32 * (i - 1)))))
  bif own.isEmpty then
    one 0 (badUnless? ((hopSites (cellSite (recSrc r)) (recHops r)).getLast? == some (cellSite (recDst r))) 40)
  else own

/-- The first route record whose allotment would need a 65th entry in a switch (R112). -/
def allotFault? (p : Plot) : (i : Nat) → List (Int × Int) → List (List Dword) → Option Nat
  | _, _, [] => none
  | i, used, r :: t =>
    let used' := takenSites p r ++ used
    bif (takenSites p r).any (fun x => (64).blt (used'.filter (· == x)).length) then some i else allotFault? p (i + 1) used' t

/-- The routes of a plot by 64 × source cell + route id (R112). -/
def routeTable (l : List (List Dword)) : Tab Route :=
  l.foldl (fun (t : Tab Route) r =>
    let id := (t.filter (fun (k, _) => k / 64 == recSrc r)).length
    Tab.set t (64 * recSrc r + id) { dst := recDst r, hops := recHops r }) []

/-! ### What consumers deliver (R129, R134) -/

/-- The consumer fields of a word that deliver within its block: those of every form but OUT. -/
def localCons (w : Word) : List Cons :=
  bif field w 31 24 == 0x06 then [] else [w.extractLsb' 0 9, w.extractLsb' 9 9].filter (fun c => !isNone c)

/-- The consumer field of an OUT word of a cell, where its route ends at a cell and it names a block there. -/
def outCons (routes : Tab Route) (cell dst bidx : Nat) (w : Word) : List Cons :=
  bif field w 31 24 == 0x06 && field w 12 9 == bidx then
    match Tab.at? routes (64 * cell + field w 23 18) with
    | some r => bif r.dst == dst then [w.extractLsb' 0 9] else []
    | none => []
  else []

/-- Every consumer field of an image that delivers to a block (R129). -/
def consOf (m : Image) (routes : Tab Route) (b : ImgBlock) : List Cons :=
  b.words.flatMap localCons ++ m.blocks.flatMap (fun a => a.words.flatMap (outCons routes a.cell b.cell b.bidx))

/-- The ports that the form of a word can read (R51); of a word with a reserved selector those that some form of its opcode
reads, a for the fences and a, b and c for PART. -/
def readable (w : Word) : Nat :=
  match parse w with
  | .form _ i => mustRead i ||| mayRead i
  | .selector _ => bif field w 31 24 == 0xD7 then 1 else 7
  | .illop => 0

/-- The offending bit of a consumer field that delivers to a block: a slot beyond ICOUNT, a port the form does not read. -/
def badCons? (b : ImgBlock) (c : Cons) (lo : Nat) : Option Nat :=
  if isNone c then none
  else if b.icount < consSlot c then some (lo + 3)
  else badUnless? ((readable ((b.words[consSlot c]?).getD 0)).testBit (consPort c)) (lo + 1)

/-! ### Checks 6 to 8 (R55, R56, R59, R62) -/

/-- The FEAT bits that a form requires (R56). -/
def needFeat (w : Word) : BitVec 8 :=
  let op := field w 31 24
  let tile := op == 0x23 || op == 0x24 || (Nat.ble 0xA0 op && Nat.ble op 0xB0) || op == 0xBE || op == 0xD0
  let ext := (op == 0x85 || op == 0x86) && Nat.ble 0xC (field w 21 18) && Nat.ble (field w 21 18) 0xE
  BitVec.ofNat 8 ((bif tile then 1 else 0) + (bif ext then 2 else 0) +
    (bif Nat.ble 0xE0 op && Nat.ble op 0xE7 then 4 else 0) + (bif Nat.ble 0xC0 op && Nat.ble op 0xC6 then 8 else 0) +
    (bif op == 0xEB then 16 else 0) + (bif op == 0xFE then 128 else 0))

/-- Whether an opcode is of class D, or of class X (R58). -/
def isClassD (w : Word) : Bool := field w 31 24 == 0x4E || field w 31 24 == 0x91
def isClassX (w : Word) : Bool := field w 31 24 == 0xBE

/-- The offending bit of the consumer fields of a word of a block of an image (R51, R134). Two consumer fields that name one slot and port
are reported at C0, which is the model's choice (notes/assumptions/61.md). -/
def badConsumers? (m : Image) (routes : Tab Route) (b : ImgBlock) (w : Word) : Option Nat :=
  let c0 := w.extractLsb' 0 9
  let c1 := w.extractLsb' 9 9
  if field w 31 24 = 0x06 then
    match Tab.at? routes (64 * b.cell + field w 23 18) with
    | none => some 18
    | some r => match m.blocks.find? (fun a => a.cell == r.dst && a.bidx == field w 12 9) with
      | none => some 9
      | some a => if isNone c0 then some 3 else badCons? a c0 0
  else
    lowestBit [badCons? b c0 0, badCons? b c1 9,
      badUnless? (isNone c0 || isNone c1 || consSlot c0 != consSlot c1 || consPort c0 != consPort c1) 0]

/-- The offending bit of a word for what its block and image hold: NIDX (R48), exit codes and NEXT (R131), an index of TAG
(R131), a log (R247), a trigger that must or must not be there (R162, R398). -/
def badInBlock? (m : Image) (b : ImgBlock) (cs : List Cons) (slot : Nat) (w : Word) : Option Nat :=
  let op := field w 31 24
  let fed := fun port => (gather cs slot).1.testBit port
  if 0x21 ≤ op ∧ op ≤ 0x24 ∨ op = 0x26 then badUnless? ((field w 22 18).blt b.names.length) 18
  else if op = 0x0D then badUnless? ((field w 20 18).ble b.exits) 18
  else if op = 0x0E then badUnless? ((field w 20 18).ble b.exits && b.desc.getLsbD 42) 18
  else if op = 0x05 then badUnless? (field w 20 18 == 7 || (field w 20 18).blt b.rank) 18
  else if op = 0xC0 then badUnless? ((field w 20 18).blt m.logs.length) 18
  else if op = 0x25 then badUnless? (field w 23 22 != 0 || fed 0) 22
  else if op = 0xE8 then badUnless? (w.getLsbD 22 == fed 1) 22
  else if op = 0xE9 then badUnless? (w.getLsbD 22 == fed 2) 22
  else none

/-- Checks 6 to 8 of R62 on a word, in order; a generation-3 byte whose X is not zero fails as R71 gives. -/
def checkWord? (m : Image) (routes : Tab Route) (gblk : Nat) (b : ImgBlock) (cs : List Cons) (slot : Nat) (w : Word) : Option LoadErr :=
  let op := field w 31 24
  let err := fun cause fbit bitpos => some ({ cause := cause, info := infoLoad gblk slot false false op fbit b.step.toNat bitpos,
                                              cell := b.cell, masked := false } : LoadErr)
  let check7 := fun (bad : List Nat) => lowestBit (bad.map some ++ [badConsumers? m routes b w, badInBlock? m b cs slot w])
  let check8 := fun (_ : Unit) =>
    let miss := needFeat w &&& ~~~b.feat
    if miss ≠ 0 ∨ (isClassD w = true ∧ b.hdr.getLsbD 17 = false) ∨ (isClassX w = true ∧ b.hdr.getLsbD 18 = false) then
      err .undecl miss.toNat 0
    else none
  if field (m.h 0) 63 56 = 3 ∧ (legacySel? w).isSome then err .rsvfld 0 ((lowestFrom w.toNat 18 6).getD 18)
  else match parse w with
    | .illop => err .illop 0 0
    | .selector s => err .rsvfld 0 ((check7 [s]).getD s)
    | .form bad _ => match check7 bad with
      | some p => err .rsvfld 0 p
      | none => check8 ()

/-! ### Check 9 on name-table entries (R137, R138, R152) -/

/-- The ranks of the blocks that hold a storing slot of a statement, one for each slot. -/
def storingRanks (m : Image) (sid : Nat) : List Nat :=
  m.blocks.flatMap (fun b => (b.words.filter (fun w => (field w 31 24 == 0x22 || field w 31 24 == 0x24) &&
    ((b.names[field w 22 18]?).map (fun (e : Dword) => field e 63 52)) == some sid)).map (fun _ => b.rank))

/-- The opcodes of the words of a block that use a name-table entry. -/
def nameUses (b : ImgBlock) (i : Nat) : List Nat :=
  (b.words.filter (fun w => let op := field w 31 24
    ((Nat.ble 0x21 op && Nat.ble op 0x24) || op == 0x26) && field w 22 18 == i)).map (fun w => field w 31 24)

/-- Whether the width of a type fits a slot (R138, R142, R152). -/
def nameFits (ty slotBytes : Nat) : Bool :=
  (bif ty.ble 0xB then tyWidth (tyOf (BitVec.ofNat 4 ty)) / 8 else bif ty == 0xC then 2048 else 4096).ble slotBytes

/-- Whether the type of an entry is one that a form takes, in a slot of a size (R152, R162). -/
def nameTypeOk (op ty slotBytes : Nat) : Bool :=
  match op with
  | 0x21 | 0x22 => ty.ble 0xB
  | 0x23 | 0x24 => Nat.ble 6 ty && ty.ble 0xE && (bif Nat.ble 0xD ty then 4096 else 2048).ble slotBytes
  | _ => true

/-- The offending bit of a name-table entry (R138). DESIGN CHOICE (notes/assumptions/68.md): a relative expression that needs a greater RANK is
reported at the low bit of its OFF. -/
def badName? (m : Image) (b : ImgBlock) (i : Nat) (e : Dword) : Option Nat :=
  let sid := field e 63 52
  let ranks := storingRanks m sid
  let uses := nameUses b i
  let fold := m.folds.find? (fun r => field ((r[0]?).getD 0) 63 52 == sid)
  let off := fun d => field e (43 - 11 * d) (33 - 11 * d)
  let slotBytes := 2 ^ (field (((fold.getD [])[0]?).getD 0) 35 32 + 2)
  let byRank := match ranks with
    | [r] => [0, 1, 2, 3].flatMap (fun d =>
        bif r.ble d then [badUnless? (!e.getLsbD (44 + d)) (44 + d), badUnless? (off d == 0) (33 - 11 * d)]
        else [badUnless? (e.getLsbD (44 + d) || d.blt b.rank) (33 - 11 * d)])
    | _ => []
  let stores := bif uses.any (fun u => u == 0x22 || u == 0x24) then
      badUnless? (field e 47 44 == 0) 44 :: [0, 1, 2, 3].map (fun d => badUnless? (off d == 0) (33 - 11 * d))
    else []
  lowestBit ([badUnless? (ranks.length == 1 && fold.isSome) 52, badUnless? (field e 51 48 != 15) 48,
    badUnless? (fold.isNone || (nameFits (field e 51 48) slotBytes && uses.all (fun u => nameTypeOk u (field e 51 48) slotBytes))) 48] ++ byRank ++ stores)

/-! ### Checks 2 to 9 on a block entry -/

/-- Check 2 of R62: the offending bit of a descriptor; `before` holds the entries before it. -/
def badDesc? (p : Plot) (before : List ImgBlock) (b : ImgBlock) : Option Nat :=
  let cx := b.cell % 64
  let same := before.filter (fun a => a.cell == b.cell)
  lowestBit [badZero? b.desc 19 0, badUnless? (cx.blt p.w) 58, badUnless? (cellIn p true b.cell || !cx.blt p.w) 52,
    badUnless? (!same.any (fun a => a.bidx == b.bidx)) 48,
    badUnless? ((same.foldl (fun n a => n + a.frames) b.frames).ble 32) 43, badUnless? ((field b.desc 41 36).ble 32) 36]

/-- Check 3 of R62: the offending bit, of the header or, once RANK is found to be at most 4, of a DOM field of the descriptor
(R44); of several in the header the lowest (R63). -/
def badHeader? (b : ImgBlock) : Option Nat :=
  let step := badUnless? (b.hdr.getLsbD 18 || b.step == 0) 5
  let bits := [badZero? (zx32 b.hdr) 1 0, badUnless? (b.rank.ble 4) 19]
  match lowestBit bits with
  | some _ => lowestBit (step :: bits)
  | none => match [0, 1, 2, 3].find? (fun d => b.rank.ble d && b.dom d != 0) with
    | some d => some (32 - 4 * d)
    | none => step

/-- Checks 2 to 9 of R62 on a block entry of an image for a VI whose FEATM masks `featm`. -/
def checkBlock? (m : Image) (p : Plot) (routes : Tab Route) (featm : BitVec 8) (gblk : Nat) (before : List ImgBlock)
    (b : ImgBlock) : Option LoadErr :=
  let err := fun cause slot nte fbit bitpos masked =>
    some ({ cause := cause, info := infoLoad gblk slot true nte 0 fbit b.step.toNat bitpos, cell := b.cell, masked := masked } : LoadErr)
  let absent := b.feat &&& ~~~Config.present
  let masked := b.feat &&& Config.present &&& featm
  let cs := consOf m routes b
  match badDesc? p before b with
  | some x => err .rsvfld 0 false 0 x false
  | none => match badHeader? b with
    | some x => err .rsvfld 0 false 0 x false
    | none =>
      if absent ||| masked ≠ 0 then err .feature 0 false (absent ||| masked).toNat 0 (absent == 0)
      else if b.hdr.getLsbD 18 = true ∧ b.step ≠ Config.stepping then err .stepping 0 false 0 0 false
      else match (b.words.zip (List.range b.words.length)).findSome? (fun (w, i) => checkWord? m routes gblk b cs i w) with
        | some e => some e
        | none => (b.names.zip (List.range b.names.length)).findSome? (fun (e, i) =>
            match badName? m b i e with
            | some x => err .rsvfld i true 0 x false
            | none => none)

/-- Checks 2 to 9 of R62 on every block entry, in image order. -/
def checkBlocks? (m : Image) (p : Plot) (routes : Tab Route) (featm : BitVec 8) :
    (gblk : Nat) → (before rest : List ImgBlock) → Option LoadErr
  | _, _, [] => none
  | g, before, b :: rest => match checkBlock? m p routes featm g before b with
    | some e => some e
    | none => checkBlocks? m p routes featm (g + 1) (b :: before) rest

/-! ### Check 9 on the other tables -/

/-- The faults of a log descriptor (R233). -/
def logFaults (p : Plot) (r : List Dword) : List (Nat × Nat) :=
  let w := fun (i : Nat) => ((r[i]?).getD 0 : Dword)
  let one := fun (i : Nat) (b : Option Nat) => (b.toList).map (fun b => (i, b))
  let near := field (w 0) 63 62 == 2
  let base := field (w 0) 56 0
  let size := field (w 1) 31 0
  let space := bif !near then [] else bif !inLogSpace p base (base + 1) then [(0, 0)] else bif !inLogSpace p base (base + size) then [(1, 0)] else []
  one 0 (badUnless? (Nat.ble 2 (field (w 0) 63 62)) 62) ++ one 0 (badZero? (w 0) 60 57) ++
    one 0 (badZero? (w 0) (bif near then 4 else 6) 0) ++ one 1 (badZero? (w 1) 63 32) ++ one 1 (badUnless? (size != 0) 0) ++
    one 1 (badZero? (w 1) 4 0) ++ space

/-- The cell named by a home or area entry. -/
def entryCell (e : Dword) : Nat := 64 * field e 55 50 + field e 61 56

/-- The C-cell that an area entry serves (R212, R350). -/
def servedCell? (p : Plot) (e : Dword) : Option Nat := neighbour? p (entryCell e) (field e 49 48)

/-- The offending bit of a port-table entry (R259, R350); `before` holds the entries before it. -/
def badPort? (p : Plot) (before : List Dword) (e : Dword) : Option Nat :=
  let grantedTo := fun edge idx => granted p (portKeyOf p.die edge idx) && decide (idx < 24)
  let site := fun c => bif !(siteIn p (((entryCell e % 64 : Nat) : Int), 0)) then some 56 else badUnless? (cellIn p c (entryCell e)) 50
  match field e 63 62 with
  | 0 => lowestBit [badZero? e 42 0, badUnless? ((field e 59 55).blt 24) 55]
  | 1 => lowestBit [badZero? e 40 0, site true,
      badUnless? (!before.any (fun a => field a 63 62 == 1 && entryCell a == entryCell e)) 50,
      badUnless? (match neighbour? p (entryCell e) (field e 49 48) with
        | some c => cellIn p false c
        | none => false) 48, badUnless? (grantedTo (field e 47 46) (field e 45 41)) 41]
  | 2 =>
    let kind := field e 33 31
    let lo := field e 47 41
    let hi := lo + field e 40 34 + 1
    let serves := match servedCell? p e with
      | some c => cellIn p true c
      | none => false
    let inboxes := before.filter (fun a => field a 63 62 == 2 && field a 33 31 == 2)
    lowestBit [badZero? e 30 0, site false, badUnless? (kind.blt 4) 31, badUnless? (hi.ble 128) 34,
      bif kind == 0 || kind == 2 then badUnless? serves 48 else badUnless? (field e 49 48 == 0) 48,
      badUnless? (!before.any (fun a => field a 63 62 == 2 && entryCell a == entryCell e &&
        meets lo hi (field a 47 41) (field a 47 41 + field a 40 34 + 1))) 41,
      bif kind == 2 then badUnless? (inboxes.length.blt 16 && !inboxes.any (fun a => servedCell? p a == servedCell? p e)) 31 else none]
  | _ => lowestBit [badZero? e 46 0,
      badUnless? (!before.any (fun a => field a 63 62 == 3 && field a 61 54 == field e 61 54)) 54,
      badUnless? (grantedTo (field e 53 52) (field e 51 47)) 47]

/-- The faults of the port table, entry by entry. -/
def portFaults (p : Plot) : (before rest : List Dword) → List (List (Nat × Nat))
  | _, [] => []
  | before, e :: t => ((badPort? p before e).toList.map (fun b => (0, b))) :: portFaults p (e :: before) t

/-- The faults of a group record (R41). -/
def groupFaults (r : List Dword) : List (Nat × Nat) :=
  let w := fun (i : Nat) => ((r[i]?).getD 0 : Dword)
  ([badZero? (w 0) 63 57, badZero? (w 0) 11 0].filterMap id).map (fun b => (0, b)) ++ ((badZero? (w 1) 63 12).toList.map (fun b => (1, b)))

/-- The faults of a fixup (R41). -/
def fixupFaults (m : Image) (e : Dword) : List (Nat × Nat) :=
  ([badZero? e 35 0, badUnless? ((field e 63 48).blt m.blocks.length) 48,
    badUnless? ((field e 43 36).blt m.groups.length) 36].filterMap id).map (fun b => (0, b))

/-- The first failure of the route records, in table order: of one record its own faults come before its allotment (R41, R112, R446).
That a record's allotment is checked before the next record's own bits is the model's choice (notes/assumptions/61.md). -/
def badRoute? (p : Plot) (l : List (List Dword)) : Option LoadErr :=
  match firstBad? (l.map (routeFaults p)), allotFault? p 0 [] l with
  | some (i, w, b), some j => some (bif j.blt i then badRec j 0 32 else badRec i w b)
  | some (i, w, b), none => some (badRec i w b)
  | none, some j => some (badRec j 0 32)
  | none, none => none

/-- Check 9 of R62 after the last block entry. -/
def checkTables? (m : Image) (p : Plot) : Option LoadErr :=
  match badRecs? (m.logs.map (logFaults p)) with
  | some e => some e
  | none => match badRecs? (portFaults p [] m.ports) with
    | some e => some e
    | none =>
      match badRoute? p m.routes with
      | some e => some e
      | none => match badRecs? (m.groups.map groupFaults) with
        | some e => some e
        | none => badRecs? (m.fixups.map (fixupFaults m))

/-- The checks of R62 on an image, in order. -/
def checkImage? (img : List Dword) (p : Plot) (featm : BitVec 8) : Option LoadErr :=
  match firstFault (headerFaults img) with
  | some (w, b) => some (badRec 0 w b)
  | none =>
    let m := (takeApart img).legacy
    match checkBlocks? m p (routeTable m.routes) featm 0 [] m.blocks with
    | some e => some e
    | none => checkTables? m p

/-! ### What the loader writes (R47, R97, R101, R129) -/

/-- The resident block of an entry. -/
def loadBlock (m : Image) (routes : Tab Route) (gblk : Nat) (b : ImgBlock) : Block :=
  let cs := consOf m routes b
  let slots := List.range b.words.length
  let reads := fun i => match parse ((b.words[i]?).getD 0) with
    | .form _ f => readPorts f (gather cs i).1
    | _ => 0
  { gblk := gblk, frames := b.frames,
    base := (m.blocks.filter (fun a => a.cell == b.cell && a.bidx.blt b.bidx)).foldl (fun n a => n + a.frames) 0,
    seq := b.desc.getLsbD 42, dom := (List.range b.rank).map b.dom, exits := b.exits, step := b.step, feat := b.feat,
    words := b.words, k := (b.ks.zip (List.range b.ks.length)).foldl (fun t (v, i) => Tab.put t i v 0) [], names := b.names,
    reads := slots.foldl (fun t i => Tab.put t i (reads i) 0) [], flags := slots.foldl (fun t i => Tab.put t i (gather cs i).2 0) [],
    bounds := [], next := 0, insts := [], early := [], eos := [], eosSent := [], pendK := [], succ := none, mism := [], reds := [] }

/-- The cells of a plot with the blocks of an image. -/
def loadCells (m : Image) : Tab Cell :=
  let routes := routeTable m.routes
  (m.blocks.zip (List.range m.blocks.length)).foldl (fun (t : Tab Cell) (b, i) =>
    Tab.updD t b.cell Cell.empty (fun c => { c with blocks := Tab.set c.blocks b.bidx (loadBlock m routes i b) })) []

end Sys2Proof.Machine
end

