-- ==== Sys2Proof/Machine/Flow.lean ====
section
/-!
DEFINITION. Sys2Proof/Machine/Flow.lean: tokens in the mesh (R6-R8, R113): the sites and the P-cells that the mesh joins, the links that a
route takes, one flit a cycle on a link, whole tokens in round-robin order, four flits in a switch input; what a cell admits (R106).
-/
namespace Sys2Proof.Machine

/-! ### What the mesh joins (R7, R8) -/

/-- The two edge sites of a die that a P-cell adjoins (R7), by its edge 0 N, 1 E, 2 S, 3 W and its index. -/
def adjoins (edge idx : Nat) : (Nat × Nat) × (Nat × Nat) :=
  match edge with
  | 0 => ((2 * idx, 0), (2 * idx + 1, 0))
  | 1 => ((47, 2 * idx), (47, 2 * idx + 1))
  | 2 => ((47 - 2 * idx, 47), (46 - 2 * idx, 47))
  | _ => ((0, 47 - 2 * idx), (0, 46 - 2 * idx))

/-- What a mesh link leads to from a site of a die (R8): the next site in a direction, or the P-cell that the edge site adjoins. -/
inductive Joined where
  | site (x y : Nat)
  | pcell (edge idx : Nat)
  deriving DecidableEq, Repr

/-- The mesh link from a site in a direction 0 north, 1 east, 2 south, 3 west. Links never cross the edge of a die. -/
def joined (x y dir : Nat) : Joined :=
  match dir with
  | 0 => bif y == 0 then .pcell 0 (x / 2) else .site x (y - 1)
  | 1 => bif x == 47 then .pcell 1 (y / 2) else .site (x + 1) y
  | 2 => bif y == 47 then .pcell 2 ((47 - x) / 2) else .site x (y + 1)
  | _ => bif x == 0 then .pcell 3 ((47 - y) / 2) else .site (x - 1) y

/-! ### Tokens on links (R113) -/

/-- The body flits of a token (R111). -/
def flitsOf (kind : Kind) (es : Tab Elem) : Nat :=
  let n := ((es.getLast?).map (·.1)).getD 0 + 1
  match kind with
  | .r32 => (4 * n + 63) / 64
  | .r64 => (8 * n + 63) / 64
  | _ => 0

/-- The body flits of a token on its way: an EOS or a marker has none. -/
def Token.body (t : Token) : Nat := bif t.eos || t.mark then 0 else flitsOf t.kind t.elems

/-- The hops of a token's route. -/
def Token.hops (p : Plot) (t : Token) : List Nat := ((Tab.at? p.routes t.route).map (fun (r : Route) => r.hops)).getD []

/-- The hops that the head of a token has yet to take; one more than the route has while it is not yet in its own switch. -/
def Token.ahead (t : Token) : Nat := t.left - t.body

/-- The site after a number of hops. -/
def siteAfter (x : Int × Int) : (n : Nat) → List Nat → Int × Int
  | 0, _ | _, [] => x
  | n + 1, h :: t => siteAfter (hopFrom x h) n t

/-- A link: the site it leaves and its direction. -/
def linkKey (x : Int × Int) (dir : Nat) : Nat := 4 * (64 * x.2.toNat + x.1.toNat) + dir

/-- The link that hop `n` of a token's route takes; none where the route has no such hop or it leaves the plot (a hedge, R114). -/
def Token.link? (p : Plot) (t : Token) (n : Nat) : Option Nat :=
  let x := siteAfter (cellSite (t.route / 64)) n (t.hops p)
  match (t.hops p)[n]? with
  | none => none
  | some h => bif siteIn p x && siteIn p (hopFrom x h) then some (linkKey x h) else none

/-- The link that the head of a token is to take next. -/
def Token.next? (p : Plot) (t : Token) : Option Nat :=
  let n := (t.hops p).length
  bif t.ahead == 0 || n.blt t.ahead then none else t.link? p (n - t.ahead)

/-- The link at whose end, in a switch input, a token stands; none in its own switch and beyond a hedge. -/
def Token.stands? (p : Plot) (t : Token) : Option Nat :=
  let n := (t.hops p).length
  bif n.ble t.ahead then none else t.link? p (n - t.ahead - 1)

/-! ### Admission (R104, R106) -/

/-- The run-buffer entries an operand takes (R104). -/
def opEntries (key : Nat) (o : Operand) : Nat :=
  bif key % 4 == 3 then 0 else bif o.kind.wide && o.elems.any (fun (e, _) => Nat.ble 16 e) then 2 else 1

/-- The run-buffer entries in use in a cell (R104, R106): an entry is free once its slot has resolved every element. -/
def bufferUsed (c : Cell) : Nat :=
  c.blocks.foldl (fun n (_, b) =>
    let early := b.early.foldl (fun n (k, o) => n + opEntries k o) n
    b.insts.foldl (fun n (_, i) => i.ops.foldl (fun n (k, o) =>
      bif (elemsOf i.len).all (resolved b i (k / 4)) then n else n + opEntries k o) n) early) 0

/-- The oldest live instance of a cell: its block and run (R106). -/
def oldest? (c : Cell) : Option (Nat × Nat) :=
  (c.blocks.flatMap (fun (i, b) => b.insts.map (fun (_, x) => (x.first, i, x.run)))).foldl
    (fun (m : Option (Nat × Nat × Nat)) x => match m with
      | none => some x
      | some y => bif x.1.blt y.1 then some x else some y) none |>.map (·.2)

/-- Whether a token with data is for the oldest live instance of its cell (R106). -/
def forOldest (p : Plot) (cell : Nat) (t : Token) : Bool :=
  !t.eos && !t.mark && (match (Tab.at? p.cells cell).bind oldest?, blockAt? p cell t.bidx with
    | some (i, r), some b => i == t.bidx && runOf b.bounds t.tag == r
    | _, _ => false)

/-- Whether a cell admits a token (R106): 385 entries or more are free, or the token is for its oldest live instance; an EOS takes no
entry and is always admitted (notes/assumptions/63.md). -/
def admits (p : Plot) (cell : Nat) (t : Token) : Bool :=
  t.eos || (match Tab.at? p.cells cell with
    | none => true
    | some c => (bufferUsed c).blt 128) || forOldest p cell t

/-- The cell that a token goes to. -/
def Token.dst? (p : Plot) (t : Token) : Option Nat := (Tab.at? p.routes t.route).map (fun (r : Route) => r.dst)

/-- Whether a token is for the oldest live instance of the cell that it goes to: nothing that waits for a younger one holds it up
(R106, R109). -/
def Token.urgent (p : Plot) (t : Token) : Bool := (t.dst? p).any (fun dst => forOldest p dst t)

/-- Whether the j-th token of a plot waits at its cell: the cell does not take it in, or it is an EOS behind such a token of its route. -/
def waitsAt (p : Plot) (dst j : Nat) : Bool :=
  match p.tokens[j]? with
  | none => false
  | some u => !u.mark && (bif u.eos then (p.tokens.take j).any (fun w => w.route == u.route && !w.mark && !admits p dst w) else !admits p dst u)

/-- Whether the j-th token of a plot waits, or will, at the cell that it goes to. -/
def stuck (p : Plot) (j : Nat) : Bool := (p.tokens[j]?).any (fun t => (t.dst? p).any (fun dst => waitsAt p dst j))

/-! ### Switch inputs (R113) -/

/-- The places of the tokens of a plot. -/
def tokenPlaces (p : Plot) : List Nat := List.range p.tokens.length

/-- The flits of those tokens of a plot that stand at a place; for a token that nothing younger may hold up, without those that wait for
the cell that they go to (R106). -/
def flitsAt (p : Plot) (urgent : Bool) (at' : Token → Bool) : Nat :=
  (tokenPlaces p).foldl (fun n k => match p.tokens[k]? with
    | some t => bif at' t && !(urgent && stuck p k) then n + 1 + t.body else n
    | none => n) 0

/-- Whether a token stands in the input of its own switch from its cell. -/
def Token.atHome (p : Plot) (cell : Nat) (t : Token) : Bool :=
  t.route / 64 == cell && t.route.blt (2 ^ 20) && t.ahead == (t.hops p).length

/-- Whether a token has yet to enter its own switch. -/
def Token.outside (p : Plot) (t : Token) : Bool := t.route.blt (2 ^ 20) && (t.hops p).length.blt t.ahead

/-- Whether a switch input with `used` flits takes a token of `size` flits: four flits of it, or a longer token alone. -/
def takes (used size : Nat) : Bool := used == 0 || (used + size).ble 4

/-- Whether the j-th token of a plot does not hold up the token `t`: it waits for its cell, and `t` may pass it (R106). -/
def passes (p : Plot) (t : Token) (j : Nat) : Bool := t.urgent p && stuck p j

/-- Whether the k-th token of a plot enters its own switch: none of its cell is to enter before it, and the input takes it (R113). -/
def enters (p : Plot) (k : Nat) : Bool :=
  match p.tokens[k]? with
  | none => false
  | some t => t.outside p && takes (flitsAt p (t.urgent p) (fun u => u.atHome p (t.route / 64))) (1 + t.body) &&
      (List.range k).all (fun j => ((p.tokens[j]?).map (fun (u : Token) => !(u.outside p && u.route / 64 == t.route / 64))).getD true || passes p t j)

/-- The token that a link takes next, by its place in the list: of the first tokens of the routes that wait for the link, where the input
at its end has room, the one whose route comes next in the round (R113). A token for the oldest instance passes those that wait for their
cell (R106). -/
def linkWinner? (p : Plot) (link : Nat) : Option Nat :=
  let l := Tab.atD p.links link (0, 0)
  bif l.1 != 0 then none
  else
    let wants := (tokenPlaces p).filterMap (fun k => match p.tokens[k]? with
      | some t => bif t.next? p == some link && takes (flitsAt p (t.urgent p) (fun u => u.stands? p == some link)) (1 + t.body) &&
          (List.range k).all (fun j => ((p.tokens[j]?).map (fun (u : Token) => !(u.route == t.route && u.next? p == some link))).getD true ||
            passes p t j) then some (k, t.route) else none
      | none => none)
    let turn := fun (r : Nat) => bif l.2.blt r then r else r + 2 ^ 32
    (wants.foldl (fun (m : Option (Nat × Nat)) x => match m with
      | none => some x
      | some y => bif (turn x.2).blt (turn y.2) then some x else some y) none).map (·.1)

/-- A cycle of the mesh of a plot: each token whose way is free comes a cycle nearer; one that waits for a link, or for room at its end,
stays. -/
def flow (p : Plot) : Plot :=
  let wanted := (p.tokens.filterMap (fun t => t.next? p)).foldl (fun l k => bif l.contains k then l else k :: l) ([] : List Nat)
  let won := wanted.filterMap (fun link => (linkWinner? p link).map (fun k => (link, k)))
  let moves := fun k (t : Token) => bif t.outside p then enters p k else (t.next? p).isNone || won.any (fun x => x.2 == k)
  let tokens := (List.range p.tokens.length).filterMap (fun k => (p.tokens[k]?).map (fun (t : Token) =>
    bif moves k t then { t with left := t.left - 1 } else t))
  let quiet := p.links.map (fun (k, (n, r)) => (k, (n - 1, r)))
  let links := won.foldl (fun ls (link, k) => match p.tokens[k]? with
    | some t => Tab.set ls link (t.body, t.route)
    | none => ls) quiet
  { p with tokens := tokens, links := links }

/-- Whether a cell can send a further token: none of its own has yet to enter its switch, but for those that it may pass (R113). -/
def canInject (p : Plot) (t : Token) : Bool :=
  (tokenPlaces p).all (fun j => ((p.tokens[j]?).map (fun (u : Token) => !(u.outside p && u.route / 64 == t.route / 64))).getD true || passes p t j)

end Sys2Proof.Machine
end

