-- ==== Sys2Proof/Machine/Control.lean ====
section
/-!
DEFINITION. Sys2Proof/Machine/Control.lean: the forms 0x00-0x12 that act within a plot (R131-R134). BAR, BARW and SIG
stand in Barriers.lean.
-/
namespace Sys2Proof.Machine

/-- NOP (R132): fires on every element, no effect. -/
def execNop (s : State) : Outcome := fireLanes s lat2 32 (fun _ _ => [])

/-- The kind in which a choice between values of any kind is sent (R132, R169): the elements of a scalar's run travel as a run of their
width; tile handles stay such, each for its element. -/
def passKind : Kind → Kind
  | .s32 | .r32 => .r32
  | .s64 | .r64 => .r64
  | .tile => .tile

/-- The elements of an operand, passed bit for bit (R132). -/
def passElems (c : Ctx) (port : Nat) (es : List Nat) : Tab Elem :=
  es.map (fun e => (e, (c.elem? port e).getD .null))

/-- MOV (R131, R132): the operand, of the same kind. -/
def execMov (c1 c0 : Cons) (s : State) : Outcome :=
  fireLanes s lat2 32 (fun c es => both c1 c0 (c.kind 0) (passElems c 0 es))

/-- IMM (R132): the 6-bit immediate, sign-extended to 32 bits. -/
def execImm (val : BitVec 6) (c1 c0 : Cons) (s : State) : Outcome :=
  fireMap s lat2 32 c1 c0 false (fun _ _ => zx32 (val.signExtend 32))

/-- KREAD (R132). -/
def execKread (wide : Bool) (n : BitVec 4) (c1 c0 : Cons) (s : State) : Outcome :=
  fireMap s lat2 32 c1 c0 wide (fun c _ => bif wide then c.k2 n.toNat else zx32 (c.k n.toNat))

/-- TAG (R132): the tag, or an index of the iteration. -/
def execTag (dim : BitVec 3) (c1 c0 : Cons) (s : State) : Outcome :=
  fireMap s lat2 32 c1 c0 (dim == 7#3) (fun c e =>
    bif dim == 7#3 then dw (c.tag e)
    else dw ((((vectorOf c.blk.bounds (c.tag e))[dim.toNat]?).getD 0) % 2 ^ 32))

/-- STEER.T and STEER.F (R132): a where the predicate is `sense`, else null. -/
def steer (sense : Bool) (c1 c0 : Cons) (s : State) : Outcome :=
  fireLanes s lat2 32 (fun c es => bothEach c1 c0 (passKind (c.kind 0)) (es.map (fun e =>
    (e, bif c.null e || (c.val 3 e != 0) != sense then Elem.null else .val (c.val 0 e)))))

/-- STEER.T (R132). -/
def execSteerT (c1 c0 : Cons) (s : State) : Outcome := steer true c1 c0 s

/-- STEER.F (R132). -/
def execSteerF (c1 c0 : Cons) (s : State) : Outcome := steer false c1 c0 s

/-- Elements of a and of b, each with the kind of its operand; one delivery where the kinds agree. -/
def bothSides (c : Ctx) (c1 c0 : Cons) (fromA : List (Nat × Elem)) (fromB : List (Nat × Elem)) (order : List Nat) : List Emit :=
  bif passKind (c.kind 0) == passKind (c.kind 1) then
    bothEach c1 c0 (passKind (c.kind 0)) (order.map (fun e => (e, ((fromA ++ fromB).find? (fun p => p.1 == e)).map (·.2) |>.getD .null)))
  else bothEach c1 c0 (passKind (c.kind 0)) fromA ++ bothEach c1 c0 (passKind (c.kind 1)) fromB

/-- SEL (R132). -/
def execSel (c1 c0 : Cons) (s : State) : Outcome :=
  fireLanes s lat2 32 (fun c es =>
    let isA := fun e => c.null e || c.val 3 e != 0
    let one := fun port e => (e, bif c.null e then Elem.null else .val (c.val port e))
    bothSides c c1 c0 ((es.filter isA).map (one 0)) ((es.filter (fun e => !isA e)).map (one 1)) es)

/-- MERGE (R132): a where it is not null, else b; where neither is null, b is dropped and counted with WHY 5. -/
def execMerge (c1 c0 : Cons) (s : State) : Outcome :=
  match ctxOf? s s.cur with
  | none => .fault .noFiring
  | some c =>
    match readyElems c.blk c.inst c.f.slot with
    | [] => .next s
    | es =>
      let isA := fun e => c.elem? 0 e != some .null
      let clash := es.filter (fun e => isA e && c.elem? 1 e != some .null)
      let out := bothSides c c1 c0 (passElems c 0 (es.filter isA)) (passElems c 1 (es.filter (fun e => !isA e))) es
      let s := complete s c 2 es out
      .next (onPlot s c.f.plot (fun p => clash.foldl (fun p e =>
        dropElems p c.f.cell c.f.bidx c.f.slot 1 (c.tag e) 1 5) p))

/-- ISEOS (R133): 0 for an element of a, 1 for one resolved through an EOS on a. -/
def execIseos (c1 c0 : Cons) (s : State) : Outcome :=
  fireLanes s lat2 32 (fun c es => both c1 c0 .r32 (es.map (fun e =>
    (e, bif c.null e then Elem.null else .val (flag (!belowEos (c.tag e) (eosOf c.blk c.f.slot)))))))

/-- An EOS on its way to a local consumer, that comes after a number of cycles. -/
def queueEos (p : Plot) (cell bidx tag left : Nat) (o : Cons) : Plot :=
  bif isNone o then p
  else { p with eosQ := p.eosQ ++ [{ cell := cell, bidx := bidx, slot := consSlot o, port := consPort o, tag := tag, left := left }] }

/-- EOS (R133): an EOS token with tag a[39:0] to each consumer, delivered 2 cycles after issue (R108). -/
def execEos (c1 c0 : Cons) (s : State) : Outcome :=
  fireOnce s 0x1FF#9 0x1FF#9 .s32 (fun c e =>
    let t := (c.wide 0 e).toNat % 2 ^ 40
    .done (onPlot s c.f.plot (fun p => queueEos (queueEos p c.f.cell c.f.bidx t 2 c0) c.f.cell c.f.bidx t 2 c1)) [])

/-- SETK writes wait for the next round, or the next instance of a sequential block (R133): of several to one word the
highest tag wins, then the highest slot. -/
def pendSetk (b : Block) (n : Nat) (v : Word) (tag slot : Nat) : Block :=
  let keep := match Tab.at? b.pendK n with
    | none => false
    | some (_, t, sl) => tag.blt t || (t == tag && slot.blt sl)
  bif keep then b else { b with pendK := Tab.set b.pendK n (v, tag, slot) }

/-- SETK (R133). -/
def execSetk (wide : Bool) (n : BitVec 4) (s : State) : Outcome :=
  fireOnce s 0x1FF#9 0x1FF#9 .s32 (fun c e =>
    let v := widen true (c.kind 0) (c.val 0 e)
    .done (onPlot s c.f.plot (fun p => onBlock p c.f.cell c.f.bidx (fun b =>
      let b := pendSetk b n.toNat (lo32 v) c.inst.first c.f.slot
      bif wide then pendSetk b (n.toNat + 1) (lo32 (v >>> 32)) c.inst.first c.f.slot else b))) [])

/-- EXIT (R133): EXITC keeps the highest code; a sequential thread ends after this instance (R98). -/
def execExit (code : BitVec 3) (s : State) : Outcome :=
  fireOnce s 0x1FF#9 0x1FF#9 .s32 (fun c _ =>
    .done (onPlot s c.f.plot (fun p =>
      let p := { p with exitc := dw (Nat.max p.exitc.toNat code.toNat) }
      bif c.blk.seq then onCell p c.f.cell (fun k => { k with thread := { k.thread with exited := true } }) else p)) [])

/-- The block a cell's NEXT chooses is one of its sequential blocks (R133). -/
def isSeqBlock (p : Plot) (cell bidx : Nat) : Bool :=
  match blockAt? p cell bidx with
  | none => false
  | some b => b.seq

/-- NEXT (R133): of several in one instance the lowest slot wins, of several instances the youngest; ILLOP where the word
names no sequential block of the cell. -/
def execNext (code : BitVec 3) (s : State) : Outcome :=
  fireOnce s 0x1FF#9 0x1FF#9 .s32 (fun c e =>
    let succ := field (c.k 14) (4 * code.toNat + 3) (4 * code.toNat)
    bif isSeqBlock c.plot c.f.cell succ then
      .done (onPlot s c.f.plot (fun p => onBlock p c.f.cell c.f.bidx (fun b =>
        let keep := match b.succ with
          | none => false
          | some (r, sl, _) => c.inst.run.blt r || (r == c.inst.run && sl.blt c.f.slot)
        bif keep then b else { b with succ := some (c.inst.run, c.f.slot, succ) }))) []
    else .trap .illop (c.tag e) (dw (at_ c.f.slot 50 + at_ 0x0E 40)))

/-- PMASK (R133): bit e of a for each element of the run. -/
def execPmask (c1 c0 : Cons) (s : State) : Outcome :=
  fireOnce s c1 c0 .r32 (fun c e =>
    .done s (both c1 c0 .r32 ((elemsOf c.inst.len).map (fun i => (i, Elem.val (flag ((c.val 0 e).getLsbD i)))))))

/-- The tokens that carry elements along a route: those of a run of 64-bit elements span at most 16 (R111, R134). -/
def tokensOf (c : Ctx) (route bidx : Nat) (c0 : Cons) (es : List Nat) : List Token :=
  let mk := fun (g : List Nat) =>
    let e0 := (g.head?).getD 0
    let es := g.map (fun e => (e - e0, (c.elem? 0 e).getD .null))
    ({ route := 64 * c.f.cell + route, sender := 64 * c.f.bidx + c.f.slot, bidx := bidx, slot := consSlot c0, port := consPort c0, tag := c.tag e0,
       eos := false, mark := false, kind := c.kind 0, elems := es,
       left := wayTime c.plot (64 * c.f.cell + route) (flitsOf (c.kind 0) es) } : Token)
  let e0 := (es.head?).getD 0
  let parts := bif c.kind 0 == .r64 then [es.filter (fun e => e.blt (e0 + 16)), es.filter (fun e => (e0 + 16).ble e)] else [es]
  (parts.filter (fun g => !g.isEmpty)).map mk

/-- OUT (R134): the elements it fires on, null ones marked, sent along a route of the cell; it stalls while a token of the cell has yet to
enter its switch (R113). -/
def execOut (route : BitVec 6) (bidx : BitVec 4) (c0 : Cons) (s : State) : Outcome :=
  match ctxOf? s s.cur with
  | none => .fault .noFiring
  | some c =>
    match readyElems c.blk c.inst c.f.slot with
    | [] => .next s
    | es =>
      let ts := tokensOf c route.toNat bidx.toNat c0 es
      if ts.all (canInject c.plot) = false then .next (stallFiring s)
      else .next (onPlot (complete s c 2 es []) c.f.plot (fun p => { p with tokens := p.tokens ++ ts }))

end Sys2Proof.Machine
end

