-- ==== Sys2Proof/Machine/TileMath.lean ====
section
/-!
DEFINITION. Sys2Proof/Machine/TileMath.lean: the arithmetic of the matrix array (R207, R208, R221-R230, R91, R92) on operand
bytes: an operand is the little-endian number of its extent's bytes, a result is another.
-/
namespace Sys2Proof.Machine

/-- The operations of the tile forms. -/
inductive TOp where
  | mma | mmaT | mmaSp | trans | add | sub | mul | scaleR | scaleC | maxz | exp2 | rsum | csum | rmax | cvt | qnt | zero | copy
  deriving DecidableEq, Repr

/-- The operation of a tile opcode (R220). -/
def tileOp? : Nat → Option TOp
  | 0xA0 => some .mma | 0xA1 => some .mmaT | 0xA2 => some .trans | 0xA3 => some .add | 0xA4 => some .sub | 0xA5 => some .mul
  | 0xA6 => some .scaleR | 0xA7 => some .scaleC | 0xA8 => some .maxz | 0xA9 => some .exp2 | 0xAA => some .rsum
  | 0xAB => some .csum | 0xAC => some .rmax | 0xAD => some .cvt | 0xAE => some .qnt | 0xAF => some .zero | 0xB0 => some .copy
  | 0xBE => some .mmaSp | _ => none

def TOp.isMma : TOp → Bool
  | .mma | .mmaT | .mmaSp => true
  | _ => false

/-- Element-wise forms of two operands (R224). -/
def TOp.two : TOp → Bool
  | .add | .sub | .mul | .scaleR | .scaleC => true
  | _ => false

/-- The reductions of R225. -/
def TOp.isSum : TOp → Bool
  | .rsum | .csum | .rmax => true
  | _ => false

/-! ### The tile control word (R209) -/

def tcTA (tc : Word) : Ty := tyOf (tc.extractLsb' 28 4)
def tcTB (tc : Word) : Ty := tyOf (tc.extractLsb' 24 4)
def tcTD (tc : Word) : Ty := tyOf (tc.extractLsb' 20 4)
def tcSat (tc : Word) : Bool := tc.getLsbD 17
def tcSH (tc : Word) : Bool := tc.getLsbD 16
def tcRA (tc : Word) : Bool := tc.getLsbD 15
def tcRB (tc : Word) : Bool := tc.getLsbD 14
def tcRD (tc : Word) : Bool := tc.getLsbD 13
/-- The number of repetitions. -/
def tcReps (tc : Word) : Nat := field tc 12 10 + 1
def tcAcc (tc : Word) : Bool := tc.getLsbD 9
def tcAX (tc : Word) : Nat := field tc 8 7
def tcNO (tc : Word) : Nat := field tc 6 5

/-- The rounding mode of a tile control word. -/
def tcRm (tc : Word) : Rm :=
  match field tc 19 18 with
  | 0 => .rne
  | 1 => .rz
  | 2 => .rup
  | _ => .sr

/-! ### Shapes and extents (R207, R208) -/

/-- The width of an element of a tile type in bits. -/
def tileWidth : Ty → Nat
  | .b4x => 4
  | .be4m3 => 8
  | t => tyWidth t

/-- Whether a type is a block format. -/
def isBlockTy : Ty → Bool
  | .b4x | .be4m3 => true
  | _ => false

/-- Columns of an operand. -/
def tileCols (ty : Ty) (sh : Bool) : Nat := bif sh then 64 else 512 / tileWidth ty

/-- The extent of an operand of `rows` rows of `cols` columns whose headers start at `hs` (R208). DESIGN CHOICE (notes/assumptions/67.md): where a b4x
operand has 64 columns (SH 1), a block is 128 consecutive elements, two rows. -/
def tileExtent (ty : Ty) (rows cols hs : Nat) : Nat :=
  let data := rows * cols * tileWidth ty / 8
  bif isBlockTy ty then hs + 2 * (rows * cols / 128) else data

/-- The extents of A, B and the destination of a form. -/
def extentA (op : TOp) (tc : Word) : Nat :=
  bif op.isMma then tileExtent (tcTA tc) 32 (tileCols (tcTA tc) false) 2048
  else tileExtent (tcTA tc) 32 (tileCols (tcTA tc) (tcSH tc)) 2048

def extentB (op : TOp) (tc : Word) : Nat :=
  bif op.isMma then tileExtent (tcTB tc) 64 (tileCols (tcTB tc) false) 4096
  else tileExtent (tcTB tc) 32 (tileCols (tcTB tc) (tcSH tc)) 2048

def extentD (op : TOp) (tc : Word) : Nat :=
  match op with
  | .mma | .mmaT | .mmaSp => 8192
  | .cvt => 32 * tileCols (tcTA tc) (tcSH tc) * tileWidth (tcTD tc) / 8
  | .qnt => tileExtent (tcTD tc) 32 (tileCols (tcTD tc) false) 2048
  | _ => tileExtent (tcTD tc) 32 (tileCols (tcTD tc) (tcSH tc)) 2048

/-- Whether a form reads A, and whether it reads B. -/
def readsA (op : TOp) : Bool := op != .zero
def readsB (op : TOp) (tc : Word) : Bool := op.isMma || op.two || (op == .qnt && tcTD tc == .b4x)

/-! ### Elements -/

/-- The pattern of element `i` of elements of `w` bits. -/
def elemPat (v w i : Nat) : Nat := v / 2 ^ (w * i) % 2 ^ w

/-- Patterns packed as R75 gives. -/
def packPats (w : Nat) (l : List Nat) : Nat := l.foldr (fun x acc => x % 2 ^ w + 2 ^ w * acc) 0

/-- Element `i` of an operand, in row-major order, and whether decoding it sets FX (R80-R84). -/
def tileElem (ty : Ty) (hs v i : Nat) : FVal × Bool :=
  let p := elemPat v (tileWidth ty) i
  let h := elemPat (v / 2 ^ (8 * hs)) 16 (i / 128)
  match ty with
  | .f32 | .bf16 | .e4m3 | .e5m2 => (decodeF (fmtOf ty) p, false)
  | .i4x => let r := bareI4x p; (ofInt r.1, r.2)
  | .b4x => decodeB4x h (fun k => elemPat v 4 (i / 128 * 128 + k)) (i % 128)
  | .be4m3 => (decodeBe4m3 h p, false)
  | .i8 => (ofInt (sx p 8), false)
  | _ => (ofInt (p : Int), false)

/-- Whether decoding the first `n` elements of an operand sets FX. -/
def tileFx (ty : Ty) (hs v n : Nat) : Bool := (List.range n).any (fun i => (tileElem ty hs v i).2)

/-- A pattern of f32 under RNE. -/
def toF32 (v : FVal) : Nat := roundF fmtF32 rne false v

/-- The value of a value rounded to f32 under RNE. -/
def quietF32 (v : FVal) : FVal := decodeF fmtF32 (toF32 v)

/-! ### Grouped sums (R91, R92, R230) -/

/-- The exact sum of one group; an exact zero is +0. -/
def groupSum (n : Nat) (x y : Nat → FVal) (g : Nat) : FVal :=
  let ks := (List.range 16).filter (fun k => (16 * g + k).blt n)
  match ks.foldl (fun acc k => addF acc (mulF (x (16 * g + k)) (y (16 * g + k)))) (.fin false 0 0) with
  | .fin s m e => if m = 0 then .fin false 0 0 else .fin s m e
  | v => v

/-- A sum of `n` products in groups of 16, each converted to f32, added in order: t of R91. -/
def groupedSum (n : Nat) (x y : Nat → FVal) : FVal :=
  (List.range ((n + 15) / 16)).foldl (fun (t : FVal) g =>
    let s := quietF32 (groupSum n x y g)
    if g = 0 then s else quietF32 (addF t s)) (.fin false 0 0)

/-! ### The TMMA family (R221-R223) -/

/-- The index that block transposition takes element (i, k) of a tile of C columns from (R222). -/
def blockT (c i : Nat) : Nat :=
  let r := i / c
  let col := i % c
  col % 32 * c + 32 * (col / 32) + r

/-- Row m, dense position k of a structured row of TMMA.SP (R223): which value stands there. -/
def sparseAt (v m k : Nat) : Option Nat :=
  let g := k / 4
  let mdw := elemPat v 64 (8 * m + 4)
  let i0 := mdw / 2 ^ (4 * g) % 4
  let i1 := mdw / 2 ^ (4 * g + 2) % 4
  if i1 ≤ i0 then none
  else if k % 4 = i0 then some (2 * g)
  else if k % 4 = i1 then some (2 * g + 1)
  else none

/-- Whether a group of a structured tile is not well formed. -/
def sparseFx (v : Nat) : Bool :=
  (List.range 32).any (fun m => (List.range 16).any (fun g =>
    let mdw := elemPat v 64 (8 * m + 4)
    (mdw / 2 ^ (4 * g + 2) % 4).ble (mdw / 2 ^ (4 * g) % 4)))

/-- The value at row m, position k of A of a form of the family, as the sums take it. -/
def mmaA (op : TOp) (tc : Word) (a m k : Nat) : FVal :=
  let ty := tcTA tc
  let c := tileCols ty false
  match op with
  | .mmaT => (tileElem ty 2048 a (blockT c (m * c + k))).1
  | .mmaSp => match sparseAt a m k with
    | some i => (tileElem ty 2048 a (64 * m + i)).1
    | none => .fin false 0 0
  | _ => (tileElem ty 2048 a (m * c + k)).1

/-- The value at row n, position k of B. -/
def mmaB (tc : Word) (b n k : Nat) : FVal := (tileElem (tcTB tc) 4096 b (n * tileCols (tcTB tc) false + k)).1

/-- One repetition: the accumulator's bytes after it (R91 step 5). -/
def mmaStep (op : TOp) (tc : Word) (a b acc : Nat) : Nat :=
  let n := tileCols (tcTA tc) false
  packPats 32 ((List.range 2048).map (fun i =>
    toF32 (addF (decodeF fmtF32 (elemPat acc 32 i)) (groupedSum n (mmaA op tc a (i / 64)) (mmaB tc b (i % 64))))))

/-- Whether a repetition sets FX. -/
def mmaFx (op : TOp) (tc : Word) (a b : Nat) : Bool :=
  let n := tileCols (tcTA tc) false
  (bif op == .mmaSp then sparseFx a else tileFx (tcTA tc) 2048 a (32 * n)) || tileFx (tcTB tc) 4096 b (64 * n)

/-! ### The other forms (R224-R228) -/

/-- The rounding of output element i (R89). -/
def tileRnd (tc : Word) (seed : Dword) (tag i : Nat) : Rnd := { mode := tcRm tc, word := srWord seed tag i }

/-- An element-wise form at one element (R224). -/
def elemForm (op : TOp) (f : Fmt) (r : Rnd) (x y : FVal) (xPat : Nat) : Nat :=
  match op with
  | .add => roundF f r false (addF x y)
  | .sub => roundF f r false (addF x (negF y))
  | .maxz =>
    if x.isNan then f.nan
    else if compareF x (.fin false 0 0) = .gt then roundF f rne false x else 0
  | .exp2 => funcF .exp2 f r xPat
  | _ => roundF f r false (mulF x y)

/-- The sum of values in order: the first unrounded, each later sum rounded (R225). -/
def orderedSum (f : Fmt) (r : Rnd) : List FVal → FVal
  | [] => .fin false 0 0
  | x :: l => l.foldl (fun acc y => decodeF f (roundF f r false (addF acc y))) x

/-- The index of the greatest of values, −0 below +0, the lowest at a tie (R225, R229). -/
def greatest (x : Nat → FVal) (n : Nat) : Nat :=
  (List.range n).foldl (fun best i => if ltSigned (x best) (x i) then i else best) 0

/-- A magnitude. -/
def absF : FVal → FVal
  | .nan => .nan
  | .inf _ => .inf false
  | .fin _ m e => .fin false m e

/-- x ≤ y for values that are not NaN. -/
def leF (x y : FVal) : Bool := compareF x y != .gt

/-- The least S of R228 under a bound m × 2^(S-127) on magnitudes; 127 where all are zero, 254 where none fits. DESIGN CHOICE
(notes/assumptions/67.md): "all zero" speaks of the values that enter the bound. -/
def leastScale (m : Nat) (l : List FVal) : Nat :=
  if l.all (fun x => compareF x (.fin false 0 0) == .eq) then 127
  else ((List.range 255).find? (fun (S : Nat) => l.all (fun x => leF (absF x) (.fin false m ((S : Int) - 127))))).getD 254

/-- The NO even elements of greatest magnitude, ties to the lower (R228). -/
def outlierCands (x : Nat → FVal) : (no : Nat) → (got : List Nat) → List Nat
  | 0, got => got
  | k + 1, got =>
    let es := ((List.range 64).map (2 * ·)).filter (fun e => !got.contains e)
    match es.foldl (fun (m : Option Nat) e => match m with
        | none => some e
        | some b => if compareF (absF (x b)) (absF (x e)) = .lt then some e else some b) none with
    | none => got
    | some e => outlierCands x k (got ++ [e])

/-- A block of TQNT (R228): its header and its 128 codes. `rnd` gives the rounding of each element. DESIGN CHOICE (notes/assumptions/67.md): the partner
code of a negative outlier with m 0 is 0b1000, as the rule's steps give it, against its last sentence. -/
def quantBlock (four : Bool) (no : Nat) (rnd : Nat → Rnd) (x : Nat → FVal) : Nat × List Nat :=
  let es := List.range 128
  if es.any (fun e => (x e).isNan) then (0xFF, List.replicate 128 0)
  else if four then
    let cand := outlierCands x no []
    let S := leastScale 7 ((es.filter (fun e => !cand.contains e && !(e % 2 == 1 && cand.contains (e - 1)))).map x)
    let sc : Int := (S : Int) - 127
    let out := cand.filter (fun e => !leF (absF (x e)) (.fin false 7 sc))
    let E := bif out.isEmpty then 0
      else ((List.range 16).find? (fun (k : Nat) => out.all (fun e => leF (absF (x e)) (.fin false 15 (sc + (k : Int) - 10))))).getD 15
    let code := fun e =>
      if out.contains e then 8
      else if e % 2 = 1 ∧ out.contains (e - 1) then
        let y := x (e - 1)
        let m := toIntF (rnd e) 0 7 (addF (scaleF (10 - sc - (E : Int)) (absF y)) (.fin true 8 0))
        (bif y.neg then 8 else 0) + m.toNat
      else (toIntF (rnd e) (-7) 7 (scaleF (-sc) (x e)) % 16).toNat
    (E * 4096 + S, es.map code)
  else
    let S := leastScale 448 (es.map x)
    (S, es.map (fun e => roundF fmtE4m3 (rnd e) false (scaleF (127 - (S : Int)) (x e))))

/-- TQNT's result (R228). -/
def quantTile (tc : Word) (seed : Dword) (tag a b : Nat) : Nat :=
  let ty := tcTA tc
  let four := tcTD tc == .b4x
  let value := fun q e =>
    if four then (if e < 64 then (tileElem ty 2048 a (64 * q + e)).1 else (tileElem ty 2048 b (64 * q + (e - 64))).1)
    else (tileElem ty 2048 a (128 * q + e)).1
  let blocks := (List.range (bif four then 32 else 16)).map (fun q =>
    quantBlock four (tcNO tc) (fun e => tileRnd tc seed tag (128 * q + e)) (value q))
  packPats (bif four then 4 else 8) (blocks.flatMap (·.2)) + 2 ^ (8 * 2048) * packPats 16 (blocks.map (·.1))

/-- TCVT at one element (R227). -/
def cvtForm (tc : Word) (r : Rnd) (x : FVal) : Nat :=
  match tcTD tc with
  | .i8 => (toIntF r (-128) 127 x % 256).toNat
  | .n8 => (toIntF r 0 255 x).toNat
  | t => roundF (fmtOf t) r (tcSat tc && t == .e5m2) x

/-- The pattern of a bare element as it reads: the code 0b1000 of i4x is 0 (R80). -/
def bareCode (t : Ty) (x : Nat) : Nat := bif t == .i4x && x == 8 then 0 else x

/-- The result of a form outside the TMMA family, from the bytes of A and B, and whether it sets FX. -/
def tileForward (op : TOp) (tc : Word) (seed : Dword) (tag a b : Nat) : Nat × Bool :=
  let ty := tcTA tc
  let c := tileCols ty (tcSH tc)
  let n := 32 * c
  let x := fun i => (tileElem ty 2048 a i).1
  let y := fun i => (tileElem (tcTB tc) 2048 b i).1
  let f := fmtOf ty
  let rnd := tileRnd tc seed tag
  let wd := tileWidth ty
  match op with
  | .zero => (0, false)
  | .copy => (a, false)
  | .trans => (packPats wd ((List.range n).map (fun i => bareCode ty (elemPat a wd (blockT c i)))), tileFx ty 2048 a n)
  | .qnt => (quantTile tc seed tag a b, false)
  | .cvt => (packPats (tileWidth (tcTD tc)) ((List.range n).map (fun i => cvtForm tc (rnd i) (x i))), tileFx ty 2048 a n)
  | .rsum => (packPats wd ((List.range n).map (fun i =>
      if i % c = 0 then roundF f rne false (orderedSum f (rnd i) ((List.range c).map (fun k => x (i + k)))) else 0)), false)
  | .csum => (packPats wd ((List.range n).map (fun i =>
      if i < c then roundF f rne false (orderedSum f (rnd i) ((List.range 32).map (fun k => x (i + k * c)))) else 0)), false)
  | .rmax => (packPats wd ((List.range n).map (fun i =>
      if i % c = 0 then
        if (List.range c).any (fun k => (x (i + k)).isNan) then f.nan
        else roundF f rne false (x (i + greatest (fun k => x (i + k)) c))
      else 0)), false)
  | _ => (packPats wd ((List.range n).map (fun i =>
      let yi := match op with
        | .scaleR => y (i / c * c)
        | .scaleC => y (i % c)
        | _ => y i
      elemForm op f (rnd i) (x i) yi (elemPat a wd i))), false)

/-! ### Adjoints (R229, R230) -/

/-- Whether the reversal of a form needs the values of A, and of B. -/
def needsA : TOp → Bool
  | .mma | .mmaT | .mmaSp | .mul | .scaleR | .scaleC | .maxz | .exp2 | .rmax => true
  | _ => false
def needsB : TOp → Bool
  | .mma | .mmaT | .mmaSp | .mul | .scaleR | .scaleC => true
  | _ => false

/-- Whether an adjoint flows to an operand of a type (R230). -/
def adjFlows : Ty → Bool
  | .i8 | .n8 | .i4x => false
  | _ => true

/-- d × 2^a × ln 2 rounded once to f32 (R229, R230). -/
def exp2Term (d a : FVal) : Nat :=
  match d, a with
  | .nan, _ | _, .nan => fmtF32.nan
  | d, .inf neg => toF32 (mulF d (bif neg then .fin false 0 0 else .inf false))
  | .inf s, .fin .. => signBit fmtF32 s + 0x7F800000
  | .fin s md ed, .fin na ma ea =>
    if md = 0 then signBit fmtF32 s
    else if 11 ≤ ceilExp ma ea ∧ ma ≠ 0 then roundMag fmtF32 rne false s 1 (bif na then -1000 else 1000) true
    else
      let k := (-ea).toNat
      let whole := if 0 ≤ ea then signed na (ma * 2 ^ ea.toNat) else signed na ma / (2 ^ k : Nat)
      let fr := if 0 ≤ ea then 0 else (signed na ma - whole * (2 ^ k : Nat)).toNat
      let g := tryP (fun p =>
        let l := atP p ln2Fix
        let x := fixP p fr ea
        let y := expP p (mulP p x.c l)
        let z : Int := mulP p y.c l
        ({ c := z * md, err := (y.err + 4 * x.err + 24) * md } : Encl).mag? p) tiny
      roundMag fmtF32 rne false s g.m (g.e + whole + ed) g.more

/-- A contribution: the patterns of its f32 elements. -/
abbrev Contribution := List Nat

/-- The contribution to A of one repetition: `d` is dD, `a` and `b` the operands' bytes. -/
def adjointA (op : TOp) (tc : Word) (d : Nat → FVal) (a b : Nat) : Option Contribution :=
  let ty := tcTA tc
  if adjFlows ty = false ∨ op = .zero then none
  else
    let c := tileCols ty (!op.isMma && tcSH tc)
    let n := 32 * c
    let x := fun i => (tileElem ty 2048 a i).1
    let y := fun i => (tileElem (tcTB tc) 2048 b i).1
    let nil := 0
    some ((List.range n).map (fun i =>
      match op with
      | .mma | .mmaT | .mmaSp =>
        let at' := fun i => groupedSum 64 (fun k => d (64 * (i / c) + k)) (fun k => mmaB tc b k (i % c))
        match op with
        | .mmaT => toF32 (at' (blockT c i))
        | .mmaSp => if (sparseAt a (i / c) (i % c)).isSome then toF32 (at' i) else nil
        | _ => toF32 (at' i)
      | .trans => toF32 (d (blockT c i))
      | .mul => toF32 (mulF (d i) (y i))
      | .scaleR => toF32 (mulF (d i) (y (i / c * c)))
      | .scaleC => toF32 (mulF (d i) (y (i % c)))
      | .maxz => if (x i).isNan = false ∧ compareF (x i) (.fin false 0 0) = .gt then toF32 (d i) else nil
      | .exp2 => exp2Term (d i) (x i)
      | .rsum => toF32 (d (i / c * c))
      | .csum => toF32 (d (i % c))
      | .rmax =>
        let row := i / c * c
        if (List.range c).any (fun k => (x (row + k)).isNan) then nil
        else if row + greatest (fun k => x (row + k)) c = i then toF32 (d row) else nil
      | .qnt => if tcTD tc = .b4x then toF32 (d (i / 64 * 128 + i % 64)) else toF32 (d i)
      | _ => toF32 (d i)))

/-- The contribution to B of one repetition. -/
def adjointB (op : TOp) (tc : Word) (d : Nat → FVal) (a b : Nat) : Option Contribution :=
  let ty := tcTB tc
  if adjFlows ty = false ∨ readsB op tc = false then none
  else
    let c := tileCols ty (!op.isMma && tcSH tc)
    let n := bif op.isMma then 64 * c else 32 * c
    let x := fun i => (tileElem (tcTA tc) 2048 a i).1
    let _ := b
    some ((List.range n).map (fun i =>
      match op with
      | .mma | .mmaT | .mmaSp =>
        toF32 (groupedSum 32 (fun m => d (64 * m + i / c)) (fun m => mmaA op tc a m (i % c)))
      | .add => toF32 (d i)
      | .sub => toF32 (negF (d i))
      | .mul => toF32 (mulF (d i) (x i))
      | .scaleR => if i % c = 0 then toF32 (groupedSum c (fun k => d (i + k)) (fun k => x (i + k))) else 0
      | .scaleC => if i < c then toF32 (groupedSum 32 (fun m => d (m * c + i)) (fun m => x (m * c + i))) else 0
      | _ => toF32 (d (i / 64 * 128 + 64 + i % 64))))

end Sys2Proof.Machine
end

