-- ==== Sys2Proof/Machine/Tiles.lean ====
section
/-!
DEFINITION. Sys2Proof/Machine/Tiles.lean: tile firings (R209-R218): the checks of the tile control word and the references,
issue with its record, completion; the forms 0xA0-0xB0 and 0xBE (R220).
-/
namespace Sys2Proof.Machine

/-! ### The checks of the tile control word (R210, R220-R228) -/

/-- The bits of TC that a form uses. -/
def tcUses (op : TOp) (tc : Word) : Word :=
  match op with
  | .mma | .mmaT | .mmaSp => 0xFFF0FF80
  | .add | .sub | .mul | .scaleR | .scaleC => 0xFFFDE000
  | .maxz | .exp2 | .rsum | .csum | .rmax => 0xF0FDA000
  | .trans | .copy => 0xF0F1A000
  | .cvt => bif tcTD tc == .e5m2 then 0xF0FFA000 else 0xF0FDA000
  | .qnt => bif tcTD tc == .be4m3 then 0xF0FDA000 else 0xFFFDE060
  | .zero => 0x00F12000

/-- The variant of the TMMA family that a type belongs to (R221): 0 f32, 1 bf16, 2 8-bit, 3 i4x. -/
def mmaVariant? : Ty → Option Nat
  | .f32 => some 0
  | .bf16 => some 1
  | .i8 | .n8 | .e4m3 | .e5m2 | .be4m3 => some 2
  | .i4x | .b4x => some 3
  | _ => none

/-- The pairs that TCVT accepts (R227). -/
def cvtPair (a d : Ty) : Bool :=
  match a, d with
  | .f32, .bf16 | .f32, .e4m3 | .f32, .e5m2 | .bf16, .f32 | .bf16, .e4m3 | .bf16, .e5m2 | .e4m3, .f32 | .e4m3, .bf16
  | .e5m2, .f32 | .e5m2, .bf16 | .i8, .f32 | .i8, .bf16 | .n8, .f32 | .n8, .bf16 | .f32, .i8 | .f32, .n8 | .b4x, .bf16
  | .be4m3, .bf16 | .be4m3, .f32 => true
  | _, _ => false

/-- A tile type: a code of R76 other than 0x0-0x5 and 0xF. -/
def isTileTy : Ty → Bool
  | .i8 | .n8 | .f32 | .bf16 | .e4m3 | .e5m2 | .i4x | .b4x | .be4m3 => true
  | _ => false

def isByteTy : Ty → Bool
  | .i8 | .n8 | .e4m3 | .e5m2 => true
  | _ => false

def isSumTy (t : Ty) : Bool := t == .f32 || t == .bf16

/-- The offending bits of the types, shape and ports of a form. `fedB` says whether a consumer delivers to b. -/
def badTypes? (op : TOp) (tc : Word) (fedB : Bool) : Option Nat :=
  let ta := tcTA tc
  let tb := tcTB tc
  let td := tcTD tc
  match op with
  | .mma | .mmaT | .mmaSp =>
    let okA := match op with
      | .mmaSp => isByteTy ta
      | .mmaT => (mmaVariant? ta).isSome && ta != .f32 && !isBlockTy ta
      | _ => (mmaVariant? ta).isSome
    let okB := match op with
      | .mmaSp => isByteTy tb
      | _ => !okA || mmaVariant? tb == mmaVariant? ta
    lowestBit [badUnless? (td == .f32) 20, badUnless? okB 24, badUnless? okA 28]
  | .add | .sub | .mul | .scaleR | .scaleC | .maxz | .exp2 =>
    lowestBit [badUnless? (ta != .f32 || tcSH tc) 16, badUnless? (td == ta) 20, badUnless? (!op.two || tb == ta) 24,
      badUnless? (isSumTy ta) 28]
  | .rsum | .csum | .rmax => lowestBit [badUnless? (td == ta) 20, badUnless? (isSumTy ta) 28]
  | .trans => lowestBit [badUnless? (td == ta) 20, badUnless? (isByteTy ta || ta == .bf16 || ta == .i4x) 28]
  | .copy => lowestBit [badUnless? (td == ta) 20, badUnless? (isTileTy ta) 28]
  | .cvt => badUnless? (cvtPair ta td && (extentD op tc).ble 8192) 20
  | .qnt => lowestBit [badUnless? (tcSH tc) 16, badUnless? (isBlockTy td && fedB == (td == .b4x)) 20,
      badUnless? (td != .b4x || tb == ta) 24, badUnless? (isSumTy ta) 28]
  | .zero => badUnless? (isTileTy td) 20

/-- The lowest offending bit of TC (R210). -/
def badTc? (op : TOp) (tc : Word) (fedB : Bool) : Option Nat :=
  lowestBit [badZero? (zx32 (tc &&& ~~~(tcUses op tc))) 31 0, badTypes? op tc fedB]

/-- Whether TC asks for FEAT 1 (R210). -/
def tcBlocks (tc : Word) : Bool :=
  [tcTA tc, tcTB tc, tcTD tc].any (fun t => t == .i4x || isBlockTy t)

/-- TINFO of RSVFLD and UNDECL of a tile control word (R210). -/
def infoTc (c : Ctx) (fbit bitpos : Nat) : Dword :=
  dw (at_ c.f.slot 50 + at_ c.opcode 40 + at_ fbit 32 + at_ Config.stepping.toNat 28 + at_ bitpos 18)

/-! ### References (R211, R212) -/

/-- An operand of a tile firing: 0 A, 1 B, 2 destination; whether raw; the reference; the extent; the step of a raw operand
from one repetition to the next; the bits of its type and raw fields in TC. -/
structure TRef where
  role : Nat
  raw : Bool
  v : Dword
  kind : Kind
  ext : Nat
  step : Nat
  tbit : Nat
  rbit : Nat
  deriving DecidableEq, Repr

def TRef.sid (o : TRef) : Nat := field o.v 63 52
def TRef.ord (o : TRef) : Nat := field o.v 39 0
def TRef.keep (o : TRef) : Bool := o.v.getLsbD 43

/-- The operands that a form reads, in order A, B, destination. -/
def tileRefs (op : TOp) (tc : Word) (c : Ctx) (e : Nat) : List TRef :=
  let twice := fun t => bif isBlockTy t then 2 else 1
  let a : TRef :=
    { role := 0, raw := tcRA tc, v := c.val 0 e, kind := c.kind 0, ext := extentA op tc, step := 2048 * twice (tcTA tc),
      tbit := 28, rbit := 15 }
  let b : TRef :=
    { role := 1, raw := tcRB tc, v := c.val 1 e, kind := c.kind 1, ext := extentB op tc, step := 4096 * twice (tcTB tc),
      tbit := 24, rbit := 14 }
  let d : TRef :=
    { role := 2, raw := tcRD tc, v := c.val 2 e, kind := c.kind 2, ext := extentD op tc, step := 0, tbit := 20, rbit := 13 }
  (bif readsA op then [a] else []) ++ (bif readsB op tc then [b] else []) ++ [d]

/-- Whether an operand's kind is that of its port (R211, R212, R253). -/
def TRef.kindOk (o : TRef) : Bool := bif o.raw then o.kind == .s64 || o.kind == .r64 else o.kind == .tile

/-- Whether AX governs a named operand (R210). -/
def axGoverns (op : TOp) (tc : Word) (o : TRef) : Bool :=
  !o.raw && op.isMma && (bif o.role == 2 then tcAcc tc else (1).blt (tcReps tc))

/-- The reference of a raw operand in a repetition. -/
def TRef.rawAt (o : TRef) (r : Nat) : Nat :=
  o.v.toNat / 2 ^ 18 * 2 ^ 18 + (o.v.toNat % 2 ^ 18 + r * o.step) % 2 ^ 18

/-- Why a raw reference is not valid in a repetition (R212, R213). -/
def rawBad? (p : Plot) (cell : Nat) (o : TRef) (r : Nat) : Option Nat :=
  let ref := o.v.toNat
  let off := ref % 2 ^ 18 + r * o.step
  if ref.testBit 20 then
    if ref / 2 ^ 21 ≠ 0 ∨ ref / 2 ^ 18 % 4 ≠ 0 ∨ ref % 2 ^ 18 % 8192 ≠ 0 then some 0
    else if 32768 < off + o.ext ∨ p.folds.any (fun (_, f) => f.cls == 1 && f.cell == cell &&
        meets (off / 8192 * 8192) ((off + o.ext + 8191) / 8192 * 8192) f.base f.spaceEnd) then some 1
    else none
  else match rawNear p cell ref o.ext with
    | .error why => some why
    | .ok _ =>
      if 2 ^ 18 < off + o.ext then some 1
      else match rawNear p cell (o.rawAt r) o.ext with
        | .error why => some why
        | .ok _ => none

/-- The bytes of a raw operand in a repetition. -/
def rawData (p : Plot) (cell : Nat) (o : TRef) (r : Nat) : Nat :=
  let off := o.rawAt r % 2 ^ 18
  if o.v.getLsbD 20 then readN (Tab.atD p.cells cell Cell.empty).acc o.ext off
  else match neighbour? p cell (o.v.toNat / 2 ^ 18 % 4) with
    | none => 0
    | some sc => readN (nearOf p sc) o.ext off

/-- Bytes written at a raw destination. -/
def writeRaw (p : Plot) (cell : Nat) (v : Dword) (bytes x : Nat) : Plot :=
  let off := v.toNat % 2 ^ 18
  if v.getLsbD 20 then onCell p cell (fun k => { k with acc := writeN k.acc bytes off x })
  else match neighbour? p cell (v.toNat / 2 ^ 18 % 4) with
    | none => p
    | some sc => { p with near := Tab.updD p.near sc [] (fun m => writeN m bytes off x) }

/-- The ordinal of a name whose index AX is moved by `r`; none outside the domain (R216). -/
def nameAt? (p : Plot) (sid ord ax : Nat) (r : Int) : Option Nat :=
  let bounds := sidBounds p sid
  let v := vectorOf bounds ord
  if r = 0 then some ord
  else
    let x := (((v[ax]?).getD 0 : Nat) : Int) + r
    if 0 ≤ x ∧ x < (((bounds[ax]?).getD 0 : Nat) : Int) then some (ordinalOf bounds (v.set ax x.toNat)) else none

/-- The header of a name of an on-chip fold, and its slot. -/
def nameHdr (p : Plot) (f : Fold) (ord : Nat) : Dword := Tab.atD f.hdrs (foldSlot f (vectorOf (sidBounds p f.sid) ord)) 0

/-- The slot of a name. -/
def nameSlot (p : Plot) (f : Fold) (ord : Nat) : Nat := foldSlot f (vectorOf (sidBounds p f.sid) ord)

/-- The bytes of a name of an on-chip fold. -/
def nameData (p : Plot) (f : Fold) (ord bytes : Nat) : Nat := readN (chipBytes p f) bytes (f.slotAt (nameSlot p f ord))

/-- The fold of a statement. -/
def foldOf? (p : Plot) (sid : Nat) : Option Fold := Tab.at? p.folds sid

/-! ### Readiness (R216, stage 1) -/

/-- How a check ends. -/
inductive TStop where
  | trap (cause : Cause) (info : Dword)
  | wait
  deriving DecidableEq, Repr

/-- The checks of R210-R212, in that order. DESIGN CHOICE (notes/assumptions/67.md): the raw operand of a repetition that is skipped is
checked too. -/
def tileChecks (op : TOp) (tc : Word) (c : Ctx) (p : Plot) (refs : List TRef) : Option TStop :=
  let foldBad := fun (o : TRef) => match foldOf? p o.sid with
    | none => true
    | some f => !(f.cls == 1 || f.cls == 2) || (o.role == 2 && op.isMma && !(f.cls == 1 && f.slotBytes == 8192))
  let small := fun (o : TRef) => match foldOf? p o.sid with
    | none => false
    | some f => (f.cls == 1 || f.cls == 2) && f.slotBytes.blt o.ext
  let axBad := fun (o : TRef) => o.kindOk && axGoverns op tc o && (sidBounds p o.sid).length.ble (tcAX tc)
  let rsv := lowestBit [badTc? op tc (c.fed 1), badUnless? (!refs.any axBad) 7]
  match rsv with
  | some b => some (.trap .rsvfld (infoTc c 0 b))
  | none =>
    if tcBlocks tc && !c.blk.feat.getLsbD 1 then some (.trap .undecl (infoTc c 2 0))
    else match lowestBit (refs.map (fun o => bif o.kindOk then badUnless? (o.raw || !small o) o.tbit else some o.rbit)) with
      | some b => some (.trap .rsvfld (infoTc c 0 b))
      | none =>
        match refs.find? (fun o => !o.raw && foldBad o) with
        | some o =>
          let cls := match foldOf? p o.sid with
            | some f => f.cls
            | none => 0
          some (.trap .foldrange (infoFold o.sid cls (o.role == 2) false 4 0 0))
        | none =>
          refs.findSome? (fun o => bif !o.raw then none else
            (List.range (bif o.role == 2 then 1 else tcReps tc)).findSome? (fun r =>
              (rawBad? p c.f.cell o r).map (fun why => .trap .access (infoRaw o.role why r (o.rawAt r)))))

/-- A source name that a firing reads: statement, ordinal, KEEP. -/
abbrev Source := Nat × Nat × Bool

/-- The source names of an operand, one for each repetition; none outside the domain. -/
def repNames (p : Plot) (tc : Word) (o : TRef) : List (Option Nat) :=
  (List.range (tcReps tc)).map (fun (r : Nat) => nameAt? p o.sid o.ord (tcAX tc) r)

/-- The repetitions that are skipped (R216). -/
def skipped (p : Plot) (op : TOp) (tc : Word) (refs : List TRef) (r : Nat) : Bool :=
  op.isMma && refs.any (fun o => !o.raw && o.role != 2 && (nameAt? p o.sid o.ord (tcAX tc) r).isNone)

/-- The chain input (R221): the name of the destination's statement whose index AX is one less. -/
def chainName? (p : Plot) (op : TOp) (tc : Word) (refs : List TRef) : Option Source :=
  if op.isMma && tcAcc tc then
    refs.findSome? (fun o => bif o.role == 2 && !o.raw then
      (nameAt? p o.sid o.ord (tcAX tc) (-1)).map (fun k => (o.sid, k, false)) else none)
  else none

/-- The source names that a firing reads through handles. -/
def handleSources (p : Plot) (op : TOp) (tc : Word) (refs : List TRef) : List Source :=
  let reps := (List.range (tcReps tc)).filter (fun r => !skipped p op tc refs r)
  (refs.filter (fun o => !o.raw && o.role != 2)).flatMap (fun o =>
    reps.filterMap (fun (r : Nat) => (nameAt? p o.sid o.ord (tcAX tc) r).map (fun k => (o.sid, k, o.keep))))

/-- Every source name of a firing. -/
def tileSources (p : Plot) (op : TOp) (tc : Word) (refs : List TRef) : List Source :=
  handleSources p op tc refs ++ (chainName? p op tc refs).toList

/-- The read column of R147 for a tile read; a handle that its name has outlived has a WHY of its own (R153, R159). -/
def sourceStop? (c : Ctx) (p : Plot) (handle : Bool) (x : Source) : Option TStop :=
  match foldOf? p x.1 with
  | none => some .wait
  | some f =>
    let h := nameHdr p f x.2.1
    match readCase h x.2.1 with
    | .deliver => none
    | .wait => some (bif c.trapFlag 0 then .trap .empty (infoPort c.f.slot 0 0) else .wait)
    | .expired why =>
      some (.trap .expired (infoFold x.1 f.cls false false (bif handle && x.2.1.blt (hdrOcc h) then 3 else why) 0 (hdrOcc h)))

/-- What stops the reads of a firing's source names: those through handles, and the chain input (R216, R221). -/
def sourceStops (c : Ctx) (p : Plot) (op : TOp) (tc : Word) (refs : List TRef) : List TStop :=
  (handleSources p op tc refs).filterMap (sourceStop? c p true) ++ (chainName? p op tc refs).toList.filterMap (sourceStop? c p false)

/-- A destination name must be claimed for its ordinal (R153, R216). -/
def destStop? (p : Plot) (o : TRef) : Option TStop :=
  if o.raw then none
  else match foldOf? p o.sid with
    | none => some .wait
    | some f =>
      let h := nameHdr p f o.ord
      if hdrState h = 0 ∧ hdrReaders h ≠ 0 ∧ hdrOcc h = o.ord then none
      else some (.trap .expired (infoFold o.sid f.cls true false 3 0 (hdrOcc h)))

/-- The code of a stop's cause; above every cause for a wait. -/
def TStop.code : TStop → Nat
  | .trap cause _ => causeCode cause
  | .wait => 256

/-- Of several stops the trap of the lowest cause code (R128), the first of several; else a wait. -/
def firstStop : List TStop → Option TStop
  | [] => none
  | x :: l => some (match firstStop l with
    | none => x
    | some y => bif y.code.blt x.code then y else x)

/-! ### Results (stage 3) -/

/-- The bytes of an operand in a repetition. -/
def refData (p : Plot) (cell : Nat) (tc : Word) (o : TRef) (r : Nat) : Nat :=
  if o.raw then rawData p cell o r
  else match foldOf? p o.sid, nameAt? p o.sid o.ord (tcAX tc) r with
    | some f, some k => nameData p f k o.ext
    | _, _ => 0

/-- The operand of a role, where the form reads it. -/
def refOf? (refs : List TRef) (role : Nat) : Option TRef := refs.find? (fun o => o.role == role)

/-- The bytes of the operand of a role in a repetition; 0 where the form does not read it. -/
def roleData (p : Plot) (cell : Nat) (tc : Word) (refs : List TRef) (role r : Nat) : Nat :=
  match refOf? refs role with
  | some o => refData p cell tc o r
  | none => 0

/-- The result of a tile firing, whether it sets FX, and the repetitions done (R221, R224-R228). -/
def tileResult (p : Plot) (cell : Nat) (op : TOp) (tc : Word) (tag : Nat) (refs : List TRef) : Nat × Bool × Nat :=
  if op.isMma then
    let acc := match refOf? refs 2 with
      | some o =>
        if tcAcc tc then
          (if o.raw then rawData p cell o 0
           else match chainName? p op tc refs with
            | some (sid, k, _) => (match foldOf? p sid with
              | some f => nameData p f k 8192
              | none => 0)
            | none => 0)
        else 0
      | none => 0
    (List.range (tcReps tc)).foldl (fun (x, fx, n) r =>
      if skipped p op tc refs r then (x, fx, n)
      else
        let a := roleData p cell tc refs 0 r
        let b := roleData p cell tc refs 1 r
        (mmaStep op tc a b x, fx || mmaFx op tc a b, n + 1)) (acc, false, 0)
  else
    let r := tileForward op tc p.srseed tag (roleData p cell tc refs 0 0) (roleData p cell tc refs 1 0)
    (r.1, r.2, 0)

/-- The toll counter and the multiply-accumulates of a repetition (R215, R432). -/
def macsOf (op : TOp) (tc : Word) : Nat × Nat :=
  match op with
  | .mmaSp => (3, 65536)
  | _ => match mmaVariant? (tcTA tc) with
    | some 0 => (1, 32768)
    | some 1 => (2, 65536)
    | some 2 => (3, 131072)
    | _ => (4, 262144)

/-! ### The record of a firing (stage 2) -/

/-- The code of a save mode (R209). -/
def saveCode : Save → Nat
  | .keep => 0
  | .save => 1
  | .recompute => 2
  | .none => 3

/-- The effective save mode of an operand (R237). -/
def effMode (refs : List TRef) (role : Nat) (m : Save) : Nat :=
  match refOf? refs role with
  | none => 3
  | some o => bif o.raw && saveCode m != 3 then 1 else saveCode m

/-- The names that keep mode raises (R151, R237). -/
def keptNames (p : Plot) (op : TOp) (tc : Word) (refs : List TRef) (role mode : Nat) : List (Nat × Nat) :=
  match refOf? refs role with
  | none => []
  | some o =>
    bif mode != 0 || o.raw then []
    else ((List.range (tcReps tc)).filter (fun r => !skipped p op tc refs r)).filterMap (fun (r : Nat) =>
      (nameAt? p o.sid o.ord (tcAX tc) r).map (fun k => (o.sid, k)))

/-- A header with a reader more (R151); none where READERS is 255. -/
def raiseHdr? (h : Dword) : Option Dword :=
  if hdrReaders h = 255 then none
  else some (mkHdr (hdrOcc h) (bif hdrState h == 2 then 1 else hdrState h) (hdrReaders h + 1) (h.extractLsb' 6 8))

/-- The keep raises of a firing; the first that would pass 255 as its FOLDSIZE. -/
def raiseAll (p : Plot) : List (Nat × Nat) → Except TStop Plot
  | [] => .ok p
  | (sid, k) :: l => match foldOf? p sid with
    | none => raiseAll p l
    | some f => match raiseHdr? (nameHdr p f k) with
      | none => .error (.trap .foldsize (infoFold sid f.cls true false 3 0 0))
      | some h => raiseAll (onFold p sid (fun f => { f with hdrs := Tab.set f.hdrs (nameSlot p f k) h })) l

/-- The words of a record (R236, R237). -/
def recordWords (p : Plot) (c : Ctx) (op : TOp) (tc : Word) (refs : List TRef) (ma mb prev : Nat) : List Dword :=
  let named := fun role => match refOf? refs role with
    | some o => bif o.raw then (0, 0, true) else (o.sid, o.ord, false)
    | none => (0, 0, false)
  let (as, ao, ar) := named 0
  let (bs, bo, br) := named 1
  let (ds, d, _) := named 2
  let b01 := fun (b : Bool) => bif b then 1 else 0
  [dw (at_ c.opcode 56 + at_ (field c.word 23 18) 50 + at_ c.f.slot 44 + at_ c.f.bidx 40 + at_ (c.f.cell % 64) 34 +
      at_ (c.f.cell / 64) 28 + at_ ma 26 + at_ mb 24 + at_ (prev % 2 ^ 12) 12 + ds),
   dw (at_ tc.toNat 32 + at_ as 20 + at_ bs 8 + at_ (b01 br) 1 + b01 ar),
   dw (at_ d 24 + ao / 2 ^ 16), dw (at_ (ao % 2 ^ 16) 48 + bo)] ++
  (List.range (tcReps tc)).flatMap (fun r =>
    [(0, ma), (1, mb)].flatMap (fun (role, m) =>
      match refOf? refs role with
      | some o => bif m == 1 then dwordsOf o.ext (bif skipped p op tc refs r then 0 else refData p c.f.cell tc o r) else []
      | none => []))

/-- What stage 2 did: the state, the offset and header of the record appended, the names raised. -/
structure Staged where
  s : State
  logged : Option (Nat × List Dword)
  kept : List (Nat × Nat)
  deriving DecidableEq, Repr

/-- Stage 2 of a firing: its record appended with its keep raises, where record mode is on (R218, R235-R238). -/
def recordFiring (s : State) (c : Ctx) (op : TOp) (tc : Word) (refs : List TRef) (sa sb : Save) : Except Halt Staged :=
  let p := plotNow s c
  if logOn p = false then .ok ⟨s, none, []⟩
  else if tcRD tc then .error (.trap .logstate (infoLog 0 3 noOff))
  else
    let ma := effMode refs 0 sa
    let mb := effMode refs 1 sb
    let words := recordWords p c op tc refs ma mb
    let need := 8 * (words 0).length
    let kept := keptNames p op tc refs 0 ma ++ keptNames p op tc refs 1 mb
    if logFull p need then match overflow s c p need with
      | .halt h => .error h
      | .refused s | .ok s => .ok ⟨s, none, []⟩
    else match raiseAll p kept with
      | .error (.trap cause info) => .error (.trap cause info)
      | .error .wait => .error (.wait s)
      | .ok raised =>
        match appendRecord s c words with
        | .halt h => .error h
        | .refused s => .ok ⟨s, none, []⟩
        | .ok s => .ok ⟨onPlot s c.f.plot (fun p => { p with folds := raised.folds }), some (logTail p, (words (prevUnits p)).take 4), kept⟩

/-! ### Issue and completion -/

/-- Whether the matrix array of the firing's cell is free (R214). -/
def arrayFree (p : Plot) (cell : Nat) : Bool := !(Tab.atD p.cells cell Cell.empty).arrayBusy

/-- The cycles that a firing holds the array (R214). -/
def occupancy (op : TOp) (tc : Word) : Nat :=
  let n := fun (t : Ty) => 32 * tileCols t (tcSH tc)
  match op with
  | .mma | .mmaT => (bif tcTA tc == .f32 then 128 else 64) * tcReps tc
  | .mmaSp => 32 * tcReps tc
  | .exp2 | .rsum | .csum | .rmax => (n (tcTA tc) + 31) / 32
  | .qnt => (n (tcTA tc) + (bif readsB op tc then n (tcTB tc) else 0) + 31) / 32
  | _ => (Nat.max (extentD op tc) (Nat.max (bif readsA op then extentA op tc else 0) (bif readsB op tc then extentB op tc else 0)) + 255) / 256

/-- A firing put into the array of its cell. -/
def holdArray (s : State) (c : Ctx) (j : TileJob) : State :=
  onPlot s c.f.plot (fun p => onCell p c.f.cell (fun k => { k with array := k.array ++ [j] }))

/-- The sources as their reads find them: one that is dead loses no reader (R147). -/
def readsNow (p : Plot) (l : List Source) : List Source :=
  l.map (fun x => (x.1, x.2.1, x.2.2 || (match foldOf? p x.1 with
    | some f => hdrState (nameHdr p f x.2.1) == 2
    | none => false)))

/-- The raw sources of a firing, repetition by repetition. -/
def rawSources (tc : Word) (refs : List TRef) : List (Nat × Nat × Nat × Nat) :=
  (List.range (tcReps tc)).flatMap (fun r =>
    (refs.filter (fun o => o.raw && o.role != 2)).map (fun o => (o.role, r, o.rawAt r, o.ext)))

/-- The kind of a tile form's result reference (R216), for a firing that is null. -/
def refKind (s : State) (ks : BitVec 2) : Kind :=
  match ctxOf? s s.cur with
  | some c => bif tcRD (c.k (8 + ks.toNat)) then .s64 else .tile
  | none => .tile

/-- The firing of a tile form up to its issue (R216, stages 1 to 3). Its result is computed from its sources as they
stand at issue; nothing of it is visible before completion. -/
def fireTile (op : TOp) (sa sb : Save) (ks : BitVec 2) (c1 c0 : Cons) (s : State) : Outcome :=
  fireOnce s c1 c0 (refKind s ks) (fun c e =>
    let p := plotNow s c
    let tc := c.k (8 + ks.toNat)
    let refs := tileRefs op tc c e
    if arrayFree p c.f.cell = false then .stall s
    else match tileChecks op tc c p refs with
      | some (.trap cause info) => .trap cause (c.tag e) info
      | some .wait => .stall s
      | none =>
        let srcs := tileSources p op tc refs
        match firstStop (sourceStops c p op tc refs ++ refs.filterMap (fun o =>
            bif o.role == 2 then destStop? p o else none)) with
        | some (.trap cause info) => .trap cause (c.tag e) info
        | some .wait => .stall s
        | none => match recordFiring s c op tc refs sa sb with
          | .error h => h.res c e
          | .ok t =>
            let (x, fx, n) := tileResult p c.f.cell op tc c.inst.first refs
            let (toll, per) := macsOf op tc
            .issued (holdArray t.s c { firing := c.f, reads := readsNow p srcs, raws := rawSources tc refs, logged := t.logged, kept := t.kept,
                                       seed := 0, fault := none, raw := tcRD tc, dst := c.val 2 e, bytes := extentD op tc, data := x, fx := fx,
                                       toll := toll, macs := n * per, occ := occupancy op tc, left := occupancy op tc + 7 }))

/-- A source read that takes a reader (R147, R153): the name's header after it. -/
def takeReader (p : Plot) (x : Source) : Plot :=
  match foldOf? p x.1 with
  | none => p
  | some f =>
    let h := nameHdr p f x.2.1
    bif x.2.2 || hdrState h != 1 || hdrOcc h != x.2.1 then p
    else onFold p x.1 (fun f => { f with hdrs := Tab.set f.hdrs (nameSlot p f x.2.1) (dropReader h) })

/-- An error in a slot as the firings that hold it as a source find it during their occupancy (R217): `occ` is the OCC that the slot is
left with. -/
def poisonedSource? (p : Plot) (sid slot occ : Nat) (j : TileJob) : Option (Cause × Dword) :=
  match foldOf? p sid with
  | none => none
  | some f =>
    bif j.reads.any (fun x => x.1 == sid && nameSlot p f x.2.1 == slot && hdrOcc (nameHdr p f x.2.1) == x.2.1) then
      some (.expired, infoFold sid f.cls false false 2 0 occ)
    else none

/-- An error at a byte of an S-cell, or of the accumulators of the firing's own cell (`none`), as a raw source finds it (R213). -/
def badRaw? (p : Plot) (cell : Nat) (scell : Option Nat) (off : Nat) (j : TileJob) : Option (Cause × Dword) :=
  j.raws.findSome? (fun (role, r, ref, ext) =>
    let home : Option Nat := bif ref.testBit 20 then none else neighbour? p cell (ref / 2 ^ 18 % 4)
    bif (home == scell && (ref.testBit 20 || home.isSome)) && (ref % 2 ^ 18).ble off && off.blt (ref % 2 ^ 18 + ext) then
      some (.access, infoRaw role 3 r ref) else none)

/-- The firings of a plot's arrays that find an error in a source. -/
def findError (p : Plot) (hit : Nat → TileJob → Option (Cause × Dword)) : Plot :=
  { p with cells := p.cells.map (fun (k, c) => (k, { c with array := c.array.map (fun j =>
      bif j.fault.isSome || j.occ == 0 then j else { j with fault := hit k j }) })) }

/-- The result reference (R216): the raw reference, or a read handle of the destination's name. -/
def resultRef (p : Plot) (j : TileJob) : Kind × Dword :=
  bif j.raw then (.s64, j.dst)
  else
    let gen := match foldOf? p (field j.dst 63 52) with
      | some f => f.gen
      | none => 0
    (.tile, mkHandle (field j.dst 63 52) gen false (field j.dst 39 0))

/-- Whether an ADJSEED finds its slot full, and so adds (R150). -/
def seedAdds (f : Fold) (h : Dword) (ord : Nat) (j : TileJob) : Bool := j.seed != 0 && f.adj && hdrState h == 1 && hdrOcc h == ord

/-- f32 elements added, each sum rounded to nearest even (R150). -/
def addF32s (n old new : Nat) : Nat :=
  packPats 32 ((List.range n).map (fun i => toF32 (addF (decodeF fmtF32 (elemPat old 32 i)) (decodeF fmtF32 (elemPat new 32 i)))))

/-- The destination of a tile firing written (R216, stage 4). -/
def writeDest (p : Plot) (cell : Nat) (j : TileJob) : Plot :=
  bif j.raw then writeRaw p cell j.dst j.bytes j.data
  else
    let sid := field j.dst 63 52
    let ord := field j.dst 39 0
    match foldOf? p sid with
    | none => p
    | some f =>
      let n := nameSlot p f ord
      let h := nameHdr p f ord
      if seedAdds f h ord j then
        onChip p f (fun m => writeN m (4 * j.seed) (f.slotAt n) (addF32s j.seed (readN m (4 * j.seed) (f.slotAt n)) j.data))
      else
        let p := onChip p f (fun m => writeN m j.bytes (f.slotAt n) j.data)
        onFold p sid (fun f => { f with hdrs := Tab.set f.hdrs n (mkHdr ord 1 (hdrReaders h) f.gen) })

/-- Whether a named destination has lost its claim since the firing issued. -/
def lostClaim? (p : Plot) (j : TileJob) : Option Dword :=
  bif j.raw then none
  else match foldOf? p (field j.dst 63 52) with
    | none => none
    | some f =>
      let ord := field j.dst 39 0
      let h := nameHdr p f ord
      bif (hdrState h == 0 && hdrReaders h != 0 && hdrOcc h == ord) || seedAdds f h ord j then none
      else some (infoFold (field j.dst 63 52) f.cls true false 3 0 (hdrOcc h))

/-- Why a firing does not complete: an error found in a source, or a claim lost. -/
def jobStop? (p : Plot) (j : TileJob) : Option (Cause × Dword) :=
  j.fault.orElse (fun _ => (lostClaim? p j).map (fun info => (.expired, info)))

/-- The firing taken out of the array of its cell. -/
def leaveArray (cell : Nat) (j : TileJob) (p : Plot) : Plot := onCell p cell (fun k => { k with array := k.array.filter (fun x => x != j) })

/-- What stage 2 did undone for a firing that has no effect (R217): its keep raises and its record. -/
def undoStage (s : State) (j : TileJob) : Except Halt State :=
  let s := onPlot s j.firing.plot (fun p => j.kept.foldl (fun p x => takeReader p (x.1, x.2, false)) p)
  match j.logged, ctxOf? s j.firing with
  | some (off, hdr), some c => (match takeBack s c off hdr with
    | .error (.trap _ _) => .ok s
    | r => r)
  | _, _ => .ok s

/-- The firing of a cell's array that completes now, 8 cycles after its last occupied cycle (R214). -/
def tileDue? (c : Cell) : Option TileJob := c.array.find? (fun j => j.left == 0)

/-- TILE_COMPLETE (R216, stage 4): the destination is written, the sources lose their readers, the result is emitted, all
together; an error found in a source, or a destination that has lost its claim, makes the firing trap with no effect (R213, R217). -/
def execTileComplete (plot cell : Nat) (s : State) : Outcome :=
  match Tab.at? s.plots plot with
  | none => .next s
  | some p =>
    match tileDue? (Tab.atD p.cells cell Cell.empty) with
    | none => .next s
    | some j =>
      match jobStop? p j with
      | some (cause, info) => (match undoStage s j with
        | .error _ => .next s
        | .ok s => .next (trapOnce (onPlot s plot (leaveArray cell j)) j.firing cause info))
      | none =>
        let s := onPlot (onPlot s plot (leaveArray cell j)) plot (fun p =>
          let p := writeDest (j.reads.foldl takeReader p) cell j
          { p with numst := setFx p.numst j.fx })
        let s := bif j.macs == 0 then s else addToll s p.vi j.toll j.macs
        let (kind, v) := resultRef p j
        .next (finishScalar s j.firing kind v)

/-! ### The forms (R220) -/

/-- TMMA (R221). -/
def execTmma (sa sb : Save) (ks : BitVec 2) (c1 c0 : Cons) (s : State) : Outcome := fireTile .mma sa sb ks c1 c0 s
/-- TMMA.T (R222). -/
def execTmmaT (sa sb : Save) (ks : BitVec 2) (c1 c0 : Cons) (s : State) : Outcome := fireTile .mmaT sa sb ks c1 c0 s
/-- TMMA.SP (R223). -/
def execTmmaSp (sa sb : Save) (ks : BitVec 2) (c1 c0 : Cons) (s : State) : Outcome := fireTile .mmaSp sa sb ks c1 c0 s
/-- TTRANS (R226). -/
def execTtrans (sa : Save) (ks : BitVec 2) (c1 c0 : Cons) (s : State) : Outcome := fireTile .trans sa .keep ks c1 c0 s
/-- TADD (R224). -/
def execTadd (sa sb : Save) (ks : BitVec 2) (c1 c0 : Cons) (s : State) : Outcome := fireTile .add sa sb ks c1 c0 s
/-- TSUB (R224). -/
def execTsub (sa sb : Save) (ks : BitVec 2) (c1 c0 : Cons) (s : State) : Outcome := fireTile .sub sa sb ks c1 c0 s
/-- TMUL (R224). -/
def execTmul (sa sb : Save) (ks : BitVec 2) (c1 c0 : Cons) (s : State) : Outcome := fireTile .mul sa sb ks c1 c0 s
/-- TSCALE.R (R224). -/
def execTscaleR (sa sb : Save) (ks : BitVec 2) (c1 c0 : Cons) (s : State) : Outcome := fireTile .scaleR sa sb ks c1 c0 s
/-- TSCALE.C (R224). -/
def execTscaleC (sa sb : Save) (ks : BitVec 2) (c1 c0 : Cons) (s : State) : Outcome := fireTile .scaleC sa sb ks c1 c0 s
/-- TMAXZ (R224). -/
def execTmaxz (sa : Save) (ks : BitVec 2) (c1 c0 : Cons) (s : State) : Outcome := fireTile .maxz sa .keep ks c1 c0 s
/-- TEXP2 (R224). -/
def execTexp2 (sa : Save) (ks : BitVec 2) (c1 c0 : Cons) (s : State) : Outcome := fireTile .exp2 sa .keep ks c1 c0 s
/-- TRSUM (R225). -/
def execTrsum (sa : Save) (ks : BitVec 2) (c1 c0 : Cons) (s : State) : Outcome := fireTile .rsum sa .keep ks c1 c0 s
/-- TCSUM (R225). -/
def execTcsum (sa : Save) (ks : BitVec 2) (c1 c0 : Cons) (s : State) : Outcome := fireTile .csum sa .keep ks c1 c0 s
/-- TRMAX (R225). -/
def execTrmax (sa : Save) (ks : BitVec 2) (c1 c0 : Cons) (s : State) : Outcome := fireTile .rmax sa .keep ks c1 c0 s
/-- TCVT (R227). -/
def execTcvt (sa : Save) (ks : BitVec 2) (c1 c0 : Cons) (s : State) : Outcome := fireTile .cvt sa .keep ks c1 c0 s
/-- TQNT (R228). -/
def execTqnt (sa sb : Save) (ks : BitVec 2) (c1 c0 : Cons) (s : State) : Outcome := fireTile .qnt sa sb ks c1 c0 s
/-- TZERO (R226). -/
def execTzero (ks : BitVec 2) (c1 c0 : Cons) (s : State) : Outcome := fireTile .zero .keep .keep ks c1 c0 s
/-- TCOPY (R226). -/
def execTcopy (sa : Save) (ks : BitVec 2) (c1 c0 : Cons) (s : State) : Outcome := fireTile .copy sa .keep ks c1 c0 s

end Sys2Proof.Machine
end

