-- ==== Sys2Proof/Machine/Furrow.lean ====
section
/-!
DEFINITION. Sys2Proof/Machine/Furrow.lean: the forms 0xC0-0xC6 (R247-R251) and the reversal of a segment (R239-R245).
-/
namespace Sys2Proof.Machine

/-! ### REC.ON, REC.OFF, REC.MARK (R248) -/

/-- A 32-bit result as a scalar. -/
def out32 (c1 c0 : Cons) (v : Nat) : List Emit := scalarOut c1 c0 .s32 (dw (v % 2 ^ 32))

/-- The firing of a REC form (R248): it takes effect, and emits, in the fourth cycle after issue. -/
def recEffect (s : State) (c : Ctx) (r : Res) : Res :=
  bif s.again then r else .hold (onPlot s c.f.plot (fun p => { p with recQ := p.recQ ++ [(4, c.f)] }))

/-- REC.ON (R248): a log is selected and record mode turned on; a far log must have an owner in the plot (R233). -/
def execRecordOn (fresh : Bool) (log : BitVec 3) (c1 c0 : Cons) (s : State) : Outcome :=
  fireOnce s c1 c0 .s32 (fun c e =>
    let p := plotNow s c
    let i := log.toNat
    let d := logDesc p i
    let switch := fresh || !logOpen p || (i != logIdx p && logTail p == 0)
    recEffect s c <|
    let size := bif switch || i != logIdx p then descSize d else logSize p
    if descFar d ∧ logOwner? s p d size = none then .trap .access (c.tag e) (infoMem 4 0 (descBase d))
    else if logRev p then .trap .logstate (c.tag e) (infoLog 4 3 noOff)
    else if switch then
      .doneIn 0 (onPlot s c.f.plot (fun p =>
        { p with logst := setBit (setBit (setBit (withLog p i (descSize d)) 63 true) 60 true) 61 false,
                 logpos := mkPos 0 noOff, logseg := mkSeg noOff (logDone p) })) (out32 c1 c0 0)
    else if i ≠ logIdx p then .trap .logstate (c.tag e) (infoLog 4 3 noOff)
    else .doneIn 0 (onPlot s c.f.plot (fun p => { p with logst := setBit (setBit p.logst 63 true) 60 true })) (out32 c1 c0 (logTail p)))

/-- REC.OFF (R248). -/
def execRecordOff (c1 c0 : Cons) (s : State) : Outcome :=
  fireOnce s c1 c0 .s32 (fun c _ =>
    recEffect s c (.doneIn 0 (onPlot s c.f.plot (fun p => { p with logst := setBit p.logst 63 false })) (out32 c1 c0 (logTail c.plot))))

/-- REC.MARK (R239, R248): a mark record; one that does not fit under OVF 1 is refused, as any append. -/
def execRecordMark (c1 c0 : Cons) (s : State) : Outcome :=
  fireOnce s c1 c0 .s32 (fun c e =>
    let p := plotNow s c
    recEffect s c <|
    if logOpen p = false then .trap .logstate (c.tag e) (infoLog 4 3 noOff)
    else match appendRecord s c (fun prev => [dw (at_ 0xC2 56 + at_ (prev % 2 ^ 12) 12), dw (logMark p), 0, 0]) with
      | .halt h => h.res c e
      | .refused s => .doneIn 0 (onPlot s c.f.plot (fun p => { p with logst := setBit p.logst 61 false })) (out32 c1 c0 (logMark p))
      | .ok s =>
        .doneIn 0 (onPlot s c.f.plot (fun q => { q with logst := setBit q.logst 61 false, logseg := mkSeg (logTail p) (logDone q) }))
          (out32 c1 c0 (logTail p)))

/-! ### Records read back (R236) -/

/-- A record of the log: its offset and header words. -/
structure LogRec where
  off : Nat
  w0 : Dword
  w1 : Dword
  w2 : Dword
  w3 : Dword
  deriving DecidableEq, Repr

def LogRec.opcode (q : LogRec) : Nat := field q.w0 63 56
def LogRec.op (q : LogRec) : TOp := (tileOp? q.opcode).getD .zero
def LogRec.cell (q : LogRec) : Nat := field q.w0 39 34 + 64 * field q.w0 33 28
def LogRec.mode (q : LogRec) (role : Nat) : Nat := bif role == 0 then field q.w0 27 26 else field q.w0 25 24
def LogRec.prev (q : LogRec) : Nat := field q.w0 23 12
def LogRec.dsid (q : LogRec) : Nat := field q.w0 11 0
def LogRec.dord (q : LogRec) : Nat := field q.w2 63 24
def LogRec.tc (q : LogRec) : Word := BitVec.ofNat 32 (field q.w1 63 32)

/-- An operand of a record, as its firing had it: a handle of the recorded name. -/
def recordRef (role : Nat) (raw : Bool) (sid ord ext : Nat) : TRef :=
  { role := role, raw := raw, v := mkHandle sid 0 false ord, kind := .tile, ext := ext, step := 0, tbit := 0, rbit := 0 }

/-- The operands of a record. -/
def LogRec.refs (q : LogRec) : List TRef :=
  let aord := field q.w2 23 0 * 2 ^ 16 + field q.w3 63 48
  (bif readsA q.op then [recordRef 0 (q.w1.getLsbD 0) (field q.w1 31 20) aord (extentA q.op q.tc)] else []) ++
  (bif readsB q.op q.tc then [recordRef 1 (q.w1.getLsbD 1) (field q.w1 19 8) (field q.w3 39 0) (extentB q.op q.tc)] else []) ++
  [recordRef 2 false q.dsid q.dord (extentD q.op q.tc)]

/-- The offset of a payload in a record (R237). -/
def LogRec.payAt (q : LogRec) (role r : Nat) : Nat :=
  let sz := fun role => bif q.mode role == 1 then ((refOf? q.refs role).map (·.ext)).getD 0 else 0
  q.off + 32 + r * (sz 0 + sz 1) + (bif role == 1 then sz 0 else 0)

/-- The names that a record reads: its sources and its chain input. -/
def LogRec.reads (p : Plot) (q : LogRec) : List (Nat × Nat) :=
  (tileSources p q.op q.tc q.refs).map (fun x => (x.1, x.2.1))

/-- A record read from the open log. -/
def readRec (s : State) (c : Ctx) (p : Plot) (off : Nat) : Except Halt (State × LogRec) :=
  match logRead s c p off 4 with
  | .error h => .error h
  | .ok (s, ws) =>
    let w := fun (i : Nat) => ((ws[i]?).getD 0 : Dword)
    .ok (s, { off := off, w0 := w 0, w1 := w 1, w2 := w 2, w3 := w 3 })

/-- Whether a header read back is one that an append writes (R236, R237, R252): a tile form, its control word's unused bits and the
reserved bits zero, mode 11 for an operand that the form does not read, a predecessor inside the log. -/
def LogRec.legal (q : LogRec) : Bool :=
  (tileOp? q.opcode).isSome && field q.w1 7 2 == 0 && field q.w3 47 40 == 0 && q.tc &&& ~~~(tcUses q.op q.tc) == 0 &&
    [0, 1].all (fun role => (refOf? q.refs role).isSome || q.mode role == 3) && (32 * q.prev).ble q.off

/-- Whether a header read back is that of a mark record (R239, R252). -/
def LogRec.isMark (q : LogRec) : Bool :=
  q.w0 &&& ~~~(dw (4095 * 2 ^ 12)) == dw (at_ 0xC2 56) && field q.w1 63 32 == 0 && q.w2 == 0 && q.w3 == 0 && (32 * q.prev).ble q.off

/-- LOGSTATE of a header that is none (R252). -/
def badHeaderTrap (off : Nat) : Halt := .trap .logstate (infoLog Config.badHeaderWhy.toNat 3 off)

/-- The records of the innermost segment, from the last back (R239, R240); each header is checked as it is read (R252). -/
def segment (s : State) (c : Ctx) (p : Plot) : (fuel off : Nat) → Except Halt (State × List LogRec)
  | 0, _ => .ok (s, [])
  | fuel + 1, off =>
    if off = noOff ∨ off = logMark p then .ok (s, [])
    else match readRec s c p off with
      | .error h => .error h
      | .ok (s, q) =>
        if q.legal = false then .error (badHeaderTrap off)
        else if q.prev = 0 then .ok (s, [q])
        else match segment s c p fuel (off - 32 * q.prev) with
          | .error h => .error h
          | .ok (s, l) => .ok (s, q :: l)

/-- The segment of the open log; it has at most one record for each 32 bytes. -/
def openSegment (s : State) (c : Ctx) (p : Plot) : Except Halt (State × List LogRec) :=
  segment s c p (logTail p / 32 + 1) (logLast p)

/-! ### The conditions of R240 -/

/-- The adjoint fold of a statement (R232). -/
def adjFold? (p : Plot) (sid : Nat) : Option Fold :=
  bif (2048).ble sid then none
  else match foldOf? p (sid + 2048) with
    | some f => bif f.adj then some f else none
    | none => none

/-- The adjoint fold that takes the contribution of an operand of a record. -/
def contribFold? (p : Plot) (q : LogRec) (role : Nat) : Option Fold :=
  match refOf? q.refs role with
  | none => none
  | some o =>
    let ty := bif role == 0 then tcTA q.tc else tcTB q.tc
    bif o.raw || !adjFlows ty then none else adjFold? p o.sid

/-- Elements of an operand of a record, or of its result (role 2). -/
def LogRec.elems (q : LogRec) (role : Nat) : Nat :=
  match q.op with
  | .mma | .mmaT | .mmaSp => match role with
    | 0 => 32 * tileCols (tcTA q.tc) false
    | 1 => 64 * tileCols (tcTB q.tc) false
    | _ => 2048
  | .qnt => bif role == 2 && tcTD q.tc == .b4x then 4096 else 2048
  | .zero => 32 * tileCols (tcTD q.tc) (tcSH q.tc)
  | _ => 32 * tileCols (tcTA q.tc) (tcSH q.tc)

/-- Whether an adjoint fold cannot take `n` elements for a record's cell (WHY 6). -/
def adjUnfit (p : Plot) (q : LogRec) (f : Fold) (n : Nat) : Bool :=
  !(f.cls == 1 || f.cls == 2) || !reaches p f q.cell || f.slotBytes.blt (4 * n)

/-- The producing record of a name for a reader (WHY 1): the record of the segment before it in the log. `seg` runs from the
last record back. -/
def producerOf? (seg : List LogRec) (reader : LogRec) (sid ord : Nat) : Option LogRec :=
  seg.find? (fun x => x.off.blt reader.off && x.dsid == sid && x.dord == ord)

/-- The recompute names of an operand of a record. -/
def recomputeNames (p : Plot) (q : LogRec) (role : Nat) : List (Nat × Nat) :=
  match refOf? q.refs role with
  | none => []
  | some o =>
    bif q.mode role != 2 then []
    else ((List.range (tcReps q.tc)).filter (fun r => !skipped p q.op q.tc q.refs r)).filterMap (fun (r : Nat) =>
      (nameAt? p o.sid o.ord (tcAX q.tc) r).map (fun k => (o.sid, k)))

/-- Whether a record has the null adjoint (R230): no adjoint flows to any of its sources, and it has no chain input, which is a source of
type f32 (R221). -/
def LogRec.null (p : Plot) (q : LogRec) : Bool :=
  q.refs.all (fun o => o.role == 2 || !adjFlows (bif o.role == 0 then tcTA q.tc else tcTB q.tc)) && (chainName? p q.op q.tc q.refs).isNone

/-- The adjoint fold of a record's result, where its reversal reads one (R229, R230, R242). -/
def resultFold? (p : Plot) (q : LogRec) : Option Fold := bif q.null p then none else adjFold? p q.dsid

/-- What is wrong with a record: WHY and OPND (R240). `later` are the records scanned before it. -/
def recordFault? (p : Plot) (seg later : List LogRec) (q : LogRec) : Option (Nat × Nat) :=
  let dup := later.any (fun x => x.dsid == q.dsid && x.dord == q.dord) || (2048).ble q.dsid
  let need := fun role => bif role == 0 then needsA q.op else needsB q.op
  let none11 := [0, 1].find? (fun role => need role && q.mode role == 3)
  let recFault := [0, 1].findSome? (fun role => (recomputeNames p q role).findSome? (fun (sid, k) =>
    match producerOf? seg q sid k with
    | none => some (1, role)
    | some x => bif x.mode 0 == 2 || x.mode 1 == 2 || tcAcc x.tc then some (3, role) else none))
  let unfit := bif (resultFold? p q).isNone then none else [0, 1, 2].findSome? (fun role => match role with
    | 2 => match resultFold? p q with
      | none => none
      | some f => bif adjUnfit p q f (q.elems 2) then
          some (6, bif (chainName? p q.op q.tc q.refs).isSome then 2 else 3) else none
    | _ => match contribFold? p q role with
      | none => none
      | some f => bif adjUnfit p q f (q.elems role) then some (6, role) else none)
  if dup then some (5, 3)
  else match none11 with
    | some role => some (2, role)
    | none => match recFault with
      | some x => some x
      | none => unfit

/-- The first failure of a scan: WHY, OPND and the record's offset. -/
def scanFault? (p : Plot) (seg : List LogRec) : (later rest : List LogRec) → Option (Nat × Nat × Nat)
  | _, [] => none
  | later, q :: rest => match recordFault? p seg later q with
    | some (why, opnd) => some (why, opnd, q.off)
    | none => scanFault? p seg (later ++ [q]) rest

/-! ### REVERSE (R249) -/

/-- The end of a reversal (R244): the segment and its mark record are consumed. -/
def endReversal (s : State) (c : Ctx) (key : Nat) (p : Plot) : Except Halt State :=
  if logMark p = noOff then
    .ok (onPlot s key (fun p => { p with logpos := mkPos 0 noOff, logseg := mkSeg noOff 0, rev := none, logst := setBit p.logst 62 false }))
  else match readRec s c p (logMark p) with
    | .error h => .error h
    | .ok (s, m) =>
      if m.isMark = false then .error (badHeaderTrap (logMark p)) else
      let last := bif m.prev == 0 then noOff else logMark p - 32 * m.prev
      .ok (onPlot s key (fun p => { p with logpos := mkPos (logMark p) last, logseg := mkSeg (field m.w1 31 0) 0, rev := none,
                                           logst := setBit p.logst 62 false }))

/-- A reversal of records at offsets begun by a REVERSE of an instance (R249). -/
def startReversal (p : Plot) (f : Firing) (run : Nat) (offs : List Nat) : Reversal :=
  { firing := f, run := run, recs := offs, done := [], next := none, left := 0, srseed := p.srseed }

/-- REVERSE (R249): the conditions are checked and the reversal begins; its records are reversed by RECORD_REVERSAL. The
progress table takes free bytes of the log. -/
def execReverse (c1 c0 : Cons) (s : State) : Outcome :=
  fireOnce s c1 c0 .s32 (fun c e =>
    let p := plotNow s c
    let bad := fun why opnd off => Res.trap .logstate (c.tag e) (infoLog why opnd off)
    if logOpen p = false then bad 4 3 noOff
    else match p.rev with
      | some r => if r.firing = c.f ∧ r.run = c.inst.run then .issued s else bad 4 3 noOff
      | none =>
        if logOn p ∨ logRev p then bad 4 3 noOff
        else if logTrunc p then bad 7 3 noOff
        else match openSegment s c p with
          | .error h => h.res c e
          | .ok (s, seg) =>
            match scanFault? p seg [] seg with
            | some (why, opnd, off) => bad why opnd off
            | none =>
              let need := 16 * seg.length
              if logSize p < logTail p + need then .trap .logfull (c.tag e) (infoFull true need (logTail p))
              else if seg.isEmpty then match endReversal s c c.f.plot p with
                | .error h => h.res c e
                | .ok s => .done s (out32 c1 c0 0)
              else
                let ws := (List.range (2 * seg.length)).map (fun i => Config.freeWord (s.ctr + i))
                match logWrite { s with ctr := s.ctr + 2 * seg.length } c c.f.plot p (logTail p) ws with
                | .error h => h.res c e
                | .ok s => .issued (onPlot s c.f.plot (fun p =>
                    { p with rev := some (startReversal p c.f c.inst.run (seg.map (·.off))), logst := setBit p.logst 62 true })))

/-! ### One record reversed (R241, R242) -/

/-- The record that is reversed next (R241): of those whose result no unreversed record reads, the one of the greatest result
name. -/
def nextRecord? (p : Plot) (left : List LogRec) : Option LogRec :=
  (left.filter (fun q => !left.any (fun x => (x.reads p).contains (q.dsid, q.dord)))).foldl (fun (m : Option LogRec) q => match m with
    | none => some q
    | some b => bif b.dsid.blt q.dsid || (b.dsid == q.dsid && b.dord.blt q.dord) then some q else some b) none

/-- What stops the reversal of a record. -/
inductive RevStop where
  | halt (h : Halt)
  | stall
  deriving DecidableEq, Repr

/-- EXPIRED of a reversal (R242, R246). -/
def revExpired (p : Plot) (sid : Nat) (w : Bool) (why occ : Nat) : RevStop :=
  let cls := match foldOf? p sid with
    | some f => f.cls
    | none => 0
  .halt (.trap .expired (infoFold sid cls w true why 0 occ))

/-- The value of a kept name: its header must be full or dead with its ordinal. DESIGN CHOICE (notes/assumptions/68.md): the EXPIRED has W 0,
as a read's has. -/
def keptValue (p : Plot) (sid ord ext : Nat) : Except RevStop Nat :=
  match foldOf? p sid with
  | none => .error .stall
  | some f =>
    let h := nameHdr p f ord
    if hdrOcc h = ord ∧ (hdrState h = 1 ∨ hdrState h = 2) then .ok (nameData p f ord ext)
    else .error (revExpired p sid false 0 (hdrOcc h))

/-- Bytes of the open log as a number. -/
def logBytes (s : State) (c : Ctx) (p : Plot) (off ext : Nat) : Except RevStop Nat :=
  match logRead s c p off (ext / 8) with
  | .error h => .error (.halt h)
  | .ok (_, ws) => .ok (packPats 64 (ws.map (·.toNat)))

/-- Free bytes, for an operand that no record holds (notes/assumptions/22.md). -/
def freeBytes (s : State) (role r ext : Nat) : Nat :=
  packPats 64 ((List.range (ext / 8)).map (fun i => (Config.freeWord (s.ctr + 4096 * (2 * r + role) + i)).toNat))

/-- The bytes of an operand of a record in a repetition, recompute apart (R242). -/
def recordedValue (s : State) (c : Ctx) (p : Plot) (q : LogRec) (role r : Nat) : Except RevStop Nat :=
  match refOf? q.refs role with
  | none => .ok 0
  | some o =>
    match q.mode role with
    | 1 => logBytes s c p (q.payAt role r) o.ext
    | 0 => match nameAt? p o.sid o.ord (tcAX q.tc) r with
      | none => .ok 0
      | some k => keptValue p o.sid k o.ext
    | _ => .ok (freeBytes s role r o.ext)

/-- SRSEED as a reversal takes it (R242): the value the plot held when its REVERSE fired. -/
def reverseSeed (p : Plot) : Dword := (p.rev.map (·.srseed)).getD p.srseed

/-- The result of a producing record run again on its recorded operands (R242). Decoding them again sets no FX
(notes/assumptions/64.md). -/
def recompute (s : State) (c : Ctx) (p : Plot) (q : LogRec) : Except RevStop Nat :=
  if q.op.isMma then
    (List.range (tcReps q.tc)).foldl (fun (acc : Except RevStop Nat) r => match acc with
      | .error x => .error x
      | .ok d =>
        if skipped p q.op q.tc q.refs r then .ok d
        else match recordedValue s c p q 0 r, recordedValue s c p q 1 r with
          | .ok a, .ok b => .ok (mmaStep q.op q.tc a b d)
          | .error x, _ | _, .error x => .error x) (.ok 0)
  else match recordedValue s c p q 0 0, recordedValue s c p q 1 0 with
    | .ok a, .ok b => .ok (tileForward q.op q.tc (reverseSeed p) q.dord a b).1
    | .error x, _ | _, .error x => .error x

/-- The bytes of an operand of a record in a repetition. -/
def operandValue (s : State) (c : Ctx) (p : Plot) (seg : List LogRec) (q : LogRec) (role r : Nat) : Except RevStop Nat :=
  match refOf? q.refs role with
  | none => .ok 0
  | some o =>
    if q.mode role = 2 ∧ o.raw = false then
      match nameAt? p o.sid o.ord (tcAX q.tc) r with
      | none => .ok 0
      | some k => match producerOf? seg q o.sid k with
        | none => .ok 0
        | some x => recompute s c p x
    else recordedValue s c p q role r

/-- The adjoint of a record's result (R242): its bytes, and the plot with the reader taken; none where it was never written. -/
def resultAdjoint (p : Plot) (q : LogRec) : Except RevStop (Plot × Option Nat) :=
  match resultFold? p q with
  | none => .ok (p, none)
  | some f =>
    let h := nameHdr p f q.dord
    if hdrOcc h = q.dord ∧ (hdrState h = 1 ∨ hdrState h = 2) then
      .ok (takeReader p (f.sid, q.dord, false), some (nameData p f q.dord (4 * q.elems 2)))
    else if unclaimed h = false ∧ q.dord < hdrOcc h then .error (revExpired p f.sid false 0 (hdrOcc h))
    else .ok (p, none)

/-- The keep operands of a record released (R237, R242). -/
def releaseKept (p : Plot) : List (Nat × Nat) → Except RevStop Plot
  | [] => .ok p
  | (sid, k) :: l => match keptValue p sid k 0 with
    | .error x => .error x
    | .ok _ => releaseKept (takeReader p (sid, k, false)) l

/-- A contribution written into an adjoint name (R147, R150, R254). DESIGN CHOICE (notes/assumptions/68.md): one that stalls counts in no
PSTALL (R149). -/
def writeContribution (p : Plot) (sid ord : Nat) (x : Contribution) : Except RevStop Plot :=
  match foldOf? p sid with
  | none => .ok p
  | some f =>
    let n := nameSlot p f ord
    let h := nameHdr p f ord
    let bytes := 4 * x.length
    match writeCase h ord true with
    | .expired => .error (revExpired p sid true 1 (hdrOcc h))
    | .stall => .error .stall
    | .add =>
      let old := readN (chipBytes p f) bytes (f.slotAt n)
      .ok (onChip p f (fun m => writeN m bytes (f.slotAt n) (addF32s x.length old (packPats 32 x))))
    | .write =>
      let p := onChip p f (fun m => writeN m f.slotBytes (f.slotAt n) (packPats 32 x))
      .ok (onFold p sid (fun f => { f with hdrs := Tab.set f.hdrs n (mkHdr ord 1 f.readers f.gen) }))

/-- A contribution to come: the adjoint name, its value. -/
abbrev Due := Nat × Nat × Contribution

/-- The contributions of a record (R229, R241): repetitions from the last down, A before B, the chain input last; and the
repetitions' worth of multiply-accumulates (R243). -/
def contributions (s : State) (c : Ctx) (p : Plot) (seg : List LogRec) (q : LogRec) (d : Nat) : Except RevStop (List Due × Nat) :=
  let dd := fun i => decodeF fmtF32 (elemPat d 32 i)
  let want := fun role => (contribFold? p q role).isSome
  let one := fun (acc : Except RevStop (List Due × Nat)) (r : Nat) => match acc with
    | .error x => .error x
    | .ok (l, macs) =>
      if skipped p q.op q.tc q.refs r then .ok (l, macs)
      else match operandValue s c p seg q 0 r, operandValue s c p seg q 1 r with
        | .error x, _ | _, .error x => .error x
        | .ok a, .ok b =>
          let put := fun role (x : Option Contribution) => match refOf? q.refs role, x with
            | some o, some x => (match nameAt? p o.sid o.ord (tcAX q.tc) r with
              | some k => bif want role then [(o.sid + 2048, k, x)] else []
              | none => [])
            | _, _ => []
          let new := put 0 (adjointA q.op q.tc dd a b) ++ put 1 (adjointB q.op q.tc dd a b)
          .ok (l ++ new, macs + bif q.op.isMma then new.length else 0)
  match (List.range (tcReps q.tc)).reverse.foldl one (.ok ([], 0)) with
  | .error x => .error x
  | .ok (l, macs) =>
    let chain := match chainName? p q.op q.tc q.refs with
      | some (sid, k, _) => bif (adjFold? p sid).isSome then [(sid + 2048, k, (List.range 2048).map (fun i => toF32 (dd i)))] else []
      | none => []
    .ok (l ++ chain, macs)

/-- The producers that a record's reversal runs again, for their multiply-accumulates (R243). -/
def recomputed (p : Plot) (seg : List LogRec) (q : LogRec) : List LogRec :=
  [0, 1].flatMap (fun role => (recomputeNames p q role).filterMap (fun (sid, k) => producerOf? seg q sid k))

/-- The multiply-accumulates of a record's forward form. -/
def forwardMacs (p : Plot) (q : LogRec) : Nat :=
  bif q.op.isMma then ((List.range (tcReps q.tc)).filter (fun r => !skipped p q.op q.tc q.refs r)).length * (macsOf q.op q.tc).2 else 0

/-- Every kept name of a record, as the reversal releases them: repetitions from the last down, A before B. -/
def keptOf (p : Plot) (q : LogRec) : List (Nat × Nat) :=
  ((List.range (tcReps q.tc)).reverse.filter (fun r => !skipped p q.op q.tc q.refs r)).flatMap (fun (r : Nat) =>
    [0, 1].flatMap (fun role => match refOf? q.refs role with
      | none => []
      | some o => bif q.mode role != 0 || o.raw then []
        else match nameAt? p o.sid o.ord (tcAX q.tc) r with
          | some k => [(o.sid, k)]
          | none => []))

/-- One record reversed, all its effects together: the plot after it, and the multiply-accumulates by toll counter. -/
def reverseRecord (s : State) (c : Ctx) (p : Plot) (seg : List LogRec) (q : LogRec) : Except RevStop (Plot × List (Nat × Nat)) :=
  match resultAdjoint p q with
  | .error x => .error x
  | .ok (p1, d) =>
    match releaseKept p1 (keptOf p q) with
    | .error x => .error x
    | .ok p2 =>
      match d with
      | none => .ok (p2, [])
      | some d => match contributions s c p seg q d with
        | .error x => .error x
        | .ok (due, n) =>
          let written := due.foldl (fun (acc : Except RevStop Plot) (sid, k, x) => match acc with
            | .error x => .error x
            | .ok p => writeContribution p sid k x) (.ok p2)
          match written with
          | .error x => .error x
          | .ok p3 =>
            let (toll, per) := macsOf q.op q.tc
            .ok (p3, (toll, n * per) :: (recomputed p seg q).map (fun x => ((macsOf x.op x.tc).1, forwardMacs p x)))

/-- The segment of a reversal in progress, from the last record back; each header is checked as it is read (R252). -/
def readRecs (s : State) (c : Ctx) (p : Plot) : List Nat → Except Halt (List LogRec)
  | [] => .ok []
  | off :: l => match readRec s c p off with
    | .error h => .error h
    | .ok (_, q) =>
      if q.legal = false then .error (badHeaderTrap off)
      else match readRecs s c p l with
        | .error h => .error h
        | .ok qs => .ok (q :: qs)

/-- The cycles that a record's reversal holds its cell's array (R243): the occupancy of the forward form for each contribution, and of
each producer run again. -/
def reversalTime (p : Plot) (seg : List LogRec) (q : LogRec) : Nat :=
  match resultAdjoint p q with
  | .ok (_, some _) =>
    let reps := ((List.range (tcReps q.tc)).filter (fun r => !skipped p q.op q.tc q.refs r)).length
    let n := reps * ([0, 1].filter (fun role => (contribFold? p q role).isSome)).length +
      (match chainName? p q.op q.tc q.refs with
        | some (sid, _, _) => bif (adjFold? p sid).isSome then 1 else 0
        | none => 0)
    n * occupancy q.op q.tc + (recomputed p seg q).foldl (fun m x => m + occupancy x.op x.tc) 0
  | _ => 0

/-- A record's reversal begun on the array of its cell. -/
def startRecord (p : Plot) (r : Reversal) (q : LogRec) (n : Nat) : Plot :=
  onCell { p with rev := some { r with next := some q.off, left := n } } q.cell (fun c => { c with hold := n })

/-- The end of a reversal whose records are all reversed: REVERSE completes, emitting their number (R244); an access to a far log that waits
leaves it to a later RECORD_REVERSAL, one that traps to the REVERSE that fires again (R245). -/
def finishReversal (s : State) (c : Ctx) (plot : Nat) (p : Plot) (r : Reversal) : Outcome :=
  match endReversal s c plot p with
  | .error (.wait s) | .error (.hold s) => .next { s with stalled := r.firing :: s.stalled }
  | .error (.trap cause info) => .next (trapOnce s r.firing cause info)
  | .ok s => .next (finishScalar s r.firing .s32 (dw (logDone p)))

/-- RECORD_REVERSAL (R241-R244): the next record of the plot's reversal in canonical order begins once the
array of its cell is free, and takes effect when its time has passed; after the last, REVERSE completes. -/
def execRecordReversal (plot : Nat) (s : State) : Outcome :=
  match Tab.at? s.plots plot with
  | none => .next s
  | some p => match p.rev with
    | none => .next s
    | some r => match ctxIn? p r.firing with
      | none => .next s
      | some c =>
        if c.inst.run ≠ r.run ∨ Tab.atD c.inst.issued c.f.slot 0 = 0 then .next s
        else match readRecs s c p r.recs with
          | .error (.wait s) | .error (.hold s) => .next { s with stalled := r.firing :: s.stalled }
          | .error (.trap cause info) => .next (trapOnce s r.firing cause info)
          | .ok seg =>
            match nextRecord? p (seg.filter (fun q => !r.done.contains q.off)) with
            | none => finishReversal s c plot p r
            | some q =>
              if r.next ≠ some q.off then
                .next (bif p.live && arrayFree p q.cell then onPlot s plot (fun p => startRecord p r q (reversalTime p seg q)) else s)
              else if r.left ≠ 0 then .next s
              else match reverseRecord s c p seg q with
              | .error .stall => .next { s with stalled := r.firing :: s.stalled }
              | .error (.halt (.wait s)) | .error (.halt (.hold s)) => .next { s with stalled := r.firing :: s.stalled }
              | .error (.halt (.trap cause info)) => .next (trapOnce s r.firing cause info)
              | .ok (p', tolls) =>
                let done := r.done ++ [q.off]
                let p' := { p' with rev := some { r with done := done, next := none }, logseg := mkSeg (logMark p) (logDone p + 1), fired := true }
                let s := { s with plots := Tab.set s.plots plot p', ctr := s.ctr + 65536 }
                let s := tolls.foldl (fun s (i, n) => bif n == 0 then s else addToll s p.vi i n) s
                if done.length < r.recs.length then .next s else finishReversal s c plot p' { r with done := done, next := none }

/-! ### ADJSEED (R250) -/

/-- The bits of TC that ADJSEED uses. -/
def badSeed? (tc : Word) : Option Nat :=
  let ta := tcTA tc
  lowestBit [badZero? (zx32 (tc &&& ~~~(0xF0F18000 : Word))) 31 0,
    badUnless? (!isSumTy ta || tcSH tc == (ta == .f32)) 16, badUnless? (tcTD tc == .f32) 20, badUnless? (isSumTy ta) 28]

/-- The operand of ADJSEED where it is a tile reference. -/
def seedRef (c : Ctx) (tc : Word) (e ext : Nat) : TRef :=
  { role := 0, raw := tcRA tc, v := c.val 0 e, kind := c.kind 0, ext := ext, step := 2048, tbit := 28, rbit := 15 }

/-- The destination of ADJSEED: claimed for its ordinal (R216), or full with it, where the seed adds (R150). -/
def seedStop? (p : Plot) (o : TRef) : Option TStop :=
  match foldOf? p o.sid with
  | some f =>
    let h := nameHdr p f o.ord
    bif f.adj && hdrState h == 1 && hdrOcc h == o.ord then none else destStop? p o
  | none => destStop? p o

/-- ADJSEED (R250), up to its issue. -/
def execAdjseed (ks : BitVec 2) (s : State) : Outcome :=
  fireOnce s 0x1FF#9 0x1FF#9 .s32 (fun c e =>
    let p := plotNow s c
    let tc := c.k (8 + ks.toNat)
    let ta := tcTA tc
    let n := 32 * tileCols ta (tcSH tc)
    let ext := n * tileWidth ta / 8
    let scalar := c.kind 0 == .s32
    let a := seedRef c tc e ext
    let dsid := field (c.val 2 e) 63 52
    let dord := field (c.val 2 e) 39 0
    let rsv := fun bit => Res.trap .rsvfld (c.tag e) (infoTc c 0 bit)
    let range := fun sid w => Res.trap .foldrange (c.tag e) (infoFold sid (((foldOf? p sid).map (·.cls)).getD 0) w false 4 0 0)
    let onNearAcc : Nat → Bool := fun sid => match foldOf? p sid with
      | some f => f.cls == 1 || f.cls == 2
      | none => false
    let size := fun (sid : Nat) => ((foldOf? p sid).map Fold.slotBytes).getD 0
    if arrayFree p c.f.cell = false then .stall s
    else match badSeed? tc with
      | some b => rsv b
      | none =>
        if c.kind 2 ≠ .tile then rsv 13
        else if scalar = false ∧ a.kindOk = false then rsv 15
        else if onNearAcc dsid = true ∧ size dsid < 4 * n then rsv 20
        else if scalar = false ∧ a.raw = false ∧ onNearAcc a.sid = true ∧ size a.sid < ext then rsv 28
        else if onNearAcc dsid = false ∨ ((foldOf? p dsid).map Fold.adj).getD false = false then range dsid true
        else if scalar = false ∧ a.raw = false ∧ onNearAcc a.sid = false then range a.sid false
        else match (if scalar = false ∧ a.raw = true then rawBad? p c.f.cell a 0 else none) with
          | some why => .trap .access (c.tag e) (infoRaw 0 why 0 (a.rawAt 0))
          | none =>
            let srcs : List Source := if scalar = false ∧ a.raw = false then [(a.sid, a.ord, a.keep)] else []
            let d : TRef := { role := 2, raw := false, v := c.val 2 e, kind := .tile, ext := 4 * n, step := 0, tbit := 20, rbit := 13 }
            match firstStop (srcs.filterMap (sourceStop? c p true) ++ (seedStop? p d).toList) with
            | some (.trap cause info) => .trap cause (c.tag e) info
            | some .wait => .stall s
            | none =>
              let busy := (Nat.max (4 * n) (bif scalar then 0 else ext) + 255) / 256
              let bytes := if scalar then 0 else refData p c.f.cell tc a 0
              let pats := (List.range n).map (fun i =>
                if scalar then (c.low 0 e).toNat else toF32 (tileElem ta 2048 bytes i).1)
              .issued (holdArray s c { firing := c.f, reads := readsNow p srcs, raws := bif scalar then [] else rawSources 0 [a], logged := none,
                                       kept := [], seed := n, fault := none, raw := false, dst := mkHandle dsid 0 false dord, bytes := size dsid,
                                       data := packPats 32 pats, fx := false, toll := 0, macs := 0,
                                       occ := busy, left := busy + 7 }))

/-! ### LOGQ and LOGEXT (R251) -/

/-- LOGQ (R251). -/
def execLogq (which : BitVec 3) (c1 c0 : Cons) (s : State) : Outcome :=
  fireOnce s c1 c0 .s64 (fun c _ =>
    let p := c.plot
    .done s (scalarOut c1 c0 .s64 (match which.toNat with
      | 0 => p.logst
      | 1 => p.logpos
      | 2 => p.logseg
      | _ => dw (logSize p - logTail p))))

/-- The plot whose log a LOGEXT extends: for a handler plot, the trapped plot of its round (R251, R418). -/
def logTarget (s : State) (c : Ctx) : Nat × Plot :=
  match c.plot.role, c.plot.subject with
  | .handler, some u => (match u.plot with
    | some k => (match Tab.at? s.plots k with
      | some q => (k, q)
      | none => (c.f.plot, c.plot))
    | none => (c.f.plot, c.plot))
  | _, _ => (c.f.plot, c.plot)

/-- LOGEXT (R251). -/
def execLogext (c1 c0 : Cons) (s : State) : Outcome :=
  fireOnce s c1 c0 .s32 (fun c e =>
    let (key, p) := logTarget s c
    let n := (c.low 0 e).toNat
    let d := logDesc p (logIdx p)
    let new := logSize p + n
    let lo := descBase d
    let fits := bif descFar d then
        (match regionOf? (viOf s p.vi) lo with
          | none => false
          | some r => match Tab.at? (viOf s p.vi).regions r with
            | some (b, k) => (lo + new).ble (b + k)
            | none => false)
      else inLogSpace p lo (lo + new)
    if logOpen p = false then .trap .logstate (c.tag e) (infoLog 4 3 noOff)
    else if n % 32 ≠ 0 then .trap .align (c.tag e) (infoMem 4 1 0)
    else if fits = false ∨ 2 ^ 32 ≤ new then .trap .logstate (c.tag e) (infoLog 8 3 noOff)
    else .done (onPlot s key (fun p => { p with logst := withLog p (logIdx p) new })) (out32 c1 c0 new))

end Sys2Proof.Machine
end

