-- ==== Sys2Proof/Machine/Hmac.lean ====
section
/-!
DEFINITION. Sys2Proof/Machine/Hmac.lean: HMAC-SHA-256, the signature of a toll record (R434). SHA-256 takes its bytes in
big-endian words.
-/
namespace Sys2Proof.Machine

/-- The largest number whose power of a degree does not exceed `n`, among those below 2^bits: settled bit by bit, the highest first. -/
def rootBelow (degree n : Nat) : (bits : Nat) → (found : Nat) → Nat
  | 0, found => found
  | k + 1, found => rootBelow degree n k (bif ((found + 2 ^ k) ^ degree).ble n then found + 2 ^ k else found)

/-- The primes below 312: the first 64. -/
def shaPrimes : List Nat := (List.range 312).filter (fun n => Nat.ble 2 n && (List.range n).all (fun d => d.ble 1 || n % d != 0))

/-- The first 32 bits of the fractional part of a root of a prime. -/
def rootFraction (degree p : Nat) : Word := BitVec.ofNat 32 (rootBelow degree (p * 2 ^ (32 * degree)) 37 0)

/-- The initial hash value: of the square roots of the first eight primes, the first at the top. -/
def shaInit : BitVec 256 := (shaPrimes.take 8).foldl (fun h p => h <<< 32 ||| (rootFraction 2 p).setWidth 256) 0

/-- A block under way: the working words, the first at the top, and the sixteen schedule words that the next rounds take. -/
structure ShaRun where
  work : BitVec 256
  window : List Word
  deriving DecidableEq, Repr

/-- The schedule word of a window at a place. -/
def ShaRun.at_ (r : ShaRun) (i : Nat) : Word := (r.window[i]?).getD 0

/-- A working word, 0 to 7 from the top. -/
def ShaRun.reg (r : ShaRun) (i : Nat) : Word := r.work.extractLsb' (224 - 32 * i) 32

/-- The exclusive or of a word turned right by two amounts and a third word. -/
def twoTurns (x : Word) (m n : Nat) (z : Word) : Word := x.rotateRight m ^^^ x.rotateRight n ^^^ z

/-- The schedule word that follows a window. -/
def ShaRun.upcoming (r : ShaRun) : Word :=
  r.at_ 0 + r.at_ 9 + twoTurns (r.at_ 1) 7 18 (r.at_ 1 >>> 3) + twoTurns (r.at_ 14) 17 19 (r.at_ 14 >>> 10)

/-- A round for a prime: its constant comes from the prime's cube root. -/
def shaRound (r : ShaRun) (p : Nat) : ShaRun :=
  let e := r.reg 4
  let choice := r.reg 6 ^^^ (e &&& (r.reg 5 ^^^ r.reg 6))
  let sum := rootFraction 3 p + r.at_ 0 + r.reg 7 + choice + twoTurns e 6 11 (e.rotateRight 25)
  let a := r.reg 0
  let most := (a &&& (r.reg 1 ||| r.reg 2)) ||| (r.reg 1 &&& r.reg 2)
  let top := sum + most + twoTurns a 2 13 (a.rotateRight 22)
  { work := top ++ r.work.extractLsb' 160 96 ++ (r.reg 3 + sum) ++ r.work.extractLsb' 32 96, window := r.window.tail ++ [r.upcoming] }

/-- The hash value after a block of 16 words: word by word the sum of the one before and the working words. -/
def shaBlock (h : BitVec 256) (block : List Word) : BitVec 256 :=
  let last := shaPrimes.foldl shaRound { work := h, window := block }
  (List.range 8).foldl (fun x i => x <<< 32 ||| (({ work := h, window := [] } : ShaRun).reg i + last.reg i).setWidth 256) 0

/-- The big-endian word at byte offset 4i of dwords that stand in memory little-endian. -/
def beWord (ws : List Dword) (i : Nat) : Word :=
  let v := ((ws[i / 2]?).getD 0).toNat / 2 ^ (32 * (i % 2))
  BitVec.ofNat 32 (v % 2 ^ 8 * 2 ^ 24 + v / 2 ^ 8 % 2 ^ 8 * 2 ^ 16 + v / 2 ^ 16 % 2 ^ 8 * 2 ^ 8 + v / 2 ^ 24 % 2 ^ 8)

/-- The sixteen words of a 64-byte key block, the first at the top, each byte combined with a pad byte. -/
def keyWords (key : BitVec 512) (pad : Word) : List Word :=
  (List.range 16).map (fun i => key.extractLsb' (480 - 32 * i) 32 ^^^ pad)

/-- The eight words of a hash value. -/
def shaWords (h : BitVec 256) : List Word := (List.range 8).map ({ work := h, window := [] } : ShaRun).reg

/-- The padding after a message: a one bit, zeros, and the message's length in bits as the last of `n` words. -/
def shaPad (n : Nat) (bits : Word) : List Word := (0x80000000 : Word) :: List.replicate (n - 2) 0 ++ [bits]

/-- HMAC-SHA-256 of 64 bytes under a key block: the eight words of the digest. -/
def hmac64 (key : BitVec 512) (msg : List Dword) : List Word :=
  let inner := [keyWords key 0x36363636, (List.range 16).map (beWord msg), shaPad 16 1024].foldl shaBlock shaInit
  shaWords ([keyWords key 0x5c5c5c5c, shaWords inner ++ shaPad 8 768].foldl shaBlock shaInit)

/-- The four dwords of a digest as its 32 bytes stand in memory. -/
def digestDwords (d : List Word) : List Dword :=
  let flip := fun (w : Word) => w.toNat % 2 ^ 8 * 2 ^ 24 + w.toNat / 2 ^ 8 % 2 ^ 8 * 2 ^ 16 + w.toNat / 2 ^ 16 % 2 ^ 8 * 2 ^ 8 + w.toNat / 2 ^ 24
  (List.range 4).map (fun i => dw (flip ((d[2 * i + 1]?).getD 0) * 2 ^ 32 + flip ((d[2 * i]?).getD 0)))

end Sys2Proof.Machine
end

