-- ==== Sys2Proof/Machine/Barriers.lean ====
section
/-!
DEFINITION. Sys2Proof/Machine/Barriers.lean: barriers and signals (R120-R124) and the forms BAR, BARW and SIG (R135).
-/
namespace Sys2Proof.Machine

/-- The word of a barrier (R120). -/
def Barrier.word (b : Barrier) : Nat := at_ b.expect 48 + at_ b.count 32 + at_ b.phase 16

/-- A barrier of a word. -/
def barrierOf (w : Nat) : Barrier :=
  { expect := w / 2 ^ 48 % 2 ^ 16, count := w / 2 ^ 32 % 2 ^ 16, phase := w / 2 ^ 16 % 2 ^ 16, waiters := [] }

/-- An arrival of n (R122, R135): EXPECT is taken from COUNT as often as it goes, each time a phase; EXPECT 0 is taken as 1; an arrival of 0
has no effect. -/
def Barrier.arrive (b : Barrier) (n : Nat) : Barrier :=
  let e := Nat.max 1 b.expect
  bif n == 0 then b else { b with count := (b.count + n) % e, phase := (b.phase + (b.count + n) / e) % 2 ^ 16 }

/-- An arrival at a barrier in memory, as an atomic at its line's home (R123). -/
def arriveInMemory (s : State) (v pa n : Nat) : State :=
  let (s, w, _) := readPa s hubPort v pa 8
  postPa s v pa 8 ((barrierOf w).arrive n).word

/-- A cached barrier written back (R121). -/
def writeBarrier (s : State) (key v pa : Nat) (b : Barrier) : State :=
  onPlot (postPa s v pa 8 b.word) key (fun p => { p with barriers := Tab.del p.barriers pa })

/-- Every cached barrier of a plot written back, as its release does (R121). -/
def writeBarriers (s : State) (key : Nat) : State :=
  match Tab.at? s.plots key with
  | none => s
  | some p => p.barriers.foldl (fun s (pa, b) => writeBarrier s key p.vi pa b) s

/-- The way of a barrier access from its cell to memory (R123, R258, R264, R271): home port, translation, address, alignment. BAR and BARW
reach the word over the `span` links; a SIG's address must lie in the module (R123). -/
def barrierWay (s : State) (c : Ctx) (va : Nat) (n : Need) (span : Bool) : Way :=
  match homePort? c.plot c.f.cell with
  | none => .trap .access (infoMem 4 6 va)
  | some port =>
    match translate s (c.via port 4) va n with
    | .miss s => .wait s
    | .fail s (.migrate _ _ _) => .wait s
    | .fail _ (.xlate why) => .trap .xlate (infoMem 4 why va)
    | .ok s pa =>
      match bif span then remoteFault? s c pa else none with
      | some (cause, info) => .trap cause info
      | none =>
        if paReserved s pa ∨ (span = false ∧ paRemote s pa) then .trap .access (infoMem 4 2 va)
        else if va % 8 ≠ 0 then .trap .align (infoMem 4 0 va)
        else .go s pa

/-- Whether a BARW still waits: its instance is live, and its slot has not resolved its elements. -/
def barWaits (p : Plot) (w : Firing × Nat) : Bool :=
  match ctxIn? p w.1 with
  | some c => c.inst.run == w.2 && (elemsOf c.inst.len).any (fun e => !resolved c.blk c.inst w.1.slot e)
  | none => false

/-- The barrier of an address in the plot's cache (R121): bound by loading its word, an acquire at module scope, after an entry without arrivals and
waits is written back where all 16 are taken, that of the lowest address of several (notes/assumptions/63.md); none where no entry can be
freed. -/
def bindBarrier (s : State) (c : Ctx) (va pa : Nat) : Except Halt (State × Option Barrier) :=
  match Tab.at? (((Tab.at? s.plots c.f.plot).getD c.plot).barriers) pa with
  | some b => .ok (s, some b)
  | none =>
    let p := (Tab.at? s.plots c.f.plot).getD c.plot
    let all := p.barriers
    let room := if all.length < 16 then some s
      else (all.find? (fun (_, b) => b.count == 0 && !b.waiters.any (barWaits p))).map (fun (k, b) => writeBarrier s c.f.plot c.plot.vi k b)
    match room with
    | none => .ok (s, none)
    | some s =>
      if behind s c c.port va pa .read = true ∨ lineReady s c.port c.plot.vi (pa / 128) = false then .error (.wait s)
      else
      let (s, w, bad) := readPa s c.port c.plot.vi pa 8
      if bad then .error (.trap .access (infoMem 4 3 va))
      else
        let b := barrierOf w
        .ok (onPlot (dropHeld s c.f.plot) c.f.plot (fun p => { p with barriers := Tab.set p.barriers pa b }), some b)

/-- A release of a cell: whether earlier writes of it are still on their way, which are sent; where none is, what the P-cells hold for the
reads of its plot is given up (R317). -/
def releaseFirst (s : State) (c : Ctx) : State × Bool :=
  let s := flushAll s c.port
  bif priorWrites s c then (s, true) else (dropHeld s c.f.plot, false)

/-- BAR (R135): a release at plot scope; it emits the phase it joined. -/
def execBar (n : BitVec 4) (c1 c0 : Cons) (s : State) : Outcome :=
  fireOnce s c1 c0 .s32 (fun c e =>
    let va := vaOf (c.k2 n.toNat)
    match barrierWay s c va .write true with
    | .trap cause info => .trap cause (c.tag e) info
    | .wait s => .stall s
    | .go s pa =>
      let (s, wait) := releaseFirst s c
      if wait then .stall s
      else match bindBarrier s c va pa with
        | .error h => h.res c e
        | .ok (s, none) => .stall s
        | .ok (s, some b) =>
          .done (onPlot s c.f.plot (fun p => { p with barriers := Tab.set p.barriers pa (b.arrive 1) }))
            (scalarOut c1 c0 .s32 (dw b.phase)))

/-- BARW (R135): it waits until the phase differs from a[15:0]; on completion an acquire at module scope. -/
def execBarw (n : BitVec 4) (c1 c0 : Cons) (s : State) : Outcome :=
  fireOnce s c1 c0 .s32 (fun c e =>
    let va := vaOf (c.k2 n.toNat)
    match barrierWay s c va .read true with
    | .trap cause info => .trap cause (c.tag e) info
    | .wait s => .stall s
    | .go s pa =>
      match bindBarrier s c va pa with
      | .error h => h.res c e
      | .ok (s, none) => .stall s
      | .ok (s, some b) =>
        let others := b.waiters.filter (fun (f, _) => !(f.cell == c.f.cell && f.bidx == c.f.bidx && f.slot == c.f.slot && f.frame == c.f.frame))
        let set := fun ws => onPlot s c.f.plot (fun p => { p with barriers := Tab.set p.barriers pa { b with waiters := ws } })
        if b.phase = (c.low 0 e).toNat % 2 ^ 16 then .stall (set (others ++ [(c.f, c.inst.run)]))
        else .done (dropHeld (set others) c.f.plot) (scalarOut c1 c0 .s32 (dw b.phase)))

/-- SIG (R123, R124, R135): a release at module scope; the arrivals go to the hub with the plot's barrier generation. -/
def execSig (n : BitVec 4) (s : State) : Outcome :=
  fireOnce s 0x1FF#9 0x1FF#9 .s32 (fun c e =>
    let va := vaOf (c.k2 n.toNat)
    match barrierWay s c va .write false with
    | .trap cause info => .trap cause (c.tag e) info
    | .wait s => .stall s
    | .go s pa =>
      let (s, wait) := releaseFirst s c
      if wait then .stall s
      else .done { s with sigs := s.sigs ++ [{ by_ := (c.f.plot, c.f.cell), vi := c.plot.vi, gen := c.plot.bgen, pa := pa, n := (c.low 0 e).toNat % 2 ^ 16 }] } [])

/-- The resident plots of a VI that have a barrier cached. -/
def barrierHomes (s : State) (v pa : Nat) : List (Nat × Plot) :=
  s.plots.filter (fun (_, p) => p.vi == v && Tab.has p.barriers pa)

/-- The plot that takes a SIG: where several have the barrier cached the spec does not say which, so the choice is free
(notes/assumptions/23.md). -/
def sigHome? (s : State) (v pa : Nat) : Option (Nat × Plot) :=
  let l := barrierHomes s v pa
  l[(Config.freeWord s.ctr).toNat % Nat.max 1 l.length]?


/-- The saved image of a VI that holds a barrier. -/
def barrierImage? (s : State) (v pa : Nat) : Option (Nat × SavedImage) :=
  s.images.find? (fun (_, i) => i.live && i.plot.vi == v && Tab.has i.plot.barriers pa)

/-- Whether the hub holds a SIG: its plot is being frozen (R123), or it goes to memory and the line's home does not take it yet (R307). -/
def sigHeld (s : State) (x : Sig) : Bool :=
  x.gen == (viOf s x.vi).bgen && (match sigHome? s x.vi x.pa with
    | some (_, p) => p.stop == .freeze
    | none => (barrierImage? s x.vi x.pa).isNone && !lineReady s hubPort x.vi (x.pa / 128))

/-- SIG_AT_HUB (R123): the oldest SIG that the hub does not hold is dropped, forwarded, or applied. -/
def execSigAtHub (s : State) : Outcome :=
  match s.sigs.find? (fun x => !sigHeld s x) with
  | none => .next s
  | some x =>
    let s0 : State := { s with sigs := dropFirst x s.sigs }
    if x.gen ≠ (viOf s x.vi).bgen then .next (onVi s0 x.vi (fun vi => { vi with stalesig := satInc vi.stalesig }))
    else match sigHome? s x.vi x.pa with
      | some (k, _) => .next (onPlot { s0 with ctr := s.ctr + 1 } k (fun p => { p with arrivals := p.arrivals ++ [x] }))
      | none => match barrierImage? s x.vi x.pa with
        | some (k, _) => .next { s0 with images := Tab.upd s0.images k (fun i =>
            { i with plot := { i.plot with barriers := Tab.upd i.plot.barriers x.pa (fun b => b.arrive x.n) } }) }
        | none => .next (arriveInMemory s0 x.vi x.pa x.n)

/-- BARRIER_ARRIVAL (R122): the home S-cell applies the next arrival; one whose entry has been written back meanwhile goes to
memory. -/
def execBarrierArrival (plot : Nat) (s : State) : Outcome :=
  match Tab.at? s.plots plot with
  | none => .next s
  | some p => match p.arrivals with
    | [] => .next s
    | x :: rest =>
      let s := onPlot s plot (fun p => { p with arrivals := rest })
      if Tab.has p.barriers x.pa then
        .next (onPlot s plot (fun p => { p with barriers := Tab.upd p.barriers x.pa (fun b => b.arrive x.n) }))
      else .next (bif lineReady s hubPort p.vi (x.pa / 128) then arriveInMemory s p.vi x.pa x.n else { s with sigs := s.sigs ++ [x] })

end Sys2Proof.Machine
end

