-- ==== Sys2Proof/Machine/Streams.lean ====
section
/-!
DEFINITION. Sys2Proof/Machine/Streams.lean: streams (R274, R277-R279, R287-R289) and their windows (R303-R305): AG.OPEN,
AG.CLOSE, SRD, SWR, M.PUSH, M.ACCEPT, WAITQ, and the generators' occurrences STREAM_FETCH and STRESUME.
-/
namespace Sys2Proof.Machine

/-! ### The descriptor (R277) -/

/-- A word of a stream's descriptor. -/
def Stream.w (t : Stream) (i : Nat) : Dword := (t.desc[i]?).getD 0

/-- The bytes of an element. -/
def elemBytes (w0 : Dword) : Nat :=
  match field w0 62 60 with
  | 0 => 1 | 1 => 2 | 2 => 4 | 3 => 8 | _ => 64

/-- The bytes of a stream's element. -/
def Stream.esz (t : Stream) : Nat := elemBytes (t.w 0)

/-- The mode of a stream: 0 RUN, 1 PULL, 2 PUSH. -/
def Stream.mode (t : Stream) : Nat := field (t.w 5) 63 62

/-- The counts of the four dimensions, innermost first. -/
def descCounts (d : List Dword) : List Nat := [1, 2, 3, 4].map (fun i => field ((d[i]?).getD 0) 63 40 + 1)

/-- The strides of the four dimensions. -/
def descStrides (d : List Dword) : List Int := [1, 2, 3, 4].map (fun i => sx (field ((d[i]?).getD 0) 39 0) 40)

/-- The elements of a pattern. -/
def descTotal (d : List Dword) : Nat := (descCounts d).foldl (· * ·) 1

/-- The elements of a stream. -/
def Stream.total (t : Stream) : Nat := descTotal t.desc

/-- The address of an ordinal: its indices, dimension 0 innermost, times the strides, from BASE. -/
def Stream.va (t : Stream) (o : Nat) : Nat :=
  let r := ((descCounts t.desc).zip (descStrides t.desc)).foldl (fun ((q, a) : Nat × Int) (n, st) =>
    (q / n, a + (q % n : Nat) * st)) (o, (field (t.w 0) 56 0 : Int))
  (r.2 % (2 ^ 57 : Nat)).toNat

/-- The tag of ordinal 0. -/
def Stream.tbase (t : Stream) : Nat := field (t.w 6) 63 24

/-- The S-cell of a stream: plot-relative. -/
def descScell (d : List Dword) : Nat :=
  let w := (d[5]?).getD 0
  field w 53 48 * 64 + field w 59 54

/-- Bytes of a PUSH ring, and where it begins in its S-cell. -/
def Stream.ring (t : Stream) : Nat := field (t.w 5) 31 18 * 64

/-- The decoupling lines of a stream. -/
def Stream.depth (t : Stream) : Nat := field (t.w 7) 63 56 + 1

/-- The elements of a line. -/
def Stream.perLine (t : Stream) : Nat := 128 / Nat.min 128 t.esz

/-- The elements that the decoupling lines of a stream hold. -/
def Stream.cap (t : Stream) : Nat := t.depth * t.perLine

/-- The P-cell that a descriptor names for a plot; the Reeve's plot has one port only (R452). -/
def descPort (p : Plot) (d : List Dword) : Nat :=
  let w := (d[6]?).getD 0
  bif p.role == .reeve then 384 else portKeyOf p.die (field w 15 14) (field w 13 9)

/-- The handle of a context (R288). -/
def streamHandle (gen port ctx : Nat) : Nat :=
  let q := bif port == 384 then 0 else port
  at_ gen 24 + at_ (q / 96) 22 + at_ (q % 96 / 24) 20 + at_ (q % 24) 15 + at_ ctx 11

/-- The key of the path along which a RUN stream delivers, beside the routes of the image: each open of a context has its own. -/
def streamRoute (port ctx opens : Nat) : Nat := 2 ^ 20 + 2 ^ 14 * opens + 16 * port + ctx

/-! ### AG.OPEN (R288) -/

/-- Whether an area of a kind of an S-cell holds a run of bytes. -/
def inArea (p : Plot) (kind scell off size : Nat) : Bool :=
  (areasOf p).any (fun a => a.kind == kind && a.scell == scell && a.off.ble off && (off + size).ble (a.off + a.size))

/-- Whether a slot's form reads a port in its block. -/
def slotReads (b : Block) (slot port : Nat) : Bool :=
  match b.words[slot]? with
  | none => false
  | some w => match decode w with
    | .ok i => (mustRead i ||| mayRead i).testBit port
    | .error _ => false

/-- The breach of a descriptor's field rules: the first word in breach, and its lowest offending bit (R63, R277, R288). The side, the block
and the slot of a RUN stream are looked for once what they rest on is right. -/
def descFault? (p : Plot) (d : List Dword) : Option (Nat × Nat) :=
  let w := fun (i : Nat) => ((d[i]?).getD 0 : Dword)
  let mode := field (w 5) 63 62
  let esz := elemBytes (w 0)
  let sc := descScell d
  let side := field (w 5) 47 46
  let target := neighbour? p sc side
  let isS := (sc % 64 + sc / 64) % 2 == 1 && (sc % 64).blt p.w && (sc / 64).blt p.h
  let blk := target.bind (fun cell => blockAt? p cell (field (w 5) 45 42))
  let cons : Cons := (w 5).extractLsb' 33 9
  let code := field (w 0) 62 60
  let w0 := [badUnless? (code.ble 4 && (mode != 0 || code.ble 3)) 60, badZero? (w 0) 59 57,
    bif code.ble 4 then lowestFrom (field (w 0) 56 0 % esz) 0 6 else none]
  let w5 := [badUnless? (mode != 3) 62, badZero? (w 5) 61 60, badZero? (w 5) 32 32] ++
    (match mode with
      | 0 => [badZero? (w 5) 31 0, badUnless? isS 48, badUnless? (!isS || target.isSome) 46, badUnless? (!isS || target.isNone || blk.isSome) 42,
          badUnless? (!isNone cons && (match blk with
            | some b => (consSlot cons).blt b.words.length && slotReads b (consSlot cons) (consPort cons)
            | none => true)) 33]
      | 1 => [badZero? (w 5) 59 0]
      | 2 => [badZero? (w 5) 47 33, badZero? (w 5) 5 0,
          badUnless? (field (w 5) 31 18 != 0 && inArea p 0 sc (field (w 5) 17 0) (field (w 5) 31 18 * 64)) 0]
      | _ => [])
  let w6 := [badZero? (w 6) 23 16, badUnless? ((field (w 6) 13 9).blt 24 && granted p (descPort p d)) 9,
    bif mode == 2 then badZero? (w 6) 63 24 else none]
  let wlg := field (w 7) 55 48
  let w7 := [badUnless? (wlg == 0 || (Nat.ble 16 wlg && wlg.ble 22)) 48, bif mode == 0 then none else badZero? (w 7) 47 24,
    badZero? (w 7) 23 0]
  [(0, w0), (5, w5), (6, w6), (7, w7)].findSome? (fun (i, cs) => (lowestBit cs).map (fun b => (i, b)))

/-- Whether a pattern lies wholly in a region of a VI (R288). -/
def patternInRegion (vi : Vi) (d : List Dword) : Bool :=
  match Tab.at? vi.regions (field ((d[6]?).getD 0) 7 0) with
  | none => false
  | some (b, n) =>
    let ends := ((descCounts d).zip (descStrides d)).map (fun (k, st) => ((k : Int) - 1) * st)
    let base : Int := field ((d[0]?).getD 0) 56 0
    let lo := ends.foldl (fun a x => if x < 0 then a + x else a) base
    let hi := ends.foldl (fun a x => if 0 < x then a + x else a) base + elemBytes ((d[0]?).getD 0)
    decide ((b : Int) ≤ lo) && decide (hi ≤ (b : Int) + n)

/-- The first free context of a P-cell that a plot may take: its grant has one left, the lines it asks, and for PUSH the
S-cell a schedule (R257, R288). -/
def freeContext? (s : State) (plot : Nat) (p : Plot) (d : List Dword) : Option Nat :=
  let port := descPort p d
  let mine := (portOf s port).ctxs.filter (fun (_, t) => t.plot == plot)
  let (ctx, lines) := bif p.role == .reeve then (1, 16) else grantOf p port
  let used := mine.foldl (fun n (_, t) => n + field (t.w 7) 63 56 + 1) 0
  let push := field ((d[5]?).getD 0) 63 62 == 2
  let scheds := s.pcells.foldl (fun n (_, q) => n + (q.ctxs.filter (fun (_, t) =>
    t.plot == plot && t.mode == 2 && descScell t.desc == descScell d)).length) 0
  bif ctx.ble mine.length || lines.blt (used + field ((d[7]?).getD 0) 63 56 + 1) || (push && Nat.ble 8 scheds) then none
  else Tab.freeFrom (portOf s port).ctxs 16 0

/-- The window that an open is given (R303): none where the descriptor asks none, the VI has no partition, the partition is
quiesced, or quota or space is short. -/
def windowFor? (s : State) (v : Nat) (wlg : Nat) : Option (List Nat × Nat) :=
  match viPart? s v with
  | none => none
  | some p =>
    let lg := field (partOf s p) 53 51
    let base := field (partOf s p) 50 45
    let slices := (List.range (2 ^ lg)).map (base + ·)
    let share := 2 ^ wlg / 2 ^ lg
    let q := (viOf s v).wquota
    bif wlg == 0 || viQuiesced s v || (field q 15 0).blt (field q 47 32 + 2 ^ (wlg - 16)) ||
        slices.any (fun n => Nat.blt (2 ^ 24) ((sliceOf s n).window + share)) then none
    else some (slices, share)

/-- USED of a VI's window quota changed (R303). -/
def setWindowUsed (w : Dword) (n : Nat) : Dword := dw (at_ n 32 + field w 15 0)

/-- A window taken. -/
def takeWindow (s : State) (v wlg : Nat) (w : List Nat × Nat) : State :=
  let s := w.1.foldl (fun s n => onSlice s n (fun sl => { sl with window := sl.window + w.2 })) s
  onVi s v (fun vi => { vi with wquota := setWindowUsed vi.wquota (field vi.wquota 47 32 + 2 ^ (wlg - 16)) })

/-- A window given back, in the slices that gave it. -/
def freeWindow (s : State) (t : Stream) : State :=
  bif t.windowed then
    let s := t.givers.foldl (fun s n => onSlice s n (fun sl => { sl with window := sl.window - t.share })) s
    onVi s t.vi (fun vi => { vi with wquota := setWindowUsed vi.wquota (field vi.wquota 47 32 - 2 ^ (field (t.w 7) 55 48 - 16)) })
  else s

/-- A stream with the window that it is given, or none. -/
def Stream.withWindow (t : Stream) (win : Option (List Nat × Nat)) : Stream :=
  { t with windowed := win.isSome, givers := (win.map (·.1)).getD [], share := (win.map (·.2)).getD 0, head := 0, tail := 0, wlines := [] }

/-- A context opened for a descriptor, with no window. -/
def newStream (plot v addr gen handle route : Nat) (d : List Dword) (feat6 : Bool) : Stream :=
  { plot := plot, vi := v, desc := d, addr := addr, gen := gen, handle := handle, route := route, asked := 0, slines := [], next := 0,
    queue := [], accepted := 0, sent := 0, performed := 0, prod := 0, cons := 0, granted := 0, waiter := none, windowed := false, givers := [],
    share := 0, head := 0, tail := 0, wlines := [], frozen := false, closing := false, feat6 := feat6, ended := false }

/-- The path of a RUN stream added to its plot. -/
def addStreamRoute (p : Plot) (route : Nat) (d : List Dword) : Plot :=
  bif field ((d[5]?).getD 0) 63 62 == 0 && !((d[0]?).getD 0).getLsbD 63 then
    match neighbour? p (descScell d) (field ((d[5]?).getD 0) 47 46) with
    | some cell => { p with routes := Tab.set p.routes route { dst := cell, hops := [] } }
    | none => p
  else p

/-- AG.OPEN (R288). -/
def execAgOpen (n : BitVec 4) (c1 c0 : Cons) (s : State) : Outcome :=
  fireOnce s c1 c0 .s32 (fun c e =>
    let va := vaOf (c.k2 n.toNat)
    match cellRead s c e 3 va 8 with
    | .stop r => r
    | .ok s d =>
      if va % 64 ≠ 0 then .trap .align (c.tag e) (infoMem 3 0 va)
      else match descFault? c.plot d with
        | some (w, b) => rsvHdr c e w b
        | none =>
          if ((d[6]?).getD 0).getLsbD 8 ∧ patternInRegion (viOf s c.plot.vi) d = false then
            .trap .access (c.tag e) (infoMem 3 1 (field ((d[0]?).getD 0) 56 0))
          else match freeContext? s c.f.plot c.plot d with
            | none => .stall s
            | some ctx =>
              let port := descPort c.plot d
              let wlg := field ((d[7]?).getD 0) 55 48
              let win := windowFor? s c.plot.vi wlg
              let s := match win with
                | none => s
                | some w => takeWindow s c.plot.vi wlg w
              let opens := Tab.atD (portOf s port).gens ctx 0
              let h := streamHandle (opens % 256) port ctx
              let route := streamRoute port ctx opens
              let t := (newStream c.f.plot c.plot.vi va (opens % 256) h route d (c.blk.feat.getLsbD 6)).withWindow win
              let s := onPort s port (fun p => { p with ctxs := Tab.set p.ctxs ctx t, gens := Tab.set p.gens ctx (opens + 1) })
              let s := onPlot s c.f.plot (fun p => addStreamRoute p route d)
              .done s (scalarOut c1 c0 .s32 (dw h)))

/-! ### Handles -/

/-- The open streams of a plot, by P-cell and context. -/
def streamsOf (s : State) (key : Nat) : List (Nat × Nat × Stream) :=
  s.pcells.flatMap (fun (port, p) => (p.ctxs.filter (fun (_, t) => t.plot == key)).map (fun (ctx, t) => (port, ctx, t)))

/-- The stream of a firing's handle; none where the handle is stale or names no open context of the plot (R288). A stream
keeps its handle over an image, whatever context it is given then (R289). -/
def streamOf? (s : State) (c : Ctx) (h : Nat) : Option (Nat × Nat × Stream) :=
  (streamsOf s c.f.plot).find? (fun (_, _, t) => t.handle == h)

/-- ACCESS with WHY 4: a stale handle or a wrong mode. -/
def staleStream (c : Ctx) (e : Nat) : Res := .trap .access (c.tag e) (infoMem 3 4 0)

/-! ### Windows (R304, R305) -/

/-- How a window stands to an access: it serves it at an offset; it does not; it waits for room to write its lines back (R292). -/
inductive Windowed where
  | at_ (s : State) (off : Nat)
  | past
  | wait (s : State)
  deriving DecidableEq, Repr

/-- The offset of an address's line in a stream's window, where the window serves it; its head and tail advance once the lines that leave it
have been written back. -/
def windowAt (s : State) (port ctx va : Nat) (t : Stream) : Windowed :=
  let vb := field (t.w 0) 56 0 / 128 * 128
  bif !t.windowed || va.blt vb || (va / 128 * 128 - vb).blt t.tail then .past
  else
    let o := va / 128 * 128 - vb
    bif o.blt t.head then .at_ s o
    else
      let head := o + 128
      let size := 2 ^ field (t.w 7) 55 48
      let tail := bif (t.tail + size).blt head then head - size else t.tail
      let s := retireLines s port ctx tail t
      bif (Tab.at? (portOf s port).ctxs ctx).any (fun t => t.wlines.any (fun x => x.1.blt tail)) then .wait s
      else .at_ (onStream s port ctx (fun t => { t with head := head, tail := tail })) o

/-! ### The generators (R274, R278) -/

/-- What the access of a stream element meets: an address; a wait for a walk or the Reeve; a fault's cause of R274. -/
inductive StreamWay where
  | go (s : State) (pa : Nat)
  | wait (s : State)
  | fault (s : State) (cause : Nat)
  deriving DecidableEq, Repr

/-- A stream as what makes an access for an ordinal. -/
def Stream.via (t : Stream) (port ord : Nat) : Via :=
  { port := port, vi := t.vi, plot := some t.plot, src := 3, firing := none, stream := some (t.handle, ord, t.addr), need := [] }

/-- The access of a stream element through its P-cell (R264, R268). -/
def streamWay (s : State) (port : Nat) (t : Stream) (ord : Nat) : StreamWay :=
  let va := t.va ord
  let need := bif t.writes then Need.write else Need.read
  if va % t.esz ≠ 0 then .fault s 8
  else if t.writes ∧ ownerAllows (viOf s t.vi) port va = none then .fault s 5
  else match translate s (t.via port ord) va need with
    | .fail s (.xlate why) => .fault s why
    | .fail s (.migrate _ _ _) | .miss s => .wait s
    | .ok s pa =>
      if paRemote s pa ∧ (t.feat6 = false ∨ (viOf s t.vi).featm.getLsbD 6 = true) then .fault s 7
      else if paReserved s pa then .fault s 9
      else .go s pa

/-- A stream frozen by a fault, with its record (R274). -/
def streamFault (s : State) (port ctx : Nat) (t : Stream) (cause va ord : Nat) : State :=
  let s := onStream s port ctx (fun t => { t with frozen := true })
  putFault s t.vi 0 cause t.handle va ord t.addr

/-- How many ordinals from one on a decoupling line takes: those whose elements lie in its line, aligned. -/
def Stream.lineCount (t : Stream) (o : Nat) : Nat :=
  ((List.range t.perLine).takeWhile (fun i => (o + i).blt t.total && t.va (o + i) / 128 == t.va o / 128 && t.va (o + i) % t.esz == 0)).length

/-- Whether the generator of a read stream asks for a line: one is free, and those before it have come, so that the fetches are performed in
ordinal order (R278, R279, R320). -/
def Stream.asks (t : Stream) : Bool :=
  !t.frozen && !t.closing && t.asked.blt t.total && t.slines.length.blt t.depth && t.slines.all (fun l => l.data.isSome)

/-- The next line of a read stream asked for: at its home slice, or where the window holds it, from the slice of the window line (R278, R303,
R304). -/
def askLine (s : State) (port ctx : Nat) (t : Stream) : State :=
  let o := t.asked
  match streamWay s port t o with
  | .wait s => s
  | .fault s cause => streamFault s port ctx t cause (t.va o) o
  | .go s pa =>
    let line : SLine := { ord := o, count := t.lineCount o, line := pa / 128, win := none, data := none, left := t.lineCount o }
    let put := fun (s : State) (l : SLine) => onStream s port ctx (fun t => { t with asked := o + l.count, slines := t.slines ++ [l] })
    let send := fun (s : State) (l : SLine) =>
      bif portRoom s port then sendReq (put s l) port t.vi (pa / 128) (.streamRead ctx t.handle o) else s
    match windowAt s port ctx (t.va o) t with
    | .wait s => s
    | .past => send s line
    | .at_ s off =>
      match (Tab.at? (portOf s port).ctxs ctx).bind (fun t => Tab.at? t.wlines off) with
      | none => send s { line with win := some off }
      | some x => put (carry s t.vi 128 (t.windowDie off) (dieOf? port)) { line with win := some off, data := some (x.data, x.poison) }

/-- The line that holds the next element to deliver, once it has come. -/
def Stream.ready? (t : Stream) : Option (SLine × Line × Bool) :=
  match t.slines.find? (fun l => l.ord.ble t.next && t.next.blt (l.ord + l.count)) with
  | some l => l.data.map (fun (d, bad) => (l, d, bad))
  | none => none

/-- The element of an ordinal from the bytes of its line: null where the line is poisoned (R430). The value of a 64-byte element, which is
longer than an operand element, is not stated. -/
def Stream.elemOf (t : Stream) (ctr o : Nat) (d : Line) (bad : Bool) : Elem :=
  bif bad then .null
  else .val (bif t.esz == 64 then Config.freeWord (ctr + o) else dw (lineVal d (t.va o % 128) t.esz))

/-- The first tag beyond the run of a tag in a target block whose innermost bound is `inner` (R99, R278). -/
def runEnd (inner tag : Nat) : Nat :=
  bif inner == 0 then (tag / 32 + 1) * 32
  else tag / inner * inner + Nat.min ((tag % inner / 32 + 1) * 32) inner

/-- A token of a RUN stream on its path to the target slot: elements from an ordinal on (R278). -/
def runToken (t : Stream) (o : Nat) (es : Tab Elem) : Token :=
  let cons : Cons := (t.w 5).extractLsb' 33 9
  { route := t.route, sender := 0, bidx := field (t.w 5) 45 42, slot := consSlot cons, port := consPort cons,
    tag := t.tbase + o, eos := false, mark := false, kind := runKind (t.esz == 8), left := 0, elems := es }

/-- The EOS token after the last element of a RUN stream. -/
def runEos (t : Stream) : Token := { runToken t t.total [] with eos := true }

/-- A PUSH ring's bytes in near space. -/
def ringOff (t : Stream) (pos : Nat) : Nat := field (t.w 5) 17 0 + pos % Nat.max 1 t.ring

/-- Whether a stream's next token can go: none that it has sent waits still to be taken in by its cell, so that back-pressure freezes it (R276,
R279). -/
def Stream.free (s : State) (t : Stream) : Bool :=
  t.mode != 0 || !(Tab.at? s.plots t.plot).any (fun p => p.tokens.any (fun x => x.route == t.route))

/-- The elements of a ready line that can be delivered at once: in RUN those of one run, in PULL all, in PUSH those for which the ring has
room. -/
def Stream.batch (t : Stream) (l : SLine) : Nat :=
  let rest := l.ord + l.count - t.next
  match t.mode with
  | 0 => Nat.min rest (runEnd (field (t.w 7) 47 24) (t.tbase + t.next) - (t.tbase + t.next))
  | 1 => rest
  | _ => Nat.min rest ((t.cons + t.ring - t.prod) / Nat.max 1 t.esz)

/-- A stream without the lines that are released (R279): in RUN once sent, in PULL once taken, in PUSH once freed. -/
def Stream.release (t : Stream) : Stream :=
  { t with slines := t.slines.filter (fun l => match t.mode with
    | 0 => t.next.blt (l.ord + l.count)
    | 1 => l.left != 0
    | _ => t.cons.blt ((l.ord + l.count) * t.esz)) }

/-- The next elements of a read stream delivered: as a run token, into the queue, or into the ring (R278); POISONCNT counts those of a
poisoned line (R430). -/
def deliverNext (s : State) (port ctx : Nat) (t : Stream) : State :=
  match t.ready? with
  | none => s
  | some (l, d, bad) =>
    let n := t.batch l
    let es := (List.range n).map (fun i => (i, t.elemOf s.ctr (t.next + i) d bad))
    let s := { s with ctr := s.ctr + t.next + n }
    let s := bif bad then (List.range n).foldl (fun s _ => onVi s t.vi (fun vi => { vi with poisoncnt := satInc vi.poisoncnt })) s else s
    let moved := fun t : Stream => Stream.release { t with next := t.next + n }
    match t.mode with
    | 0 =>
      onPlot (onStream s port ctx moved) t.plot (fun p => { p with tokens := p.tokens ++ [runToken t t.next es] ++
        (bif t.next + n == t.total then [runEos t] else []) })
    | 1 => onStream s port ctx (fun t => moved { t with queue := es.foldl (fun q (i, x) => Tab.set q (t.next + i) (t.next + i, x)) t.queue })
    | _ =>
      let bytes := fun (x : Elem) => match x with
        | .val v => v.toNat
        | .null => 0
      let s := onNear s t.plot (descScell t.desc) (fun m => es.foldl (fun m (i, x) =>
        bif t.esz == 64 then writeN m 64 (ringOff t (t.prod + 64 * i)) (bif bad then 0 else lineVal d (t.va (t.next + i) % 128) 64)
        else writeN m t.esz (ringOff t (t.prod + t.esz * i)) (bytes x)) m)
      onStream s port ctx (fun t => moved { t with prod := t.prod + n * t.esz })

/-- A step of the generator of a read stream: it delivers what has come, where that can go, and asks for the next line. -/
def runReader (s : State) (port ctx : Nat) (t : Stream) : State :=
  let s := bif t.free s then deliverNext s port ctx t else s
  match Tab.at? (portOf s port).ctxs ctx with
  | some t => bif t.asks then askLine s port ctx t else s
  | none => s

/-- The raw reference of a place in the near space of an S-cell, as a cell beside it names it (R212); a cell that does not
adjoin the S-cell has no such reference, and its value is not stated. -/
def rawRef (s : State) (p : Plot) (cell scell off : Nat) : Dword :=
  match [0, 1, 2, 3].find? (fun side => neighbour? p cell side == some scell) with
  | some side => dw (at_ side 18 + off % 2 ^ 18)
  | none => Config.freeWord s.ctr

/-- An M.PUSH that waits is answered once its bytes are free (R289). -/
def answerPush (s : State) (port ctx : Nat) : State :=
  match Tab.at? (portOf s port).ctxs ctx with
  | none => s
  | some t => match t.waiter with
    | none => s
    | some (f, n) =>
      bif (t.prod + n).ble (t.cons + t.ring) then
        match Tab.at? s.plots f.plot with
        | none => s
        | some p =>
          let s := onStream s port ctx (fun t => { t with waiter := none })
          finishScalar s f .s64 (rawRef s p f.cell (descScell t.desc) (ringOff t t.prod))
      else s

/-- 64 bytes whose value the spec does not state: eight free words. -/
def freeUnit (s : State) : State × Nat :=
  ({ s with ctr := s.ctr + 8 }, (List.range 8).foldl (fun a i => a * 2 ^ 64 + (Config.freeWord (s.ctr + i)).toNat) 0)

/-- The next store of a write stream with its value: from the queue in order of acceptance, or from the ring; none where there is none. An
operand element holds less than a 64-byte element, whose value the spec does not state. -/
def Stream.nextStore? (t : Stream) (near : Memory) (big : Nat) : Option (Nat × Nat) :=
  bif t.mode == 2 then
    bif (t.cons + t.esz).ble t.prod && t.next.blt t.total then some (t.next, readN near t.esz (ringOff t t.cons)) else none
  else match Tab.at? t.queue t.next with
    | some (o, .val v) => bif o.blt t.total then some (o, bif t.esz == 64 then big else v.toNat % 2 ^ (8 * t.esz)) else none
    | _ => none

/-- A store of a stream into its window line at an offset. -/
def Stream.putWindow (t : Stream) (off line : Nat) (d : Line) (mask : BitVec 128) : Stream :=
  let l := Tab.atD t.wlines off { line := line, data := 0, side := 0, poison := false, mask := 0, n := 0 }
  { t with wlines := Tab.set t.wlines off { l with data := mergeLine l.data d mask, mask := l.mask ||| mask, n := l.n + 1 } }

/-- The next store of a write stream: into its window, whose line's slice its bytes go to (R303), or to the home slice once every store before it is performed (R320). One that faults
is recorded once those before it are performed (R274). -/
def storeNext (s : State) (port ctx : Nat) (t : Stream) : State :=
  let (s, big) := freeUnit s
  let near := match Tab.at? s.plots t.plot with
    | none => ([] : Memory)
    | some p => nearOf p (descScell t.desc)
  match t.nextStore? near big with
  | none => s
  | some (o, val) =>
    let va := t.va o
    match streamWay s port t o with
    | .wait s => s
    | .fault s cause => bif t.performed == t.next then streamFault s port ctx t cause va o else flushWindow s port ctx
    | .go s pa =>
      let d : Line := BitVec.ofNat 1024 (val * 2 ^ (8 * (pa % 128)))
      let mask := maskAt (pa % 128) t.esz
      let took := fun t : Stream =>
        { t with next := t.next + 1, queue := Tab.del t.queue t.next, cons := bif t.mode == 2 then t.cons + t.esz else t.cons }
      match windowAt s port ctx va t with
      | .wait s => s
      | .at_ s off =>
        let s := carry s t.vi t.esz (dieOf? port) (t.windowDie off)
        answerPush (onStream s port ctx (fun t => (took t).putWindow off (pa / 128) d mask)) port ctx
      | .past =>
        bif t.sent != 0 || !portRoom s port then s
        else
          let s := reachPort s port t.vi va (pa / 128) (.streamWrite ctx t.handle 1 d mask (dieOf? port))
          answerPush (onStream s port ctx (fun t => { took t with sent := t.sent + 1 })) port ctx

/-- Whether a stream's generator has something to do. -/
def Stream.canRun (s : State) (t : Stream) : Bool :=
  bif t.writes then
    !t.frozen && (bif t.mode == 2 then (t.cons + t.esz).ble t.prod && t.next.blt t.total else Tab.has t.queue t.next)
  else (match t.ready? with
    | some (l, _, _) => !t.closing && t.free s && t.batch l != 0
    | none => false) || t.asks

/-- STREAM_FETCH (R278): the generator of a context fetches its next ordinal, or performs its next store; a frozen or
stopping plot's does not deliver (R423, R424). -/
def execStreamFetch (port ctx : Nat) (s : State) : Outcome :=
  match Tab.at? (portOf s port).ctxs ctx with
  | none => .next s
  | some t =>
    let still := match Tab.at? s.plots t.plot with
      | none => true
      | some p => (p.frozen || p.stop != .none) && !t.writes
    bif still || !t.canRun s then .next s
    else .next (bif t.writes then storeNext s port ctx t else runReader s port ctx t)

/-! ### The forms -/

/-- SRD (R289): the run's elements of a PULL read stream, null outside its ordinals. -/
def execSrd (c1 c0 : Cons) (s : State) : Outcome :=
  fireOnce s c1 c0 .r32 (fun c e =>
    match streamOf? s c (c.low 0 e).toNat with
    | none => staleStream c e
    | some (port, ctx, t) =>
      if t.writes ∨ t.mode ≠ 1 then staleStream c e
      else
        let tags := (elemsOf c.inst.len).map (fun i => (i, c.tag i))
        let inside := tags.filter (fun (_, g) => t.tbase.ble g && (g - t.tbase).blt t.total)
        if inside.any (fun (_, g) => !Tab.has t.queue (g - t.tbase)) then .stall s
        else
          let es : Tab Elem := tags.map (fun (i, g) =>
            (i, bif t.tbase.ble g then
                (match Tab.at? t.queue (g - t.tbase) with
                | some (_, x) => x
                | none => .null)
              else .null))
          let taken := fun (o : Nat) => inside.any (fun (_, g) => g - t.tbase == o)
          let take := fun t : Stream => Stream.release { t with
            queue := t.queue.filter (fun (o, _) => !taken o),
            slines := t.slines.map (fun l => { l with left := l.left - ((List.range l.count).filter (fun i => taken (l.ord + i))).length }) }
          let s := onStream s port ctx take
          .done s (both c1 c0 (runKind (t.esz == 8)) es))

/-- SWR of one element (R289). -/
def swrElem (s : State) (c : Ctx) (e : Nat) : ElemRes :=
  match streamOf? s c (c.low 0 e).toNat with
  | none => .trap .access (c.tag e) (infoMem 3 4 0)
  | some (port, ctx, t) =>
    let g := c.tag e
    if t.writes = false ∨ t.mode = 2 ∨ t.closing then .trap .access (c.tag e) (infoMem 3 4 0)
    else if g < t.tbase ∨ t.total ≤ g - t.tbase then .trap .access g (infoMem 3 5 0)
    else if t.cap ≤ t.queue.length then .wait s
    else
      let put := fun t : Stream => { t with queue := Tab.set t.queue t.accepted (g - t.tbase, .val (c.wide 1 e)), accepted := t.accepted + 1 }
      .done (onStream s port ctx put) none

/-- SWR (R289). -/
def execSwr (s : State) : Outcome := fireEach s 2 0x1FF#9 0x1FF#9 .r32 swrElem

/-- The byte count of M.ACCEPT and M.PUSH where it breaks no rule, and the ring's end (R289). -/
def ringFault? (t : Stream) (pos n : Nat) : Option Nat :=
  if n = 0 ∨ n % 64 ≠ 0 then some 1
  else if t.ring < pos % Nat.max 1 t.ring + n then some 2
  else none

/-- M.ACCEPT (R289): waits until the bytes past the consumer pointer have landed, frees the grant before. -/
def execMAccept (c1 c0 : Cons) (s : State) : Outcome :=
  fireOnce s c1 c0 .s64 (fun c e =>
    match streamOf? s c (c.low 0 e).toNat with
    | none => staleStream c e
    | some (port, ctx, t) =>
      let n := (c.low 1 e).toNat
      let pos := t.cons + t.granted
      if t.writes ∨ t.mode ≠ 2 then staleStream c e
      else match ringFault? t pos n with
        | some why => .trap .align (c.tag e) (infoMem 3 why 0)
        | none =>
          if t.prod < pos + n then .stall s
          else
            let s := onStream s port ctx (fun t => Stream.release { t with cons := pos, granted := n })
            .done s (scalarOut c1 c0 .s64 (rawRef s c.plot c.f.cell (descScell t.desc) (ringOff t pos))))

/-- M.PUSH (R289): commits bytes to the stream, and waits until the next ones are free. -/
def execMPush (c1 c0 : Cons) (s : State) : Outcome :=
  fireOnce s c1 c0 .s64 (fun c e =>
    match streamOf? s c (c.low 0 e).toNat with
    | none => staleStream c e
    | some (port, ctx, t) =>
      let n := (c.low 1 e).toNat
      let pos := t.prod + n
      if t.writes = false ∨ t.mode ≠ 2 ∨ t.closing then staleStream c e
      else match ringFault? t pos n with
        | some why => .trap .align (c.tag e) (infoMem 3 why 0)
        | none =>
          if t.waiter.isSome then .stall s
          else
            let s := onStream s port ctx (fun t => { t with prod := pos, accepted := pos / Nat.max 1 t.esz })
            if pos + n ≤ t.cons + t.ring then
              .done s (scalarOut c1 c0 .s64 (rawRef s c.plot c.f.cell (descScell t.desc) (ringOff t pos)))
            else .issued (onStream s port ctx (fun t => { t with waiter := some (c.f, n) })))

/-- The first `n` stores that a write stream has accepted are performed, its window written back once they are taken; with a window, which
performs them in no order, those taken since are too. -/
def settleStream (s : State) (port ctx n : Nat) (t : Stream) : State × Bool :=
  let s := bif n.ble t.next then flushWindow s port ctx else s
  match Tab.at? (portOf s port).ctxs ctx with
  | none => (s, true)
  | some t => (s, n.ble t.performed && (!t.windowed || t.next.ble t.performed))

/-- What a firing that has issued and waits noted when it issued. -/
def noted? (s : State) (c : Ctx) : Option Nat :=
  (s.waiting.find? (fun w => w.firing == c.f && w.run == c.inst.run)).map (·.note)

/-- WAITQ (R287): every store of a write stream that it had accepted when WAITQ issued is performed. -/
def execWaitq (scope : BitVec 3) (c1 c0 : Cons) (s : State) : Outcome :=
  fireOnce s c1 c0 .s64 (fun c e =>
    match streamOf? s c (c.low 0 e).toNat with
    | none => staleStream c e
    | some (port, ctx, t) =>
      if t.writes = false then staleStream c e
      else
        let n := (noted? s c).getD t.accepted
        let (s, ok) := settleStream s port ctx n t
        if ok then .done (dropHeld (reachScope s c.plot.vi scope) c.f.plot) (scalarOut c1 c0 .s64 (dw n))
        else .stall (noteWait s c.f c.inst.run n))

/-- The elements that a stream has moved. -/
def Stream.moved (t : Stream) : Nat := bif t.writes then t.performed else t.next - t.queue.length

/-- A context freed, with its window, and with its path where nothing is on it any more. -/
def closeStream (s : State) (port ctx : Nat) (t : Stream) : State :=
  let s := freeWindow s t
  let s := onPort s port (fun p => { p with ctxs := Tab.del p.ctxs ctx })
  onPlot s t.plot (fun p => bif p.tokens.any (fun x => x.route == t.route) then p else { p with routes := Tab.del p.routes t.route })

/-- AG.CLOSE (R289): the stream stops, its accepted stores are performed, the context is freed. -/
def execAgClose (c1 c0 : Cons) (s : State) : Outcome :=
  fireOnce s c1 c0 .s64 (fun c e =>
    match streamOf? s c (c.low 0 e).toNat with
    | none => staleStream c e
    | some (port, ctx, t) =>
      let s := onStream s port ctx (fun t => { t with closing := true })
      let (s, ok) := bif t.writes then settleStream s port ctx t.accepted t else (s, true)
      if ok then .done (closeStream (dropHeld s c.f.plot) port ctx t) (scalarOut c1 c0 .s64 (dw ((bif t.writes then t.accepted else t.moved))))
      else .stall s)

/-- A frozen stream whose handle is written to STRESUME goes on at the faulting ordinal (R274). -/
def resumeStream (s : State) (v h : Nat) : State :=
  { s with pcells := s.pcells.map (fun (port, p) => (port, { p with ctxs := p.ctxs.map (fun (ctx, t) =>
      (ctx, bif t.vi == v && t.frozen && t.handle == h then { t with frozen := false } else t)) })) }

end Sys2Proof.Machine
end

