-- ==== Sys2Proof/Machine/Groups.lean ====
section
/-!
DEFINITION. Sys2Proof/Machine/Groups.lean: groups, endpoints, the tree of counts, pounds, and the occurrences that move
messages and counts (R347-R375, R403, R405).
-/
namespace Sys2Proof.Machine

/-! ### Handles (R347-R349) -/

/-- The key of a group. -/
def groupKey (v index : Nat) : Nat := 1024 * v + index

/-- The generation of a group table entry. -/
def groupGen (s : State) (key : Nat) : Nat := Tab.atD s.groupGens key 1

/-- The handle of a group. -/
def groupHandle (key gen : Nat) : Word := BitVec.ofNat 32 (at_ (key / 1024) 23 + at_ (key % 1024) 11 + gen)

/-- TINFO of R367. -/
def infoGroup (h : Word) (why : Nat) : Dword := dw (at_ h.toNat 32 + at_ why 28)

/-- The trap of a group form. -/
def groupTrap (c : Ctx) (e : Nat) (cause : Cause) (h : Word) (why : Nat) : Res := .trap cause (c.tag e) (infoGroup h why)

/-- The group that a handle names for a firing, after the checks of R349. -/
def withGroup (s : State) (c : Ctx) (e : Nat) (h : Word) (k : Nat → Group → Res) : Res :=
  let v := field h 31 23
  let i := field h 22 11
  if v ≠ c.plot.vi then groupTrap c e .gperm h 0
  else if 1024 ≤ i then groupTrap c e .gdead h 1
  else match Tab.at? s.groups (groupKey v i) with
    | none => groupTrap c e .gdead h 1
    | some g => if g.gen ≠ field h 10 0 then groupTrap c e .gdead h 0 else k (groupKey v i) g

/-- The handle of a form: constant word kn, or the operand at a port. -/
def handleOf (c : Ctx) (e : Nat) (hk : Bool) (n port : Nat) : Word := bif hk then c.k n else c.low port e

/-- A change of a group. -/
def onGroup (s : State) (key : Nat) (f : Group → Group) : State := { s with groups := Tab.upd s.groups key f }

/-! ### The tree (R353) -/

/-- The hub's node. -/
def hubNode : Nat := 0
/-- The node of a die root. -/
def rootNode (die : Nat) : Nat := 1 + die
/-- A quadrant node. -/
def quadNode (die q : Nat) : Nat := 16 + 16 * die + q
/-- The node of a plot's gate, which names its quadrant node. -/
def gateNode (plot die q : Nat) : Nat := 1024 + 64 * plot + 16 * die + q
/-- The plot of a gate. -/
def gatePlot (n : Nat) : Nat := (n - 1024) / 64

/-- The quadrant of a site (R9). -/
def quadOf (x y : Nat) : Nat := y / 12 * 4 + x / 12

/-- The parent of a node. -/
def parentNode (n : Nat) : Nat :=
  if 1024 ≤ n then 16 + (n - 1024) % 64
  else if 16 ≤ n then rootNode ((n - 16) / 16)
  else hubNode

/-- How its parent numbers a node: a gate by its plot, a quadrant node and a die root by their numbers. -/
def childOf (n : Nat) : Nat := if 1024 ≤ n then gatePlot n else if 16 ≤ n then (n - 16) % 16 else n - 1

/-- The child node of a number. -/
def childNode (n c : Nat) : Nat :=
  if n = 0 then rootNode c else if n < 16 then quadNode (n - 1) c else 1024 + 64 * c + (n - 16)

/-- The level of a node, the hub highest. -/
def levelOf (n : Nat) : Nat := if 1024 ≤ n then 0 else if 16 ≤ n then 1 else if 1 ≤ n then 2 else 3

/-- The gate of a plot. -/
def gateOf (p : Plot) (plot : Nat) : Nat := gateNode plot p.die (quadOf p.x p.y)

/-- The nodes from a plot's gate up to the hub. -/
def pathOf (p : Plot) (plot : Nat) : List Nat := [gateNode plot p.die (quadOf p.x p.y), quadNode p.die (quadOf p.x p.y), rootNode p.die, hubNode]

/-- The order of a child at its node: plot gates by origin row and then column, the rest by number. -/
def childRank (s : State) (n c : Nat) : Nat :=
  if 16 ≤ n ∧ n < 1024 then
    match Tab.at? s.plots c with
    | some p => 64 * p.y + p.x
    | none => 4096
  else c

/-- The count of a child at a node's entry for a group. -/
def countAt (g : Group) (n c : Nat) : Int :=
  match Tab.at? g.nodes n with
  | none => 0
  | some e => Tab.atD e.counts c 0

/-- The lowest child of a node with a positive count; none where a plot's gate bounces what arrives (R361). -/
def positiveChild? (s : State) (g : Group) (n : Nat) : Option Nat :=
  let closed := if 1024 ≤ n then
      match Tab.at? s.plots (gatePlot n) with
      | some p => p.withdrawn
      | none => true
    else false
  match Tab.at? g.nodes n with
  | none => none
  | some e =>
    if closed then none
    else (e.counts.filter (fun (_, k) => decide (0 < k))).foldl (fun best (c, _) => match best with
      | none => some c
      | some b => if childRank s n c < childRank s n b then some c else some b) none

/-- A count changed, where the node has an entry. -/
def addCount (g : Group) (n c : Nat) (d : Int) : Group :=
  { g with nodes := Tab.upd g.nodes n (fun e => { e with counts := Tab.updD e.counts c 0 (· + d) }) }

/-- A count changed by what was sent or steered at a moment: a node that has made its entry since takes none of it. -/
def addCountSince (g : Group) (n c since : Nat) (d : Int) : Group :=
  bif (Tab.at? g.nodes n).any (fun e => e.made.blt since) then addCount g n c d else g

/-- A change of counts sent up from a node's child (R354). -/
def sendDelta (s : State) (key gen node child born : Nat) (d : Int) : State :=
  { s with deltas := Tab.set s.deltas s.nextDelta { group := key, gen := gen, node := node, child := child, by_ := d, born := born },
           nextDelta := s.nextDelta + 1 }

/-- READINESS_COUNT_UPDATE (R354): a change of counts arrives at a node, and goes on to its parent. -/
def execReadinessCountUpdate (k : Nat) (s : State) : Outcome :=
  match Tab.at? s.deltas k with
  | none => .next s
  | some d =>
    let s := { s with deltas := Tab.del s.deltas k }
    match Tab.at? s.groups d.group with
    | none => .next s
    | some g =>
      if g.gen ≠ d.gen then .next s
      else
        let s := onGroup s d.group (fun g => addCountSince g d.node d.child d.born d.by_)
        .next (if d.node = hubNode then s else sendDelta s d.group d.gen (parentNode d.node) (childOf d.node) d.born d.by_)

/-- The entries that the nodes of a path make for a group where they have none (R353, R356). -/
def makeEntries (s : State) (key : Nat) (path : List Nat) : State :=
  let made := s.nextDelta
  onGroup { s with nextDelta := made + 1 } key (fun g =>
    let entry : NodeEntry := { counts := [], park := g.pound != [], made := made }
    { g with nodes := path.foldl (fun t nd => bif Tab.has t nd then t else Tab.set t nd entry) g.nodes })

/-- Whether a group has a member below a node (R353). -/
def memberBelow (s : State) (g : Group) (n : Nat) : Bool :=
  g.members.any (fun (_, m) => m.state == 1 && (match Tab.at? s.plots m.plot with
    | some p => (pathOf p m.plot).contains n
    | none => false))

/-- The entries of a group that its nodes keep: those with a member below them. -/
def pruneNodes (s : State) (g : Group) : Group := { g with nodes := g.nodes.filter (fun (n, _) => memberBelow s g n) }

/-- A change of an endpoint's readiness: at its gate at once, and on its way to the nodes above (R354). -/
def changeReady (s : State) (key : Nat) (g : Group) (plot : Nat) (p : Plot) (ep : Nat) (d : Int) : State :=
  let s := onGroup s key (fun g => addCount g (gateOf p plot) ep d)
  sendDelta s key g.gen (parentNode (gateOf p plot)) plot s.nextDelta d

/-! ### Endpoints (R350, R351) -/

/-- The endpoint of a cell. -/
def endpointOf? (p : Plot) (cell : Nat) : Option (Nat × Endpoint) := p.endpoints.find? (fun (_, x) => x.cell == cell)

/-- A change of an endpoint. -/
def onEndpoint (s : State) (plot ep : Nat) (f : Endpoint → Endpoint) : State :=
  onPlot s plot (fun p => { p with endpoints := Tab.upd p.endpoints ep f })

/-- The bytes of messages in a ring. -/
def Endpoint.used (x : Endpoint) : Nat := x.msgs.foldl (fun n m => n + m.bytes) 0

/-- A firing with an endpoint of its cell, or GPERM with WHY 1. -/
def withEndpoint (c : Ctx) (e : Nat) (h : Word) (k : Nat → Endpoint → Res) : Res :=
  match endpointOf? c.plot c.f.cell with
  | none => groupTrap c e .gperm h 1
  | some (n, x) => k n x

/-! ### Messages (R352) -/

/-- The bytes of a message: its header, and its payload rounded up to 64 (R351). -/
def msgBytes (m : GMsg) : Nat := 64 + (4 * m.words.length + 63) / 64 * 64

/-- The words of a message as it stands in an inbox, a pound or the error ring. -/
def msgWords (m : GMsg) (midx : Nat) : List Dword :=
  let h := groupHandle m.group m.gen
  let pay := (List.range ((4 * m.words.length + 63) / 64 * 8)).map (fun i =>
    pair ((m.words[2 * i]?).getD 0) ((m.words[2 * i + 1]?).getD 0))
  [dw (at_ h.toNat 32 + at_ (m.words.length - 1) 26 + m.bounces), dw (at_ m.sseq.toNat 32 + m.sender), dw (at_ midx 52), 0, 0, 0, 0, 0] ++ pay

/-- Dwords written into a ring of near space from an offset, wrapping at its end. -/
def writeRing (m : Memory) (base size off : Nat) (ws : List Dword) : Memory :=
  (ws.foldl (fun (m, o) w => (writeN m 8 (base + o % size) w.toNat, o + 8)) (m, off)).1

/-- A delivery (R355): header and payload written into the inbox, from one reservation; debits sent above the highest node
the message reached; the outcome leaves for the hub and the gate. -/
def deliverMsg (s : State) (k : Nat) (fl : Flight) (key : Nat) (g : Group) (plot ep turn : Nat) : State :=
  match Tab.at? s.plots plot with
  | none => s
  | some p => match Tab.at? p.endpoints ep with
    | none => s
    | some x =>
      let midx := ((Tab.at? x.members key).map (·.midx)).getD 0
      let bytes := msgBytes fl.msg
      let s := onNear s plot x.scell (fun m => writeRing m x.off x.size x.tail (msgWords fl.msg midx))
      let s := onEndpoint s plot ep (fun x =>
        { x with tail := (x.tail + bytes) % x.size, reserved := x.reserved - 320,
                 msgs := x.msgs ++ [{ off := x.tail, bytes := bytes, id := k, counted := false }],
                 members := Tab.upd x.members key (fun m => { m with ready := m.ready - 1 }) })
      let s := onGroup s key (fun g => addCount g (gateOf p plot) ep (-1))
      let s := if turn = hubNode then s else sendDelta s key g.gen (parentNode turn) (childOf turn) s.nextDelta (-1)
      { s with flights := Tab.set s.flights k { fl with at_ := .outcome false (some (plot, ep, k, midx)) } }

/-! ### The pound (R357) -/

/-- The 64-byte units that the pound's messages hold. -/
def poundUsed (g : Group) : Nat := g.pound.foldl (fun n m => n + msgBytes m / 64) 0

/-- PARK at every node that holds the group. -/
def setPark (g : Group) (b : Bool) : Group := { g with nodes := g.nodes.map (fun (n, e) => (n, { e with park := b })) }

/-- Dwords of a message written to pound memory, unit by unit, wrapping at the ring's end. -/
def writePound (s : State) (v : Nat) (g : Group) (unit : Nat) (ws : List Dword) : State :=
  (List.range (ws.length / 8)).foldl (fun s i =>
    match hubStore? s v (g.va + 64 * ((unit + i) % g.units)) ((ws.drop (8 * i)).take 8) with
    | some s' => s'
    | none => s) s

/-- The job of a message that is in replay mode, with the message's source words (R365). -/
def replayJob? (s : State) (m : GMsg) : Option (Job × Dword × Dword × Dword) :=
  match m.src with
  | none => none
  | some (job, w0, w1, w2) => match Tab.at? s.jobs job with
    | none => none
    | some j => bif j.jmode == 2 then some (j, w0, w1, w2) else none

/-- The entry of a kind that the journal of a message's job has for it in replay: its index and its value. -/
def replayEntry? (s : State) (m : GMsg) (kind : Nat) : Option (Nat × Dword) :=
  match replayJob? s m with
  | none => none
  | some (j, w0, w1, w2) => journalFind s j (w0 + dw (at_ kind 56)) w1 w2 j.jtotal 0

/-- The journal's entry for a message: a delivery or a pound append (R365, R436). -/
def journalMsg (s : State) (m : GMsg) (kind midx : Nat) : State :=
  match m.src with
  | none => s
  | some (job, w0, w1, w2) => (journal s job (w0 + dw (at_ kind 56)) w1 w2 (dw (at_ midx 52 + m.sseq.toNat))).1

/-- The journal's entry for a pound append; in replay, where every message goes to the pound, only for one that the recorded run
parked (R365). -/
def journalPark (s : State) (m : GMsg) : State :=
  bif (replayJob? s m).isSome && (replayEntry? s m 2).isNone then s else journalMsg s m 2 0

/-- Whether the pound has room for a message. -/
def poundFits (g : Group) (m : GMsg) : Bool := (poundUsed g + msgBytes m / 64).ble g.units

/-- A message appended to its pound at the hub, PARK set first. -/
def parkMsg (s : State) (k : Nat) (fl : Flight) (key : Nat) (g : Group) : State :=
  let s := writePound s (key / 1024) g (g.head + poundUsed g) (msgWords fl.msg 0)
  let s := onGroup s key (fun g => setPark { g with pound := g.pound ++ [{ fl.msg with firing := none }] } true)
  journalPark { s with flights := Tab.set s.flights k { fl with at_ := .outcome false none } } fl.msg

/-- A flight put among those that wait, by when they came. -/
def insertWaiting (k since : Nat) (fl : Flight) : List (Nat × Nat × Flight) → List (Nat × Nat × Flight)
  | [] => [(k, since, fl)]
  | x :: t => bif since.blt x.2.1 then (k, since, fl) :: x :: t else x :: insertWaiting k since fl t

/-- The messages of a group that wait at the hub for pound space, in the order they reached it (R357). -/
def waitingOf (s : State) (key : Nat) : List (Nat × Nat × Flight) :=
  s.flights.foldl (fun l (k, f) => match f.at_ with
    | .waiting since => bif f.msg.group == key then insertWaiting k since f l else l
    | _ => l) []

/-- A message that reaches the hub to be parked: appended where it has room and none waits before it; else it waits, or a GSEND.try
fails (R357), which replay does not let fail (R365). -/
def reachPound (s : State) (k : Nat) (fl : Flight) (key : Nat) (g : Group) : State :=
  bif poundFits g fl.msg && (waitingOf s key).isEmpty then parkMsg s k fl key g
  else bif fl.msg.try1 && (replayJob? s fl.msg).isNone then { s with flights := Tab.set s.flights k { fl with at_ := .outcome true none } }
  else { s with flights := Tab.set s.flights k { fl with at_ := .waiting s.nextDelta }, nextDelta := s.nextDelta + 1 }

/-- Messages that wait appended to a pound, the first first, as far as it has room. -/
def parkEach (key : Nat) : List (Nat × Nat × Flight) → State → State
  | [], s => s
  | (k, _, fl) :: t, s =>
    match Tab.at? s.groups key with
    | none => s
    | some g => bif poundFits g fl.msg then parkEach key t (parkMsg s k fl key g) else s

/-- What stands in pound memory at a unit, of a message that the hub has put there: its sender, number, bounces and payload as the hub reads them
back (R357, R376). DESIGN CHOICE (notes/assumptions/66.md): its group and its length are the hub's own. -/
def fromPound (s : State) (v : Nat) (g : Group) (unit : Nat) (m : GMsg) : GMsg :=
  let n := msgBytes m / 64
  let ws := (List.range n).flatMap (fun i => match hubRead s v (g.va + 64 * ((unit + i) % g.units)) 8 with
    | .ok _ l => l
    | _ => ((msgWords m 0).drop (8 * i)).take 8)
  let w := fun (i : Nat) => ((ws[i]?).getD 0 : Dword)
  { m with bounces := field (w 0) 7 0, sseq := BitVec.ofNat 32 (field (w 1) 63 32), sender := field (w 1) 31 0 % 2 ^ 14,
           words := (List.range m.words.length).map (fun i => BitVec.ofNat 32 (field (w (8 + i / 2)) (32 * (i % 2) + 31) (32 * (i % 2)))) }

/-- The messages of a pound as they stand in its memory, from the head's unit on. -/
def poundMessages (s : State) (v : Nat) (g : Group) : (unit : Nat) → List GMsg → List GMsg
  | _, [] => []
  | unit, m :: l => fromPound s v g unit m :: poundMessages s v g (unit + msgBytes m / 64) l

/-- Messages waiting at the hub for pound space are appended in the order they reached it (R357). -/
def appendWaiting (s : State) (key : Nat) : State := parkEach key (waitingOf s key) s

/-- Whether two messages are one. -/
def GMsg.same (a b : GMsg) : Bool := a.id == b.id

/-- Messages written to pound memory one after another from a unit. -/
def writeEach (v : Nat) (g : Group) : List GMsg → (unit : Nat) → State → State
  | [], _, s => s
  | m :: t, unit, s => writeEach v g t (unit + msgBytes m / 64) (writePound s v g unit (msgWords m 0))

/-- A message leaves its pound; where it is not the head, which only replay brings about, those behind it move up. -/
def leavePound (s : State) (key : Nat) (m : GMsg) : State :=
  match Tab.at? s.groups key with
  | none => s
  | some g =>
    let before := g.pound.takeWhile (fun x => !x.same m)
    let behind := (g.pound.drop before.length).drop 1
    let head := bif before.isEmpty then (g.head + msgBytes m / 64) % Nat.max 1 g.units else g.head
    let s := bif before.isEmpty then s
      else writeEach (key / 1024) g behind (g.head + before.foldl (fun n x => n + msgBytes x / 64) 0) s
    onGroup s key (fun g =>
      let g := { g with pound := before ++ behind, head := head }
      if g.pound.isEmpty then setPark g false else g)

/-! ### Steering (R355) -/

/-- Bytes of a message on a hub link (R357). -/
def chargeHub (s : State) (key : Nat) (m : GMsg) : State := addToll s (key / 1024) 7 (msgBytes m)

/-- Where a flight stands next. -/
def setFlight (s : State) (k : Nat) (fl : Flight) (t : Transit) : State :=
  { s with flights := Tab.set s.flights k { fl with at_ := t } }

/-- A head of a pound that goes back to it, with its bounces (R352, R357). -/
def backToPound (s : State) (k : Nat) (fl : Flight) (key : Nat) : State :=
  let bounced := fun (m : GMsg) => bif m.same fl.msg then { m with bounces := fl.msg.bounces } else m
  let s := onGroup { s with flights := Tab.del s.flights k } key (fun g => { g with pound := g.pound.map bounced })
  match Tab.at? s.groups key with
  | none => s
  | some g => match g.pound with
    | m :: _ => writePound s (key / 1024) g g.head ((msgWords m 0).take 8)
    | [] => s

/-- The higher of two nodes of one path. -/
def higher (a b : Nat) : Nat := if levelOf a < levelOf b then b else a

/-- The units of a message that goes up from a node, returned at the nodes above it as far as `top`, those that it came down through: each on the
child that it leaves. DEDUCED (notes/assumptions/24.md) from R358 and R406: a unit kept there would be lost. -/
def refund (s : State) (key node top since : Nat) : State :=
  let ups := [node, parentNode node, parentNode (parentNode node)].filter (fun n => (levelOf n).blt (levelOf top))
  onGroup s key (fun g => ups.foldl (fun g n => addCountSince g (parentNode n) (childOf n) since 1) g)

/-- A message climbs to the hub and goes to the pound; the pound's own head goes back to its head. -/
def goPound (s : State) (k : Nat) (fl : Flight) (key node : Nat) : State :=
  let s := if node = hubNode then s else chargeHub s key fl.msg
  bif fl.parked then backToPound s k fl key else setFlight s k fl .toPound

/-- A message steered down from a node that has a positive child. -/
def steerDown (s : State) (k : Nat) (fl : Flight) (key : Nat) (g : Group) (node turn child : Nat) : State :=
  if 1024 ≤ node then deliverMsg s k fl key g (gatePlot node) child turn
  else
    let s := onGroup s key (fun g => addCount g node child (-1))
    let s := if node = hubNode then chargeHub s key fl.msg else s
    setFlight s k fl (.down (childNode node child) turn s.nextDelta)

/-- A message met a node without a positive child (R355): it bounces to the parent, which gets its unit back. At the hub it waits to be
steered. Where it goes on up from the parent, the units that it took above return too (`refund`). -/
def bounceUp (s : State) (k : Nat) (fl : Flight) (key node turn since : Nat) : State :=
  let up := parentNode node
  let fl := { fl with tries := fl.tries + 1, msg := { fl.msg with bounces := Nat.min 255 (fl.msg.bounces + 1) } }
  let s := onGroup s key (fun g => addCountSince g up (childOf node) since 1)
  let s := if up = hubNode then chargeHub s key fl.msg else s
  let came := turn
  let turn := higher turn up
  if 8 ≤ fl.tries then goPound (refund s key up came since) k fl key up
  else if up = hubNode then setFlight s k fl (.down hubNode hubNode s.nextDelta)
  else match Tab.at? s.groups key with
    | none => s
    | some g =>
      match positiveChild? s g up with
      | some c => steerDown s k fl key g up turn c
      | none =>
        let top := parentNode up
        let s := refund s key up (bif (levelOf came).blt (levelOf top) then up else top) since
        let s := if top = hubNode then chargeHub s key fl.msg else s
        setFlight s k fl (.down top (higher turn top) s.nextDelta)

/-- One move of a message that climbs. -/
def climbStep (s : State) (k : Nat) (fl : Flight) (key : Nat) (g : Group) (node : Nat) : State :=
  let parked := match Tab.at? g.nodes node with
    | some e => e.park
    | none => false
  if (parked || (node == hubNode && !g.pound.isEmpty)) = true then goPound s k fl key node
  else match positiveChild? s g node with
    | some c => steerDown s k fl key g node node c
    | none =>
      if node = hubNode then goPound s k fl key node
      else
        let up := parentNode node
        setFlight (if up = hubNode then chargeHub s key fl.msg else s) k fl (.climb up)

/-- Whether the message of a pound that is on its way has left it. -/
def headAway (s : State) (key : Nat) : Bool := s.flights.any (fun (_, f) => f.parked && f.msg.group == key)

/-- Whether the hub has its pound's head to steer, before any other message (R357). -/
def headFirst (s : State) (key : Nat) (g : Group) : Bool :=
  !g.pound.isEmpty && !headAway s key && (positiveChild? s g hubNode).isSome

/-- GROUP_MESSAGE_STEER (R355): one move of a message: it climbs, is steered down, bounces, or is parked. -/
def execGroupMessageSteer (k : Nat) (s : State) : Outcome :=
  match Tab.at? s.flights k with
  | none => .next s
  | some fl =>
    let key := fl.msg.group
    match Tab.at? s.groups key with
    | none => .next s
    | some g =>
      match fl.at_ with
      | .climb node => .next (climbStep s k fl key g node)
      | .down node turn since =>
        if node = hubNode ∧ headFirst s key g = true then .next s
        else match positiveChild? s g node with
          | some c => .next (steerDown s k fl key g node turn c)
          | none => .next (if node = hubNode then goPound s k fl key node else bounceUp s k fl key node turn since)
      | .toPound => .next (reachPound s k fl key g)
      | .waiting _ => .next (appendWaiting s key)
      | .outcome _ _ => .next s

/-- The first delivery of a job's journal that is not consumed (R365). -/
def firstDelivery? (s : State) (j : Job) : (fuel i : Nat) → Option Nat
  | 0, _ => none
  | fuel + 1, i =>
    bif j.used.contains i then firstDelivery? s j fuel (i + 1)
    else match hubRead s j.vi (j.jbase + 64 + 32 * i) 1 with
      | .ok _ [a] => bif field a 63 56 == 1 then some i else firstDelivery? s j fuel (i + 1)
      | _ => firstDelivery? s j fuel (i + 1)

/-- The place of a member that takes a message: its plot and endpoint, where it is resident and has readiness. -/
def readyMember? (s : State) (key : Nat) (g : Group) (midx : Nat) : Option (Nat × Nat × Plot) :=
  match Tab.at? g.members midx with
  | none => none
  | some mb => match Tab.at? s.plots mb.plot with
    | none => none
    | some p =>
      let ready := ((Tab.at? p.endpoints mb.ep).bind (fun x => Tab.at? x.members key)).any (fun m => m.ready != 0)
      bif mb.state == 1 && ready && !p.withdrawn then some (mb.plot, mb.ep, p) else none

/-- The member that the journal names for a message in replay, where the message's delivery comes next in hub order and the member has readiness
(R365). -/
def forced? (s : State) (key : Nat) (g : Group) (m : GMsg) : Option (Nat × Nat × Plot) :=
  match replayJob? s m, replayEntry? s m 1 with
  | some (j, _), some (i, v) => bif firstDelivery? s j j.jtotal 0 == some i then readyMember? s key g (field v 63 52) else none
  | _, _ => none

/-- A message of the pound, or one that waits for it, delivered from the hub to the member that the journal names. -/
def deliverForced (s : State) (k : Nat) (fl : Flight) (key : Nat) (g : Group) (to_ : Nat × Nat × Plot) : State :=
  deliverMsg (chargeHub s key fl.msg) k fl key g to_.1 to_.2.1 (gateOf to_.2.2 to_.1)

/-- POUND_DRAIN (R357, R365): the hub steers the pound's head message when one of its counts is positive; in replay it delivers the message that
comes next, to the member that the journal names once it has readiness. -/
def execPoundDrain (handle : Nat) (s : State) : Outcome :=
  match Tab.at? s.groups handle with
  | none => .next s
  | some g =>
    if headAway s handle then .next s
    else
      let k := s.nextFlight
      let s' := { s with nextFlight := k + 1 }
      let flight := fun (m : GMsg) => ({ msg := m, at_ := .down hubNode hubNode s.nextDelta, parked := true, tries := 0 } : Flight)
      match (poundMessages s (handle / 1024) g g.head g.pound).find? (fun m => (forced? s handle g m).isSome) with
      | some m => match forced? s handle g m with
        | some x => .next (deliverForced s' k (flight m) handle g x)
        | none => .next s
      | none => match (waitingOf s handle).find? (fun w => (forced? s handle g w.2.2.msg).isSome) with
        | some w => match forced? s handle g w.2.2.msg with
          | some x => .next (journalPark (deliverForced s w.1 w.2.2 handle g x) w.2.2.msg)
          | none => .next s
        | none => match g.pound with
          | [] => .next s
          | m :: _ =>
            let m := fromPound s (handle / 1024) g g.head m
            if (replayEntry? s m 1).isSome then .next s
            else match positiveChild? s g hubNode with
              | none => .next s
              | some c => .next (steerDown s' k (flight m) handle g hubNode hubNode c)

/-- A firing answered in its plot, or in the saved image that holds it (R361). -/
def finishAnywhere (s : State) (f : Firing) (kind : Kind) (v : Dword) : State :=
  bif Tab.has s.plots f.plot then finishScalar s f kind v
  else
    let fin := fun im : SavedImage => bif im.key == f.plot then
        { im with plot := finishIn f (fun c => scalarOut c.c1 c.c0 kind v) im.plot }
      else im
    { s with images := s.images.map (fun (k, im) => (k, fin im)) }

/-- A change of an endpoint of a plot, or of the saved image that holds it (R361). -/
def onEndpointAnywhere (s : State) (plot ep : Nat) (f : Endpoint → Endpoint) : State :=
  bif Tab.has s.plots plot then onEndpoint s plot ep f
  else
    { s with images := s.images.map (fun (k, im) => (k, bif im.key == plot then
        { im with plot := { im.plot with endpoints := Tab.upd im.plot.endpoints ep f } } else im)) }

/-- An endpoint of a plot, or of the saved image that holds it. -/
def endpointAnywhere? (s : State) (plot ep : Nat) : Option Endpoint :=
  match Tab.at? s.plots plot with
  | some p => Tab.at? p.endpoints ep
  | none => s.images.findSome? (fun (_, im) => bif im.key == plot then Tab.at? im.plot.endpoints ep else none)

/-- Whether a message of an inbox is the first of it that the hub has not counted: deliveries to an inbox are counted in their order. -/
def countsNext (s : State) (plot ep id : Nat) : Bool :=
  match endpointAnywhere? s plot ep with
  | none => true
  | some x => match x.msgs.find? (fun m => !m.counted) with
    | some m => m.id == id || !x.msgs.any (fun m => m.id == id)
    | none => true

/-- The hub counts a delivery (R359, R403): the message becomes takeable; a pound's message leaves the pound. -/
def countDelivery (s : State) (fl : Flight) (plot ep id midx : Nat) : State :=
  let key := fl.msg.group
  let s := onEndpointAnywhere s plot ep (fun x =>
    { x with msgs := x.msgs.map (fun m => bif m.id == id then { m with counted := true } else m) })
  let live := match Tab.at? s.groups key with
    | some g => g.gen == fl.msg.gen
    | none => false
  bif !live then s
  else
    let s := onGroup s key (fun g =>
      { g with gdel := g.gdel + 1, members := Tab.upd g.members midx (fun m => { m with del := satInc m.del }) })
    let s := journalMsg s fl.msg 1 midx
    bif fl.parked then appendWaiting (leavePound s key fl.msg) key else s

/-- A send answered at its gate: the outcome of a GSEND.try goes to the journal of its job (R365), and the GSEND completes with it. -/
def answerSend (s : State) (m : GMsg) (failed : Bool) : State :=
  match m.firing with
  | none => s
  | some f =>
    let r := dw (bif failed then 1 else 0)
    let s := match m.src with
      | some (job, w0, w1, w2) => bif m.try1 then (journal s job (w0 + dw (at_ 3 56)) w1 w2 r).1 else s
      | none => s
    finishAnywhere s f .s32 r

/-- GSEND_OUTCOME (R356, R403): the hub has counted a delivery, and the outcome returns to the entry gate and completes the
GSEND. -/
def execGsendOutcome (k : Nat) (s : State) : Outcome :=
  match Tab.at? s.flights k with
  | none => .next s
  | some fl =>
    match fl.at_ with
    | .outcome failed inbox =>
      if inbox.any (fun (plot, ep, id, _) => !countsNext s plot ep id) = true then .next s
      else
        let s := { s with flights := Tab.del s.flights k }
        let s := match inbox with
          | some (plot, ep, id, midx) => countDelivery s fl plot ep id midx
          | none => s
        .next (answerSend s fl.msg failed)
    | _ => .next s

/-! ### The forms -/

/-- Whether every 4 KiB page of a run is writable for a VI. -/
def pagesWritable (s : State) (v va bytes : Nat) : Bool :=
  (List.range ((bytes + 4095) / 4096)).all (fun i => hubWritable s v 1 (va + 4096 * i))

/-- The pages of a pound pinned for its group (R357, R369). -/
def pinPound (s : State) (key v va bytes : Nat) : State :=
  (List.range (bytes / 4096)).foldl (fun s i => match translateHub s v (va + 4096 * i) .write with
    | .ok s pa => { s with pins := s.pins ++ [{ by_ := .group key, base := pa, size := 4096 }] }
    | _ => s) s

/-- A group made for a VI, where the limits of R348 allow one: its key. -/
def makeGroup? (s : State) (v va bytes : Nat) : Option (State × Nat) :=
  match (List.range 1024).find? (fun i => !Tab.has s.groups (groupKey v i)) with
  | none => none
  | some i =>
    bif Nat.ble 4096 s.groups.length then none
    else
      let key := groupKey v i
      let g : Group :=
        { gen := groupGen s key, va := va, units := bytes / 64, head := 0, pound := [], nodes := [], members := [], nmem := 0,
          gdel := 0, snaps := 0 }
      some (pinPound { s with groups := Tab.set s.groups key g } key v va bytes, key)

/-- Whether a pound's place is one that GMAKE takes (R369). -/
def poundOk (s : State) (v va bytes : Nat) : Bool :=
  bytes % 4096 == 0 && Nat.ble 4096 bytes && bytes.ble (2 ^ 24) && va % 4096 == 0 && pagesWritable s v va bytes

/-- GMAKE (R369). -/
def execGmake (n : BitVec 4) (c1 c0 : Cons) (s : State) : Outcome :=
  fireOnce s c1 c0 .s32 (fun c e =>
    let bytes := (c.low 0 e).toNat
    let va := vaOf (c.k2 n.toNat)
    if poundOk s c.plot.vi va bytes = false then groupTrap c e .gperm 0 2
    else match makeGroup? s c.plot.vi va bytes with
      | none => .done s (scalarOut c1 c0 .s32 0)
      | some (s, key) => .done s (scalarOut c1 c0 .s32 (zx32 (groupHandle key (groupGen s key)))))

/-- A message offered to the group error ring (R366). -/
def putGroupError (s : State) (v : Nat) (m : GMsg) : State :=
  let vi := viOf s v
  let ws := msgWords m 0
  match ringPut? s v (ringBase vi.gering) (2 ^ (field vi.gering 3 0 + 3)) 512 vi.gerprod vi.gercons
      (ws ++ List.replicate (64 - ws.length) 0) with
  | none => onVi s v (fun vi => { vi with gerlost := satInc vi.gerlost })
  | some s' => raiseIrq (onVi s' v (fun vi => { vi with gerprod := vi.gerprod + 1 })) v 18

/-- The memberships of a group dissolved in a plot, their reservations returned. -/
def dissolve (key : Nat) (p : Plot) : Plot :=
  { p with endpoints := p.endpoints.map (fun (n, x) =>
      (n, match Tab.at? x.members key with
        | none => x
        | some m =>
          { x with members := Tab.del x.members key, reserved := bif p.withdrawn then x.reserved else x.reserved - 320 * m.ready })) }

/-- The messages of a group that are on their way, in the order in which they return to the hub (R363): those that wait there, as they came, then
the others (notes/assumptions/66.md). -/
def returning (s : State) (key gen : Nat) : List (Nat × Flight) :=
  (waitingOf s key).map (fun (k, _, f) => (k, f)) ++ s.flights.filter (fun (_, f) =>
    f.msg.group == key && f.msg.gen == gen && !f.parked && (match f.at_ with
      | .outcome _ _ | .waiting _ => false
      | _ => true))

/-- The messages of a pound that are not delivered: one that has been, and that the hub has not counted, stays in its inbox (R363). -/
def undelivered (s : State) (key : Nat) (g : Group) : List GMsg :=
  (poundMessages s (key / 1024) g g.head g.pound).filter (fun m => !s.flights.any (fun (_, f) => f.parked && f.msg.group == key && f.msg.gen == g.gen && f.msg.same m && (match f.at_ with
    | .outcome _ _ => true
    | _ => false)))

/-- A group freed (R363): its generation advances, messages in flight return, the pound and they go to the error ring unless
the VI is being reset (R364); the number of messages returned. -/
def freeGroup (s : State) (key : Nat) (report : Bool) : State × Nat :=
  match Tab.at? s.groups key with
  | none => (s, 0)
  | some g =>
    let away := returning s key g.gen
    let ms := undelivered s key g ++ away.map (fun (_, f) => f.msg)
    let stays := fun (f : Flight) => f.msg.group != key || (match f.at_ with
      | .outcome _ _ => true
      | _ => false)
    let s := { s with groups := Tab.del s.groups key,
                      groupGens := Tab.set s.groupGens key (if g.gen = 2047 then 1 else g.gen + 1),
                      flights := s.flights.filter (fun (_, f) => stays f),
                      deltas := s.deltas.filter (fun (_, d) => d.group != key),
                      pins := s.pins.filter (fun x => x.by_ != .group key),
                      plots := s.plots.map (fun (k, p) => (k, dissolve key p)),
                      images := s.images.map (fun (k, im) => (k, { im with plot := dissolve key im.plot })) }
    bif !report then (s, 0)
    else
      let s := away.foldl (fun s (_, f) => answerSend s f.msg false) s
      (ms.foldl (fun s m => putGroupError s (key / 1024) m) s, ms.length)

/-- GFREE (R363, R369). -/
def execGfree (hk : Bool) (n : BitVec 4) (c1 c0 : Cons) (s : State) : Outcome :=
  fireOnce s c1 c0 .s32 (fun c e => withGroup s c e (handleOf c e hk n.toNat 0) (fun key _ =>
    let (s, k) := freeGroup s key true
    .done s (scalarOut c1 c0 .s32 (dw k))))

/-- The groups with an entry at a node. -/
def nodeLoad (s : State) (n : Nat) : Nat := (s.groups.filter (fun (_, g) => Tab.has g.nodes n)).length

/-- GJOIN (R371). -/
def execGjoin (hk : Bool) (n : BitVec 4) (c1 c0 : Cons) (s : State) : Outcome :=
  fireOnce s c1 c0 .s32 (fun c e =>
    let h := handleOf c e hk n.toNat 0
    withGroup s c e h (fun key g => withEndpoint c e h (fun ep x =>
      match Tab.at? x.members key with
      | some m => .done s (scalarOut c1 c0 .s32 (dw m.midx))
      | none =>
        let path := pathOf c.plot c.f.plot
        let free := (List.range 4096).find? (fun i => !Tab.has g.members i)
        let room := path.all (fun nd => Tab.has g.nodes nd || (nodeLoad s nd).blt 4096)
        match free, room with
        | some midx, true =>
          let mb : Member := { state := 1, die := c.plot.die, x := c.plot.x, y := c.plot.y, ep := ep, plot := c.f.plot, del := 0 }
          let s := onGroup (makeEntries s key path) key (fun g =>
            { g with members := Tab.set g.members midx mb, nmem := Nat.max g.nmem (midx + 1) })
          let s := onEndpoint s c.f.plot ep (fun x => { x with members := Tab.set x.members key { gen := g.gen, midx := midx, ready := 0 } })
          .done s (scalarOut c1 c0 .s32 (dw midx))
        | _, _ => .done s (scalarOut c1 c0 .s32 0xFFFFFFFF))))

/-- An endpoint leaves a group (R371): its readiness and reservations return, its index is kept until the next clear, and
nodes without a member lose their entry. -/
def leaveGroup (s : State) (key plot ep : Nat) : State :=
  match Tab.at? s.groups key, Tab.at? s.plots plot with
  | some g, some p =>
    match (Tab.at? p.endpoints ep).bind (fun x => Tab.at? x.members key) with
    | none => s
    | some m =>
      let s := if m.ready = 0 ∨ p.withdrawn = true then s else changeReady s key g plot p ep (-(m.ready : Int))
      let s := onEndpoint s plot ep (fun x =>
        { x with members := Tab.del x.members key, reserved := bif p.withdrawn then x.reserved else x.reserved - 320 * m.ready })
      onGroup s key (fun g => pruneNodes s { g with members := Tab.upd g.members m.midx (fun b => { b with state := 2 }) })
  | _, _ => s

/-- GLEAVE (R371). -/
def execGleave (hk : Bool) (n : BitVec 4) (c1 c0 : Cons) (s : State) : Outcome :=
  fireOnce s c1 c0 .s32 (fun c e =>
    let h := handleOf c e hk n.toNat 0
    withGroup s c e h (fun key _ => withEndpoint c e h (fun ep x =>
      match Tab.at? x.members key with
      | none => .done s (scalarOut c1 c0 .s32 0xFFFFFFFF)
      | some m => .done (leaveGroup s key c.f.plot ep) (scalarOut c1 c0 .s32 (dw m.midx)))))

/-- READY (R372). -/
def execReady (hk : Bool) (n : BitVec 4) (c1 c0 : Cons) (s : State) : Outcome :=
  fireOnce s c1 c0 .s32 (fun c e =>
    let h := handleOf c e hk n.toNat 0
    let b := c.low 1 e
    let k := field b 7 0
    withGroup s c e h (fun key g => withEndpoint c e h (fun ep x =>
      match Tab.at? x.members key with
      | none => groupTrap c e .gperm h 7
      | some m =>
        if field b 31 8 ≠ 0 then groupTrap c e .gperm h 5
        else if k = 0 ∨ 255 < m.ready + k then groupTrap c e .gperm h 4
        else if x.size < 320 * k then groupTrap c e .gperm h 3
        else if x.size < x.used + x.reserved + 320 * k then .stall s
        else
          let s := onEndpoint s c.f.plot ep (fun x =>
            { x with reserved := x.reserved + 320 * k, members := Tab.upd x.members key (fun m => { m with ready := m.ready + k }) })
          .done (changeReady s key g c.f.plot c.plot ep k) (scalarOut c1 c0 .s32 (dw (m.ready + k))))))

/-- All readiness of an endpoint for a group withdrawn, its reservations returned (R351, R372). -/
def withdraw (s : State) (key plot ep : Nat) : State :=
  match Tab.at? s.groups key, Tab.at? s.plots plot with
  | some g, some p =>
    match (Tab.at? p.endpoints ep).bind (fun x => Tab.at? x.members key) with
    | none => s
    | some m =>
      if m.ready = 0 then s
      else
        let s := changeReady s key g plot p ep (-(m.ready : Int))
        onEndpoint s plot ep (fun x =>
          { x with reserved := x.reserved - 320 * m.ready, members := Tab.upd x.members key (fun m => { m with ready := 0 }) })
  | _, _ => s

/-- UNREADY (R372). -/
def execUnready (hk : Bool) (n : BitVec 4) (c1 c0 : Cons) (s : State) : Outcome :=
  fireOnce s c1 c0 .s32 (fun c e =>
    let h := handleOf c e hk n.toNat 0
    withGroup s c e h (fun key _ => withEndpoint c e h (fun ep x =>
      match Tab.at? x.members key with
      | none => groupTrap c e .gperm h 7
      | some m => .done (withdraw s key c.f.plot ep) (scalarOut c1 c0 .s32 (dw m.ready)))))

/-- A payload word of a GSEND, where it is present and not null. -/
def sendWord? (c : Ctx) (w : Nat) : Option Word :=
  let (port, e) := if w < 32 then (0, w) else (1, w - 32)
  if c.inst.len ≤ e ∨ (port = 1 ∧ c.fed 1 = false) then none
  else match c.elem? port e with
    | some (.val v) => some (lo32 v)
    | _ => none

/-- The handle of a GSEND: constant word kn, or c's lowest element that is not null (R373). -/
def sendHandle? (c : Ctx) (hk : Bool) (n : Nat) : Option Word :=
  bif hk then some (c.k n)
  else ((elemsOf c.inst.len).find? (fun e => match c.elem? 2 e with
      | some (.val _) => true
      | _ => false)).map (fun e => c.low 2 e)

/-- The message of a GSEND firing enters the tree (R355, R373). -/
def sendGroup (s : State) (c : Ctx) (key : Nat) (g : Group) (ws : List Word) (try1 : Bool) : Res :=
  let busy := s.flights.any (fun (_, f) => f.msg.group == key && (match f.msg.firing with
    | some x => x.plot == c.f.plot && x.cell == c.f.cell
    | none => false))
  let s := flushAll s c.port
  if busy ∨ priorWrites s c = true then .stall s
  else
    let last : Word := match Tab.at? c.plot.cells c.f.cell with
      | some k => k.sseq
      | none => 0
    let sseq : Word := last + 1
    let (x, y) := siteOf c.plot c.f.cell
    let (w0, w1, w2) := journalSource s c 0 c.inst.first
    let job := recOf? s c.plot
    let replay := match job with
      | some (_, r) => ((Tab.at? s.jobs r.job).map (·.jmode)).getD 0 == 2
      | none => false
    let failed := replay && try1 && (match job with
      | some (_, r) => (match (Tab.at? s.jobs r.job).bind (fun j => journalFind s j (w0 + dw (at_ 3 56)) w1 w2 j.jtotal 0) with
        | some (_, v) => v == 1
        | none => false)
      | none => false)
    let m : GMsg :=
      { id := s.nextFlight, group := key, gen := g.gen, words := ws, sseq := sseq, sender := at_ c.plot.die 12 + at_ x 6 + y, bounces := 0,
        firing := some c.f, try1 := try1, src := job.map (fun (_, r) => (r.job, w0, w1, w2)) }
    let at0 : Transit := bif failed then .outcome true none else bif replay then .toPound else .climb (gateOf c.plot c.f.plot)
    let s := onPlot (bif replay then chargeHub s key m else s) c.f.plot (fun p => onCell p c.f.cell (fun k => { k with sseq := sseq }))
    .issued { s with flights := Tab.set s.flights s.nextFlight { msg := m, at_ := at0, parked := false, tries := 0 }, nextFlight := s.nextFlight + 1 }

/-- GSEND (R373): a null firing where no word or no handle is present. -/
def execGsend (try1 hk : Bool) (n : BitVec 4) (c1 c0 : Cons) (s : State) : Outcome :=
  match ctxOf? s s.cur with
  | none => .fault .noFiring
  | some c =>
    match readyWhole c.blk c.inst c.f.slot with
    | [] => .next s
    | es =>
      let words := (List.range 64).map (sendWord? c)
      let n1 := words.zipIdx.foldl (fun m (w, i) => if w.isSome then i + 1 else m) 0
      match sendHandle? c hk n.toNat with
      | none => .next (complete s c 2 es (nullOut c1 c0 .s32 es))
      | some h =>
        if n1 = 0 ∨ (Tab.atD c.inst.nulls c.f.slot 0) ≠ 0 then .next (complete s c 2 es (nullOut c1 c0 .s32 es))
        else
          let e := (es.head?).getD 0
          match withGroup s c e h (fun key g => sendGroup s c key g ((words.take n1).map (·.getD 0)) try1) with
          | .done s' out => .next (complete s' c 2 es out)
          | .doneIn lat s' out => .next (complete s' c lat es out)
          | .hold s' => .next (onPlot s' c.f.plot (fun p => markHeld p c.f es))
          | .issued s' => .next (onPlot s' c.f.plot (fun p => markIssued p c.f es))
          | .stall s' => .next (stallFiring s')
          | .trap cause tag info => .next (trapFiring s c.f cause tag info)
          | .counted s' cause tag info => .next (trapFiring s' c.f cause tag info)
          | .loadFailed s' cause info cell => .next (onPlot s' c.f.plot (fun p => takeTrap p cause 0 info cell []))

/-- Word i of a message in a ring of near space. -/
def ringWord (m : Memory) (x : Endpoint) (off i : Nat) : Word := BitVec.ofNat 32 (readN m 4 (x.off + (off + 4 * i) % x.size))

/-- GTAKE (R374): the oldest message, once the hub has counted it; its words as two runs. -/
def execGtake (c1 c0 : Cons) (s : State) : Outcome :=
  fireOnce s c1 c0 .r32 (fun c e => withEndpoint c e 0 (fun ep x =>
    match x.msgs with
    | [] => .stall s
    | m :: rest =>
      if m.counted = false then .stall s
      else
        let near := nearOf c.plot x.scell
        let count := field (ringWord near x m.off 0) 31 26 + 1
        let run := fun (first : Nat) => (elemsOf c.inst.len).map (fun e => (e, if first + e < count
          then Elem.val (zx32 (ringWord near x m.off (16 + first + e))) else Elem.null))
        let s := onEndpoint s c.f.plot ep (fun x => { x with msgs := rest })
        let s := dropHeld s c.f.plot
        .done s [{ cons := c0, kind := .r32, elems := run 0 }, { cons := c1, kind := .r32, elems := run 32 }]))

/-- An entry of the image of a snapshot (R359). -/
def memberWord (m : Option Member) : Dword :=
  match m with
  | none => 0
  | some m => dw (at_ m.state 62 + at_ m.die 60 + at_ m.x 54 + at_ m.y 48 + at_ m.ep 44 + m.del.toNat)

/-- The image that GCOUNT.SNAPCLR writes (R359). -/
def snapWords (key : Nat) (g : Group) : List Dword :=
  [dw (at_ (groupHandle key g.gen).toNat 32 + (g.snaps + 1).toNat), g.gdel, dw (at_ g.pound.length 32 + g.nmem), 0, 0, 0, 0, 0] ++
    (List.range g.nmem).map (fun i => memberWord (Tab.at? g.members i))

/-- GCOUNT.SNAPCLR (R360, R375). -/
def execGcountSnapclr (n : BitVec 4) (c1 c0 : Cons) (s : State) : Outcome :=
  fireOnce s c1 c0 .s64 (fun c e =>
    let h := c.low 0 e
    withGroup s c e h (fun key g =>
      let va := vaOf (c.k2 n.toNat)
      let ws := snapWords key g
      if va % 64 ≠ 0 ∨ hubWritable s c.plot.vi ws.length va = false then groupTrap c e .gperm h 6
      else match cellWrite s c e 4 va ws with
        | .stop r => r
        | .ok s _ =>
          let s := onGroup s key (fun g =>
            { g with gdel := 0, snaps := g.snaps + 1,
                     members := (g.members.filter (fun (_, m) => m.state == 1)).map (fun (i, m) => (i, { m with del := 0 })) })
          .done s (scalarOut c1 c0 .s64 g.gdel)))

/-- GPOUND (R375). -/
def execGpound (hk : Bool) (n : BitVec 4) (c1 c0 : Cons) (s : State) : Outcome :=
  fireOnce s c1 c0 .s64 (fun c e => withGroup s c e (handleOf c e hk n.toNat 0) (fun _ g =>
    let ready : Int := match Tab.at? g.nodes hubNode with
      | some e => e.counts.foldl (fun a (_, k) => a + k) 0
      | none => 0
    .done s (scalarOut c1 c0 .s64 (dw (at_ (ready.toNat % 2 ^ 20) 44 + at_ g.pound.length 24 + (g.units - poundUsed g))))))

/-! ### Plots that come and go (R361, R362, R405) -/

/-- A plot's endpoints leave every group, and their inboxes are discarded (R405). -/
def leaveAll (s : State) (plot : Nat) : State :=
  match Tab.at? s.plots plot with
  | none => s
  | some p => p.endpoints.foldl (fun s (ep, x) => x.members.foldl (fun s (key, _) => leaveGroup s key plot ep) s) s

/-- The readiness of a plot's endpoints withdrawn, or advertised again, with its reservations (R351, R361, R362). -/
def advertise (s : State) (plot : Nat) (again : Bool) : State :=
  match Tab.at? s.plots plot with
  | none => s
  | some p => p.endpoints.foldl (fun s (ep, x) => x.members.foldl (fun s (key, m) =>
      match Tab.at? s.groups key with
      | none => s
      | some g =>
        if m.ready = 0 then s
        else
          let s := changeReady s key g plot p ep (bif again then (m.ready : Int) else -(m.ready : Int))
          onEndpoint s plot ep (fun x => { x with reserved := bif again then x.reserved + 320 * m.ready else x.reserved - 320 * m.ready })) s) s

/-- All readiness of a plot's endpoints withdrawn as its pre-emption begins; the endpoints keep what it stood at, for the
image (R361). -/
def withdrawAll (s : State) (plot : Nat) : State :=
  match Tab.at? s.plots plot with
  | none => s
  | some p => if p.withdrawn then s else onPlot (advertise s plot false) plot (fun p => { p with withdrawn := true })

/-- The readiness of a plot that goes on advertised again (R362). -/
def readvertise (s : State) (plot : Nat) : State :=
  match Tab.at? s.plots plot with
  | none => s
  | some p => if p.withdrawn then onPlot (advertise s plot true) plot (fun p => { p with withdrawn := false }) else s

/-- The memberships of a restored plot moved to it, keeping their indices and counts (R362). -/
def rejoinAll (s : State) (plot : Nat) : State :=
  match Tab.at? s.plots plot with
  | none => s
  | some p => p.endpoints.foldl (fun s (_, x) => x.members.foldl (fun s (key, m) =>
      onGroup (makeEntries s key (pathOf p plot)) key (fun g =>
        { g with members := Tab.upd g.members m.midx (fun b => { b with die := p.die, x := p.x, y := p.y, plot := plot }) })) s) s

/-- The entries of every group that have no member below them any more, gone (R353). -/
def pruneGroups (s : State) : State := { s with groups := s.groups.map (fun (k, g) => (k, pruneNodes s g)) }

end Sys2Proof.Machine
end

