-- ==== Sys2Proof/Machine/Reduce.lean ====
section
/-!
DEFINITION. Sys2Proof/Machine/Reduce.lean: reductions, scans and their two occurrences (R93, R94, R194-R198), and the
shuffles (R199, R200).
-/
namespace Sys2Proof.Machine

/-! ### Reductions -/

/-- A reducing slot at the start of a round. -/
def Red.zero : Red := { window := [], next := 0, acc := none, scan := [], due := [], left := 0 }

/-- The operation of a reducing form. -/
inductive RedOp where
  | add | max | min
  deriving DecidableEq, Repr

/-- A reducing form as its word gives it. -/
structure RedForm where
  op : RedOp
  scan : Bool
  row : Bool
  satq : Bool
  ty : Ty
  c1 : Cons
  c0 : Cons
  deriving DecidableEq, Repr

/-- The reducing form of an instruction. -/
def redForm? : Instr → Option RedForm
  | .redAdd row satq ty c1 c0 => some { op := .add, scan := false, row := row, satq := satq, ty := ty, c1 := c1, c0 := c0 }
  | .redMax row satq ty c1 c0 => some { op := .max, scan := false, row := row, satq := satq, ty := ty, c1 := c1, c0 := c0 }
  | .redMin row satq ty c1 c0 => some { op := .min, scan := false, row := row, satq := satq, ty := ty, c1 := c1, c0 := c0 }
  | .scanAdd row satq ty c1 c0 => some { op := .add, scan := true, row := row, satq := satq, ty := ty, c1 := c1, c0 := c0 }
  | _ => none

/-- The reducing form at a slot of a block. -/
def redAt? (b : Block) (slot : Nat) : Option RedForm :=
  match b.words[slot]? with
  | none => none
  | some w => match decode w with
    | .ok i => redForm? i
    | .error _ => none

/-- A pattern of a floating-point format, a NaN as the default NaN of the format (R79). -/
def plainNan (f : Fmt) (x : Nat) : Nat :=
  match decodeF f x with
  | .nan => f.nan
  | _ => x

/-- An element as a reducing slot of a type reads it. A NaN is read as the default NaN, so that a scope to which one NaN alone
contributes delivers no payload and no sign (R79). -/
def redRead (ty : Ty) (k : Kind) (v : Dword) : Dword :=
  bif ty.isInt then wrInt (tyInt ty) (rdInt (tyInt ty) k v) else dw (plainNan (fmtOf ty) (v.toNat % 2 ^ tyWidth ty))

/-- `combine` of R195. -/
def redCombine (r : RedForm) (acc v : Dword) : Dword :=
  if r.ty.isInt then
    let t := tyInt r.ty
    let x := rdInt t .r64 acc
    let y := rdInt t .r64 v
    match r.op with
    | .add => wrInt t (bif r.satq then clamp (x + y) (itMin t) (itMax t) else x + y)
    | .max => wrInt t (if x ≥ y then x else y)
    | .min => wrInt t (if x ≤ y then x else y)
  else
    let f := fmtOf r.ty
    match r.op with
    | .add => patF (roundF f rne false (addF (decodeF f acc.toNat) (decodeF f v.toNat)))
    | .max => patF (minmaxF false r.satq f acc.toNat v.toNat)
    | .min => patF (minmaxF true r.satq f acc.toNat v.toNat)

/-- The firing of a reducing form (R195): its elements enter the window; a run 32 or more beyond the oldest run not
combined stalls (R94). -/
def fireRed (ty : Ty) (s : State) : Outcome :=
  match ctxOf? s s.cur with
  | none => .fault .noFiring
  | some c =>
    match (readyElems c.blk c.inst c.f.slot).take (laneLimit (ty == .i64 || ty == .n64)) with
    | [] => .next s
    | es =>
      let r := Tab.atD c.blk.reds c.f.slot Red.zero
      if runOf c.blk.bounds r.next + 32 ≤ c.inst.run then .next (stallFiring s)
      else
        let inOf := fun e =>
          bif c.null e then RedIn.null
          else bif c.fed 3 && c.val 3 e == 0 then RedIn.skip
          else RedIn.val (redRead ty (c.kind 0) (c.val 0 e))
        let w := es.foldl (fun w e => Tab.set w (c.tag e) (inOf e)) r.window
        let s := complete s c 2 es []
        .next (onPlot s c.f.plot (fun p => onBlock p c.f.cell c.f.bidx (fun b =>
          { b with reds := Tab.set b.reds c.f.slot { r with window := w } })))

/-- RED.ADD (R194). -/
def execRedAdd (_row _satq : Bool) (ty : Ty) (_c1 _c0 : Cons) (s : State) : Outcome := fireRed ty s
/-- RED.MAX (R194). -/
def execRedMax (_row _satq : Bool) (ty : Ty) (_c1 _c0 : Cons) (s : State) : Outcome := fireRed ty s
/-- RED.MIN (R194). -/
def execRedMin (_row _satq : Bool) (ty : Ty) (_c1 _c0 : Cons) (s : State) : Outcome := fireRed ty s
/-- SCAN.ADD (R194, R197). -/
def execScanAdd (_row _satq : Bool) (ty : Ty) (_c1 _c0 : Cons) (s : State) : Outcome := fireRed ty s

/-- The first tag of the scope, or for a scan of the run, that holds a tag. -/
def scopeStart (bounds : List Nat) (row : Bool) (t : Nat) : Nat :=
  bif row then t - t % domInner bounds else runFirst bounds (runOf bounds t)

/-- Whether a tag begins a new scope. -/
def scopeEnds (bounds : List Nat) (row : Bool) (t : Nat) : Bool :=
  (domCount bounds).ble t || scopeStart bounds row t == t

/-- The EOS recorded on port a of a slot, which ends its scopes (R196). -/
def eosOfA (b : Block) (slot : Nat) : Option Nat := Tab.at? b.eos (portKey slot 0)

/-- What a tag of a reducing slot brings once the slot has resolved it: what stands in the window, or nothing where an EOS on port p
has resolved the tag and none on a (R102, R195); of an instance that has been generated. No tag at or above an EOS on a is combined (R196). -/
def redInput? (b : Block) (slot : Nat) (r : Red) : Option RedIn :=
  bif !belowEos r.next (eosOfA b slot) then none
  else match Tab.at? r.window r.next with
  | some x => some x
  | none => bif !belowEos r.next (eosOf b slot) && r.next.blt (domCount b.bounds) &&
      (runOf b.bounds r.next).blt b.next then some .null else none

/-- Whether the next tag of a reducing slot can be combined. -/
def canCombine (b : Block) (slot : Nat) (r : Red) : Bool := (redInput? b slot r).isSome

/-- What a scope emits up to the last tag combined (R196, R197): the first tag, and a scalar, null where nothing contributed, or the
elements of a scan. -/
def scopeOut (b : Block) (f : RedForm) (r : Red) : Nat × Tab Elem :=
  let first := scopeStart b.bounds (f.row && !f.scan) (r.next - 1)
  (first, bif f.scan then r.scan.map (fun (t, x) => (t - first, x))
    else [(0, match r.acc with
      | none => .null
      | some a => .val a)])

/-- A reducing slot whose scope is complete: its result is due 8 cycles after the last combination (R196); the accumulator of a row
of a scan carries on (R197). -/
def closeScope (b : Block) (f : RedForm) (r : Red) : Red :=
  let carry := f.scan && f.row && !scopeEnds b.bounds true r.next
  { r with due := r.due ++ [(r.left, scopeOut b f r)], scan := [], acc := bif carry then r.acc else none }

/-- The combination of the next tag (R195, R197). -/
def combineNext (b : Block) (f : RedForm) (slot : Nat) (r : Red) : Red :=
  match redInput? b slot r with
  | none => r
  | some x =>
    let acc := match x with
      | .val v => (match r.acc with
        | none => some v
        | some a => some (redCombine f a v))
      | _ => r.acc
    let out : Elem := match x with
      | .null => .null
      | _ => match acc with
        | none => .null
        | some a => .val a
    let next := r.next + 1
    let r := { r with window := Tab.del r.window r.next, acc := acc, next := next, left := 8,
                      scan := bif f.scan then Tab.set r.scan r.next out else r.scan }
    bif scopeEnds b.bounds (f.row && !f.scan) next then closeScope b f r else r

/-- Whether a form combines one element in a cycle (R195): floating-point and saturating sums; the others combine a run. -/
def RedForm.slow (f : RedForm) : Bool := f.op == .add && (!f.ty.isInt || f.satq)

/-- The combinations of one cycle: the next tag, or of a form that combines a run in a cycle the tags of its run that follow. -/
def combineSome (b : Block) (f : RedForm) (slot run : Nat) : (n : Nat) → Red → Red
  | 0, r => r
  | n + 1, r => bif canCombine b slot r && runOf b.bounds r.next == run then combineSome b f slot run n (combineNext b f slot r) else r

/-- REDUCTION_COMBINE (R195): the values of a cycle join the accumulator, in ascending tag order. -/
def execReductionCombine (plot cell bidx slot : Nat) (s : State) : Outcome :=
  .next (onPlot s plot (fun p => onBlock p cell bidx (fun b =>
    match redAt? b slot with
    | none => b
    | some f =>
      let r := Tab.atD b.reds slot Red.zero
      { b with reds := Tab.set b.reds slot (combineSome b f slot (runOf b.bounds r.next) (bif f.slow then 1 else 32) r) })))

/-- Whether an EOS on port a closes the scope that a reducing slot has begun (R196); a scope wholly at or beyond it emits nothing. -/
def eosCloses (b : Block) (f : RedForm) (slot : Nat) (r : Red) : Bool :=
  let row := f.row && !f.scan
  !belowEos r.next (eosOfA b slot) && !scopeEnds b.bounds row r.next && belowEos (scopeStart b.bounds row (r.next - 1)) (eosOfA b slot)

/-- A reducing slot with the scope closed that an EOS ends, and without the results of scopes that lie beyond it; nothing follows it in the
round. -/
def closeEos (b : Block) (f : RedForm) (slot : Nat) (r : Red) : Red :=
  let r := { r with due := r.due.filter (fun x => belowEos x.2.1 (eosOfA b slot)) }
  bif eosCloses b f slot r then { closeScope b f r with next := Nat.max r.next (domCount b.bounds), acc := none } else r

/-- Whether a reducing slot has a result to emit now: the oldest that is due, or the scope that an EOS closes (R196). -/
def canEmit (b : Block) (f : RedForm) (slot : Nat) (r : Red) : Bool :=
  match (closeEos b f slot r).due with
  | [] => false
  | x :: _ => x.1 == 0

/-- REDUCTION_EMIT (R196, R197): the oldest result that is due is emitted, with the first tag of its scope. -/
def execReductionEmit (plot cell bidx slot : Nat) (s : State) : Outcome :=
  .next (onPlot s plot (fun p =>
    match blockAt? p cell bidx with
    | none => p
    | some b =>
      match redAt? b slot with
      | none => p
      | some f =>
        let r := closeEos b f slot (Tab.atD b.reds slot Red.zero)
        match r.due with
        | (0, first, es) :: rest =>
          let wide := f.ty == .i64 || f.ty == .n64
          let kind := bif f.scan then runKind wide else scalarKind wide
          let p := onBlock p cell bidx (fun b => { b with reds := Tab.set b.reds slot { r with due := rest } })
          (both f.c1 f.c0 kind es).foldl (fun p o => deliver p cell bidx first o) p
        | _ => p))

/-- Whether a reducing slot has combined and emitted everything below the EOS on its port a. -/
def redDone (b : Block) (slot : Nat) : Bool :=
  match redAt? b slot with
  | none => true
  | some f =>
    let r := Tab.atD b.reds slot Red.zero
    let n := domCount b.bounds
    (closeEos b f slot r).due.isEmpty && (Nat.min ((eosOfA b slot).getD n) n).ble r.next

/-- A cycle of a reducing slot. -/
def Red.tick (r : Red) : Red := { r with left := r.left - 1, due := r.due.map (fun (n, x) => (n - 1, x)) }

/-! ### Shuffles -/

/-- The source of an output position of a shuffle: an element of a, zero, or null. -/
inductive Src where
  | elem (i : Nat)
  | zero
  | null
  deriving DecidableEq, Repr

/-- The firing of a shuffle (R199): once for the instance, at the positions that EOS has not resolved. -/
def fireShuffle (w64 : Bool) (c1 c0 : Cons) (src : Ctx → Nat → Src) (s : State) : Outcome :=
  match ctxOf? s s.cur with
  | none => .fault .noFiring
  | some c =>
    match readyWhole c.blk c.inst c.f.slot with
    | [] => .next s
    | es =>
      let get := fun i => match c.elem? 0 i with
        | some (.val _) => Elem.val (bif w64 then c.wide 0 i else zx32 (c.low 0 i))
        | _ => .null
      let out := es.map (fun e => (e, match src c e with
        | .elem i => get i
        | .zero => .val 0
        | .null => .null))
      .next (complete s c 2 es (both c1 c0 (runKind w64) out))

/-- Whether the predicate of an element is present, not null and true. -/
def predTrue (c : Ctx) (e : Nat) : Bool :=
  match c.elem? 3 e with
  | some (.val v) => v != 0
  | _ => false

/-- PERM (R200). -/
def execPerm (_idx : BitVec 5) (w64 : Bool) (c1 c0 : Cons) (s : State) : Outcome :=
  fireShuffle w64 c1 c0 (fun c e =>
    match c.elem? 1 e with
    | some (.val v) =>
      let i := v.toNat % 32
      bif c.inst.len.ble i then .zero else .elem i
    | _ => .null) s

/-- LROT (R200). -/
def execLrot (idx : BitVec 5) (w64 : Bool) (c1 c0 : Cons) (s : State) : Outcome :=
  fireShuffle w64 c1 c0 (fun c e => .elem ((e + idx.toNat) % c.inst.len)) s

/-- BCAST (R200). -/
def execBcast (idx : BitVec 5) (w64 : Bool) (c1 c0 : Cons) (s : State) : Outcome :=
  fireShuffle w64 c1 c0 (fun c _ => bif c.inst.len.ble idx.toNat then .zero else .elem idx.toNat) s

/-- COMPRESS (R200). -/
def execCompress (_idx : BitVec 5) (w64 : Bool) (c1 c0 : Cons) (s : State) : Outcome :=
  fireShuffle w64 c1 c0 (fun c e =>
    let sel := (elemsOf c.inst.len).filter (fun f => predTrue c f && (match c.elem? 0 f with
      | some (.val _) => true
      | _ => false))
    match sel[e]? with
    | some i => .elem i
    | none => .null) s

/-- EXPAND (R200). -/
def execExpand (_idx : BitVec 5) (w64 : Bool) (c1 c0 : Cons) (s : State) : Outcome :=
  fireShuffle w64 c1 c0 (fun c e =>
    bif predTrue c e then .elem (((elemsOf e).filter (predTrue c)).length) else .null) s

end Sys2Proof.Machine
end

