-- ==== Sys2Proof/Machine/Rounds.lean ====
section
/-!
DEFINITION. Sys2Proof/Machine/Rounds.lean: the round of a plot: its start (R98, R100, R103), instances, tokens on routes
(R107, R112-R115), end of stream between slots (R116), hedges (R114, R421, R422), the watchdog (R130), the bell (R12).
-/
namespace Sys2Proof.Machine

/-! ### The start of a round -/

/-- SETKs that wait, applied to the constant words (R133, R387). -/
def applySetks (b : Block) : Block :=
  { b with k := b.pendK.foldl (fun t (n, (v, _, _)) => Tab.put t n v 0) b.k, pendK := [] }

/-- The bounds of a block, from the constant words its descriptor names (R100). -/
def readBounds (b : Block) : List Nat := b.dom.map (fun n => (Tab.atD b.k n 0).toNat)

/-- A block at the start of a round (R100, R103, R198); where nothing is to be generated its generator stands at the end. -/
def startBlock (nothing : Bool) (b : Block) : Block :=
  let bounds := readBounds b
  { b with bounds := bounds, next := bif nothing then runCount bounds else 0, insts := [], early := [], eos := [], eosSent := [],
           succ := none, reds := [] }

/-- The sequential block of lowest BIDX of a cell (R98). -/
def firstSeq? (c : Cell) : Option Nat := (c.blocks.find? (fun (_, b) => b.seq)).map (·.1)

/-- The first block of a plot whose bounds multiply to more than 2^40 (R100): its cell and BIDX. A sequential block counts
as any other, at the start of the round alone (notes/assumptions/63.md). -/
def overDomain? (p : Plot) : Option (Nat × Nat) :=
  p.cells.findSome? (fun (k, c) => (c.blocks.find? (fun (_, b) => (2 ^ 40).blt (domCount (readBounds b)))).map (fun (i, _) => (k, i)))

/-- The start of a round (R98, R100, R103, R155): EXITC, the EOS registers and the generators are cleared, the on-chip headers
are unclaimed, bounds are read; a domain beyond 2^40 raises RSVFLD with TTAG 0 and TINFO 0 and generates nothing. DESIGN CHOICE
(notes/assumptions/68.md): a header that becomes unclaimed is wholly zero, OCC and GEN too. -/
def startRound (p : Plot) : Plot :=
  let beyond := overDomain? p
  let start := startBlock beyond.isSome
  let p := { p with
    running := true, round := p.round + 1, exitc := 0, idle := 0, rev := none, recQ := [],
    folds := p.folds.map (fun (k, f) => (k, { f with hdrs := [] })),
    cells := p.cells.map (fun (k, c) =>
      (k, { c with blocks := c.blocks.map (fun (i, b) => (i, start b)),
                   thread := { bidx := bif beyond.isSome then none else firstSeq? c, exited := false } })) }
  match beyond with
  | none => p
  | some (cell, bidx) => takeTrap p .rsvfld 0 0 (tcellOf p cell bidx 0) []

/-! ### Instances -/

/-- Whether a block's generator can create its next instance (R98, R100). -/
def canGenerate (p : Plot) (cell bidx : Nat) : Bool :=
  match Tab.at? p.cells cell with
  | none => false
  | some c => match Tab.at? c.blocks bidx with
    | none => false
    | some b =>
      p.live && b.next.blt (runCount b.bounds) &&
      (bif b.seq then c.thread.bidx == some bidx && !c.thread.exited && b.insts.isEmpty
       else !Tab.has b.insts (b.next % b.frames))

/-- The next instance of a block created, with the operands that came early (R100, R101, R107). -/
def generate (b : Block) : Block :=
  let b := bif b.seq then applySetks b else b
  let n := b.next
  let mine := b.early.filter (fun (k, _) => k / 256 == n)
  { b with next := n + 1, early := b.early.filter (fun (k, _) => k / 256 != n),
           insts := Tab.set b.insts (n % b.frames)
             { run := n, first := runFirst b.bounds n, len := runLen b.bounds n, ops := mine.map (fun (k, o) => (k % 256, o)),
               done := [], issued := [], held := [], stalled := [], nulls := [] } }

/-- INSTANCE_GENERATE (R100). -/
def execInstanceGenerate (plot cell bidx : Nat) (s : State) : Outcome :=
  .next (onPlot s plot (fun p => bif canGenerate p cell bidx then onBlock p cell bidx generate else p))

/-! ### Tokens (R106, R107, R112-R115) -/

/-- Where a route leaves its plot: the last site inside and the direction of the refused hop. -/
def leaves? (p : Plot) (x : Int × Int) : List Nat → Option ((Int × Int) × Nat)
  | [] => none
  | h :: t => bif siteIn p (hopFrom x h) then leaves? p (hopFrom x h) t else some (x, h)

/-- The hop at which a token's route crosses a hedge; streams deliver by the S-cell's drop and cross none. -/
def Token.hedge? (p : Plot) (t : Token) : Option ((Int × Int) × Nat) :=
  match Tab.at? p.routes t.route with
  | none => none
  | some r => leaves? p (cellSite (t.route / 64)) r.hops

/-- The hops of a route from a site that stay within its plot. -/
def hopsInside (p : Plot) (x : Int × Int) : List Nat → Nat
  | [] => 0
  | h :: t => bif siteIn p (hopFrom x h) then hopsInside p (hopFrom x h) t + 1 else 0

/-- Whether a token that meets a hedge has come to it. -/
def Token.meets (p : Plot) (t : Token) : Bool :=
  match Tab.at? p.routes t.route with
  | none => false
  | some r => t.left.ble (r.hops.length - hopsInside p (cellSite (t.route / 64)) r.hops)

/-- Whether the k-th token of a plot can arrive: its cell admits it, and every earlier token of its route waits there or is still on the
mesh, where a token for the oldest instance has passed it (R106); an EOS and a marker pass none (notes/assumptions/63.md). -/
def canArrive (p : Plot) (k : Nat) : Bool :=
  match p.tokens[k]? with
  | none => false
  | some t => match Tab.at? p.routes t.route with
    | none => false
    | some r => t.left == 0 && !p.frozen && p.stop != .freeze && (t.hedge? p).isNone &&
      (bif t.mark then !(p.tokens.take k).any (fun u => u.route == t.route)
       else admits p r.dst t && (List.range k).all (fun j => ((p.tokens[j]?).map (fun (u : Token) => u.route != t.route)).getD true ||
         (!t.eos && (waitsAt p r.dst j || (t.route.blt (2 ^ 20) && ((p.tokens[j]?).map (fun (u : Token) => u.ahead != 0)).getD false)))))

/-- The tokens without the k-th. -/
def dropToken (p : Plot) (k : Nat) : Plot := { p with tokens := p.tokens.take k ++ p.tokens.drop (k + 1) }

/-- TOKEN_ARRIVAL (R107, R116): the k-th token of a plot reaches its cell; one with EOS sets the port's register. -/
def execTokenArrival (plot k : Nat) (s : State) : Outcome :=
  .next (onPlot s plot (fun p =>
    match p.tokens[k]? with
    | none => p
    | some t =>
      bif canArrive p k && !t.mark then
        match Tab.at? p.routes t.route with
        | none => p
        | some r =>
          let q := dropToken p k
          bif t.eos then recordEos q r.dst t.bidx t.slot t.port t.tag
          else arrive q r.dst t.bidx t.slot t.port t.kind t.tag t.elems
      else p))

/-- EOS_ARRIVAL (R116): an EOS on its way to a port of a cell is recorded. -/
def execEosArrival (plot cell bidx slot port tag : Nat) (s : State) : Outcome :=
  .next (onPlot s plot (fun p =>
    let x : EosTok := { cell := cell, bidx := bidx, slot := slot, port := port, tag := tag, left := 0 }
    bif p.eosQ.contains x && !p.frozen then recordEos { p with eosQ := dropFirst x p.eosQ } cell bidx slot port tag else p))

/-- MARKER_ARRIVAL (R115, R423): the marker of a route reaches the wave logic of its cell. -/
def execMarkerArrival (plot k : Nat) (s : State) : Outcome :=
  .next (onPlot s plot (fun p =>
    match p.tokens[k]?, p.wave with
    | some t, some w => bif canArrive p k && t.mark then { dropToken p k with wave := some { w with arrived := t.route :: w.arrived } } else p
    | _, _ => p))

/-! ### Hedges (R114, R421, R422) -/

/-- The code of a kind (R111). -/
def kindCode : Kind → Nat
  | .s32 => 0 | .s64 => 1 | .r32 => 2 | .r64 => 3 | .tile => 4

/-- Bits 63 to 0 of the head flit of a token (R110). -/
def tokenHeader (t : Token) : Dword :=
  let len := bif t.eos || t.mark then 0 else ((t.elems.getLast?).map (·.1)).getD 0
  dw (at_ (t.tag % 2 ^ 40) 24 + at_ t.slot 18 + at_ t.port 16 + at_ t.bidx 12 + at_ len 7 + at_ (bif t.eos then 1 else 0) 6 +
    at_ (bif t.mark then 1 else 0) 5 + kindCode t.kind)

/-- The plot that holds a site of a die; the Reeve's plot lies on none (R452). -/
def plotAt? (s : State) (die : Nat) (x y : Int) : Option Plot :=
  (s.plots.find? (fun (_, p) => p.role != .reeve && p.die == die && decide ((p.x : Int) ≤ x ∧ x < ((p.x + p.w : Nat) : Int) ∧ (p.y : Int) ≤ y ∧
    y < ((p.y + p.h : Nat) : Int)))).map (·.2)

/-- The report of a token dropped at a hedge (R421). -/
def hedgeWords (s : State) (p : Plot) (t : Token) (site : Int × Int) (dir : Nat) : List Dword :=
  let x := (p.x : Int) + site.1
  let y := (p.y : Int) + site.2
  let beyond := hopFrom (x, y) dir
  [dw (at_ s.hedgeSeq.toNat 32 + at_ (t.route % 64) 24 + at_ dir 22 + at_ p.die 20 + at_ x.toNat 14 + at_ y.toNat 8), plotWord p,
   (match plotAt? s p.die beyond.1 beyond.2 with
    | some q => plotWord q
    | none => 0), tokenHeader t, s.time, 0, 0, 0]

/-- HEDGE_DROP (R114, R421, R422): the k-th token of a plot meets a hedge and is dropped: a report to VI 0 and to the VI of
the sender, which also receives a HEDGE record; the plot goes on. -/
def execHedgeDrop (plot k : Nat) (s : State) : Outcome :=
  match Tab.at? s.plots plot with
  | none => .next s
  | some p => match p.tokens[k]? with
    | none => .next s
    | some t => match t.hedge? p with
      | none => .next s
      | some (site, dir) =>
        bif !t.meets p || p.frozen || p.stop == .freeze then .next s
        else
          let s := { s with hedgeSeq := s.hedgeSeq + 1 }
          let ws := hedgeWords s p t site dir
          let s := putHedge s 0 ws
          let s := bif p.vi == 0 then s else putHedge s p.vi ws
          let s := raiseRecord s p.vi .hedge t.tag (dw (at_ s.hedgeSeq.toNat 32))
            (tcellOf p (t.route / 64) (t.sender / 64) (t.sender % 64)) (plotWord p)
          .next (onPlot s plot (fun p => dropToken p k))

/-! ### The watchdog (R130, R448) -/

/-- A blocked item: its tag, cell, BIDX, slot and port, in the order of the record. -/
abbrev Blocked := Nat × Nat × Nat × Nat × Nat

/-- Whether a blocked item comes before another: ascending tag, then (y, x, BIDX, slot). -/
def Blocked.before (a b : Blocked) : Bool :=
  a.1.blt b.1 || (a.1 == b.1 && (a.2.1.blt b.2.1 || (a.2.1 == b.2.1 && (a.2.2.1.blt b.2.2.1 || (a.2.2.1 == b.2.2.1 &&
    a.2.2.2.1.blt b.2.2.2.1)))))

/-- An item put in its place among sorted items. -/
def insertBlocked (x : Blocked) : List Blocked → List Blocked
  | [] => [x]
  | y :: t => bif Blocked.before x y then x :: y :: t else y :: insertBlocked x t

/-- Whether an issued firing waits with all its operands present (R130): an M.PUSH, and a REVERSE whose record in progress has stalled
(R242). -/
def waitsIssued (p : Plot) (b : Block) (i : Inst) (cell bidx slot : Nat) : Bool :=
  let op := field ((b.words[slot]?).getD 0) 31 24
  op == 0xDC || (op == 0xC3 && p.rev.any (fun r => r.next.isSome && r.left == 0 && r.firing.cell == cell && r.firing.bidx == bidx &&
    r.firing.slot == slot && (Tab.at? b.insts r.firing.frame).any (fun x => x.run == i.run)))

/-- The blocked items of a slot of an instance: the elements that lack an operand and have another, and what is stalled with all its
operands: an element, or, of a form that fires once for its instance, the instance. What a reducing slot keeps out of its window is
listed with the run it waits for (R94). -/
def blockedSlot (p : Plot) (b : Block) (i : Inst) (cell bidx slot : Nat) : List Blocked :=
  let ports := portsOf (Tab.atD b.reads slot 0)
  let absent := fun e => ports.filter (fun q => !holds i slot q e)
  let es := (elemsOf i.len).filter (fun e => (Tab.atD i.held slot 0).getLsbD e || (!resolved b i slot e &&
    (!(Tab.atD i.issued slot 0).getLsbD e || waitsIssued p b i cell bidx slot)))
  let whole := es.filter (fun e => (absent e).isEmpty)
  let partly := es.filterMap (fun e => match absent e with
    | [] => none
    | q :: l => bif (q :: l).length.blt ports.length then some (i.first + e, cell, bidx, slot, q) else none)
  partly ++ (match (b.words[slot]?).map decode with
    | some (.ok f) => bif (redForm? f).isSome then []
        else bif elementWise f then whole.map (fun e => (i.first + e, cell, bidx, slot, 3))
        else bif !es.isEmpty && whole.length == es.length then [(i.first, cell, bidx, slot, 3)] else []
    | _ => [])

/-- The blocked item of a reducing slot: it holds values, or keeps values out, and waits for a run that is missing, whose first tag the
item names (R94). -/
def blockedRed? (b : Block) (cell bidx slot : Nat) : Option Blocked :=
  match redAt? b slot with
  | none => none
  | some f =>
    let r := Tab.atD b.reds slot Red.zero
    let waits := !r.window.isEmpty || scopeStart b.bounds (f.row && !f.scan) r.next != r.next ||
      b.insts.any (fun (_, i) => !(readyElems b i slot).isEmpty)
    bif waits && r.next.blt (domCount b.bounds) && belowEos r.next (eosOfA b slot) && !canCombine b slot r then
      some (runFirst b.bounds (runOf b.bounds r.next), cell, bidx, slot, 3)
    else none

/-- The blocked items of a plot, in order. -/
def blockedItems (p : Plot) : List Blocked :=
  (p.cells.flatMap (fun (k, c) => c.blocks.flatMap (fun (n, b) =>
    b.insts.flatMap (fun (_, i) => (List.range b.words.length).flatMap (blockedSlot p b i k n)) ++
    (List.range b.words.length).filterMap (blockedRed? b k n)))).foldl (fun l x => insertBlocked x l) []

/-- An entry of a NOPROG record (R130). -/
def noprogEntry (x : Blocked) : Dword :=
  dw (at_ (x.2.1 % 64) 58 + at_ (x.2.1 / 64) 52 + at_ x.2.2.1 48 + at_ x.2.2.2.1 42 + at_ x.2.2.2.2 40 + x.1 % 2 ^ 40)

/-- Whether an instance or a sequential thread of a plot is live. -/
def hasLive (p : Plot) : Bool :=
  p.cells.any (fun (_, c) => c.thread.bidx.isSome || c.blocks.any (fun (_, b) => !b.insts.isEmpty))

/-- The limit of the watchdog; none where it is disabled. -/
def wdtLimit? (p : Plot) : Option Nat :=
  let n := field p.wdt 31 0
  bif n == 0 then none else some (Nat.max 0x10000 n)

/-- Whether the watchdog of a plot has run out. -/
def watchdogDue (p : Plot) : Bool :=
  p.live && hasLive p && (match wdtLimit? p with
    | none => false
    | some n => n.ble p.idle)

/-- WATCHDOG_NOPROG (R130, R448). -/
def execWatchdogNoprog (plot : Nat) (s : State) : Outcome :=
  .next (onPlot s plot (fun p =>
    bif watchdogDue p then
      let l := (blockedItems p).take 8
      match l with
      | [] => takeTrap p .noprog 0 0 0 []
      | x :: _ => takeTrap p .noprog x.1 (dw l.length) (tcellOf p x.2.1 x.2.2.1 x.2.2.2.1) (l.map noprogEntry)
    else p))

/-- A cycle of the watchdog of a plot (R130): a firing in it resets the count, else it is one more; `held` while the watchdog does not
count. -/
def countIdle (held : Bool) (p : Plot) : Plot :=
  bif p.fired then { p with fired := false, idle := 0 }
  else bif !held && p.live && hasLive p then { p with idle := p.idle + 1 } else p

/-! ### The bell (R12, R395) -/

/-- BELL_MARK (R12, R395, R464): a bell period begins with slot 0, pending writes of the calendar take effect, and the clock is halved or
restored where that is due. -/
def execBellMark (s : State) : Outcome :=
  .next { s with bell := s.bellNext.foldl (fun t (n, v) => Tab.put t n v 0) s.bell, bellNext := [], bellAt := s.time.toNat, thr := s.thrNext.getD s.thr, thrNext := none }

end Sys2Proof.Machine
end

