-- ==== Sys2Proof/Machine/Pools.lean ====
section
/-!
DEFINITION. Sys2Proof/Machine/Pools.lean: continuation records and the pools that hold them (R377-R379), where a record
is placed (R468, R370), its completion (R386), and jobs (R388).
-/
namespace Sys2Proof.Machine

/-! ### Records and handles (R377, R378) -/

/-- The key of a pool: 512 × die + VI. -/
def poolKey (die v : Nat) : Nat := 512 * die + v

/-- The key of a record: its pool and its slot. -/
def recKey (die v slot : Nat) : Nat := 65536 * poolKey die v + slot

def recVi (k : Nat) : Nat := k / 65536 % 512
def recDie (k : Nat) : Nat := k / 65536 / 512
def recSlot (k : Nat) : Nat := k % 65536

/-- The generation of a slot. -/
def recGen (s : State) (k : Nat) : Nat := Tab.atD s.recGens k 1

/-- The task handle of a slot (R378). -/
def taskHandle (s : State) (k : Nat) : Dword := dw (at_ (recGen s k) 56 + at_ (recDie k % 4) 54 + at_ (recVi k) 45 + recSlot k)

/-- The record that a handle names for a VI, where the handle is live (R378). -/
def liveRec? (s : State) (v : Nat) (h : Dword) : Option (Nat × Rec) :=
  let k := recKey (field h 55 54) (field h 53 45) (field h 15 0)
  if field h 44 16 = 0 ∧ field h 53 45 = v ∧ field h 63 56 = recGen s k then (Tab.at? s.recs k).map (fun r => (k, r)) else none

/-- The words of a record (R377). -/
def recWords (r : Rec) : List Dword :=
  [dw r.code, dw r.args, dw (at_ r.lo 24 + r.join), dw (at_ r.hi 24 + at_ r.prio 20),
   dw (at_ r.grain 24 + at_ (bif r.image.isSome then 1 else 0) 7 + at_ (bif r.root then 1 else 0) 6 +
     at_ (bif r.anydie then 1 else 0) 5 + r.wsn), r.parent, dw r.wsd, r.tag]

/-- A record as its words give it, for a job. -/
def recOf (ws : List Dword) (job : Nat) : Rec :=
  let w := fun (i : Nat) => ((ws[i]?).getD 0 : Dword)
  { code := field (w 0) 56 0, args := field (w 1) 56 0, lo := field (w 2) 63 24, hi := field (w 3) 63 24, join := field (w 2) 23 0,
    prio := field (w 3) 23 20, grain := field (w 4) 63 24, root := false, anydie := (w 4).getLsbD 5, wsn := field (w 4) 2 0,
    parent := w 5, wsd := field (w 6) 56 0, tag := w 7, key := 0, job := job, image := none, running := false, bound := none,
    decl := 0, line := 0, open_ := false, turn := 0, charged := 0, areas := [], src := [], born := 0 }

/-- The first offending word and bit of a record's words (R377, R399): reserved bits, IMG, ROOT, WSN above 4, HI below LO; of
a record that a host writes also alignment (R382). -/
def badRecordWords? (host : Bool) (ws : List Dword) : Option (Nat × Nat) :=
  let w := fun (i : Nat) => ((ws[i]?).getD 0 : Dword)
  let one := fun (i : Nat) (l : List (Option Nat)) => (lowestBit l).map (fun b => (i, b))
  let also := fun (b : Option Nat) => bif host then b else none
  [one 0 [badZero? (w 0) 63 57, also (badZero? (w 0) 5 0)], one 1 [badZero? (w 1) 63 57, also (badZero? (w 1) 2 0)],
   one 3 [badZero? (w 3) 19 0, badUnless? ((field (w 2) 63 24).ble (field (w 3) 63 24)) 24],
   one 4 [badZero? (w 4) 23 6, badZero? (w 4) 4 3, badUnless? ((field (w 4) 2 0).ble 4) 0],
   one 6 [badZero? (w 6) 63 57, also (badZero? (w 6) 3 0)]].findSome? id

/-- The base of a pool and its slots; none where it is disabled (R379). -/
def poolOf? (s : State) (die v : Nat) : Option (Nat × Nat) :=
  let w := Tab.atD (viOf s v).poolmem die 0
  bif field w 56 12 == 0 then none else some (field w 56 12 * 4096, 2 ^ (field w 3 0 + 6))

/-- The copy of a record in its pool's memory, with the slot's state word, whose content is the scheduler's own (R378). -/
def writeRec (s : State) (k : Nat) : State :=
  match Tab.at? s.recs k, poolOf? s (recDie k) (recVi k) with
  | some r, some (base, n) =>
    let s := (hubStore? s (recVi k) (base + 64 * recSlot k) (recWords r)).getD s
    let (i, s) := draw s
    (hubStore? s (recVi k) (base + 64 * n + 8 * recSlot k) [Config.freeWord i]).getD s
  | _, _ => s

/-- A change of a record. -/
def onRec (s : State) (k : Nat) (g : Rec → Rec) : State := writeRec { s with recs := Tab.upd s.recs k g } k

/-- The lowest free slot of a pool. -/
def freeSlot? (s : State) (die v : Nat) : Option Nat :=
  match poolOf? s die v with
  | none => none
  | some (_, n) => ((List.range n).find? (fun i => !Tab.has s.recs (recKey die v i))).map (recKey die v)

/-- A record put into a slot, with an order key. -/
def putRec (s : State) (k : Nat) (r : Rec) : State :=
  let s := { s with recs := Tab.set s.recs k r, jobs := Tab.upd s.jobs r.job (fun j => { j with live := j.live + 1 }) }
  writeRec s k

/-! ### Staged sets (R394) -/

/-- SQUOTA.USED changed. -/
def addUsed (s : State) (v : Nat) (d : Int) : State :=
  onVi s v (fun vi => { vi with squota := dw (at_ ((((field vi.squota 47 32 : Nat) : Int) + d).toNat % 2 ^ 16) 32 + field vi.squota 31 0) })

/-- A record's staged set discarded: its quota, its areas, its binding (R394). -/
def unstage (s : State) (k : Nat) : State :=
  match Tab.at? s.recs k with
  | none => s
  | some r =>
    let s := bif r.charged == 0 then s else addUsed s (recVi k) (-(r.charged : Int))
    { s with recs := Tab.set s.recs k { r with charged := 0, bound := none, areas := [], open_ := false, line := 0, decl := 0 } }

/-! ### Completion of a record (R386) -/

/-- A saved image that nothing will resume (R388, R401): its barriers are written back, its endpoints leave their groups. -/
def discardImage (s : State) (i : Nat) : State :=
  match Tab.at? s.images i with
  | none => s
  | some im =>
    if im.live then
      let s := im.plot.barriers.foldl (fun s (pa, b) => postPa s im.plot.vi pa 8 b.word) s
      let s := im.plot.endpoints.foldl (fun s (_, x) => x.members.foldl (fun s (key, m) =>
        onGroup s key (fun g => { g with members := Tab.upd g.members m.midx (fun b => { b with state := 2 }) })) s) s
      { s with images := Tab.upd s.images i (fun im => { im with live := false }) }
    else s

/-- A slot freed: the record goes and the generation advances, 255 to 1. -/
def freeRec (s : State) (k : Nat) : State :=
  match Tab.at? s.recs k with
  | none => s
  | some r =>
    let g := recGen s k
    let s := match r.image with
      | some i => discardImage s i
      | none => s
    { unstage s k with
        recs := Tab.del s.recs k, recGens := Tab.set s.recGens k (if g = 255 then 1 else g + 1),
        jobs := Tab.upd s.jobs r.job (fun j => { j with live := j.live - 1 }) }

/-- A record completes: its slot is freed and its parent's JOIN lowered; a parent that becomes ready with HI = LO completes at
once; a decrement that finds no record waiting is dropped and counted in JOINLOST. -/
def completeRec : (fuel : Nat) → State → Nat → (dec : Bool) → State
  | 0, s, _, _ => s
  | fuel + 1, s, k, dec =>
    match Tab.at? s.recs k with
    | none => s
    | some r =>
      let s := freeRec s k
      bif !dec || r.parent == 0 then s
      else match liveRec? s (recVi k) r.parent with
        | none => onVi s (recVi k) (fun vi => { vi with joinlost := satInc vi.joinlost })
        | some (pk, p) =>
          bif p.running || p.join == 0 then onVi s (recVi k) (fun vi => { vi with joinlost := satInc vi.joinlost })
          else
            let s := onRec s pk (fun p => { p with join := p.join - 1 })
            bif p.join == 1 && p.lo == p.hi then completeRec fuel s pk true else s

/-- A record completes; the chain of parents is no longer than the records. -/
def finishRec (s : State) (k : Nat) (dec : Bool) : State := completeRec (s.recs.length + 1) s k dec

/-! ### Jobs (R388) -/

/-- A job fails (R388): its records in pools go, no parent lowered, and nothing more of it is dispatched or placed; its first
cause stands. -/
def failJob (s : State) (j : Nat) (cause : Nat) : State :=
  match Tab.at? s.jobs j with
  | none => s
  | some job =>
    bif job.cause.isSome then s
    else
      let s := onJob s j (fun job => { job with cause := some cause })
      (s.recs.filter (fun (_, r) => r.job == j && !r.running)).foldl (fun s (k, _) => freeRec s k) s

/-- Whether a record is ready (R385): none of a job that has failed but the saved round of one, which continues to its end (R388, R389). -/
def Rec.ready (s : State) (r : Rec) : Bool :=
  r.join == 0 && !r.running && (match Tab.at? s.jobs r.job with
    | some j => j.cause.isNone || r.image.isSome
    | none => false)

/-! ### Placement (R370, R468) -/

/-- What reading a graph image's header and group records meets (R468). -/
inductive ImageRead where
  | ok (s : State) (pin : Bool) (pdie : Nat) (groups : List (Nat × Nat))
  | fault (cause : Cause) (info : Dword)
  | wait
  deriving DecidableEq, Repr

/-- An Acc of R468 as an ImageRead. -/
def readFault (cause : Cause) (why va : Nat) : ImageRead := .fault cause (infoMem 4 why va)

/-- The image header and group records at CODE read as an acquire at module scope (R468). -/
def readImageHead (s : State) (v code : Nat) : ImageRead :=
  if code % 64 ≠ 0 then readFault .align 0 code
  else match hubRead s v code 8 with
    | .wait _ => .wait
    | .fault c w a => readFault c w a
    | .ok s h =>
      let w := fun (i : Nat) => ((h[i]?).getD 0 : Dword)
      match hubRead s v (code + field (w 5) 31 0 / 8 * 8) (2 * field (w 1) 15 8) with
      | .wait _ => .wait
      | .fault c w a => readFault c w a
      | .ok s gs =>
        .ok s ((w 0).getLsbD 43) (field (w 0) 42 41) ((List.range (field (w 1) 15 8)).map (fun i =>
          (field ((gs[2 * i]?).getD 0) 56 12 * 4096, (field ((gs[2 * i + 1]?).getD 0) 11 0 + 1) * 4096)))

/-- The groups of an image made for a VI in record order (R370): their handles; none where one cannot be made, those made
before freed again. -/
def makeGroups (s : State) (v : Nat) : List (Nat × Nat) → List Word → State × Option (List Word)
  | [], hs => (s, some hs)
  | (va, bytes) :: t, hs =>
    let made := bif poundOk s v va bytes then makeGroup? s v va bytes else none
    match made with
    | some (s, key) => makeGroups s v t (hs ++ [groupHandle key (groupGen s key)])
    | none => (hs.foldl (fun s h => (freeGroup s (groupKey v (field h 21 11)) true).1) s, none)

/-- What the first placement of a job's record that names an image does (R370, R468). -/
inductive Placing where
  | ok (s : State) (im : JobImage)
  | refused (s : State)
  | wait
  deriving DecidableEq, Repr

/-- The plot word of a record that concerns no plot: its VI alone. -/
def viWord (v : Nat) : Dword := dw (at_ v 32)

/-- The image of a job's record: kept from an earlier placement, or read and its groups made; a fault or a group that cannot
be made fails the job with one trap record. -/
def jobImage (s : State) (j code : Nat) : Placing :=
  match Tab.at? s.jobs j with
  | none => .wait
  | some job =>
    match Tab.at? job.images code with
    | some im => .ok s im
    | none =>
      match readImageHead s job.vi code with
      | .wait => .wait
      | .fault cause info => .refused (raiseRecord (failJob s j (causeCode cause)) job.vi cause 0 info 0 (viWord job.vi))
      | .ok s pin pdie gs =>
        match makeGroups s job.vi gs [] with
        | (s, none) => .refused (raiseRecord (failJob s j 0x41) job.vi .gperm 0 (infoGroup 0 2) 0 (viWord job.vi))
        | (s, some hs) =>
          let im : JobImage := { pin := pin, pdie := pdie, handles := hs }
          .ok (onJob s j (fun job => { job with images := Tab.set job.images code im })) im

/-- The slot that R468 gives a record: in the pool of PDIE where its image is pinned; else in the pool of `die`, or where that
is full and the record may go to any die, of the lowest die that has a free slot. -/
def slotFor? (s : State) (v : Nat) (im : JobImage) (die : Nat) (any : Bool) : Option Nat :=
  bif im.pin then freeSlot? s im.pdie v
  else match freeSlot? s die v with
    | some k => some k
    | none => bif any then [0, 1, 2, 3].findSome? (fun d => freeSlot? s d v) else none

/-- A record placed in a slot with the next order key of its pool (R385), and the moment of its placement. -/
def placeAt (s : State) (k : Nat) (r : Rec) : State :=
  let pool := k / 65536
  let n := Tab.atD s.placed pool 0
  putRec { s with placed := Tab.set s.placed pool (n + 1) } k { r with key := n, born := s.time.toNat }

/-- A record that is ready at once with HI = LO completes (R385). -/
def settleRec (s : State) (k : Nat) : State :=
  match Tab.at? s.recs k with
  | none => s
  | some r => bif r.join == 0 && r.lo == r.hi then finishRec s k true else s

end Sys2Proof.Machine
end

