-- ==== Sys2Proof/Machine/Loader.lean ====
section
/-!
DEFINITION. Sys2Proof/Machine/Loader.lean: the configuration of a plot (R61-R65, R145, R257, R260, R261, R385): where it
lies, what the loader reads and checks, what stands in it afterwards; and its release (R121, R342, R394, R405).
-/
namespace Sys2Proof.Machine

/-! ### Release of a plot -/

/-- The SIGs forwarded to a plot and not yet applied, applied (R122, R123). -/
def settleArrivals (s : State) (key : Nat) : State :=
  match Tab.at? s.plots key with
  | none => s
  | some p => p.arrivals.foldl (fun s x =>
      if Tab.has p.barriers x.pa then onPlot s key (fun p => { p with barriers := Tab.upd p.barriers x.pa (fun b => b.arrive x.n) })
      else arriveInMemory s p.vi x.pa x.n) (onPlot s key (fun p => { p with arrivals := [] }))

/-- The streams of a plot closed, what they have not performed discarded. -/
def dropStreams (s : State) (key : Nat) : State :=
  (streamsOf s key).foldl (fun s (port, ctx, t) => closeStream s port ctx t) s

/-- Staged sets of records bound to a plot discarded (R394). -/
def unbind (s : State) (key : Nat) : State :=
  (s.recs.filter (fun (_, r) => r.bound == some key)).foldl (fun s (k, _) => unstage s k) s

/-- The regions that a plot's owner entries gave it have no owner any more (R261). -/
def dropOwners (s : State) (key v : Nat) : State :=
  onVi s v (fun vi => { vi with owners := vi.owners.filter (fun (_, o) => o.plot != key) })

/-- A plot leaves the fabric: its streams are closed, its staged sets discarded, its regions left without owner. Its group
memberships and cached barriers stay as they are. -/
def removePlot (s : State) (key : Nat) : State :=
  match Tab.at? s.plots key with
  | none => s
  | some p =>
    let s := dropOwners (unbind (dropStreams s key) key) key p.vi
    { s with plots := Tab.del s.plots key, pins := s.pins.filter (fun x => x.by_ != .plot key),
             pcells := s.pcells.map (fun (n, c) => (n, { c with misses := c.misses.filter (fun m => m.who.plot != some key),
                                                                watches := c.watches.filter (fun w => w.plot != key) })) }

/-- A plot released (R121, R385, R405). -/
def releasePlot (s : State) (key : Nat) : State := removePlot (leaveAll (writeBarriers (settleArrivals s key) key) key) key

/-! ### The place of a plot (R257, R385) -/

/-- A plot as configuration leaves it, before anything is loaded. -/
def Plot.empty (die x y w h v code : Nat) (role : Role) (ports : List Dword) : Plot :=
  { die := die, x := x, y := y, w := w, h := h, vi := v, code := code, role := role, running := false, round := 0, frozen := false,
    stop := .none, withdrawn := false, wave := none, ports := ports, cells := [], near := [], folds := [], routes := [], tokens := [], eosQ := [], links := [],
    logs := [], groups := [], fixups := [], items := [], stale := 0, trap := none, tcause := 0, ttag := 0, tinfo := 0,
    tcell := 0, numst := 0, srseed := 0, wdt := 0x01000000, ratetrap := 0, exitc := 0, logst := 0,
    logpos := 0xFFFFFFFF, logseg := 0xFFFFFFFF00000000, rev := none, recQ := [], idle := 0, fired := false, trapNow := false, barriers := [], arrivals := [], bgen := 0,
    endpoints := [], task := none, inh := false, failed := none, yield := false, used := 0, subject := none, scrub := false }

/-- Whether the rectangles of two plots of the fabric meet. -/
def Plot.overlaps (p q : Plot) : Bool :=
  p.die == q.die && p.role != .reeve && q.role != .reeve && meets p.x (p.x + p.w) q.x (q.x + q.w) && meets p.y (p.y + p.h) q.y (q.y + q.h)

/-- The P-cells that a plot holds grants on. -/
def grantPorts (p : Plot) : List Nat :=
  (p.ports.filter (fun e => entryType e == 0)).map (fun e => portKeyOf p.die (field e 61 60) (field e 59 55))

/-- Whether the grants of a plot fit beside those of the configured plots (R257). -/
def grantsFit (s : State) (p : Plot) : Bool :=
  (grantPorts p).all (fun port =>
    let (c, l) := s.plots.foldl (fun (c, l) (_, q) => (c + (grantOf q port).1, l + (grantOf q port).2)) (grantOf p port)
    c.ble 16 && l.ble 256)

/-- Whether a plot can be configured at its place. -/
def placeFree (s : State) (p : Plot) : Bool :=
  !s.plots.any (fun (_, q) => p.overlaps q) && grantsFit s p

/-- The places of a plot of an image on a die, in order: the pinned origin, or every origin by row and column (R5, R385). -/
def placesOf (p : Plot) (pin : Option (Nat × Nat)) : List Plot :=
  match pin with
  | some (x, y) => [{ p with x := x, y := y }]
  | none => (List.range 12).flatMap (fun y => (List.range 12).filterMap (fun x =>
      bif (4 * x + p.w).ble 48 && (4 * y + p.h).ble 48 then some { p with x := 4 * x, y := 4 * y } else none))

/-- The first free place of a plot. -/
def firstPlace? (s : State) (p : Plot) (pin : Option (Nat × Nat)) : Option Plot := (placesOf p pin).find? (placeFree s)

/-- Whether a plot is idle (R385): configured with a graph, running no round, not frozen, nothing begun on it. -/
def Plot.isIdle (p : Plot) : Bool := p.role == .graph && !p.running && !p.frozen && p.stop == .none && p.wave.isNone

/-- The idle plot that is released next to make room for a VI: its own first, least recently used first (R385). -/
def nextVictim? (s : State) (v : Nat) : Option Nat :=
  (s.plots.filter (fun (_, p) => p.isIdle)).foldl (fun (m : Option (Nat × Bool × Nat)) (k, p) =>
    let own := p.vi == v
    match m with
    | none => some (k, own, p.used)
    | some (k', own', used') => bif (own && !own') || (own == own' && p.used.blt used') then some (k, own, p.used) else some (k', own', used'))
    none |>.map (·.1)

/-- A place for a plot, idle plots released until there is one; none where there is none even then, nothing released. -/
def makePlace : (fuel : Nat) → State → Plot → Option (Nat × Nat) → Option (State × Plot)
  | 0, s, p, pin => (firstPlace? s p pin).map (fun q => (s, q))
  | fuel + 1, s, p, pin =>
    match firstPlace? s p pin with
    | some q => some (s, q)
    | none => match nextVictim? s p.vi with
      | none => none
      | some k => makePlace fuel (releasePlot s k) p pin

/-! ### Reading an image -/

/-- What the loader finds at CODE. -/
inductive ImageFound where
  | ok (s : State) (img : List Dword)
  | fault (cause : Cause) (why va : Nat)
  | bad (head : List Dword) (word bit : Nat)
  | wait
  deriving DecidableEq, Repr

/-- The image at CODE read as an acquire at module scope. Where it cannot be read to its end, a fault that its header shows
comes first. -/
def readImage (s : State) (v code : Nat) : ImageFound :=
  match hubRead s v code 8 with
  | .wait _ => .wait
  | .fault c w a => .fault c w a
  | .ok s h =>
    match hubRead s v code (Nat.max 8 ((field ((h[2]?).getD 0) 31 0 + 7) / 8)) with
    | .wait _ => .wait
    | .ok s img => .ok s img
    | .fault c w a => match firstFault (headerFaults h) with
      | some (w, b) => .bad h w b
      | none => .fault c w a

/-- Dwords of an image replaced from a dword on. -/
def splice (img : List Dword) (i : Nat) (ws : List Dword) : List Dword :=
  (img.take i ++ ws ++ img.drop (i + ws.length)).take img.length

/-- A change of a job queue. -/
def onQueue (s : State) (v q : Nat) (g : JobQueue → JobQueue) : State :=
  onVi s v (fun vi => { vi with queues := Tab.updD vi.queues q JobQueue.reset g })

/-- The block entries of an image as a job queue sees them (R322): each whole, from memory or as the queue has it cached,
which is a free choice; what is read is cached. The first word of a cached item is the mask of the queues for which a SYNC.CODE has covered
it; `old` gathers those of the items used. -/
def patchBlocks (s : State) (v q code : Nat) (img : List Dword) (old : Nat) : (n off : Nat) → State × List Dword × Nat
  | 0, _ => (s, img, old)
  | n + 1, off =>
    let fresh := imgDwords img off (((imgBlock img off).2 - off) / 8)
    let cache := (Tab.atD (viOf s v).queues q JobQueue.reset).cache
    let (i, s) := draw s
    match Tab.at? cache (code + off) with
    | some (m :: ws) =>
      bif Config.freeChoice i then patchBlocks s v q code (splice img (off / 8) ws) (old ||| m.toNat) n (off + 8 * ws.length)
      else patchBlocks (onQueue s v q (fun j => { j with cache := Tab.set j.cache (code + off) (0 :: fresh) })) v q code img old n (imgBlock img off).2
    | _ => patchBlocks (onQueue s v q (fun j => { j with cache := Tab.set j.cache (code + off) (0 :: fresh) })) v q code img old n (imgBlock img off).2

/-- The image as the job queue of a job sees it, and the queues whose launches it is too old for; a handler's and the Reeve's come from
memory. -/
def queueImage (s : State) (v : Nat) (queue : Option Nat) (code : Nat) (img : List Dword) : State × List Dword × Nat :=
  match queue, firstFault (headerFaults img) with
  | some q, none => patchBlocks s v q code img 0 (field ((img[1]?).getD 0) 63 48) (field ((img[3]?).getD 0) 63 32)
  | _, _ => (s, img, 0)

/-! ### Regions (R260, R261) -/

/-- The enabled regions of a table's words. -/
def regionsOf (ws : List Dword) : Tab (Nat × Nat) :=
  (List.range 256).filterMap (fun i =>
    let w0 := (ws[2 * i]?).getD 0
    let w1 := (ws[2 * i + 1]?).getD 0
    bif w0.getLsbD 63 then some (i, field w0 56 12 * 4096, (field w1 39 0 + 1) * 4096) else none)

/-- The region table of a VI (R260). -/
def readRegions (s : State) (v : Nat) : Acc (Tab (Nat × Nat)) :=
  let base := vaOf (viOf s v).rgntab
  if (viOf s v).rgntab = 0 then .ok s []
  else if base % 8 ≠ 0 then .fault .align 0 base
  else match hubRead s v base 512 with
    | .ok s ws => .ok s (regionsOf ws)
    | .fault c w a => .fault c w (base + (a - base) / 16 * 16)
    | .wait s => .wait s

/-- Whether two regions of a table meet. -/
def regionsMeet (t : Tab (Nat × Nat)) : Bool :=
  t.any (fun (i, (b, n)) => t.any (fun (j, (b', n')) => i.blt j && meets b (b + n) b' (b' + n')))

/-- The owner entries of a port table: region and P-cell. -/
def ownersOf (p : Plot) : List (Nat × Nat) :=
  (p.ports.filter (fun e => entryType e == 3)).map (fun e => (field e 61 54, portKeyOf p.die (field e 53 52) (field e 51 47)))

/-! ### Loading -/

/-- What a configuration answers: the plot; a failure, with its cause, TINFO, TCELL and plot word; a wait. -/
inductive Loaded where
  | ok (s : State) (key : Nat)
  | failed (s : State) (cause : Cause) (info cell pw : Dword)
  | wait
  deriving DecidableEq, Repr

/-- A failure that concerns a plot in the making. -/
def loadFault (s : State) (p : Plot) (cause : Cause) (info : Dword) (cell : Nat) : Loaded :=
  .failed s cause info (tcellOf p cell 0 0) (plotWord p)

/-- The context under which configuration reaches memory for a far fold, with the features of the fold's producer. -/
def loadCtx (key : Nat) (p : Plot) (f : Fold) : Ctx :=
  { f := { plot := key, cell := 0, bidx := 0, slot := 0, frame := 0 }, plot := p,
    blk := (producer? p f.sid).getD
      { gblk := 0, frames := 1, base := 0, seq := false, dom := [], exits := 0, step := 0, feat := 0, words := [], k := [],
        names := [], reads := [], flags := [], bounds := [], next := 0, insts := [], early := [], eos := [], eosSent := [],
        pendK := [], succ := none, mism := [], reds := [] },
    inst := { run := 0, first := 0, len := 1, ops := [], done := [], issued := [], held := [], stalled := [], nulls := [] } }

/-- TINFO of a fold record's failure at configuration (R145, R159; what R145 does not name: notes/assumptions/62.md). -/
def foldInfo (b : Block) (f : Fold) : FoldErr → Dword
  | .rsv w bit => infoLoad 0 w true false 0 0 b.step.toNat bit
  | .feature _ | .undecl => infoLoad 0 0 true false 0 32 b.step.toNat 0
  | .size why ord => infoFold f.sid f.cls false false why 0 ord
  | .range why => infoFold f.sid f.cls false false why 0 0

/-- The cause of a fold record's failure. -/
def FoldErr.cause : FoldErr → Cause
  | .rsv .. => .rsvfld
  | .feature _ => .feature
  | .undecl => .undecl
  | .size .. => .foldsize
  | .range _ => .foldrange

/-- The fold records of an image declared in order in a plot under the key it will have (R145). For a plot that is to resume
a saved image nothing of a far fold is written: its headers stay in memory (R157). -/
def declareFolds (s : State) (key : Nat) (p : Plot) (fresh : Bool) : List (List Dword) → Loaded ⊕ State
  | [] => .inr s
  | ws :: rest =>
    let now := (Tab.at? s.plots key).getD p
    let f := foldOf ws 0 0
    let c := loadCtx key now f
    let cell := bif f.far then 0 else f.cell
    match checkFold? s now f with
    | some e =>
      let s := match e with
        | .feature true => countMask s p.vi
        | _ => s
      .inl (loadFault s p e.cause (foldInfo c.blk f e) cell)
    | none =>
      let put := fun s : State => onPlot s key (fun p => { p with folds := Tab.set p.folds f.sid f })
      if fresh = true ∧ f.far ∧ f.adopt = false then
        match farPutHdrs s c f [] with
        | .error (.wait _) | .error (.hold _) => .inl .wait
        | .error (.trap cause info) => .inl (loadFault s p cause info cell)
        | .ok s => declareFolds (put s) key p fresh rest
      else declareFolds (put s) key p fresh rest

/-- The endpoints of a plot (R350). -/
def endpointsOf (p : Plot) : Tab Endpoint :=
  let rings := (areasOf p).filter (fun a => a.kind == 2)
  (rings.zip (List.range rings.length)).map (fun (a, i) =>
    (i, { cell := (neighbour? p a.scell a.side).getD 0, scell := a.scell, off := a.off, size := a.size, tail := 0, reserved := 0,
          msgs := [], members := [] }))

/-- A plot with what the loader writes of an image (R97). -/
def withImage (p : Plot) (m : Image) : Plot :=
  { p with cells := loadCells m, routes := routeTable m.routes,
           logs := m.logs.map (fun r => ((r[0]?).getD 0, (r[1]?).getD 0)),
           groups := m.groups.map (fun r => (field ((r[0]?).getD 0) 56 12 * 4096, (field ((r[1]?).getD 0) 11 0 + 1) * 4096)),
           fixups := m.fixups, items := [(p.code, field (m.h 2) 31 0)], endpoints := endpointsOf p }

/-- The entry of a range register for a VA range of a size, where all of it is mapped and physically contiguous (R268), with the walks that
have found it. -/
def rangeEntry? (s : State) (v va lg : Nat) : Option (TlbEntry × List Walked) :=
  let base := va / 2 ^ lg * 2 ^ lg
  let pages := (List.range (2 ^ (lg - 12))).map (fun i => walk s v (base + 4096 * i))
  let ws := pages.filterMap (fun r => match r with
    | .ok w => some w
    | .error _ => none)
  let pa := fun (w : Walked) (a : Nat) => w.entry.pa + a % 2 ^ w.entry.lg
  match ws with
  | [] => none
  | w0 :: _ =>
    let p0 := pa w0 base
    let fits := ws.length == pages.length && (ws.zip (List.range ws.length)).all (fun (w, i) => pa w (base + 4096 * i) == p0 + 4096 * i)
    bif fits then
      some ({ w0.entry with va := base, lg := lg, pa := p0, r1 := ws.all (·.entry.r1), w1 := ws.all (·.entry.w1), r2 := ws.all (·.entry.r2),
                            w2 := ws.all (·.entry.w2), dirty := true }, ws)
    else none

/-- A range register of a P-cell loaded for a plot, and its pages pinned (R268); one that cannot be is left as it is. -/
def loadRange (key v port : Nat) (s : State) (x : Nat × Nat) : State :=
  match rangeEntry? s v x.1 x.2, Tab.freeFrom (portOf s port).ranges 16 0 with
  | some (t, ws), some n =>
    let s := ws.foldl (fun s w => markUsed s v w (w.entry.w1 && w.entry.w2)) s
    { onPort s port (fun p => { p with ranges := Tab.set p.ranges n t }) with pins := s.pins ++ [{ by_ := .plot key, base := t.pa, size := 2 ^ t.lg }] }
  | _, _ => s

/-- The range registers that the Reeve loads at the configuration of a plot: on each P-cell that it holds a grant on those of the ranges that
its graph image names (R268, notes/assumptions/65.md). -/
def loadRanges (s : State) (key : Nat) : State :=
  match Tab.at? s.plots key with
  | none => s
  | some p => (grantPorts p).foldl (fun s port => (Config.namedRanges p.code).foldl (loadRange key p.vi port) s) s

/-- An image loaded into a plot at its place: the checks of R62, the region table, the owners, the folds. -/
def loadInto (s : State) (p : Plot) (fresh : Bool) (img : List Dword) : Loaded :=
  let p := { p with bgen := (viOf s p.vi).bgen, used := s.time.toNat }
  match checkImage? img p ((viOf s p.vi).featm.extractLsb' 0 8) with
  | some e => loadFault (bif e.masked then countMask s p.vi else s) p e.cause e.info e.cell
  | none => match readRegions s p.vi with
    | .wait _ => .wait
    | .fault c w a => loadFault s p c (infoMem 4 w a) 0
    | .ok s' t =>
      if regionsMeet t = true then loadFault s' p .access (infoMem 4 7 0) 0
      else if (ownersOf p).any (fun (r, _) => Tab.has (viOf s' p.vi).owners r) = true then loadFault s' p .access (infoMem 4 8 0) 0
      else
        let m := (takeApart img).legacy
        let key := s'.nextPlot
        let p := withImage p m
        let s1 := onVi s' p.vi (fun vi => { vi with regions := t, owners := (ownersOf p).foldl (fun o (r, port) =>
          Tab.set o r { port := port, here := true, plot := key }) vi.owners })
        let s1 : State := { s1 with plots := Tab.set s1.plots key p, nextPlot := key + 1 }
        match declareFolds s1 key p fresh m.folds with
        | .inl (.failed s2 cause info cell pw) => .failed (removePlot s2 key) cause info cell pw
        | .inl r => r
        | .inr s2 => .ok (loadRanges s2 key) key

/-- What may be wrong with the image of a handler or of the Reeve (R417, R452): GBLK, the STEP and cell of the block, BITPOS. -/
def badSpecial? (role : Role) (m : Image) : Option (Nat × Nat × Nat × Nat) :=
  if role = .graph then none
  else if m.pw ≠ 4 then some (0, 0, 0, 50)
  else if m.ph ≠ 4 then some (0, 0, 0, 44)
  else if role = .reeve ∧ m.pin = true then some (0, 0, 0, 43)
  else (m.blocks.zip (List.range m.blocks.length)).findSome? (fun (b, i) => bif b.desc.getLsbD 42 then none else some (i, b.step.toNat, b.cell, 42))

/-- A plot configured for a VI from the image at CODE on a die, for records of a job queue; `fresh` unless it is to resume a saved image, `origin` where that is fixed. -/
def configure (s : State) (v : Nat) (role : Role) (queue : Option Nat) (code die : Nat) (fresh : Bool) (origin : Option (Nat × Nat)) : Loaded :=
  let none0 := Plot.empty die 0 0 0 0 v code role []
  match readImage s v code with
  | .wait => .wait
  | .fault c w a => loadFault s none0 c (infoMem 4 w a) 0
  | .bad h w b => loadFault s (Plot.empty die 0 0 (field ((h[0]?).getD 0) 55 50) (field ((h[0]?).getD 0) 49 44) v code role [])
      .rsvfld (infoLoad 0 w true false 0 0 0 b) 0
  | .ok s img =>
    let h : Dword := (img[0]?).getD 0
    let shape := Plot.empty die 0 0 (field h 55 50) (field h 49 44) v code role []
    match firstFault (headerFaults img) with
    | some (w, b) => loadFault s shape .rsvfld (infoLoad 0 w true false 0 0 0 b) 0
    | none =>
      match badSpecial? role (takeApart img) with
      | some (g, step, cell, b) => loadFault s shape .rsvfld (infoLoad g 0 true false 0 0 step b) cell
      | none =>
        let (s, img, old) := queueImage s v queue code img
        let m := takeApart img
        let p := { shape with ports := m.ports, stale := old }
        let pin := bif role == .reeve then some (0, 0) else match origin with
          | some o => some o
          | none => bif m.pin then some (m.px, m.py) else none
        match makePlace s.plots.length s p pin with
        | none => .wait
        | some (s, p) => loadInto s p fresh img

/-! ### PLOT_CONFIGURE (R385) -/

/-- A record's task retired as failed (R61, R388): its job fails, and one trap record goes to the VI; a saved round of a job that had failed
before leaves its pool now. -/
def failTask (s : State) (k : Nat) (cause : Cause) (info cell pw : Dword) : State :=
  match Tab.at? s.recs k with
  | none => s
  | some r =>
    let s := failJob s r.job (causeCode cause)
    raiseRecord (bif (Tab.at? s.recs k).any (fun r => !r.running) then freeRec s k else s) (recVi k) cause 0 info cell pw

/-- The size of the plot that a record resumes on. -/
def imageSize? (s : State) (r : Rec) : Option (Nat × Nat) :=
  r.image.bind (fun i => (Tab.at? s.images i).map (fun im => (im.plot.w, im.plot.h)))

/-- Whether the gate of a plot has room for every group entry that a record's image needs (R362). -/
def roomFor (s : State) (r : Rec) (p : Plot) (key : Nat) : Bool :=
  match r.image.bind (fun i => Tab.at? s.images i) with
  | none => true
  | some im =>
    let keys := im.plot.endpoints.flatMap (fun (_, x) => x.members.map (·.1))
    (pathOf p key).all (fun nd =>
      (nodeLoad s nd + (keys.eraseDups.filter (fun g => match Tab.at? s.groups g with
        | some g => !Tab.has g.nodes nd
        | none => false)).length).ble 4096)

/-- Whether a plot holds the graph of a record, on its pool's die, in the size it resumes on (R385, R389). -/
def holdsGraph (s : State) (k : Nat) (r : Rec) (p : Plot) : Bool :=
  p.role == .graph && p.die == recDie k && p.vi == recVi k && p.code == r.code && (match imageSize? s r with
    | none => true
    | some (w, h) => p.w == w && p.h == h)

/-- Whether the scheduler is to configure a plot for a record (R385). -/
def wantsPlot (s : State) (k : Nat) : Bool :=
  match Tab.at? s.recs k with
  | none => false
  | some r => r.ready s && r.lo.blt r.hi && r.bound.isNone && !s.plots.any (fun (_, p) => p.isIdle && holdsGraph s k r p)

/-- PLOT_CONFIGURE (R385). A failure retires the task as failed. -/
def execPlotConfigure (recId : Nat) (s : State) : Outcome :=
  match wantsPlot s recId, Tab.at? s.recs recId with
  | true, some r =>
    let queue := (Tab.at? s.jobs r.job).map (·.queue)
    match configure s (recVi recId) .graph queue r.code (recDie recId) r.image.isNone none with
    | .wait => .next s
    | .ok s _ => .next s
    | .failed s cause info cell pw => .next (failTask s recId cause info cell pw)
  | _, _ => .next s

end Sys2Proof.Machine
end

