-- ==== Sys2Proof/Machine/Preempt.lean ====
section
/-!
DEFINITION. Sys2Proof/Machine/Preempt.lean: freezes (R424), marker waves (R423, R427), saved images (R157, R361, R362, R425,
R426) and the pre-emption of a plot (R389, R397).
-/
namespace Sys2Proof.Machine

/-! ### Stopping a plot (R125, R423, R424) -/

/-- The issued firings of a plot that wait for their results, each with its word. -/
def issuedOf (key : Nat) (p : Plot) : List (Firing × Word) :=
  p.cells.flatMap (fun (cell, c) => c.blocks.flatMap (fun (bidx, b) => b.insts.flatMap (fun (frame, i) =>
    (i.issued.filter (fun (_, m) => m != 0)).map (fun (slot, _) =>
      ({ plot := key, cell := cell, bidx := bidx, slot := slot, frame := frame, round := p.round }, (b.words[slot]?).getD 0)))))

/-- The plot word that an issued FREEZE names; none for any other firing. -/
def freezeTarget? (p : Plot) (f : Firing) (w : Word) : Option Dword :=
  if field w 31 23 = 2 * 0xF6 then (ctxIn? p f).map (fun c => c.val 0 (((elemsOf c.inst.len).find? (fun e => !c.null e)).getD 0)) else none

/-- Whether a stop of a plot goes on without an issued firing having completed: a REVERSE, which fires again (R245); the
FREEZE or MARKWAVE of the plot itself; for a freeze a GSEND (R361) and an M.PUSH, which the image holds as issued. -/
def stopsWithout (key : Nat) (p : Plot) (freeze : Bool) (f : Firing) (w : Word) : Bool :=
  let op := field w 31 24
  op == 0xC3 || (op == 0xF7 && (match p.wave with
    | some v => v.waiter == some f && f.plot == key
    | none => false)) ||
  freezeTarget? p f w == some (plotWord p) || (freeze && (op == 0xE4 || op == 0xDC))

/-- Whether every cell of a plot has stopped: what it issued has completed. -/
def cellsStopped (key : Nat) (p : Plot) (freeze : Bool) : Bool :=
  (issuedOf key p).all (fun (f, w) => stopsWithout key p freeze f w) && p.recQ.isEmpty && p.cells.all (fun (_, c) => c.pend.isEmpty) &&
    (freeze || p.rev.all (fun r => r.next.isNone))

/-- The FREEZE firings that wait for a plot. -/
def freezeWaiters (s : State) (word : Dword) : List Firing :=
  s.plots.flatMap (fun (k, p) => ((issuedOf k p).filter (fun (f, w) => freezeTarget? p f w == some word)).map (·.1))

/-- The pre-emption of a plot begins (R361, R426): its cells are to stop, its readiness is withdrawn, toll counter 10 of its
VI rises. -/
def beginStop (s : State) (key : Nat) (stop : Stop) (wave : Option Wave) : State :=
  match Tab.at? s.plots key with
  | none => s
  | some p => onPlot (addToll (withdrawAll s key) p.vi 10 1) key (fun p => { reissue p with stop := stop, wave := wave })

/-- A stopped plot goes on where it stands (R424). -/
def thaw (s : State) (key : Nat) : State := onPlot (readvertise s key) key (fun p => { reissue p with frozen := false, stop := .none, wave := none })

/-! ### Saved images (R425, R426) -/

/-- CRC-32 of the IEEE 802.3 polynomial over one bit step, and over a byte. -/
def crcBit (c : Word) : Word := bif c.getLsbD 0 then (c >>> 1) ^^^ 0xEDB88320 else c >>> 1
def crcByte (c : Word) (b : Nat) : Word := (List.range 8).foldl (fun c _ => crcBit c) (c ^^^ BitVec.ofNat 32 (b % 256))

/-- CRC-32 of dwords as the bytes of memory that hold them. -/
def crc32 (ws : List Dword) : Word :=
  ~~~(ws.foldl (fun c w => (List.range 8).foldl (fun c i => crcByte c (w.toNat / 2 ^ (8 * i))) c) (BitVec.allOnes 32))

/-- The bytes after the header of a saved image: not architected, so free. -/
def imageBody (im : SavedImage) : List Dword := (List.range (im.bytes / 8 - 8)).map (fun i => Config.freeWord (im.body + i))

/-- The record that an image belongs to, as a task handle; 0 where it has none. -/
def imageTask (s : State) (im : SavedImage) : Dword :=
  match im.task with
  | some k => taskHandle s k
  | none => 0

/-- The header of a saved image (R426). -/
def imageHead (im : SavedImage) (task : Dword) : List Dword :=
  [dw (at_ im.kind 56 + at_ Config.stepping.toNat 52 + at_ 4 48 + im.bytes % 2 ^ 48), plotWord im.plot, dw im.plot.code, task,
   zx32 (crc32 (imageBody im)), 0, 0, 0]

/-- The space of a plot's storage that a marker image does not hold: its bytes after a restore are not stated, so free. -/
def scrub (keep : Nat → Bool) (size ctr : Nat) (m : Memory) : Memory :=
  (List.range size).foldl (fun m a => bif keep a then m else writeByte m a (Config.freeByte (ctr + a))) m

/-- Whether a byte of a class of a cell belongs to a slot that a marker image holds (R157). -/
def keptByte (p : Plot) (cls cell a : Nat) : Bool :=
  p.folds.any (fun (_, f) => f.cls == cls && f.cell == cell && f.hdrs.any (fun (n, h) => hdrKept h && (f.slotAt n).ble a &&
    a.blt (f.slotAt n + f.slotBytes)))

/-- Whether a byte of near space lies in an area of KIND 000, 001 or 010. -/
def areaByte (p : Plot) (scell a : Nat) : Bool :=
  (areasOf p).any (fun r => r.scell == scell && r.kind.blt 3 && r.off.ble a && a.blt (r.off + r.size))

/-- What a marker image holds of a plot's storage (R157, R425): live, claimed and poison slots and the areas. -/
def markerStorage (p : Plot) (ctr : Nat) : Plot :=
  { p with
    cells := p.cells.map (fun (k, c) => (k, { c with frame := scrub (keptByte p 0 k) (classBytes 0) (ctr + 2 ^ 18 * (3 * k)) c.frame,
                                                     acc := scrub (keptByte p 1 k) (classBytes 1) (ctr + 2 ^ 18 * (3 * k + 1)) c.acc })),
    near := p.near.map (fun (k, m) => (k, scrub (fun a => keptByte p 2 k a || areaByte p k a) (classBytes 2) (ctr + 2 ^ 18 * (3 * k + 2)) m)),
    folds := p.folds.map (fun (k, f) => (k, { f with hdrs := f.hdrs.filter (fun (_, h) => hdrKept h) })) }

/-- An open stream as an image holds it (R289): a read stream fetches again from its lowest element not delivered; the stores of a write
stream that are on their way are performed beside the image. -/
def savedStream (t : Stream) : Stream :=
  if t.writes then { t with wlines := [], sent := 0, performed := t.performed + t.sent }
  else
    let o := ((t.queue.head?).map (·.1)).getD t.next
    { t with next := o, asked := o, slines := [], queue := [], wlines := [] }

/-- The plot of an image. -/
def savedPlot (kind : Nat) (p : Plot) (ctr : Nat) : Plot :=
  let q := reissue (abandonReverse p)
  let p := { q with stop := .none, wave := none, frozen := true, trap := none, withdrawn := true, subject := none,
                     routes := p.routes.filter (fun (k, _) => k.blt (2 ^ 20)) }
  if kind = 1 then markerStorage { p with tokens := [] } ctr else p

/-- The bytes of the image that is saved of a plot, header included (R426). -/
def imageBytes (key : Nat) : Nat := 64 * (1 + (Config.imageUnits key).toNat)

/-- A plot saved and removed from the fabric (R425): the image is kept; its record, endpoints and cached barriers go with
it. -/
def takeImage (s : State) (key kind : Nat) : State × Nat :=
  let s := (streamsOf s key).foldl (fun s (port, ctx, _) => flushWindow s port ctx) (settleArrivals (withdrawAll s key) key)
  match Tab.at? s.plots key with
  | none => (s, s.nextImage)
  | some p =>
    let bytes := imageBytes key
    let im : SavedImage :=
      { kind := kind, key := key, live := true, plot := savedPlot kind p s.ctr,
        streams := (streamsOf s key).foldl (fun t (port, ctx, x) => Tab.set t (16 * port + ctx) (savedStream x)) [],
        task := p.task, va := none, bytes := bytes, body := s.ctr }
    let id := s.nextImage
    let s := { s with images := Tab.set s.images id im, nextImage := id + 1, ctr := s.ctr + bytes + 2 ^ 32 }
    let s := onVi s p.vi (fun vi => { vi with traps := vi.traps.map (fun t =>
      bif t.subject == some key then { t with subject := none } else t) })
    (pruneGroups (removePlot s key), id)

/-- Where in IMGMEM an image of a VI goes: the lowest place free of the images that lie there; none where it does not fit. -/
def imageSpace? (s : State) (v bytes : Nat) : Option Nat :=
  let base := field (viOf s v).imgmem 56 16 * 65536
  let size := field (viOf s v).imgmem 15 0 * 65536
  let used := s.images.filterMap (fun (_, im) => match im.va with
    | some va => bif im.live && im.plot.vi == v && base.ble va && va.blt (base + size) then some (va, im.bytes) else none
    | none => none)
  let fits := fun va => base.ble va && (va + bytes).ble (base + size) && !used.any (fun (u, n) => meets va (va + bytes) u (u + n))
  ((base :: used.map (fun (u, n) => u + n)).filter fits).foldl (fun m va => match m with
    | none => some va
    | some x => some (Nat.min x va)) none

/-- An image written into IMGMEM of its VI; none where it does not fit or a store faults. -/
def storeImage? (s : State) (id : Nat) : Option State :=
  match Tab.at? s.images id with
  | none => none
  | some im => match imageSpace? s im.plot.vi im.bytes with
    | none => none
    | some va => (hubStore? s im.plot.vi va (imageHead im (imageTask s im) ++ imageBody im)).map (fun s =>
        { s with images := Tab.upd s.images id (fun im => { im with va := some va }) })

/-- The record of an image returns to its pool, to resume from it (R389). -/
def requeue (s : State) (id : Nat) : State :=
  match (Tab.at? s.images id).bind (·.task) with
  | none => s
  | some k => onRec (unstage s k) k (fun r => { r with running := false, image := some id, bound := none })

/-- A plot that the scheduler pre-empts is saved into IMGMEM, its record requeued (R389, R426). -/
def saveAndRequeue (s : State) (key kind : Nat) : State :=
  let (s, id) := takeImage s key kind
  requeue ((storeImage? s id).getD s) id

/-! ### Restoring (R362, R425, R426) -/

/-- A firing of a plot under its new number. -/
def rekey (old new : Nat) (f : Firing) : Firing := bif f.plot == old then { f with plot := new } else f

/-- A message's outcome that names the inbox of a plot, under its new number. -/
def Transit.rekey (old new : Nat) : Transit → Transit
  | .outcome b (some (plot, x)) => .outcome b (some (bif plot == old then new else plot, x))
  | t => t

/-- Every firing of a restored plot that something in flight names, under its new number. -/
def rekeyAll (s : State) (old new : Nat) : State :=
  { s with
    flights := s.flights.map (fun (k, x) => (k, { x with msg := { x.msg with firing := x.msg.firing.map (rekey old new) }, at_ := x.at_.rekey old new })),
    plots := s.plots.map (fun (k, p) => (k, { p with wave := p.wave.map (fun w => { w with waiter := w.waiter.map (rekey old new) }) })),
    vis := s.vis.map (fun (v, x) => (v, { x with wayset := x.wayset.map (fun (f, d) => (rekey old new f, d)) })) }

/-- A stream of an image opened again on the P-cell of the same edge and index of the plot's die. -/
def reopen (s : State) (key : Nat) (p : Plot) (old : Nat) (place : Nat) (t : Stream) : State :=
  let port := if place / 16 = 384 then 384 else 96 * p.die + place / 16 % 96
  let ctx := (Tab.freeFrom (portOf s port).ctxs 16 0).getD (place % 16)
  let wlg := field (t.w 7) 55 48
  let win := bif t.windowed then windowFor? s t.vi wlg else none
  let s := match win with
    | none => s
    | some w => takeWindow s t.vi wlg w
  let t := { t.withWindow win with plot := key, waiter := t.waiter.map (fun (f, n) => (rekey old key f, n)) }
  onPlot (onPort s port (fun c => { c with ctxs := Tab.set c.ctxs ctx t })) key (fun p => addStreamRoute p t.route t.desc)

/-- A block configured again, with what a marker image holds of it. -/
def resumeBlock (b saved : Block) : Block :=
  { b with k := saved.k, bounds := saved.bounds, next := saved.next, insts := saved.insts, early := saved.early, eos := saved.eos,
           eosSent := saved.eosSent, pendK := saved.pendK, succ := saved.succ, mism := saved.mism, reds := saved.reds }

/-- The cells of a plot configured again, with what a marker image holds of them. -/
def resumeCells (cells saved : Tab Cell) : Tab Cell :=
  cells.map (fun (k, c) => (k, match Tab.at? saved k with
    | none => c
    | some o => { o with blocks := c.blocks.map (fun (i, b) => (i, match Tab.at? o.blocks i with
        | none => b
        | some x => resumeBlock b x)) }))

/-- A saved plot in the place of a plot configured for it. -/
def resumePlot (kind : Nat) (saved p : Plot) : Plot :=
  let q := { saved with die := p.die, x := p.x, y := p.y, ports := p.ports, role := p.role, used := p.used, bgen := p.bgen, items := p.items,
                        stale := p.stale }
  if kind = 1 then { q with cells := resumeCells p.cells saved.cells, routes := p.routes, logs := p.logs, groups := p.groups, fixups := p.fixups }
  else q

/-- An image restored into a plot configured for it; it stays frozen (R362, R425). An image restored before names groups and
barriers that no longer are its own. -/
def restoreInto (s : State) (id key : Nat) : State :=
  match Tab.at? s.images id, Tab.at? s.plots key with
  | some im, some p =>
    let q := resumePlot im.kind im.plot p
    let q := { q with rev := q.rev.map (fun r => { r with firing := rekey im.key key r.firing }), barriers := q.barriers.map (fun (pa, b) => (pa, { b with waiters := b.waiters.map (fun (f, n) => (rekey im.key key f, n)) })) }
    let q := if im.live then q
      else { q with barriers := [], endpoints := q.endpoints.map (fun (n, x) => (n, { x with members := [], reserved := 0 })) }
    let s := rekeyAll { s with plots := Tab.set s.plots key q } im.key key
    let s := im.streams.foldl (fun s (place, t) => reopen s key q im.key place t) s
    let s := rejoinAll s key
    { s with images := Tab.upd s.images id (fun im => { im with live := false }) }
  | _, _ => s

/-! ### FREEZE_COMPLETE, WAVE_COMPLETE, WAVEBUD_EXPIRY -/

/-- Whether a freeze that has begun is complete. -/
def freezeDone (key : Nat) (p : Plot) : Bool :=
  p.stop == .freeze && (bif p.frozen then p.recQ.isEmpty && p.cells.all (fun (_, c) => c.pend.isEmpty) else cellsStopped key p true)

/-- FREEZE_COMPLETE (R424): every cell has stopped: the plot is frozen, the FREEZE firings that wait for it emit 0, and a wave
that fell to the freeze answers 1; a plot that the scheduler pre-empts is saved and requeued. -/
def execFreezeComplete (plot : Nat) (s : State) : Outcome :=
  match Tab.at? s.plots plot with
  | none => .next s
  | some p =>
    bif !freezeDone plot p then .next s
    else
      let wave := p.wave
      let s := onPlot s plot (fun p => { abandonReverse p with frozen := true, stop := .none, wave := none,
                                                                 tokens := p.tokens.filter (fun t => !t.mark) })
      let s := (freezeWaiters s (plotWord p)).foldl (fun s f => finishScalar s f .s32 0) s
      match wave with
      | none => .next s
      | some w => match w.waiter with
        | some f => .next (finishScalar s f .s32 1)
        | none => .next (if p.trap.isSome then s else saveAndRequeue s plot 2)

/-- The markers of a wave sent, one on every route and RUN stream of the plot, once its cells have stopped (R423). -/
def sendMarkers (key : Nat) (p : Plot) : Plot :=
  match p.wave with
  | none => p
  | some w =>
    bif p.stop == .wave && !p.frozen && !w.sent && cellsStopped key p false then
      { p with wave := some { w with sent := true },
               tokens := p.tokens ++ p.routes.map (fun (k, _) =>
                 { route := k, sender := 0, bidx := 0, slot := 0, port := 0, tag := 0, eos := false, mark := true, kind := .s32, elems := [],
                   left := wayTime p k 0 }) }
    else p

/-- A wave ends where a trap has frozen its plot (R427): a MARKWAVE that waits emits 1. -/
def endWave (s : State) (key : Nat) : State :=
  match Tab.at? s.plots key with
  | none => s
  | some p => match p.wave with
    | none => s
    | some w =>
      bif p.stop == .wave && p.frozen then
        let s := onPlot s key (fun p => { p with stop := .none, wave := none, tokens := p.tokens.filter (fun t => !t.mark) })
        match w.waiter with
        | some f => finishScalar s f .s32 1
        | none => s
      else s

/-- Whether the hub has a delivery to an endpoint of a plot in flight. -/
def deliveryTo (s : State) (key : Nat) : Bool :=
  s.flights.any (fun (_, x) => match x.at_ with
    | .outcome _ (some (plot, _)) => plot == key
    | _ => false)

/-- Whether a wave is complete (R423): every cell is closed and no delivery is in flight. -/
def waveDone (s : State) (key : Nat) (p : Plot) : Bool :=
  match p.wave with
  | none => false
  | some w => p.stop == .wave && !p.frozen && w.sent && p.routes.all (fun (k, _) => w.arrived.contains k) && p.eosQ.isEmpty && !deliveryTo s key

/-- WAVE_COMPLETE (R423): the marker image is taken and the plot released; the MARKWAVE emits 0, and its image waits for an
IMGSAVE; the scheduler's goes to IMGMEM, and the record is requeued. -/
def execWaveComplete (plot : Nat) (s : State) : Outcome :=
  match Tab.at? s.plots plot with
  | none => .next s
  | some p =>
    bif !waveDone s plot p then .next s
    else match p.wave.bind (·.waiter) with
      | none => .next (saveAndRequeue s plot 1)
      | some f => .next (finishAnywhere (takeImage s plot 1).1 f .s32 0)

/-- Whether the budget of a wave is spent. -/
def waveSpent (s : State) (p : Plot) : Bool :=
  match p.wave with
  | none => false
  | some w => p.stop == .wave && ((field s.wavebud 31 0) * Config.cyclesPerUs).ble (s.time.toNat - w.start)

/-- WAVEBUD_EXPIRY (R423): a wave not complete within its budget falls to FREEZE. -/
def execWavebudExpiry (plot : Nat) (s : State) : Outcome :=
  .next (onPlot s plot (fun p => bif waveSpent s p then { p with stop := .freeze } else p))

end Sys2Proof.Machine
end

