-- ==== Sys2Proof/Machine/Tasks.lean ====
section
/-!
DEFINITION. Sys2Proof/Machine/Tasks.lean: dispatch and the end of a round (R385-R389, R103, R342), the job queues' front end
and the end of a job (R382, R383, R388), and the task forms of a program (R398-R401).
-/
namespace Sys2Proof.Machine

/-! ### Splitting (R386) -/

/-- The parent of a record, where its handle is live. -/
def parentOf? (s : State) (k : Nat) (r : Rec) : Option (Nat × Rec) :=
  bif r.parent == 0 then none else liveRec? s (recVi k) r.parent

/-- A record as its parts share it: the staged set is theirs together and is staged no further (R394). -/
def Rec.shared (r : Rec) : Rec := { r with decl := r.wsn, open_ := false }

/-- The splitting of a record before its dispatch (R386). -/
def splitRec : (fuel : Nat) → State → Nat → State
  | 0, s, _ => s
  | fuel + 1, s, k =>
    match Tab.at? s.recs k with
    | none => s
    | some q =>
      bif q.grain == 0 || (q.hi - q.lo).ble (2 * q.grain) || q.image.isSome then s
      else match freeSlot? s (recDie k) (recVi k) with
        | none => s
        | some slot =>
          let parent := parentOf? s k q
          let full := match parent with
            | some (_, p) => p.join == 2 ^ 24 - 1
            | none => false
          bif full then s
          else
            let mid := q.lo + (q.hi - q.lo) / 2
            let s := putRec s slot { q.shared with lo := mid, charged := 0, src := taskHandle s k :: q.src }
            let s := onRec s k (fun q => { q.shared with hi := mid })
            let s := match parent with
              | some (pk, _) => onRec s pk (fun p => { p with join := p.join + 1 })
              | none => s
            splitRec fuel s k

/-- The quota of a dispatched record's staged set: passed to a part still in the pool, or given back with the last (R394). -/
def dropCharge (s : State) (k : Nat) (r : Rec) : State :=
  bif r.charged == 0 then s
  else
    let s := { s with recs := Tab.upd s.recs k (fun r => { r with charged := 0 }) }
    match s.recs.find? (fun (j, q) => j != k && j / 65536 == k / 65536 && q.key == r.key && !q.running) with
    | some (j, _) => { s with recs := Tab.upd s.recs j (fun q => { q with charged := q.charged + r.charged }) }
    | none => addUsed s (recVi k) (-(r.charged : Int))

/-! ### The argument network (R387) -/

/-- What reading an argument block meets: its entries and seed; a failure with TINFO; a wait. -/
inductive Args where
  | ok (s : State) (entries : List Dword) (seed : Dword)
  | bad (cause : Cause) (info : Dword)
  | wait
  deriving DecidableEq, Repr

/-- The offending bit of an entry of an argument block (R387). -/
def badEntry? (p : Plot) (e : Dword) : Option Nat :=
  let cell := 64 * field e 57 52 + field e 63 58
  lowestBit [badZero? e 41 32, badUnless? (cellIn p true cell) 52,
    badUnless? (!cellIn p true cell || (blockAt? p cell (field e 51 48)).isSome) 48]

/-- The argument block at ARGS read and checked for a plot (R387). -/
def readArgs (s : State) (v : Nat) (p : Plot) (args : Nat) : Args :=
  if args = 0 then .ok s [] 0
  else if args % 8 ≠ 0 then .bad .align (infoMem 4 0 args)
  else match hubRead s v args 1 with
    | .wait _ => .wait
    | .fault c w a => .bad c (infoMem 4 w a)
    | .ok s h =>
      let w0 := (h[0]?).getD 0
      let n := field w0 15 0
      match lowestBit [badUnless? (n.ble 256) 0, badZero? w0 63 17] with
      | some b => .bad .rsvfld (infoLoad 0 0 true false 0 0 0 b)
      | none =>
        match hubRead s v (args + 8) (n + (bif w0.getLsbD 16 then 1 else 0)) with
        | .wait _ => .wait
        | .fault c w a => .bad c (infoMem 4 w a)
        | .ok s ws =>
          let es := ws.take n
          match (es.zip (List.range n)).findSome? (fun (e, i) => (badEntry? p e).map (fun b => (i, b))) with
          | some (i, b) => .bad .rsvfld (infoLoad i 1 true false 0 0 0 b)
          | none => .ok s es ((ws[n]?).getD 0)

/-- The constant word that an entry writes, for a record's range. -/
def entryValue (r : Rec) (e : Dword) : Word :=
  match field e 43 42 with
  | 0 => lo32 e
  | 1 => BitVec.ofNat 32 r.lo
  | 2 => BitVec.ofNat 32 r.hi
  | _ => BitVec.ofNat 32 (r.hi - r.lo)

/-- A constant word of a block written. -/
def putK (n : Nat) (v : Word) (b : Block) : Block := { b with k := Tab.put b.k n v 0 }

/-- The blocks of a plot changed. -/
def onBlocks (p : Plot) (g : Block → Block) : Plot :=
  { p with cells := p.cells.map (fun (k, c) => (k, { c with blocks := c.blocks.map (fun (i, b) => (i, g b)) })) }

/-- The constant words of a plot before a round: pending SETKs, then group handles, then the argument block (R370, R387). -/
def writeArgs (p : Plot) (r : Rec) (handles : List Word) (es : List Dword) : Plot :=
  let p := onBlocks p applySetks
  let p := p.fixups.foldl (fun p e => onBlocks p (fun b =>
    bif b.gblk == field e 63 48 then putK (field e 47 44) ((handles[field e 43 36]?).getD 0) b else b)) p
  es.foldl (fun p e => onBlock p (64 * field e 57 52 + field e 63 58) (field e 51 48) (putK (field e 47 44) (entryValue r e))) p

/-! ### DISPATCH (R385, R386, R389) -/

/-- Whether a record comes before another in dispatch order (R385). -/
def Rec.before (a b : Rec) : Bool :=
  b.prio.blt a.prio || (a.prio == b.prio && (a.key.blt b.key || (a.key == b.key && a.lo.blt b.lo)))

/-- The first of some records in dispatch order. -/
def firstRec? (l : List (Nat × Rec)) : Option (Nat × Rec) :=
  l.foldl (fun m x => match m with
    | none => some x
    | some y => bif Rec.before x.2 y.2 then some x else some y) none

/-- Whether a record may be dispatched to a plot. -/
def suits (s : State) (key : Nat) (p : Plot) (k : Nat) (r : Rec) : Bool :=
  r.ready s && r.lo.blt r.hi && holdsGraph s k r p && (r.bound.isNone || r.bound == some key) && roomFor s r p key

/-- The record that a plot's gate chooses for it; for a restored plot that waits, its own record. -/
def choose? (s : State) (key : Nat) (p : Plot) : Option (Nat × Rec) :=
  bif p.frozen then
    match recOf? s p with
    | some (k, r) => bif r.ready s && r.bound == some key && p.trap.isNone then some (k, r) else none
    | none => none
  else bif p.isIdle then firstRec? (s.recs.filter (fun (k, r) => suits s key p k r)) else none

/-- Whether a plot whose round fired YIELD is still offered to others (R401): to a VI with a deficit and a ready record, or to
a ready record of higher PRIO of its own VI. -/
def yielded (s : State) (p : Plot) (r : Rec) : Bool :=
  p.yield && s.recs.any (fun (k, q) => q.ready s && recDie k == p.die &&
    (bif recVi k == p.vi then r.prio.blt q.prio && !s.plots.any (fun (_, o) => o.isIdle && holdsGraph s k q o)
     else (viOf s (recVi k)).fsdef != 0))

/-- A plot takes a record that is dispatched to it. -/
def seat (s : State) (key k : Nat) (r : Rec) : State :=
  let s := dropCharge s k r
  let s := onVi s (recVi k) (fun vi => { vi with fsdef := 0 })
  let s := { s with pcells := s.pcells.map (fun (n, c) => (n, { c with held := c.held.filter (fun (_, h) => h.plot != key) })) }
  let s := onRec s k (fun r => { r.shared with running := true, image := none })
  onPlot s key (fun p => { p with task := some k, yield := false, used := s.time.toNat })

/-- A plot started on a record: a saved image restored in place of the argument block, or a round begun (R387, R389). -/
def launch (s : State) (key : Nat) (p : Plot) (k : Nat) (r : Rec) : State :=
  match r.image with
  | some id => thaw (seat (restoreInto s id key) key k r) key
  | none =>
    let handles := ((((Tab.at? s.jobs r.job).bind (fun j => Tab.at? j.images r.code)).map (·.handles)).getD [])
    match readArgs s p.vi p r.args with
    | .wait => s
    | .bad cause info => failTask s k cause info (tcellOf p 0 0 0) (plotWord p)
    | .ok s es seed =>
      onPlot (seat s key k r) key (fun p => startRound { writeArgs p r handles es with srseed := seed, inh := false })

/-- DISPATCH (R385-R387): an idle plot asks its gate for work; a plot whose image a SYNC.CODE has touched is configured again
first (R322); a restored plot that waits goes on. -/
def execDispatch (plot : Nat) (s : State) : Outcome :=
  match Tab.at? s.plots plot with
  | none => .next s
  | some p => match choose? s plot p with
    | none => .next s
    | some (k, r) =>
      if p.frozen = true then
        .next (thaw (seat s plot k r) plot)
      else if yielded s p r = true then .next s
      else if ((Tab.at? s.jobs r.job).map (fun j => p.stale.testBit j.queue)).getD false = true then
        let queue := (Tab.at? s.jobs r.job).map (·.queue)
        match configure (releasePlot s plot) p.vi .graph queue p.code p.die r.image.isNone (some (p.x, p.y)) with
        | .wait => .next s
        | .ok s _ => .next s
        | .failed s cause info cell pw => .next (failTask s k cause info cell pw)
      else
        let fuel := match poolOf? s (recDie k) (recVi k) with
          | some (_, n) => n
          | none => 0
        let s := splitRec fuel s k
        match Tab.at? s.recs k with
        | some r => .next (launch s plot p k r)
        | none => .next s

/-! ### ROUND_END (R103, R317, R342) -/

/-- Whether the work of a plot's round is done. -/
def roundOver (p : Plot) : Bool :=
  p.running && !p.frozen && p.stop == .none && p.tokens.isEmpty && p.eosQ.isEmpty && p.recQ.isEmpty &&
  p.cells.all (fun (_, c) => c.thread.bidx.isNone && c.array.isEmpty && c.pend.isEmpty && c.blocks.all (fun (_, b) =>
    b.insts.isEmpty && b.reds.all (fun (_, r) => r.due.isEmpty) && (b.seq || (runCount b.bounds).ble b.next)))

/-- Whether a write of a plot is not performed. -/
def plotWrites (s : State) (key : Nat) (p : Plot) : Bool := p.cells.any (fun (k, _) => writesPending s key k)

/-- Every buffer of every P-cell that holds a write of a plot sent to its slice. -/
def flushPlot (s : State) (key : Nat) : State :=
  s.pcells.foldl (fun s (port, c) => (c.lines.filter (fun (_, b) => b.by_.any (fun x => x.1 == key))).foldl (fun s (line, _) =>
    flushBuffer s port line) s) s

/-- The open streams of a plot closed as AG.CLOSE closes them (R342): those whose accepted stores are performed. -/
def closeRound (s : State) (key : Nat) : State :=
  (streamsOf s key).foldl (fun s (port, ctx, _) =>
    let s := onStream s port ctx (fun t => { t with closing := true })
    match Tab.at? (portOf s port).ctxs ctx with
    | none => s
    | some t =>
      let (s, ok) := bif t.writes then settleStream s port ctx t.accepted t else (s, true)
      match ok, Tab.at? (portOf s port).ctxs ctx with
      | true, some t => closeStream s port ctx t
      | _, _ => s) s

/-- The end of a plot's round: its record completes, as failed where the round was abandoned (R419); a handler's record has
been handled; the Reeve's plot stays as it ends, with what its folds hold (R456), until its next round. -/
def endRound (s : State) (key : Nat) (p : Plot) : State :=
  let s := onPlot s key (fun p => { p with running := false, task := none, inh := false, failed := none, subject := none, used := s.time.toNat })
  let s := match p.task with
    | some k =>
      let job := (Tab.at? s.recs k).map (·.job)
      let s := finishRec s k (!p.inh)
      match p.failed, job with
      | some cause, some j => failJob s j cause
      | _, _ => s
    | none => s
  match p.role with
  | .graph => s
  | .handler => onVi s p.vi (fun vi => { vi with traps := match p.subject with
      | some u => vi.traps.filter (fun t => t.seq != u.seq)
      | none => vi.traps })
  | .reeve => s

/-- ROUND_END (R103): once the round's work is done its open streams are closed and its writes performed, and then the record
completes. -/
def execRoundEnd (plot : Nat) (s : State) : Outcome :=
  match Tab.at? s.plots plot with
  | none => .next s
  | some p =>
    bif !roundOver p then .next s
    else
      let s := flushPlot (closeRound s plot) plot
      bif !(streamsOf s plot).isEmpty || plotWrites s plot p then .next s else .next (endRound s plot p)

/-! ### The front end (R382, R383) -/

/-- A job as its root's taking makes it (R382, R435). -/
def newJob (v q : Nat) (index : Word) (tag : Dword) (jnl : Dword) : Job :=
  { vi := v, queue := q, index := index, tag := tag, live := 0, cause := none, bad := false, code := 0, jd := false, images := [],
    jmode := field jnl 63 62, jbase := field jnl 56 12 * 4096, jsize := 2 ^ (field jnl 3 0 + 10), jcount := 0, jtotal := 0,
    nr := false, diverged := false, used := [], tickets := [] }

/-- Whether a job queue has a record to take: enabled, not empty, and under a journal no earlier job live (R382, R435). -/
def queueReady (s : State) (v q : Nat) : Bool :=
  let j := Tab.atD (viOf s v).queues q JobQueue.reset
  j.base.getLsbD 4 && j.head != j.tail && (field j.jnl 63 62 == 0 || !s.jobs.any (fun (_, x) => x.vi == v && x.queue == q))

/-- The queue whose record the journal of a queue in replay mode names as the first taken (R437). -/
def recordedQueue? (s : State) (v q : Nat) : Option Nat :=
  let jnl := (Tab.atD (viOf s v).queues q JobQueue.reset).jnl
  let j := newJob v q 0 0 jnl
  bif j.jmode != 2 then none
  else match hubRead s v j.jbase 1 with
    | .ok _ ws => (journalFind s j (dw (at_ 7 56)) 0 0 (Nat.min j.jsize ((ws[0]?).getD 0).toNat) 0).map (fun (_, x) => field x 63 60)
    | _ => none

/-- Whether a queue's next record is taken now: it has one, and its journal does not name, as the one to take first, a queue that has a record
and is to be first itself (R437). -/
def queueTakes (s : State) (v q : Nat) : Bool :=
  queueReady s v q && (match recordedQueue? s v q with
    | some r => r == q || !(queueReady s v r && ((recordedQueue? s v r).getD r == r))
    | none => true)

/-- A job added, JQHEAD advanced, and the next queue of the VI served next (R382). -/
def takeJob (s : State) (v q : Nat) (job : Job) : State × Nat :=
  let key := s.nextJob
  let s := { s with jobs := Tab.set s.jobs key job, nextJob := key + 1 }
  (onVi (onQueue s v q (fun j => { j with head := j.head + 1 })) v (fun vi => { vi with nextq := (q + 1) % 16 }), key)

/-- The journal of a job begun (R435, R436): the header written, or in replay the number of entries read; the arrival noted,
and a replay marked as diverged where the journal names another record (R437, R438). -/
def beginJournal (s : State) (key : Nat) : State :=
  match Tab.at? s.jobs key with
  | none => s
  | some j =>
    if j.jmode = 1 ∨ j.jmode = 2 then
      let total := match hubRead s j.vi j.jbase 1 with
        | .ok _ ws => Nat.min j.jsize ((ws[0]?).getD 0).toNat
        | _ => 0
      let j' := { j with jtotal := bif j.jmode == 2 then total else 0 }
      let s := journalHeader (onJob s key (fun _ => j')) j'
      let mine := dw (at_ j.queue 60 + j.index.toNat)
      let (s, x) := journal s key (dw (at_ 7 56)) 0 0 mine
      bif x == mine then s else journalBreak s key (fun j => { j with diverged := true })
    else s

/-- A bad record: only its completion entry is left to write (R382). -/
def badJob (s : State) (v q : Nat) (tag : Dword) (cause : Nat) : State :=
  let j := Tab.atD (viOf s v).queues q JobQueue.reset
  (takeJob s v q { newJob v q j.head tag 0 with bad := true, cause := some cause }).1

/-- The ring slot of a queue's next record read as an acquire at system scope (R380, R382). -/
def readSlot (s : State) (v q : Nat) : Acc (List Dword) :=
  let j := Tab.atD (viOf s v).queues q JobQueue.reset
  hubRead s v (field j.base 56 12 * 4096 + 64 * (j.head.toNat % 2 ^ (field j.base 3 0 + 4))) 8

/-- The offending bit of a host's record (R382): R377's, or a PARENT. -/
def badRoot (ws : List Dword) : Bool := (badRecordWords? true ws).isSome || (ws[5]?).getD 0 != 0

/-- JOB_RECORD_TAKE (R382, R468): the next record of a job queue is taken and placed as a job's root, or waits for a slot. Queue
15 of VI 0 is the Reeve's (R452). -/
def execJobRecordTake (v q : Nat) (s : State) : Outcome :=
  if queueTakes s v q = false ∨ (v = 0 ∧ q = 15) then .next s
  else match readSlot s v q with
    | .wait _ => .next s
    | .fault cause _ _ => .next (badJob s v q 0 (causeCode cause))
    | .ok s ws =>
      if badRoot ws = true then .next (badJob s v q ((ws[7]?).getD 0) 0)
      else
        let j := Tab.atD (viOf s v).queues q JobQueue.reset
        let (s1, key) := takeJob s v q (newJob v q j.head ((ws[7]?).getD 0) j.jnl)
        let r := { recOf ws key with root := true }
        match jobImage s1 key r.code with
        | .wait => .next s
        | .refused s2 => .next s2
        | .ok s2 im =>
          match slotFor? s2 v im (field j.base 6 5) (j.base.getLsbD 7 || r.anydie) with
          | none => .next s
          | some k => .next (settleRec (placeAt (beginJournal s2 key) k r) k)

/-- Whether a write of a VI is not performed. -/
def viWrites (s : State) (v : Nat) : Bool :=
  s.pcells.any (fun (_, p) => p.lines.any (fun (_, b) => b.vi == v) || p.copies.any (fun j => j.vi == v && j.dir != 0 && (64 * j.done).blt j.len)) ||
    s.pcells.any (fun (_, p) => (p.out ++ p.nacked).any (fun r => r.vi == v && !r.isRead) || p.early.any (fun w => w.vi == v)) ||
    s.slices.any (fun (_, sl) => sl.queue.any (fun r => r.vi == v && !r.isRead)) ||
    (s.sigs ++ s.plots.flatMap (fun (_, p) => p.arrivals)).any (fun x => x.vi == v)

/-- Every buffer of a VI sent to its slice. -/
def flushVi (s : State) (v : Nat) : State :=
  s.pcells.foldl (fun s (port, c) => (c.lines.filter (fun (_, b) => b.vi == v)).foldl (fun s (line, _) => flushBuffer s port line) s) s

/-- The groups that a job's images made freed (R370). -/
def freeJobGroups (s : State) (key : Nat) (j : Job) : State :=
  let s := (j.images.flatMap (fun (_, im) => im.handles)).foldl (fun s h =>
    let g := groupKey j.vi (field h 21 11)
    bif groupGen s g == field h 10 0 then (freeGroup s g true).1 else s) s
  onJob s key (fun j => { j with images := [] })

/-- The completion entry of a job (R383). -/
def completionWords (j : Job) : List Dword :=
  let status := bif j.bad then 2 else bif j.cause.isSome then 1 else 0
  [j.tag, dw (at_ status 56 + at_ (j.cause.getD 0) 48 + at_ j.queue 44 + j.code.toNat), zx32 j.index, dw (bif j.jd then 1 else 0)]

/-- A job's completion entry written and its vector raised; the ring, where it cannot take the entry, holds it back (R383,
R469). -/
def writeCompletion (s : State) (key : Nat) (j : Job) : State :=
  let q := Tab.atD (viOf s j.vi).queues j.queue JobQueue.reset
  match ringPut? s j.vi (ringBase q.cring) (2 ^ (field q.cring 3 0 + 7)) 32 q.cprod q.ccons (completionWords j) with
  | none => s
  | some s =>
    let s := onQueue s j.vi j.queue (fun q => { q with cprod := q.cprod + 1 })
    raiseIrq { s with jobs := Tab.del s.jobs key } j.vi j.queue

/-- JOB_COMPLETE (R388): a job whose live count is 0 ends once its writes are performed at system scope: a replay with entries left is marked
(R438), the job's groups are freed, the completion entry is written. -/
def execJobComplete (job : Nat) (s : State) : Outcome :=
  match Tab.at? s.jobs job with
  | none => .next s
  | some j =>
    bif j.live != 0 then .next s
    else
      let s := flushVi s j.vi
      bif viWrites s j.vi then .next s
      else
        let s := reachScope s j.vi 5#3
        let s := bif j.jmode == 2 && !j.diverged && j.used.length.blt j.jtotal then
          journalBreak s job (fun j => { j with diverged := true }) else s
        .next (writeCompletion (freeJobGroups s job j) job j)

/-! ### SPAWN, SPAWNR, JOIN (R399) -/

/-- The template of a placing form, read and checked: its words, or how the firing ends. -/
def readTemplate (s : State) (c : Ctx) (e n : Nat) : Got :=
  let va := vaOf (c.k2 n)
  match cellRead s c e 4 va 8 with
  | .stop r => .stop r
  | .ok s ws =>
    if va % 64 ≠ 0 then .stop (.trap .align (c.tag e) (infoMem 4 0 va))
    else match badRecordWords? false ws with
      | some (w, b) => .stop (rsvHdr c e w b)
      | none => .ok s ws

/-- A record placed for a firing: a release at module scope first; 0 where the firing has no live job or the placement is
refused (R388, R468). -/
def placeFor (s : State) (c : Ctx) (e : Nat) (build : Nat → Rec) (also : State → State) (c1 c0 : Cons) : Res :=
  match recOf? s c.plot with
  | none => .done s (scalarOut c1 c0 .s64 0)
  | some (_, run) =>
    let (s, pending) := releaseFirst s c
    if pending = true then .stall s
    else if ((Tab.at? s.jobs run.job).bind (·.cause)).isSome then .done s (scalarOut c1 c0 .s64 0)
    else
      let r := build run.job
      match jobImage s run.job r.code with
      | .wait => .stall s
      | .refused s => .done s (scalarOut c1 c0 .s64 0)
      | .ok s im =>
        match slotFor? s c.plot.vi im c.plot.die r.anydie with
        | none => .trap .taskovf (c.tag e) 0
        | some k =>
          let s := also (placeAt s k r)
          .done (settleRec s k) (scalarOut c1 c0 .s64 (taskHandle s k))

/-- SPAWN (R399). -/
def execSpawn (pb : Bool) (n : BitVec 4) (c1 c0 : Cons) (s : State) : Outcome :=
  fireOnce s c1 c0 .s64 (fun c e =>
    match readTemplate s c e n.toNat with
    | .stop r => r
    | .ok s ws => placeFor s c e (fun job =>
        let t := recOf ws job
        { t with join := 0, parent := bif pb then c.wide 1 e else t.parent }) id c1 c0)

/-- SPAWNR (R399): the range from a and b. -/
def execSpawnr (pb : Bool) (n : BitVec 4) (c1 c0 : Cons) (s : State) : Outcome :=
  fireOnce s c1 c0 .s64 (fun c e =>
    match readTemplate s c e n.toNat with
    | .stop r => r
    | .ok s ws =>
      let lo := field (c.wide 0 e) 39 0
      let hi := field (c.wide 1 e) 39 0
      if hi < lo then rsvHdr c e 3 24
      else placeFor s c e (fun job =>
        let t := recOf ws job
        { t with join := 0, lo := lo, hi := hi, parent := bif pb then c.wide 2 e else t.parent }) id c1 c0)

/-- JOIN (R399): the record waits for a count of completions; INH hands it the running record's parent. -/
def execJoin (inh : Bool) (n : BitVec 4) (c1 c0 : Cons) (s : State) : Outcome :=
  fireOnce s c1 c0 .s64 (fun c e =>
    match readTemplate s c e n.toNat with
    | .stop r => r
    | .ok s ws =>
      if 2 ^ 24 ≤ (c.wide 0 e).toNat then rsvOperand c e 24
      else
        let parent := match recOf? s c.plot with
          | some (_, run) => run.parent
          | none => 0
        placeFor s c e (fun job =>
          let t := recOf ws job
          { t with join := (c.wide 0 e).toNat, parent := bif inh then parent else t.parent })
          (fun s => bif inh then onPlot s c.f.plot (fun p => { p with inh := true }) else s) c1 c0)

/-! ### WSDECL (R400) -/

/-- Dwords that a firing stores as its own, through its home port, each as its virtual and its physical address and its value; every address
is checked before anything is stored. -/
def cellStores (s : State) (c : Ctx) (e src : Nat) (ws : List (Nat × Dword)) : Got :=
  ws.foldl (fun (g : Got) (va, w) => match g with
    | .stop r => .stop r
    | .ok s l => match accessWay s c src va 8 .write with
      | .wait s => .stop (.stall s)
      | .trap cause info => .stop (.trap cause (c.tag e) info)
      | .go s pa => .ok s (l ++ [dw va, dw pa, w])) (.ok s [])

/-- Such stores at the home port, as ST makes its own: they wait there for the token of their region (R263, R400). -/
def storeTriples (s : State) (c : Ctx) : List Dword → State
  | va :: pa :: w :: rest =>
    let a := pa.toNat
    storeTriples (reachPort s c.port c.plot.vi va.toNat (a / 128) (.write (BitVec.ofNat 1024 (w.toNat * 2 ^ (8 * (a % 128))))
      (maskAt (a % 128) 8) none [(c.f.plot, c.f.cell)])) c rest
  | _ => s

/-- WSDECL (R400): the declaration at b becomes entry a of the template's array, and its WSN covers it. -/
def execWsdecl (n : BitVec 4) (c1 c0 : Cons) (s : State) : Outcome :=
  fireOnce s c1 c0 .s32 (fun c e =>
    let va := vaOf (c.k2 n.toNat)
    let a := (c.low 0 e).toNat
    let from_ := vaOf (c.wide 1 e)
    match cellRead s c e 4 va 8 with
    | .stop r => r
    | .ok s t =>
      match cellRead s c e 4 from_ 2 with
      | .stop r => r
      | .ok s d =>
        let w := fun (i : Nat) => ((t[i]?).getD 0 : Dword)
        let d0 := (d[0]?).getD 0
        let d1 := (d[1]?).getD 0
        let wsd := field (w 6) 56 0
        if va % 64 ≠ 0 then .trap .align (c.tag e) (infoMem 4 0 va)
        else if from_ % 16 ≠ 0 then .trap .align (c.tag e) (infoMem 4 0 from_)
        else if wsd = 0 then rsvHdr c e 6 0
        else if 4 ≤ a then rsvOperand c e ((lowestFrom a 2 30).getD 2)
        else match lowestBit [badZero? d0 61 57, badUnless? (!d0.getLsbD 62 || d0.getLsbD 63) 62], badZero? d1 7 0 with
          | some b, _ => rsvHdr c e 0 b
          | none, some b => rsvHdr c e 1 b
          | none, none =>
            let w4 := w 4
            let w4' := dw (w4.toNat / 8 * 8 + Nat.max (field w4 2 0) (a + 1))
            match cellStores s c e 4 [(wsd + 16 * a, d0), (wsd + 16 * a + 8, d1), (va + 32, w4')] with
            | .stop r => r
            | .ok s ps => .done (storeTriples s c ps) (scalarOut c1 c0 .s32 0))

/-! ### YIELD, CANCEL, JOBDONE, TASKQ (R401) -/

/-- YIELD (R401): the round is marked. -/
def execYield (c1 c0 : Cons) (s : State) : Outcome :=
  fireOnce s c1 c0 .s32 (fun c _ => .done (onPlot s c.f.plot (fun p => { p with yield := true })) (scalarOut c1 c0 .s32 0))

/-- CANCEL (R401): a record that waits, and every part split from it that waits, complete. -/
def execCancel (c1 c0 : Cons) (s : State) : Outcome :=
  fireOnce s c1 c0 .s32 (fun c e =>
    let h := c.wide 0 e
    match liveRec? s c.plot.vi h with
    | none => .done s (scalarOut c1 c0 .s32 0)
    | some (k, r) =>
      if r.running = true then .done s (scalarOut c1 c0 .s32 0)
      else
        let parts := s.recs.filter (fun (j, q) => j == k || (!q.running && q.src.contains h))
        .done (parts.foldl (fun s (j, _) => finishRec s j true) s) (scalarOut c1 c0 .s32 (dw parts.length)))

/-- JOBDONE (R401): a release at system scope; the first of a job records its code. -/
def execJobdone (s : State) : Outcome :=
  fireOnce s 0x1FF#9 0x1FF#9 .s32 (fun c e =>
    let (s, pending) := releaseFirst s c
    if pending = true then .stall s
    else
      let s := reachScope s c.plot.vi 5#3
      match recOf? s c.plot with
      | none => .done s []
      | some (_, r) => .done (onJob s r.job (fun j => bif j.jd then j else { j with jd := true, code := c.low 0 e })) [])

/-- TASKQ (R401). -/
def execTaskq (which : BitVec 3) (c1 c0 : Cons) (s : State) : Outcome :=
  fireOnce s c1 c0 .s64 (fun c _ =>
    let run := recOf? s c.plot
    let v : Dword := match which.toNat, run with
      | 0, some (_, r) => dw r.lo
      | 1, some (_, r) => dw r.hi
      | 2, some (k, _) => taskHandle s k
      | 3, some (_, r) => bif c.plot.inh then 0 else r.parent
      | 4, _ => dw (s.recs.filter (fun (k, r) => k / 65536 == poolKey c.plot.die c.plot.vi && r.ready s)).length
      | 5, _ => zx32 (viOf s c.plot.vi).fsdef
      | _, _ => 0
    .done s (scalarOut c1 c0 .s64 v))

end Sys2Proof.Machine
end

