-- ==== Sys2Proof/Machine/Sched.lean ====
section
/-!
DEFINITION. Sys2Proof/Machine/Sched.lean: what the scheduler does by itself: staging (R391-R394), fair share (R397), the
microsecond steps of the toll counters (R306, R432), page walks and migration (R268, R272, R273).
-/
namespace Sys2Proof.Machine

/-! ### Staging (R391-R394) -/

/-- A working-set declaration (R391): its first byte for a record's range, the bytes in whole lines, whether it is near, and
its area. -/
structure WorkSet where
  start : Nat
  bytes : Nat
  near : Bool
  frozen : Bool
  area : Nat
  deriving DecidableEq, Repr

/-- The set of a declaration's words for a range. -/
def workSet (d0 d1 : Dword) (lo hi : Nat) : WorkSet :=
  let stride := field d1 63 40
  let first := (field d0 56 0 + lo * stride) / 128 * 128
  let last := (field d0 56 0 + hi * stride + field d1 39 16 + 127) / 128 * 128
  { start := first % 2 ^ 57, bytes := last - first, near := d0.getLsbD 62, frozen := d0.getLsbD 63, area := field d1 15 8 }

/-- Whether FEAT 4 is present and not masked for a VI. -/
def stagingOn (s : State) (v : Nat) : Bool := Config.present.getLsbD 4 && !(viOf s v).featm.getLsbD 4

/-- What staging finds at the declaration that it has reached: the set; a wait; nothing that it can read. -/
inductive Declared where
  | set (s : State) (w : WorkSet)
  | wait
  | none
  deriving DecidableEq, Repr

/-- The set that staging of a record has reached (R391). -/
def currentSet (s : State) (k : Nat) (r : Rec) : Declared :=
  match hubRead s (recVi k) ((r.wsd / 16 * 16 + 16 * r.decl) % 2 ^ 57) 2 with
  | .ok s [d0, d1] => .set s (workSet d0 d1 r.lo r.hi)
  | .wait _ => .wait
  | _ => .none

/-- The P-cell whose staging function serves a VI on a die: the lowest granted one, by edge and index (R392). -/
def stagingPort? (s : State) (die v : Nat) : Option Nat :=
  ((s.plots.filter (fun (_, p) => p.vi == v && p.die == die)).flatMap (fun (_, p) => grantPorts p)).foldl (fun m x => match m with
    | none => some x
    | some y => some (Nat.min x y)) none

/-- The snapshot areas of a plot. -/
def snapAreas (p : Plot) : List Area := (areasOf p).filter (fun a => a.kind == 3)

/-- Whether a snapshot area of a plot holds a snapshot. -/
def areaTaken (s : State) (key area : Nat) : Bool := s.recs.any (fun (_, r) => r.bound == some key && r.areas.contains area)

/-- The idle plot that a record's near set can be staged in (R392). -/
def nearPlot? (s : State) (k : Nat) (r : Rec) (w : WorkSet) : Option Nat :=
  (s.plots.find? (fun (key, p) => p.isIdle && holdsGraph s k r p && (r.bound.isNone || r.bound == some key) && !areaTaken s key w.area &&
    (match (snapAreas p)[w.area]? with
      | some a => w.bytes.ble a.size
      | none => false))).map (·.1)

/-- Whether a record is ready and not yet staged. -/
def Rec.unstaged (s : State) (r : Rec) : Bool := r.ready s && r.decl.blt r.wsn

/-- The ready records of a record's pool that are not yet staged and come before it in dispatch order. -/
def stagedBefore (s : State) (k : Nat) (r : Rec) : Tab Rec :=
  s.recs.filter (fun (j, q) => j / 65536 == k / 65536 && q.unstaged s && Rec.before q r)

/-- Whether a record is one of the first 8 of its pool, in dispatch order, that are ready and not yet staged, and its next declaration is to
be admitted (R392). -/
def stageable (s : State) (k : Nat) (r : Rec) : Bool :=
  r.unstaged s && !r.open_ && stagingOn s (recVi k) && (stagingPort? s (recDie k) (recVi k)).isSome && (stagedBefore s k r).length.blt 8

/-- A change of a record's staging, which its copy in memory does not show. -/
def onStage (s : State) (k : Nat) (g : Rec → Rec) : State := { s with recs := Tab.upd s.recs k g }

/-- The staging of a record goes on to its next declaration. -/
def nextDecl (s : State) (k : Nat) : State := onStage s k (fun r => { r with decl := r.decl + 1, line := 0, open_ := false })

/-- A declaration admitted to the staging function's queue (R392, R393). -/
def admitStage (s : State) (k : Nat) (g : Rec → Rec) : State :=
  onStage { s with ctr := s.ctr + 1 } k (fun r => { g r with open_ := true, line := 0, turn := s.ctr })

/-- The state with a record's next declaration admitted, or passed over where it cannot be read; none where admission does not hold
(R392). -/
def admitted? (s : State) (k : Nat) (r : Rec) : Option State :=
  let v := recVi k
  match currentSet s k r with
  | .wait => none
  | .none => some (nextDecl s k)
  | .set s w =>
    if w.near = true then
      match w.frozen, nearPlot? s k r w with
      | true, some key => some (admitStage s k (fun r => { r with bound := some key, areas := w.area :: r.areas }))
      | _, _ => none
    else
      let units := (w.bytes + 65535) / 65536
      if field (viOf s v).squota 15 0 < field (viOf s v).squota 47 32 + units then none
      else some (admitStage (addUsed s v units) k (fun r => { r with charged := r.charged + units }))

/-- STAGE_DECLARATION (R392): the next declaration of a ready record, where admission holds, and for no record before it. -/
def execStageDeclaration (recId : Nat) (s : State) : Outcome :=
  match Tab.at? s.recs recId with
  | none => .next s
  | some r =>
    if stageable s recId r = false ∨ (stagedBefore s recId r).any (fun (j, q) => stageable s j q && (admitted? s j q).isSome) = true then .next s
    else .next ((admitted? s recId r).getD s)

/-- Staged bytes (R393). -/
def tollStage (s : State) (v : Nat) : State := addToll s v 8 128

/-- A line of a near snapshot written into its area. -/
def putSnapshot (s : State) (key area off : Nat) (d : Line) : State :=
  onPlot s key (fun p => match (snapAreas p)[area]? with
    | none => p
    | some a => { p with near := Tab.updD p.near a.scell [] (fun m => writeN m 128 (a.off + off) d.toNat) })

/-- Whether the declaration of a record is the first in the queue of its staging function (R393, R320). -/
def firstStaged (s : State) (k : Nat) (r : Rec) : Bool :=
  !s.recs.any (fun (j, q) => j / 65536 == k / 65536 && q.ready s && q.open_ && q.turn.blt r.turn)

/-- Whether the slot serves a staging read of a VI at a die now (R396). -/
def stageSlot (s : State) (die v : Nat) : Bool :=
  match (netOf s die).turn with
  | .staging none => true
  | .staging (some u) => u == v
  | _ => false

/-- A staging function as what makes an access for a VI. -/
def Via.staging (port v : Nat) : Via := { port := port, vi := v, plot := none, src := 4, firing := none, stream := none, need := [] }

/-- STAGING_READ (R393, R396): the next line of the declaration that is first in its staging function's queue, in a slot that serves it: fetched into
L2, or copied into the snapshot's area; a fault abandons the rest of the declaration. -/
def execStagingRead (recId : Nat) (s : State) : Outcome :=
  match Tab.at? s.recs recId with
  | none => .next s
  | some r =>
    let v := recVi recId
    let die := recDie recId
    match stagingPort? s die v with
    | none => .next s
    | some port =>
      if r.ready s = false ∨ r.open_ = false ∨ firstStaged s recId r = false ∨ stageSlot s die v = false then .next s
      else match currentSet s recId r with
        | .wait => .next s
        | .none => .next (nextDecl s recId)
        | .set s w =>
          if w.bytes ≤ 128 * r.line then .next (nextDecl s recId)
          else
            let va := (w.start + 128 * r.line) % 2 ^ 57
            match translate s (Via.staging port v) va .read with
            | .miss s => .next s
            | .fail s (.migrate _ _ _) => .next s
            | .fail s (.xlate _) => .next (nextDecl s recId)
            | .ok s pa =>
              if paReserved s pa ∨ (paRemote s pa ∧ (viOf s v).featm.getLsbD 6 = true) then .next (nextDecl s recId)
              else if lineReady s port v (pa / 128) = false then .next s
              else
                let f := readLine s port v (pa / 128) 128
                let s := tollStage (useSlot f.s die) v
                let s := match w.near, r.bound with
                  | true, some key => putSnapshot s key w.area (128 * r.line) f.data
                  | _, _ => s
                .next (onStage s recId (fun r => { r with line := r.line + 1 }))

/-! ### Fair share (R397) -/

/-- FSWEIGHT of a VI, 0 taken as 1. -/
def weightOf (s : State) (v : Nat) : Nat := Nat.max 1 (field (viOf s v).fsweight 15 0)

/-- Whether a VI has a ready record. -/
def hasReady (s : State) (v : Nat) : Bool := s.recs.any (fun (k, r) => recVi k == v && recDie k != 4 && r.ready s)

/-- Whether a VI is active: it has a ready record or a non-empty enabled job queue. -/
def viActive (s : State) (v : Nat) : Bool :=
  hasReady s v || (viOf s v).queues.any (fun (_, q) => q.base.getLsbD 4 && q.head != q.tail)

/-- The active VIs. -/
def activeVis (s : State) : List Nat := (List.range 512).filter (viActive s)

/-- The C-cells of a VI's configured plots. -/
def heldCells (s : State) (v : Nat) : Nat :=
  s.plots.foldl (fun n (_, p) => bif p.vi == v && p.role != .reeve then n + p.w * p.h / 2 else n) 0

/-- Whether a VI holds fewer C-cells than its share, the weights of the active VIs adding up to `sum`. -/
def underShare (s : State) (sum v : Nat) : Bool := (heldCells s v * sum).blt (4608 * weightOf s v)

/-- Whether a record was placed before another: at an earlier moment, or in the order of its pool (R385). -/
def olderRec (x y : Nat × Rec) : Bool := x.2.born.blt y.2.born || (x.2.born == y.2.born && x.2.key.blt y.2.key)

/-- The oldest record of a VI that is ready and that no plot can take. -/
def oldestWaiting? (s : State) (v : Nat) : Option (Nat × Rec) :=
  (s.recs.filter (fun (k, r) => recVi k == v && recDie k != 4 && r.ready s && r.lo.blt r.hi &&
      !s.plots.any (fun (key, p) => p.isIdle && suits s key p k r))).foldl
    (fun m x => match m with
      | none => some x
      | some y => bif olderRec x y then some x else some y) none

/-- FAIR_SHARE_TICK (R397): each microsecond the deficit of every active VI grows or ends. -/
def execFairShareTick (s : State) : Outcome :=
  let vs := activeVis s
  let sum := vs.foldl (fun n v => n + weightOf s v) 0
  .next (vs.foldl (fun t v =>
    onVi t v (fun vi => { vi with fsdef := bif underShare s sum v && (oldestWaiting? s v).isSome then satInc vi.fsdef else 0 }))
    { s with usShare := s.time.toNat })

/-- The shape of the plot that a record waits for, as its image gives it, with the grants that it takes. -/
def shapeOf? (s : State) (k : Nat) (r : Rec) : Option (Plot × Option (Nat × Nat)) :=
  match readImage s (recVi k) r.code with
  | .ok _ img =>
    let w : Dword := (img[0]?).getD 0
    let ports := bif (firstFault (headerFaults img)).isNone then (takeApart img).ports else []
    some (Plot.empty (recDie k) 0 0 (field w 55 50) (field w 49 44) (recVi k) r.code .graph ports,
      bif w.getLsbD 43 then some (field w 40 35, field w 34 29) else none)
  | _ => none

/-- Whether the fabric has a place for a shape once a plot has gone. -/
def freesPlace (s : State) (key : Nat) (shape : Plot) (pin : Option (Nat × Nat)) : Bool :=
  (firstPlace? { s with plots := Tab.del s.plots key } shape pin).isSome

/-- Whether a plot may be pre-empted (R397, R419, R426, R452): a graph's round that runs, whose image fits in what is free of IMGMEM. -/
def preemptible (s : State) (key : Nat) (p : Plot) : Bool :=
  p.role == .graph && p.running && !p.frozen && p.stop == .none && (imageSpace? s p.vi (imageBytes key)).isSome

/-- What the C-cells of a VI are above its share, times the sum of the weights. -/
def overShare (s : State) (sum v : Nat) : Int :=
  ((heldCells s v * sum : Nat) : Int) - ((4608 * (bif viActive s v then weightOf s v else 0) : Nat) : Int)

/-- The plot that is pre-empted for a VI's shape (R397): of the VI most above its share, the plot dispatched last that frees
a place. -/
def victimFor? (s : State) (v : Nat) (shape : Plot) (pin : Option (Nat × Nat)) : Option Nat :=
  let sum := (activeVis s).foldl (fun n v => n + weightOf s v) 0
  let can := s.plots.filter (fun (key, p) => p.vi != v && preemptible s key p && freesPlace s key shape pin)
  (can.foldl (fun (m : Option (Nat × Plot)) x => match m with
    | none => some x
    | some y =>
      let a := overShare s sum x.2.vi
      let b := overShare s sum y.2.vi
      bif decide (b < a) || (decide (a = b) && y.2.used.blt x.2.used) then some x else some y) none).map (·.1)

/-- Whether a pre-emption by the scheduler is under way. -/
def preempting (s : State) : Bool := s.plots.any (fun (_, p) => match p.wave with
  | some w => w.waiter.isNone
  | none => false)

/-- The scheduler pre-empts a plot by a marker wave, or by FREEZE at once where WAVEBUD is 0 (R423, R426). -/
def preempt (s : State) (key : Nat) : State :=
  beginStop s key (bif field s.wavebud 31 0 == 0 then .freeze else .wave)
    (some { start := s.time.toNat, sent := false, arrived := [], waiter := none })

/-- FAIR_SHARE_PREEMPT (R397); where there is already a place for the record, the scheduler has only to configure its plot. -/
def execFairSharePreempt (v : Nat) (s : State) : Outcome :=
  if (viOf s v).fsdef.toNat ≤ field s.quantum 31 0 ∨ preempting s = true then .next s
  else match oldestWaiting? s v with
    | none => .next s
    | some (k, r) => match shapeOf? s k r with
      | none => .next s
      | some (shape, pin) =>
        if (makePlace s.plots.length s shape pin).isSome = true then .next s
        else match victimFor? s v shape pin with
          | none => .next s
          | some key => .next (preempt s key)

/-! ### Toll counters that run with time (R306, R432) -/

/-- The number of set bits of a 16-bit mask. -/
def ones16 (n : Nat) : Nat := ((List.range 16).filter n.testBit).length

/-- What a microsecond adds to a VI's way-microseconds: its ways, those draining among them, and its window bytes (R306). -/
def wayMicros (s : State) (v : Nat) : Nat :=
  let vi := viOf s v
  match viPart? s v with
  | none => 0
  | some p => ones16 (field vi.waym 15 0 ||| field vi.waym 31 16) * 2 ^ field (partOf s p) 53 51 + (field vi.wquota 47 32 + 7) / 8

/-- TOLL_TICK (R306): each microsecond adds to counter 6 of every VI. -/
def execTollTick (s : State) : Outcome :=
  .next ((List.range 512).foldl (fun t v => bif wayMicros s v == 0 then t else addToll t v 6 (wayMicros s v))
    { s with usToll := s.time.toNat })

/-! ### A cycle (R10, R12, R108, R170, R196, R214) -/

/-- A cycle of a cell: its units, its array, its reductions, and the results on their way. -/
def tickCell (c : Cell) : Cell :=
  { c with sf := c.sf - 1, hold := c.hold - 1, array := c.array.map (fun j => { j with occ := j.occ - 1, left := j.left - 1 }),
           pend := c.pend.map (fun d => { d with left := d.left - 1 }),
           blocks := c.blocks.map (fun (i, b) => (i, { b with reds := b.reds.map (fun (n, r) => (n, r.tick)) })) }

/-- The results of a cell that are due delivered to their consumers. -/
def deliverDue (p : Plot) (cell : Nat) : Plot :=
  match Tab.at? p.cells cell with
  | none => p
  | some c => (c.pend.filter (fun d => d.left == 0)).foldl (fun p d => deliverAll p cell d.bidx d.first d.out)
      (onCell p cell (fun c => { c with pend := c.pend.filter (fun d => d.left != 0) }))

/-- A cycle of a plot: its cells, its tokens where the switches run, its RECs, its watchdog, which a migration holds (R272). -/
def tickPlot (migrating : Bool) (p : Plot) : Plot :=
  let q : Plot := { p with cells := p.cells.map (fun (k, c) => (k, tickCell c)),
                           eosQ := p.eosQ.map (fun t => { t with left := t.left - 1 }),
                           trapNow := false, rev := p.rev.map (fun r => { r with left := r.left - 1 }),
                           recQ := p.recQ.map (fun (n, f) => (n - 1, f)) }
  let q := bif p.frozen || p.stop == .freeze then q else flow q
  let q := q.cells.foldl (fun q (k, c) => bif c.pend.any (fun d => d.left == 0) then deliverDue q k else q) q
  countIdle migrating q

/-- The REC firings of a plot that take effect now leave its list; they are tried again. -/
def takeRecs (s : State) (key : Nat) : State :=
  match Tab.at? s.plots key with
  | none => s
  | some p =>
    let due := p.recQ.filter (fun x => x.1 == 0)
    bif due.isEmpty then s
    else { onPlot s key (fun p => { p with recQ := p.recQ.filter (fun x => x.1 != 0) }) with retry := s.retry ++ due.map (fun x => (x.2, BitVec.allOnes 32)) }

/-- Whether an access of a plot waits for a page to migrate (R272). -/
def migrating (s : State) (key : Nat) : Bool :=
  s.pcells.any (fun (_, c) => c.misses.any (fun m => (m.who.plot == some key || m.also.contains key) && (match m.fail with
    | some (.migrate _ _ _) => true
    | _ => false)))

/-- Whether a partition form, WAYMASK.SET or WQUOTA.SET of a plot is in progress (R309). -/
def setting (s : State) (key : Nat) (p : Plot) : Bool :=
  s.vis.any (fun (_, vi) => vi.wayset.any (fun x => x.1.plot == key)) || s.stalled.any (fun f => f.plot == key && (match ctxIn? p f with
    | some c => field c.word 31 24 == 0xFC || field c.word 31 24 == 0xFD
    | none => false))

/-! ### The bell at the die networks (R395, R396) -/

/-- The VI that owns the slot now (R395). -/
def slotOwner? (s : State) : Option Nat :=
  let b := Tab.atD s.bell (slotNow s) 0
  bif b.getLsbD 15 then some (field b 8 0) else none

/-- The VIs that have a request waiting at the network of a die (R396). -/
def waitingAt (s : State) (die : Nat) : List Nat :=
  s.pcells.foldl (fun l (port, _) => match bif dieOf? port == some die then nextReq? s port else none with
    | none => l
    | some r => bif l.contains r.vi || (reqCurrent s r && (entryFor? s (sliceOf s (reqQueue s r)).queue (reqQueue s r) r.vi).isNone) then l
      else r.vi :: l) []

/-- The VI that an open slot serves: the one of the greatest credit, the lowest on a tie. -/
def mostCredit (c : Tab Int) : Option Nat :=
  (c.foldl (fun (m : Option (Nat × Int)) x => match m with
    | none => some x
    | some y => bif decide (y.2 < x.2) then some x else some y) none).map (·.1)

/-- What a slot begins with at a network where some VIs have a request waiting (R396): in a slot of a VI its own, else its staging; in an open
one the VI that the weighted round robin serves, else any staging. -/
def Net.begin_ (s : State) (waiting : List Nat) (n : Net) : Net :=
  let credit : Tab Int := n.credit.filter (fun x => waiting.contains x.1)
  match slotOwner? s with
  | some v => { credit := credit, turn := bif waiting.contains v then .demand v else .staging (some v) }
  | none =>
    let more : Tab Int := waiting.foldl (fun c v => Tab.updD c v 0 (fun x => x + (weightOf s v : Int))) credit
    match mostCredit more with
    | none => { credit := [], turn := .staging none }
    | some v => { credit := Tab.updD more v 0 (fun x => x - ((waiting.foldl (fun n v => n + weightOf s v) 0 : Nat) : Int)), turn := .demand v }

/-- The networks of the four dies at the beginning of a slot. -/
def beginSlot (s : State) : State :=
  { s with nets := [0, 1, 2, 3].map (fun die => (die, (netOf s die).begin_ s (waitingAt s die))) }

/-- The request that the network of a die serves in this slot: the P-cell that sends it. -/
def servedPort? (s : State) (die : Nat) (n : Net) : Option Nat :=
  match n.turn with
  | .demand v => (s.pcells.find? (fun (port, _) => dieOf? port == some die && (nextReq? s port).any (fun r => r.vi == v))).map (·.1)
  | _ => none

/-! ### Walkers (R268) -/

/-- Walks that start among the misses of a P-cell, the oldest first, for so many free walkers. -/
def startWalk : (free : Nat) → List Miss → Nat × List Miss
  | n, [] => (n, [])
  | n, m :: t =>
    bif m.fail.isNone && !m.walking && n != 0 then
      let (k, l) := startWalk (n - 1) t
      (k, { m with walking := true } :: l)
    else
      let (k, l) := startWalk n t
      (k, m :: l)

/-- The misses whose walks are under way on a die. -/
def walkingOn (s : State) (die : Nat) : Nat :=
  s.pcells.foldl (fun n (port, c) => bif portDie port == die then n + (c.misses.filter (fun m => m.walking)).length else n) 0

/-- Walks start while a walker of the P-cell's die, of 32, is free (R268); the Reeve and the hub have as many. -/
def startWalks (s : State) : State :=
  bif s.pcells.any (fun (_, c) => c.misses.any (fun m => m.fail.isNone && !m.walking)) then
    let free : Tab Nat := [0, 1, 2, 3, 4].map (fun die => (die, 32 - walkingOn s die))
    { s with pcells := (s.pcells.foldl (fun (acc : Tab Nat × Tab PCell) x =>
        let (n, l) := startWalk (Tab.atD acc.1 (portDie x.1) 0) x.2.misses
        (Tab.set acc.1 (portDie x.1) n, acc.2 ++ [(x.1, { x.2 with misses := l })])) (free, ([] : Tab PCell))).2 }
  else s

/-- Whether a firing that has issued still waits: in a plot that issues, with elements that are ready or at a home. -/
def Waiting.stays (s : State) (w : Waiting) : Bool :=
  (w.ctx? s).any (fun c => c.plot.live && (!(readyElems c.blk c.inst c.f.slot).isEmpty || Tab.atD c.inst.held c.f.slot 0 != 0))

/-- The firings that no longer wait without a place among those that do. -/
def pruneWaiting (s : State) : State := { s with waiting := s.waiting.filter (Waiting.stays s) }

/-- Whether the access of a miss entry is one that nothing makes any more: its firing has gone. -/
def Miss.gone (s : State) (m : Miss) : Bool :=
  m.who.stream.isNone && m.who.firing.any (fun f => (ctxOf? s f).isNone)

/-- The miss entries whose walk has found a fault for an access that has gone given up (R271). -/
def pruneMisses (s : State) : State :=
  { s with pcells := s.pcells.map (fun (k, c) => (k, { c with misses := c.misses.filter (fun m => !(m.gone s && (match m.fail with
      | some (.xlate _) => true
      | _ => false))) })) }

/-- The requests that leave their P-cells as a cycle begins: at each die the one that its network serves, and of each port that is on no die
the next (R295, R396). -/
def sendAll (s : State) : State :=
  let s := s.nets.foldl (fun s (die, n) => match servedPort? s die n with
    | some port => sendNext s port
    | none => s) s
  s.pcells.foldl (fun s (port, _) => bif (dieOf? port).isNone then sendNext s port else s) s

/-- The writes that wait at the P-cells for a hand-over looked at again (R263). -/
def settleAllEarly (s : State) : State :=
  s.pcells.foldl (fun s (port, c) => bif c.early.isEmpty then s else settleEarly s port) s

/-- A cycle passes (R12, R432, R445): TIME, the cell-cycles of plots that run a round, the plots, the buffers' ages, the smithies. -/
def tick (s : State) : State :=
  let s := s.plots.foldl (fun s (_, p) => bif p.running && p.role != .reeve then addToll s p.vi 0 (p.w * p.h / 2) else s) s
  let s : State := { s with
    time := s.time + 1,
    plots := s.plots.map (fun (k, p) => (k, tickPlot (migrating s k || setting s k p) p)),
    pcells := s.pcells.map (fun (k, c) => (k, { c with lines := c.lines.map (fun (l, b) => (l, { b with age := b.age + 1 })) })),
    smithy := s.smithy.map (fun (k, l) => (k, l.map (fun r => { r with left := r.left - 1 }))),
    smithyRest := (s.smithyRest.map (fun (k, n) => (k, n - 1))).filter (fun x => x.2 != 0) }
  let s := startWalks (pruneMisses { s with stalled := [], served := [], recent := [], retry := s.retry ++ s.parked, parked := [] })
  let s := settleAllEarly (pruneWaiting (deliverAllIrqs s))
  sendAll (beginSlot (s.plots.foldl (fun s (k, _) => takeRecs s k) s))

/-! ### Page walks and migration (R268, R272, R273) -/

/-- The first miss of a P-cell that a walker has. -/
def nextWalk? (s : State) (port : Nat) : Option Miss := (portOf s port).misses.find? (fun m => m.walking)

/-- The misses of a P-cell with an access's entry changed, or removed. -/
def onMiss (s : State) (port : Nat) (m : Miss) (g : Miss → Option Miss) : State :=
  onPort s port (fun p => { p with misses := p.misses.filterMap (fun x => bif x == m then g x else some x) })

/-- The walk of an access that waits at a P-cell: the TLBs filled, or the fault left in its entry (R268). -/
def walkMiss (s : State) (port : Nat) (m : Miss) : State :=
  match walk s m.who.vi m.va with
  | .error e => onMiss s port m (fun m => some { m with walking := false, fail := some e })
  | .ok w =>
    let ok := (permFault? w.entry (if m.write then .write else .read)).isNone
    let s := bif ok then markUsed s m.who.vi w m.write else s
    fillTlb (onMiss s port m (fun _ => none)) port { w.entry with dirty := w.entry.dirty || (ok && m.write) }

/-- The leaf entries below a table, with the sizes of their pages (R266). -/
def tableLeaves (s : State) : (level : Nat) → (table : Nat) → List (Nat × Nat)
  | 0, _ => []
  | level + 1, table => (List.range 512).flatMap (fun i =>
      let e := newestWord s (table + 8 * i)
      bif !e.getLsbD 0 then [] else bif e.getLsbD 1 then [(table + 8 * i, leafLg (level + 1) (e.getLsbD 11))]
      else tableLeaves s level (field e 51 12 * 4096))

/-- The leaf entries that map the memory of a VI: of stage 2, or of stage 1 for VI 0 (R266). -/
def viLeaves (s : State) (v : Nat) : List (Nat × Nat) :=
  let root := bif v == 0 then (viOf s v).s1root else (viOf s v).s2root
  bif root.getLsbD 0 then
    bif v == 0 then tableLeaves s 5 (field root 51 12 * 4096)
    else (List.range 16).flatMap (fun i =>
      let e := newestWord s (field root 51 12 * 4096 + 8 * i)
      bif e.getLsbD 0 && !e.getLsbD 1 then tableLeaves s 4 (field e 51 12 * 4096) else [])
  else []

/-- The addresses, one in each page of 4 KiB, that an access needs as a whole (R272). -/
def Miss.addresses (m : Miss) : List Nat :=
  m.va :: m.who.need.flatMap (fun (va, n) => (List.range ((va % 4096 + n + 4095) / 4096)).map (fun i => (va / 4096 + i) * 4096))

/-- The table entries that an access needs (R272). -/
def Miss.needs (s : State) (m : Miss) : List Nat :=
  m.addresses.flatMap (fun va => match walkAny s m.who.vi true va with
    | .ok w => w.tables ++ w.leaves
    | .error _ => [])

/-- The table entries of a page: of a CONT page its 16 (R267). -/
def pageEntries (e : Dword) (entry lg : Nat) : List Nat :=
  bif lg == 16 && e.getLsbD 11 then (List.range 16).map (fun i => entry / 128 * 128 + 8 * i) else [entry]

/-- Whether the page of a leaf entry may be evicted for an access (R272): it is in HBM, neither pinned nor needed by the access, its tables
among what the access needs. -/
def evictable (s : State) (needs : List Nat) (entry lg : Nat) : Bool :=
  let e := newestWord s entry
  let base := field e 51 12 * 4096 / 2 ^ lg * 2 ^ lg
  e.getLsbD 0 && e.getLsbD 1 && (base % 2 ^ 46).blt (2 ^ 40) && !(pageEntries e entry lg).any (fun pa => (newestWord s pa).getLsbD 10 || needs.contains pa) &&
    !needs.any (fun pa => base.ble pa && pa.blt (base + 2 ^ lg)) && !s.pins.any (fun x => meets x.base (x.base + x.size) base (base + 2 ^ lg))

/-- Whether every resident page of an access's VI is pinned or needed by it (R273). -/
def nothingToEvict (s : State) (m : Miss) : Bool :=
  let needs := m.needs s
  !(viLeaves s m.who.vi).any (fun (entry, lg) => evictable s needs entry lg)

/-- The handle by which the driver answers for an access (R273, R274): of a stream its own, of a firing TCELL[23:0]; the kind of its fault record before
it, the ordinal and the descriptor after it. -/
def Via.handleOf (s : State) (u : Via) : Nat × Nat × Nat × Nat :=
  match u.stream, u.firing, u.plot.bind (Tab.at? s.plots) with
  | some (h, ord, desc), _, _ => (0, h, ord, desc)
  | none, some f, some p => (1, (tcellOf p f.cell f.bidx f.slot).toNat % 2 ^ 24, 0, 0)
  | none, _, _ => (2, 0, 0, 0)

/-- PAGE_WALK_COMPLETE (R268, R272): a walker finishes: a translation fills the TLBs; a failure waits in the miss entry for its
access; a migration fault asks the Reeve, which, where no frame of the VI is free (a free choice) and no page can be evicted, writes the fault
record of R273 and starts FTIMEOUT. -/
def execPageWalkComplete (port : Nat) (s : State) : Outcome :=
  match nextWalk? s port with
  | none => .next s
  | some m =>
    let s1 := walkMiss s port m
    match (portOf s1 port).misses.find? (fun x => x.who == m.who && x.va == m.va && x.write == m.write) with
    | some m1 => match m1.fail with
      | some (.migrate _ _ _) =>
        let (i, s2) := draw s1
        bif Config.freeChoice i && nothingToEvict s2 m1 then
          let s3 := onMiss s2 port m1 (fun m => some { m with victim := true })
          let (kind, handle, ord, desc) := m1.who.handleOf s3
          let s4 := putFault s3 m1.who.vi kind 6 handle m1.va ord desc
          .next (onVi s4 m1.who.vi (fun vi => { vi with ftstart := some (vi.ftstart.getD s4.time.toNat) }))
        else .next s2
      | _ => .next s1
    | none => .next s1

/-- A line copied to another place in memory, its side word and poison with it, and every copy of it. -/
def copyLine (s : State) (v src dst : Nat) : State :=
  let held := s.slices.findSome? (fun (_, sl) => sl.lines.findSome? (fun (_, l) => bif l.line == src && l.dirty then some l else none))
  let d := (held.map (·.data)).getD (memLine s.mem src)
  let side := (held.map (·.side)).getD (sideFill s src)
  let bad := (held.map (·.poison)).getD (s.poison.contains src)
  let s := storeMem (reportWrite s dst) dst d (BitVec.allOnes 128) (some side)
  let s : State := { s with slices := s.slices.map (fun (n, sl) => (n, updateCopies dst d (BitVec.allOnes 128) sl)),
                            poison := bif bad then dst :: s.poison else s.poison }
  chargeLine (chargeLine s v src 128 none) v dst 128 none

/-- The line-by-line copy of a page to a frame, charged to its VI (R272, R433). -/
def copyPage (s : State) (v src dst bytes : Nat) : State :=
  (List.range (bytes / 128)).foldl (fun s i => copyLine s v (src / 128 + i) (dst / 128 + i)) s

/-- Whether a place in memory of a size is one that a page can be copied to, within HBM or, for an evicted page, within a CXL
window (R272). -/
def frameOk (s : State) (hbm : Bool) (frame lg : Nat) : Bool :=
  let a := frame * 4096
  a % 2 ^ lg == 0 && !paReserved s a && !paReserved s (a + 2 ^ lg - 1) && (bif hbm then (a + 2 ^ lg).ble (2 ^ 40) else Nat.ble (2 ^ 42) a)

/-- The entries of a page pointed at a frame, with V and MIG as given. -/
def movePage (s : State) (entry lg frame : Nat) (valid : Bool) : State :=
  (pageEntries (newestWord s entry) entry lg).foldl (fun s pa =>
    let e := newestWord s pa
    let own := bif lg == 16 then pa / 8 % 16 else 0
    let e' := dw (e.toNat / 2 ^ 52 * 2 ^ 52 + (frame + own) % 2 ^ 40 * 4096 + e.toNat % 4096)
    let s : State := { s with vis := s.vis.map (fun (v, vi) => (v, { vi with walked := Tab.del vi.walked pa })) }
    writeAll s pa (setBit (setBit e' 0 valid) 9 (!valid))) s

/-- Every TLB without the entries that map into a range of memory. -/
def dropMapped (s : State) (a n : Nat) : State :=
  let keep := fun (t : TlbEntry) => !meets t.pa (t.pa + 2 ^ t.lg) a (a + n)
  { s with pcells := s.pcells.map (fun (k, c) => (k, { c with tlb := c.tlb.filter keep, ranges := c.ranges.filter (fun (_, t) => keep t) })),
           tlb2 := s.tlb2.map (fun (k, l) => (k, l.filter keep)) }

/-- Whether a line lies in a range of memory. -/
def lineIn (a n line : Nat) : Bool := a.ble (128 * line) && (128 * line).blt (a + n)

/-- Whether something on its way reads or writes a range of memory by its physical address: buffers, requests, copies (R262, R284, R292). -/
def pageBusy (s : State) (a n : Nat) : Bool :=
  s.pcells.any (fun (_, c) => c.lines.any (fun (l, _) => lineIn a n l) || (c.out ++ c.nacked).any (fun r => lineIn a n r.line) ||
    c.early.any (fun w => lineIn a n w.line) || c.copies.any (fun j => (j.src ++ j.dst).any (fun pa => lineIn a n (pa / 128)))) ||
  s.slices.any (fun (_, sl) => sl.queue.any (fun r => lineIn a n r.line))

/-- An address in a range of memory where the range has gone to another place. -/
def movedTo (a b n pa : Nat) : Nat := bif a.ble pa && pa.blt (a + n) then b + (pa - a) else pa

/-- The cached barriers and the arrivals of a plot, where a range of memory has gone to another place. -/
def Plot.movedTo (a b n : Nat) (p : Plot) : Plot :=
  { p with barriers := p.barriers.foldl (fun t (pa, x) => Tab.set t (Machine.movedTo a b n pa) x) [],
           arrivals := p.arrivals.map (fun x => { x with pa := Machine.movedTo a b n x.pa }) }

/-- The window lines and decoupling lines of a stream, where a range of memory has gone to another place. -/
def Stream.movedTo (a b n : Nat) (t : Stream) : Stream :=
  let line := fun (l : Nat) => Machine.movedTo a b n (128 * l) / 128
  { t with wlines := t.wlines.map (fun (o, w) => (o, { w with line := line w.line })), slines := t.slines.map (fun l => { l with line := line l.line }) }

/-- What names memory by its physical address, where a page has gone to another place (R268, R272): TLB entries and the lines held for reads
go, watched header lines are read again, and cached barriers, signals, window lines and pins follow the page (R121, R304, R357). -/
def movedFrame (s : State) (a b n : Nat) : State :=
  let s := dropMapped s a n
  { s with
    pcells := s.pcells.map (fun (k, c) => (k, { c with
      held := c.held.filter (fun (l, _) => !lineIn a n l),
      watches := c.watches.map (fun w => bif lineIn a n w.line then { w with hit := true } else w),
      ctxs := c.ctxs.map (fun (i, t) => (i, t.movedTo a b n)) })),
    plots := s.plots.map (fun (k, p) => (k, p.movedTo a b n)),
    images := s.images.map (fun (k, im) => (k, { im with plot := im.plot.movedTo a b n })),
    sigs := s.sigs.map (fun x => { x with pa := movedTo a b n x.pa }),
    pins := s.pins.map (fun x => { x with base := movedTo a b n x.base }) }

/-- The HBM frame of the page of a leaf entry. -/
def frameOf (s : State) (entry lg : Nat) : Nat := field (newestWord s entry) 51 12 * 4096 / 2 ^ lg * 2 ^ lg

/-- A page evicted to the CXL tier for an access: the leaf entry that maps it, and the place it goes to (R272). -/
def evictPage (s : State) (m : Miss) (entry place lg : Nat) : State :=
  bif evictable s (m.needs s) entry lg && frameOk s false place lg then
    let a := frameOf s entry lg
    movedFrame (movePage (copyPage s m.who.vi a (place * 4096) (2 ^ lg)) entry lg place false) a (place * 4096) (2 ^ lg)
  else s

/-- The miss of a P-cell whose page the Reeve is to bring next: its leaf entry, frame number and size. -/
def nextMigration? (s : State) (port : Nat) : Option (Miss × Nat × Nat × Nat) :=
  (portOf s port).misses.findSome? (fun m => bif m.victim then none else match m.fail with
    | some (.migrate entry pfn lg) => some (m, entry, pfn, lg)
    | _ => none)

/-- Whether the Reeve waits with a migration until what is on its way to the pages that it moves has been performed (R272). -/
def migrationWaits (s : State) (port : Nat) (evict : Option (Nat × Nat)) : Bool :=
  match nextMigration? s port with
  | none => false
  | some (_, _, pfn, lg) => pageBusy s (pfn * 4096 / 2 ^ lg * 2 ^ lg) (2 ^ lg) ||
      evict.any (fun (other, _) => pageBusy s (frameOf s other lg) (2 ^ lg))

/-- MIGRATION_COMPLETE (R272): the Reeve has copied the page that a miss of a P-cell waits for to an HBM frame of its VI,
after evicting a page where no frame was free, and writes the entry with V = 1; the access is released and walks again. Which
frame, and which page is evicted where, is the Reeve's choice; it waits until nothing is on its way to the pages that it moves. -/
def execMigrationComplete (port frame : Nat) (evict : Option (Nat × Nat)) (s : State) : Outcome :=
  match nextMigration? s port with
  | none => .next s
  | some (m, entry, pfn, lg) =>
    bif !frameOk s true frame lg || migrationWaits s port evict then .next s
    else
      let s := match evict with
        | some (other, place) => evictPage s m other place lg
        | none => s
      let a := pfn * 4096 / 2 ^ lg * 2 ^ lg
      let s := copyPage s m.who.vi a (frame * 4096) (2 ^ lg)
      let s := movedFrame (movePage s entry lg frame true) a (frame * 4096) (2 ^ lg)
      .next (onMiss s port m (fun m => some { m with fail := none }))

/-- The NOVICTIM accesses of a VI, by P-cell. -/
def victims (s : State) (v : Nat) : List (Nat × Miss) :=
  s.pcells.flatMap (fun (port, c) => (c.misses.filter (fun m => m.victim && m.who.vi == v)).map (fun m => (port, m)))

/-- Whether the FTIMEOUT of a VI has run out. -/
def ftimeoutDue (s : State) (v : Nat) : Bool :=
  match (viOf s v).ftstart with
  | none => false
  | some t => ((viOf s v).ftimeout.toNat * Config.cyclesPerUs).ble (s.time.toNat - t)

/-- FTIMEOUT_EXPIRY (R273): the plot of an access for which no page could be evicted is stopped, frozen to an image and its
task requeued; a NOVICTIM record goes to the VI. -/
def execFtimeoutExpiry (v : Nat) (s : State) : Outcome :=
  if ftimeoutDue s v = false then .next s
  else match (victims s v).head? with
    | none => .next (onVi s v (fun vi => { vi with ftstart := none }))
    | some (port, m) =>
      let key := m.who.plot.getD s.nextPlot
      match Tab.at? s.plots key with
      | none => .next (onMiss s port m (fun _ => none))
      | some p =>
        if p.stop = .none ∧ p.frozen = false then .next (beginStop s key .freeze none)
        else if cellsStopped key p true = false then .next s
        else
          let cell := match m.who.firing with
            | some f => tcellOf p f.cell f.bidx f.slot
            | none => 0
          let tag := match m.who.firing.bind (ctxIn? p) with
            | some c => c.inst.first
            | none => 0
          let pw := plotWord p
          let s := saveAndRequeue (onMiss s port m (fun _ => none)) key 2
          let s := raiseRecord s v .novictim tag (infoMem m.who.src 0 m.va) cell pw
          .next (bif (victims s v).isEmpty then onVi s v (fun vi => { vi with ftstart := none }) else s)

/-- A handle written to STRESUME (R273, R274): a frozen stream goes on; the access of a NOVICTIM is tried again. -/
def resumeAccess (s : State) (v h : Nat) : State :=
  let s := resumeStream s v h
  let hit := fun (m : Miss) => m.victim && m.who.vi == v && m.who.plot.isSome && (m.who.handleOf s).2.1 == h
  let s : State := { s with pcells := s.pcells.map (fun (n, c) => (n, { c with misses := c.misses.map (fun m =>
    bif hit m then { m with victim := false, walking := false, fail := none } else m) })) }
  bif (victims s v).isEmpty then onVi s v (fun vi => { vi with ftstart := none }) else s

end Sys2Proof.Machine
end

