-- ==== Sys2Proof/Machine/Traps.lean ====
section
/-!
DEFINITION. Sys2Proof/Machine/Traps.lean: the delivery of trap records, handler rounds and the resolution of traps
(R417-R420), and the forms TRAP and TRAPRET (R440).
-/
namespace Sys2Proof.Machine

/-! ### The return from a trap (R419) -/

/-- The plot frozen on a trap of a sequence number of a VI. -/
def subjectOf? (s : State) (v : Nat) (seq : Dword) : Option (Nat × Plot) :=
  s.plots.find? (fun (_, p) => p.vi == v && p.frozen && (match p.trap with
    | some r => r.seq == some seq
    | none => false))

/-- The readiness that a plot's pre-emption withdrew advertised again, where a trap has ended the pre-emption (R358, R361). -/
def backInGroups (s : State) (key : Nat) : State :=
  bif (Tab.at? s.plots key).any (fun p => p.stop == .none) then readvertise s key else s

/-- A trapped plot goes on: the trapping firing, and every firing that R125 left without effect, fire again. -/
def resumeTrap (s : State) (key : Nat) : State :=
  onPlot (backInGroups s key) key (fun p => { reissue p with frozen := false, trap := none, idle := 0 })

/-- The elements that a trap's resolution as null makes null: of an instance-scalar form the whole run. -/
def nullElems (b : Block) (i : Inst) (slot tag : Nat) : List Nat :=
  let once := match (b.words[slot]?).map decode with
    | some (.ok f) => !elementWise f
    | _ => false
  if once = true then elemsOf i.len else (elemsOf i.len).filter (fun e => i.first + e == tag)

/-- The trapping element of a plot made null: it has no effect and delivers null when its slot fires again. A NOPROG and a
RATE name no trapping firing, nor does the failed configuration of an IMGLOAD, whose cell lies outside the plot
(notes/assumptions/46.md): their plot only goes on. -/
def nullTrapped (p : Plot) (r : TrapRec) : Plot :=
  if r.cause = dw (causeCode .noprog) ∨ r.cause = dw (causeCode .rate) ∨
      field r.cell 13 12 ≠ p.die ∨ field r.cell 11 6 < p.x ∨ field r.cell 5 0 < p.y then p
  else
    let slot := field r.cell 23 18
    let bidx := field r.cell 17 14
    let cell := (field r.cell 5 0 - p.y) * 64 + (field r.cell 11 6 - p.x)
    let tag := r.tag.toNat
    onBlock p cell bidx (fun b => { b with insts := b.insts.map (fun (n, i) =>
      (n, if i.first ≤ tag ∧ tag < i.first + i.len then
        { i with nulls := Tab.updD i.nulls slot 0 (· ||| maskOf (nullElems b i slot tag)) } else i)) })

/-- The work of a plot's round discarded: its instances, threads and tokens; its round then ends (R103, R419, R443). -/
def discardRound (p : Plot) : Plot :=
  { p with tokens := [], eosQ := [], links := [], rev := none, recQ := [],
           barriers := p.barriers.map (fun (k, b) => (k, { b with waiters := [] })),
           cells := p.cells.map (fun (k, c) => (k, { c with
             thread := { bidx := none, exited := false }, array := [], pend := [],
             blocks := c.blocks.map (fun (i, b) => (i, { b with insts := [], early := [], reds := [], next := runCount b.bounds })) })) }

/-- A round abandoned: it ends, and its record completes as failed with a cause (R419, R429, R430). -/
def abandonRound (s : State) (key cause : Nat) : State :=
  onPlot (backInGroups s key) key (fun p => { discardRound p with frozen := false, trap := none, failed := some cause })

/-- An action of R419 on a subject: 0 resume, 1 null, 2 abandon. -/
def resolve (s : State) (key : Nat) (r : TrapRec) (action : Nat) : State :=
  match action with
  | 0 => resumeTrap s key
  | 1 => resumeTrap (onPlot s key (fun p => nullTrapped p r)) key
  | _ => abandonRound s key r.cause.toNat

/-- The record of a sequence number of a VI resolved; false where it names no frozen subject. -/
def resolveSeq (s : State) (v : Nat) (seq : Dword) (action : Nat) : State × Bool :=
  match subjectOf? s v seq with
  | none => (s, false)
  | some (key, p) => match p.trap with
    | none => (s, false)
    | some r => (resolve s key r action, true)

/-! ### Delivery (R418) -/

/-- The record that the hub writes next. -/
def nextTrap? (vi : Vi) : Option TrapWait := vi.traps.find? (fun t => !t.written)

/-- A record marked as put in the ring at an index; without a handler it is done with. -/
def recordWritten (vi : Vi) (seq : Dword) (index : Word) : Vi :=
  bif vi.tvec.getLsbD 63 then
    { vi with traps := vi.traps.map (fun t => bif t.seq == seq then { t with written := true, index := index } else t) }
  else { vi with traps := vi.traps.filter (fun t => t.seq != seq) }

/-- TRAP_RECORD_DELIVERY (R418, R469): the oldest record not yet written goes to the trap ring; with BASE 0 it stays at the hub, for a handler's
round where one is installed, and else until BASE or TVEC is written. Where no handler is installed a record written raises vector 16. -/
def execTrapRecordDelivery (v : Nat) (s : State) : Outcome :=
  let vi := viOf s v
  match nextTrap? vi with
  | none => .next s
  | some t =>
    let base := ringBase vi.tring
    let size := 2 ^ (field vi.tring 3 0 + 4)
    if base = 0 then .next (bif vi.tvec.getLsbD 63 then onVi s v (fun vi => recordWritten vi t.seq 0xFFFFFFFF) else s)
    else match ringPut? s v base size 128 vi.trprod vi.trcons t.words with
      | none => .next s
      | some s =>
        let s := onVi s v (fun x => recordWritten { x with trprod := x.trprod + 1 } t.seq (BitVec.ofNat 32 (vi.trprod.toNat % size)))
        .next (bif vi.tvec.getLsbD 63 then s else raiseIrq s v 16)

/-! ### Handler rounds (R417, R418) -/

/-- A handler plot configured on the lowest die that has a place. -/
def configureHandler (s : State) (v : Nat) : Loaded :=
  let code := field (viOf s v).tvec 56 0
  [0, 1, 2, 3].foldl (fun r die => match r with
    | .wait => configure s v .handler none code die true none
    | r => r) .wait

/-- The handler's plot of a VI, where it is configured. -/
def handlerPlot? (s : State) (v : Nat) : Option (Nat × Plot) :=
  (viOf s v).handler.bind (fun k => (Tab.at? s.plots k).map (fun p => (k, p)))

/-- The plot of a record (R418): the subject that it froze, or the plot that its plot word names. -/
def recordPlot? (s : State) (v : Nat) (t : TrapWait) : Option Nat :=
  match subjectOf? s v t.seq with
  | some (k, _) => some k
  | none => (s.plots.find? (fun (_, p) => p.role == .graph && some (plotWord p) == t.words[4]?)).map (·.1)

/-- A handler's round begun for a record: k15 of each block holds the record's ring index. -/
def startHandler (s : State) (key : Nat) (v : Nat) (t : TrapWait) : State :=
  let subject := recordPlot? s v t
  onPlot s key (fun p => startRound
    { onBlocks (onBlocks p applySetks) (putK 15 t.index) with
      subject := some { seq := t.seq, words := t.words, plot := subject, answered := false }, used := s.time.toNat })

/-- HANDLER_ROUND (R418): for the oldest record, once it is written: the handler plot is configured, a plot pre-empted for it
where there is no place, or its round for the record begins. -/
def execHandlerRound (v : Nat) (s : State) : Outcome :=
  let vi := viOf s v
  match vi.traps.head? with
  | none => .next s
  | some t =>
    if t.written = false ∨ vi.tvec.getLsbD 63 = false ∨ vi.hfail = true then .next s
    else match handlerPlot? s v with
      | some (key, p) => .next (if p.running = true ∨ p.frozen = true then s else startHandler s key v t)
      | none => match configureHandler s v with
        | .ok s key => .next (onVi s v (fun vi => { vi with handler := some key }))
        | .failed s cause info cell pw => .next (raiseRecord (onVi s v (fun vi => { vi with hfail := true })) v cause 0 info cell pw)
        | .wait =>
          let shape := fun die => Plot.empty die 0 0 4 4 v 0 .handler []
          bif preempting s then .next s
          else match [0, 1, 2, 3].findSome? (fun die => victimFor? s v (shape die) none) with
            | some key => .next (preempt s key)
            | none => .next s

/-! ### TRAP and TRAPRET (R440) -/

/-- TRAP (R440): a software trap. -/
def execTrap (code : BitVec 6) (s : State) : Outcome :=
  fireOnce s 0x1FF#9 0x1FF#9 .r32 (fun c e =>
    .trap .software (c.tag e) (dw ((bif c.fed 0 then (c.low 0 e).toNat else 0) * 2 ^ 32 + code.toNat)))

/-- TRAPRET (R440, R419): the handler resolves the trap of its round's record. -/
def execTrapret (c1 c0 : Cons) (s : State) : Outcome :=
  fireOnce s c1 c0 .s32 (fun c e =>
    let a := c.low 0 e
    match c.plot.subject with
    | none => .trap .priv (c.tag e) (infoPriv c)
    | some u =>
      if c.plot.role ≠ .handler then .trap .priv (c.tag e) (infoPriv c)
      else if field a 1 0 = 3 then rsvHdr c e 0 0
      else match lowestFrom a.toNat 2 30 with
        | some b => rsvHdr c e 0 b
        | none =>
          if u.answered = true then .done s (scalarOut c1 c0 .s32 1)
          else
            let s := onPlot s c.f.plot (fun p => { p with subject := some { u with answered := true } })
            let (s, ok) := resolveSeq s c.plot.vi u.seq (field a 1 0)
            .done s (scalarOut c1 c0 .s32 (bif ok then 0 else 1)))

end Sys2Proof.Machine
end

