-- ==== Sys2Proof/Machine/Resets.lean ====
section
/-!
DEFINITION. Sys2Proof/Machine/Resets.lean: the reset of a VI (R428, R390, R364, R157, R289, R68) and of the module (R465), and
bring-up (R462-R465).
-/
namespace Sys2Proof.Machine

/-- A plot discarded with everything in it, as a VI reset does: nothing of it is written back (R428). -/
def discardPlot (s : State) (key : Nat) : State :=
  let s := { s with smithy := s.smithy.map (fun (k, l) => (k, l.filter (fun r => r.firing.plot != key))) }
  removePlot s key

/-- BELL entries of a VI: OWN := 0, at the next bell mark as every write of the calendar (R395). -/
def dropBells (s : State) (v : Nat) : State :=
  { s with bellNext := (List.range 256).foldl (fun t n =>
      let w := Tab.atD t n (Tab.atD s.bell n 0)
      bif w.getLsbD 15 && field w 8 0 == v then Tab.set t n (dw (field w 8 0)) else t) s.bellNext }

/-- A job queue after a VI reset (R428): EN is clear, the indices and rings stay. -/
def JobQueue.afterReset (q : JobQueue) : JobQueue := { q with base := setBit q.base 4 false, err := 0, jnl := 0, cache := [] }

/-- The registers of a VI after its reset (R428 step 7): reset values, but for those that only VI 0 writes and those kept. -/
def Vi.afterReset (vi : Vi) : Vi :=
  { Vi.reset with
    featm := vi.featm, maskhit := vi.maskhit, bgen := vi.bgen + 1, msix := vi.msix, imgmem := vi.imgmem, s2root := vi.s2root,
    squota := dw (field vi.squota 15 0), fsweight := vi.fsweight, queues := vi.queues.map (fun (k, q) => (k, q.afterReset)),
    nextq := vi.nextq, waym := vi.waym, wayset := vi.wayset, wquota := vi.wquota, vdom := vi.vdom, tolls := vi.tolls, sigseq := vi.sigseq,
    tseq := vi.tseq, fseq := vi.fseq }

/-- The generations of the group table entries of a VI that are not made, one further (R348); freeing the made ones moves theirs. -/
def advanceGens (s : State) (v : Nat) : State :=
  let mine := (List.range 1024).map (fun i =>
    let key := groupKey v i
    let g := groupGen s key
    (key, bif Tab.has s.groups key then g else if g = 2047 then 1 else g + 1))
  { s with groupGens := s.groupGens.filter (fun (k, _) => (k / 1024).blt v) ++ mine ++ s.groupGens.filter (fun (k, _) => v.blt (k / 1024)) }

/-- The groups of a VI. -/
def groupsOf (s : State) (v : Nat) : List Nat := (s.groups.filter (fun (k, _) => k / 1024 == v)).map (·.1)

/-- Whether a request of a P-cell is one that the reset of its VI discards: a stream's (R289). -/
def Req.ofStream (v : Nat) (r : Req) : Bool :=
  r.vi == v && (match r.kind with
    | .streamRead .. | .streamWrite .. => true
    | _ => false)

/-- A P-cell without what it holds of a VI that a reset discards: copies, hand-overs and the writes that wait for them, held lines, accesses that
wait, and the requests of streams (R289, R428). -/
def PCell.dropVi (v : Nat) (c : PCell) : PCell :=
  { c with out := c.out.filter (fun r => !r.ofStream v), nacked := c.nacked.filter (fun r => !r.ofStream v),
           copies := c.copies.filter (fun j => j.vi != v), tokens := c.tokens.filter (fun h => h.vi != v),
           early := c.early.filter (fun w => w.vi != v), misses := c.misses.filter (fun m => m.who.vi != v) }

/-- What the reset of a VI from 1 to 511 does when it begins (R428): its queues are disabled, its pools emptied, its plots frozen, and BUSY reads
1. -/
def beginReset (s : State) (v : Nat) : State :=
  let s := (s.recs.filter (fun (k, _) => recVi k == v)).foldl (fun (s : State) (k, _) =>
    { s with recs := Tab.del s.recs k, recGens := Tab.set s.recGens k (if recGen s k = 255 then 1 else recGen s k + 1) }) s
  let s := { s with jobs := s.jobs.filter (fun (_, j) => j.vi != v),
                    plots := s.plots.map (fun (k, p) => (k, bif p.vi == v then { p with frozen := true } else p)) }
  onVi s v (fun vi => { vi with queues := vi.queues.map (fun (k, q) => (k, { q with base := setBit q.base 4 false })),
                                squota := dw (field vi.squota 15 0), busy := true, busyAt := s.time.toNat })

/-- The reset of a VI from 1 to 511 to its end (R428). -/
def resetVi (s : State) (v : Nat) : State :=
  -- 1: queues disabled, pools emptied, live jobs ended without completion
  let s := (s.recs.filter (fun (k, _) => recVi k == v)).foldl (fun (s : State) (k, _) =>
    { s with recs := Tab.del s.recs k, recGens := Tab.set s.recGens k (if recGen s k = 255 then 1 else recGen s k + 1) }) s
  let s := { s with jobs := s.jobs.filter (fun (_, j) => j.vi != v) }
  -- 2: plots and images discarded, smithy requests removed, streams closed
  let s := (s.plots.filter (fun (_, p) => p.vi == v)).foldl (fun s (k, _) => discardPlot s k) s
  let s := { s with images := s.images.filter (fun (_, im) => im.plot.vi != v),
                    smithy := s.smithy.map (fun (k, l) => (k, l.filter (fun r => r.vi != v))),
                    hostQ := s.hostQ.filter (fun (f, _, _) => f != v) }
  -- 3: dirty lines written back; 4: groups freed without a report
  let s := (groupsOf s v).foldl (fun s g => (freeGroup s g false).1) (advanceGens (writeBackVi s v) v)
  let s := { s with flights := s.flights.filter (fun (_, f) => f.msg.group / 1024 != v),
                    pcells := s.pcells.map (fun (k, c) => (k, c.dropVi v)),
                    slices := s.slices.map (fun (k, sl) => (k, { sl with queue := sl.queue.filter (fun r => !r.ofStream v) })) }
  -- 5, 6, 7
  onVi (invalidate (dropBells s v) true 0 v (fun t => t.vi == v)) v Vi.afterReset

/-- Device memory after a module reset: undefined, so free, in the canonical form of a memory. -/
def lostMemory (ctr : Nat) : Memory := (Config.lostMemory ctr).foldl (fun m (a, b) => writeByte m a b) []

/-- A module reset (R465): every register and every VI at its reset value, but for the toll counters and the signature
sequence numbers beside them (R432); device memory holds what it may. -/
def moduleReset (s : State) : State :=
  { State.reset with
    agenda := s.agenda, ctr := s.ctr + 1, msi := s.msi, hostReads := s.hostReads, mem := lostMemory s.ctr,
    vis := s.vis.map (fun (v, x) => (v, { Vi.reset with tolls := x.tolls, sigseq := x.sigseq })) }

/-- The reset of a function begun (R428, R465): of VI 0 a module reset; one under way goes on. -/
def resetFunction (s : State) (v : Nat) : State :=
  if v = 0 then moduleReset s else bif (viOf s v).busy then s else beginReset s v

/-- The cycles that the reset of a VI takes at most (R428). -/
def resetLimit : Nat := 2 * Config.cyclesPerUs

/-- The resets under way that end in this cycle: within 2 µs, at a time of the part's choice (R428). -/
def finishResets (s : State) : State :=
  s.vis.foldl (fun s (v, vi) =>
    bif !vi.busy then s
    else
      let (i, s) := draw s
      bif Config.freeChoice i || resetLimit.ble (s.time.toNat - vi.busyAt) then resetVi s v else s) s

/-- Bring-up (R465): the firmware is checked, the links trained, SPANID, the CXL windows and the VIs' partitions set, and
READY; a failed check sets BOOTERR and bring-up stops. -/
def bringUp (s : State) : State :=
  if s.ready = true ∨ s.booterr = true ∨ s.power = false then s
  else if Config.firmwareGood = false then { s with booterr := true }
  else
    let span := Config.bootSpanid
    let s : State :=
      { s with ready := true, spanid := dw (at_ (field span 15 15) 15 + at_ (field span 13 8) 8 + field span 5 0),
               cxl0 := Nat.min (2 ^ 41) (Config.bootCxl 0), cxl1 := Nat.min (2 ^ 41) (Config.bootCxl 1) }
    (List.range 512).foldl (fun s v => onVi s v (fun vi => { vi with vdom := dw (Config.bootPart v % 4) })) s

end Sys2Proof.Machine
end

