-- ==== Sys2Proof/Machine/Registers.lean ====
section
/-!
DEFINITION. Sys2Proof/Machine/Registers.lean: the system registers (R411-R413): which there are, who reads and writes them, their
values, and what a write of each does.
-/
namespace Sys2Proof.Machine

/-! ### The map (R412) -/

/-- Who reaches a register: any plot of the owning VI; VI 0 and the Reeve; nobody. -/
inductive Reach where
  | all | vi0 | none
  deriving DecidableEq, Repr

/-- A register number: its scope (0 plot, 1 VI, 2 module), how many indices it has, who reads and who writes it. -/
structure RegInfo where
  scope : Nat
  size : Nat
  rd : Reach
  wr : Reach
  deriving DecidableEq, Repr

/-- The plot-scope registers 0x000-0x00D. -/
def plotReg? (r : Nat) : Option RegInfo :=
  if r ≤ 0x003 then some ⟨0, 1, .all, .none⟩
  else if r ≤ 0x007 then some ⟨0, 1, .all, .all⟩
  else if r ≤ 0x00B then some ⟨0, 1, .all, .none⟩
  else if r = 0x00C then some ⟨0, 2 ^ 40, .all, .none⟩
  else if r = 0x00D then some ⟨0, 16, .all, .none⟩
  else none

/-- The VI-scope registers 0x040-0x07B. -/
def viReg? (r : Nat) : Option RegInfo :=
  match r with
  | 0x040 | 0x041 | 0x043 => some ⟨1, 1, .all, .all⟩
  | 0x042 => some ⟨1, 1, .all, .none⟩
  | 0x044 => some ⟨1, 1, .vi0, .all⟩
  | 0x045 => some ⟨1, 1, .all, .vi0⟩
  | 0x046 => some ⟨1, 1, .vi0, .none⟩
  | 0x047 | 0x048 => some ⟨1, 1, .all, .none⟩
  | 0x049 | 0x04A | 0x04B | 0x04D => some ⟨1, 1, .all, .all⟩
  | 0x04C | 0x04E => some ⟨1, 1, .all, .none⟩
  | 0x04F => some ⟨1, 1, .vi0, .vi0⟩
  | 0x050 => some ⟨1, 1, .all, .vi0⟩
  | 0x051 => some ⟨1, 1, .all, .none⟩
  | 0x060 | 0x061 => some ⟨1, 1, .all, .all⟩
  | 0x062 => some ⟨1, 1, .all, .vi0⟩
  | 0x063 | 0x065 | 0x066 | 0x067 | 0x068 | 0x06A => some ⟨1, 1, .all, .all⟩
  | 0x064 | 0x069 | 0x06B => some ⟨1, 1, .all, .none⟩
  | 0x06C => some ⟨1, 4, .all, .all⟩
  | 0x06D | 0x06E => some ⟨1, 1, .all, .vi0⟩
  | 0x06F | 0x070 => some ⟨1, 1, .all, .none⟩
  | 0x071 | 0x073 | 0x074 | 0x075 | 0x077 | 0x078 => some ⟨1, 16, .all, .all⟩
  | 0x072 | 0x076 => some ⟨1, 16, .all, .none⟩
  | 0x079 | 0x07A | 0x07B => some ⟨1, 1, .all, .none⟩
  | _ => none

/-- The module registers 0x100-0x109. -/
def moduleReg? (r : Nat) : Option RegInfo :=
  match r with
  | 0x100 => some ⟨2, 256, .all, .vi0⟩
  | 0x101 => some ⟨2, 64, .all, .none⟩
  | 0x102 => some ⟨2, 512, .all, .none⟩
  | 0x103 | 0x104 => some ⟨2, 1, .all, .vi0⟩
  | 0x105 | 0x108 => some ⟨2, 1, .all, .none⟩
  | 0x106 | 0x107 => some ⟨2, 256, .vi0, .vi0⟩
  | 0x109 => some ⟨2, 1, .vi0, .none⟩
  | _ => none

/-- A register number; none where it is unassigned. -/
def regInfo? (r : Nat) : Option RegInfo :=
  if r < 0x040 then plotReg? r else if r < 0x100 then viReg? r else moduleReg? r

/-- A selector's fields (R411). -/
def selScope (a : Dword) : Nat := field a 60 59
def selVi (a : Dword) : Nat := field a 58 50
def selReg (a : Dword) : Nat := field a 49 40
def selIndex (a : Dword) : Nat := field a 39 0

/-- Whether an index exists of a register; HMASK has six words for each partition. -/
def indexOk (i : RegInfo) (r n : Nat) : Bool := n.blt i.size && (r != 0x102 || (n % 8).blt 6)

/-! ### Values -/

/-- A plot-scope register; none where its index names nothing (R118, R418). -/
def plotRegValue? (s : State) (p : Plot) (r n : Nat) : Option Dword :=
  match r with
  | 0x000 => some p.tcause
  | 0x001 => some p.ttag
  | 0x002 => some p.tinfo
  | 0x003 => some p.tcell
  | 0x004 => some p.numst
  | 0x005 => some p.srseed
  | 0x006 => some p.wdt
  | 0x007 => some p.ratetrap
  | 0x008 => some p.exitc
  | 0x009 => some p.logst
  | 0x00A => some p.logpos
  | 0x00B => some p.logseg
  | 0x00C =>
    let slot := n / 2 ^ 18 % 64
    match blockAt? p (n / 2 ^ 28 % 64 * 64 + n / 2 ^ 34 % 64) (n / 2 ^ 24 % 16) with
    | some b => bif slot.blt b.words.length then some (dw (Tab.atD b.mism slot 0)) else none
    | none => none
  | _ => some (((trecWords s p)[n]?).getD 0)

/-- A VI-scope register. -/
def viRegValue (vi : Vi) (r n : Nat) : Dword :=
  let q := Tab.atD vi.queues n JobQueue.reset
  match r with
  | 0x040 => vi.tvec
  | 0x041 => vi.tring
  | 0x042 => zx32 vi.trprod
  | 0x043 => zx32 vi.trcons
  | 0x045 => vi.featm
  | 0x046 => zx32 vi.maskhit
  | 0x047 => zx32 vi.stalesig
  | 0x048 => dw vi.bgen.toNat
  | 0x049 => vi.ipend
  | 0x04A => vi.imask
  | 0x04B => vi.hring
  | 0x04C => zx32 vi.hrprod
  | 0x04D => zx32 vi.hrcons
  | 0x04E => zx32 vi.hlost
  | 0x04F => bif vi.busy then 2 else 0
  | 0x050 => vi.imgmem
  | 0x051 => zx32 vi.poisoncnt
  | 0x060 => vi.rgntab
  | 0x061 => vi.s1root
  | 0x062 => vi.s2root
  | 0x063 => vi.fring
  | 0x064 => zx32 vi.frprod
  | 0x065 => zx32 vi.frcons
  | 0x066 => zx32 vi.ftimeout
  | 0x068 => vi.gering
  | 0x069 => zx32 vi.gerprod
  | 0x06A => zx32 vi.gercons
  | 0x06B => zx32 vi.gerlost
  | 0x06C => Tab.atD vi.poolmem n 0
  | 0x06D => vi.squota
  | 0x06E => vi.fsweight
  | 0x06F => zx32 vi.fsdef
  | 0x070 => zx32 vi.joinlost
  | 0x071 => q.base
  | 0x072 => zx32 q.head
  | 0x073 => zx32 q.tail
  | 0x074 => zx32 q.err
  | 0x075 => q.cring
  | 0x076 => zx32 q.cprod
  | 0x077 => zx32 q.ccons
  | 0x078 => q.jnl
  | 0x079 => vi.waym
  | 0x07A => vi.wquota
  | 0x07B => vi.vdom
  | _ => 0

/-- A module register. Map i of controller c of die d stands in `smap` at twice its index, SMAPB behind SMAPA. -/
def moduleRegValue (s : State) (r n : Nat) : Dword :=
  match r with
  | 0x100 => Tab.atD s.bell n 0
  | 0x101 => partOf s n
  | 0x102 => Tab.atD s.hmask n 0
  | 0x103 => s.quantum
  | 0x104 => s.wavebud
  | 0x105 => s.time
  | 0x106 => Tab.atD s.smap (2 * n) 0
  | 0x107 => Tab.atD s.smap (2 * n + 1) 0
  | 0x108 => s.spanid
  | _ => zx32 s.cfgcorr

/-! ### Reserved fields and values (R413) -/

/-- The bits of a register that a write may set. -/
def writable (r : Nat) : Nat :=
  let ring := (2 ^ 57 - 2 ^ 12) + 15
  match r with
  | 0x004 | 0x007 | 0x074 => 1
  | 0x006 | 0x043 | 0x04D | 0x065 | 0x066 | 0x067 | 0x06A | 0x073 | 0x077 | 0x103 | 0x104 => 2 ^ 32 - 1
  | 0x040 => 2 ^ 63 + (2 ^ 57 - 1)
  | 0x041 | 0x04B | 0x063 | 0x068 | 0x06C | 0x075 => ring
  | 0x045 => 0xFF
  | 0x04F => 3
  | 0x050 => 2 ^ 57 - 1
  | 0x061 | 0x062 => (2 ^ 52 - 2 ^ 12) + 1
  | 0x06D => (2 ^ 48 - 2 ^ 32) + (2 ^ 16 - 1)
  | 0x06E => 2 ^ 16 - 1
  | 0x071 => (2 ^ 57 - 2 ^ 12) + 0xFF
  | 0x078 => (2 ^ 64 - 2 ^ 62) + ring
  | 0x100 => 2 ^ 15 + 0x1FF
  | 0x106 => (2 ^ 64 - 2 ^ 62) + (2 ^ 52 - 1)
  | 0x107 => 2 ^ 52 - 2 ^ 6
  | _ => 2 ^ 64 - 1

/-- Whether a value may be written to a register. -/
def valueOk (r : Nat) (v : Dword) : Bool :=
  v.toNat ||| writable r == writable r &&
    (match r with
     | 0x06C => (field v 3 0).ble 10
     | 0x078 => field v 63 62 != 3
     | 0x044 => field v 1 0 != 3
     | _ => true)

/-! ### Writes -/

/-- A job queue after a change of its tail or its base (R380): with more than the ring holds, OVR is set and EN cleared. -/
def JobQueue.bounded (j : JobQueue) : JobQueue :=
  bif (2 ^ (field j.base 3 0 + 4)).blt (j.tail - j.head).toNat then { j with err := 1, base := setBit j.base 4 false } else j

/-- The tail of a job queue written (R380, R381). -/
def writeTail (s : State) (v q : Nat) (w : Word) : State := onQueue s v q (fun j => { j with tail := w }.bounded)

/-- The records of a VI that has no handler any more: those in the ring are done with, those that no ring holds wait at the hub (R418). -/
def unhandled (l : List TrapWait) : List TrapWait :=
  (l.filter (fun t => !t.written || t.index == 0xFFFFFFFF)).map (fun t => { t with written := false })

/-- TVEC written (R417, R418): the handler plot goes, and configuration is tried again; without a handler the records that are
in the ring are done with. -/
def writeTvec (s : State) (v : Nat) (w : Dword) : State :=
  let s := match (viOf s v).handler with
    | some k => releasePlot s k
    | none => s
  onVi s v (fun vi => { vi with tvec := w, handler := none, hfail := false,
                                traps := bif w.getLsbD 63 then vi.traps else unhandled vi.traps })

/-- IMASK written (R416). -/
def writeImask (s : State) (v : Nat) (w : Dword) : State := deliverIrqs (onVi s v (fun vi => { vi with imask := w })) v

/-- IPEND written: written ones are cleared, and their vectors no longer wait (R416). -/
def writeIpend (s : State) (v : Nat) (w : Dword) : State :=
  onVi s v (fun vi => { vi with ipend := vi.ipend &&& ~~~w, iorder := vi.iorder.filter (fun x => !w.getLsbD x.2) })

/-- TRAPRSP written (R419). -/
def writeTraprsp (s : State) (v : Nat) (w : Dword) : State := (resolveSeq s v (w >>> 2) (field w 1 0)).1

/-- A VI-scope register written. -/
def writeViReg (s : State) (v r n : Nat) (w : Dword) : State :=
  let lo := lo32 w
  match r with
  | 0x040 => writeTvec s v w
  | 0x041 => onVi s v (fun vi => { vi with tring := w })
  | 0x043 => onVi s v (fun vi => { vi with trcons := lo })
  | 0x044 => writeTraprsp s v w
  | 0x045 => onVi s v (fun vi => { vi with featm := w })
  | 0x049 => writeIpend s v w
  | 0x04A => writeImask s v w
  | 0x04B => onVi s v (fun vi => { vi with hring := w })
  | 0x04D => onVi s v (fun vi => { vi with hrcons := lo })
  | 0x04F => bif w.getLsbD 0 then resetFunction s v else s
  | 0x050 => onVi s v (fun vi => { vi with imgmem := w })
  | 0x060 => onVi s v (fun vi => { vi with rgntab := w })
  | 0x061 => onVi s v (fun vi => { vi with s1root := w })
  | 0x062 => onVi s v (fun vi => { vi with s2root := w })
  | 0x063 => retryFaults (onVi s v (fun vi => { vi with fring := w })) v
  | 0x065 => retryFaults (onVi s v (fun vi => { vi with frcons := lo })) v
  | 0x066 => onVi s v (fun vi => { vi with ftimeout := lo })
  | 0x067 => resumeAccess s v lo.toNat
  | 0x068 => onVi s v (fun vi => { vi with gering := w })
  | 0x06A => onVi s v (fun vi => { vi with gercons := lo })
  | 0x06C => onVi s v (fun vi => { vi with poolmem := Tab.put vi.poolmem n w 0 })
  | 0x06D => onVi s v (fun vi => { vi with squota := dw (at_ (field vi.squota 47 32) 32 + field w 15 0) })
  | 0x06E => onVi s v (fun vi => { vi with fsweight := w })
  | 0x071 => onQueue s v n (fun q => { q with base := w }.bounded)
  | 0x073 => writeTail s v n lo
  | 0x074 => onQueue s v n (fun q => { q with err := q.err &&& ~~~lo })
  | 0x075 => onQueue s v n (fun q => { q with cring := w })
  | 0x077 => onQueue s v n (fun q => { q with ccons := lo })
  | 0x078 => onQueue s v n (fun q => { q with jnl := w })
  | _ => s

/-- A module register written. -/
def writeModuleReg (s : State) (r n : Nat) (w : Dword) : State :=
  match r with
  | 0x100 => { s with bellNext := Tab.set s.bellNext n w }
  | 0x103 => { s with quantum := w }
  | 0x104 => { s with wavebud := w }
  | 0x106 => { s with smap := Tab.put s.smap (2 * n) w 0 }
  | 0x107 => { s with smap := Tab.put s.smap (2 * n + 1) w 0 }
  | _ => s

/-- A plot-scope register written. -/
def writePlotReg (p : Plot) (r : Nat) (w : Dword) : Plot :=
  match r with
  | 0x004 => { p with numst := p.numst &&& ~~~w }
  | 0x005 => { p with srseed := w }
  | 0x006 => { p with wdt := w }
  | 0x007 => { p with ratetrap := w }
  | _ => p

/-! ### The checks of an access (R412, R413, R459) -/

/-- The WHY of an access that R413 refuses: of a selector, by an issuer of a VI that may hold the privilege of VI 0, a write
where a value is given. -/
def accessWhy? (vi0 : Bool) (v : Nat) (a : Dword) (w : Option Dword) : Option Nat :=
  match regInfo? (selReg a) with
  | none => some 0
  | some i =>
    if field a 63 61 ≠ 0 ∨ selScope a ≠ i.scope then some 0
    else
      let who := match w with
        | some _ => i.wr
        | none => i.rd
      if (i.scope = 1 ∧ selVi a ≠ v ∧ vi0 = false) ∨ (who = .vi0 ∧ vi0 = false) then some 1
      else if who = .none then some 3
      else if indexOk i (selReg a) (selIndex a) = false then some 2
      else match w with
        | some x => bif valueOk (selReg a) x then none else some 4
        | none => none

end Sys2Proof.Machine
end

