-- ==== Sys2Proof/Machine/System.lean ====
section
/-!
DEFINITION. Sys2Proof/Machine/System.lean: the system forms 0xF2-0xFB (R439-R445) and RAND (R201). TRAP and TRAPRET stand in
Traps.lean.
-/
namespace Sys2Proof.Machine

/-- SYSREG of R413: WHY, and bits 60-0 of the selector or operand at fault. -/
def sysTrap (c : Ctx) (e why : Nat) (a : Dword) : Res := .trap .sysreg (c.tag e) (dw (at_ why 61 + a.toNat % 2 ^ 61))

/-! ### SYSRD, SYSWR (R441) -/

/-- The plot that a plot-scope register of a firing belongs to (R411): a handler's subject, else the issuing plot. -/
def plotTarget? (s : State) (c : Ctx) : Option (Nat × Plot) :=
  match c.plot.role with
  | .handler => (c.plot.subject.bind (·.plot)).bind (fun k => (Tab.at? s.plots k).map (fun p => (k, p)))
  | _ => some (c.f.plot, c.plot)

/-- The value of the register that a selector names for a firing; none where its index or plot is not there. -/
def readSel? (s : State) (c : Ctx) (a : Dword) : Option Dword :=
  match selScope a with
  | 0 =>
    if selReg a = 0x00D then plotRegValue? s c.plot 0x00D (selIndex a)
    else match plotTarget? s c with
      | some (_, p) => plotRegValue? s p (selReg a) (selIndex a)
      | none => none
  | 1 => some (viRegValue (viOf s (selVi a)) (selReg a) (selIndex a))
  | _ => some (moduleRegValue s (selReg a) (selIndex a))

/-- SYSRD (R441). -/
def execSysrd (c1 c0 : Cons) (s : State) : Outcome :=
  fireOnce s c1 c0 .s64 (fun c e =>
    let a := c.wide 0 e
    match accessWhy? (isVi0 c.plot) c.plot.vi a none with
    | some why => sysTrap c e why a
    | none => match readSel? s c a with
      | none => sysTrap c e 2 a
      | some v => .done s (scalarOut c1 c0 .s64 v))

/-- The WHY of a SYSWR that R413 refuses: a plot that is not there comes before a value that is not valid. -/
def writeWhy? (s : State) (c : Ctx) (a w : Dword) : Option Nat :=
  let why := accessWhy? (isVi0 c.plot) c.plot.vi a (some w)
  bif (why.getD 4 == 4) && selScope a == 0 && (plotTarget? s c).isNone then some 2 else why

/-- SYSWR (R441). -/
def execSyswr (c1 c0 : Cons) (s : State) : Outcome :=
  fireOnce s c1 c0 .s32 (fun c e =>
    let a := c.wide 0 e
    let w := c.wide 1 e
    match writeWhy? s c a w with
    | some why => sysTrap c e why a
    | none => match selScope a with
      | 0 => match plotTarget? s c with
        | none => sysTrap c e 2 a
        | some (k, _) => .done (onPlot s k (fun p => writePlotReg p (selReg a) w)) (scalarOut c1 c0 .s32 0)
      | 1 => .done (writeViReg s (selVi a) (selReg a) (selIndex a) w) (scalarOut c1 c0 .s32 0)
      | _ => .done (writeModuleReg s (selReg a) (selIndex a) w) (scalarOut c1 c0 .s32 0))

/-! ### TOLLRD, TOLLSIG (R434, R442) -/

/-- The WHY of a toll form: reserved bits, reach, index. -/
def tollWhy? (c : Ctx) (rsv vi : Nat) (bad : Bool) : Option Nat :=
  if rsv ≠ 0 then some 0
  else if vi ≠ c.plot.vi ∧ isVi0 c.plot = false then some 1
  else if bad = true then some 2
  else none

/-- A toll counter of a VI. -/
def tollOf (s : State) (v i : Nat) : Dword := Tab.atD (viOf s v).tolls i 0

/-- TOLLRD (R442). -/
def execTollrd (c1 c0 : Cons) (s : State) : Outcome :=
  fireOnce s c1 c0 .s64 (fun c e =>
    let a := c.low 0 e
    match tollWhy? c (field a 31 13) (field a 12 4) (Nat.ble 11 (field a 3 0)) with
    | some why => sysTrap c e why (zx32 a)
    | none => .done s (scalarOut c1 c0 .s64 (tollOf s (field a 12 4) (field a 3 0))))

/-- The 64 signed bytes of a toll record (R434). -/
def tollWords (s : State) (v g : Nat) (nonce : Dword) : List Dword :=
  [dw (at_ v 55 + at_ g 53), (viOf s v).sigseq + 1, s.time, nonce] ++
    (List.range 4).map (fun i => bif (4 * g + i).blt 11 then tollOf s v (4 * g + i) else 0)

/-- TOLLSIG (R434, R442): the record of 96 bytes; it emits the sequence number. SYSREG is checked first (R128). -/
def execTollsig (n : BitVec 4) (c1 c0 : Cons) (s : State) : Outcome :=
  fireOnce s c1 c0 .s32 (fun c e =>
    let a := c.low 0 e
    let v := field a 10 2
    let va := vaOf (c.k2 n.toNat)
    let ws := tollWords s v (field a 1 0) (c.wide 1 e)
    match tollWhy? c (field a 31 11) v (field a 1 0 == 3) with
    | some why => sysTrap c e why (zx32 a)
    | none =>
      match cellWrite s c e 4 va (ws ++ digestDwords (hmac64 Config.deviceKey ws)) with
      | .stop r => r
      | .ok s' _ =>
        if va % 32 ≠ 0 then .trap .align (c.tag e) (infoMem 4 0 va)
        else
          let seq := (viOf s v).sigseq + 1
          .done (onVi s' v (fun vi => { vi with sigseq := seq })) (scalarOut c1 c0 .s32 (zx32 (lo32 seq))))

/-! ### SYNC.CODE, HALT (R322, R443) -/

/-- The items of a queue's cache that a range covers in part or whole. -/
def itemHit (a len : Nat) (x : Nat × List Dword) : Bool := meets x.1 (x.1 + 8 * (x.2.length - 1)) a (a + len)

/-- A cached item with the bit of the queue whose SYNC.CODE has covered it set in its first word. -/
def markItem (queue : Option Nat) (a len : Nat) (x : Nat × List Dword) : Nat × List Dword :=
  match x.2, queue with
  | w :: ws, some q => bif itemHit a len x then (x.1, (w ||| dw (2 ^ q)) :: ws) else x
  | _, _ => x

/-- The mask of the queue of the task that issues a SYNC.CODE; a plot with no job has none. -/
def queueBit (queue : Option Nat) : Nat := (queue.map (fun q => 2 ^ q)).getD 0

/-- A range whose code is patched (R322): the queue of the issuing job drops what it has cached of it, other queues note that
it has, and plots that hold an image of it are to be configured again for that queue's launches. -/
def dropCode (s : State) (v : Nat) (queue : Option Nat) (a len : Nat) : State :=
  let s := onVi s v (fun vi => { vi with queues := vi.queues.map (fun (q, j) =>
    (q, { j with cache := bif queue == some q then j.cache.filter (fun x => !itemHit a len x) else j.cache.map (markItem queue a len) })) })
  { s with plots := s.plots.map (fun (k, p) =>
      (k, bif p.vi == v && p.items.any (fun (b, n) => meets b (b + n) a (a + len)) then { p with stale := p.stale ||| queueBit queue } else p)) }

/-- SYNC.CODE (R443): it waits until the VI's writes are performed. -/
def execSyncCode (c1 c0 : Cons) (s : State) : Outcome :=
  fireOnce s c1 c0 .s32 (fun c e =>
    let a := c.wide 0 e
    let b := c.wide 1 e
    match lowestFrom b.toNat 32 32 with
    | some bit => rsvOperand c e bit
    | none =>
      if b = 0 then .done s (scalarOut c1 c0 .s32 0)
      else
        let s := flushVi s c.plot.vi
        if viWrites s c.plot.vi = true then .stall s
        else
          let queue := (recOf? s c.plot).bind (fun x => (Tab.at? s.jobs x.2.job).map (·.queue))
          .done (dropCode s c.plot.vi queue (vaOf a) b.toNat) (scalarOut c1 c0 .s32 0))

/-- HALT (R443): the round of the issuing plot ends, its work discarded; EXITC := 7. -/
def execHalt (s : State) : Outcome :=
  fireOnce s 0x1FF#9 0x1FF#9 .s32 (fun c _ =>
    .done (onPlot s c.f.plot (fun p => { discardRound p with exitc := 7 })) [])

/-! ### The plot forms (R423, R424, R426, R444) -/

/-- A resident plot of the fabric by its plot word. -/
def plotByWord? (s : State) (w : Dword) : Option (Nat × Plot) := s.plots.find? (fun (_, p) => p.role != .reeve && plotWord p == w)

/-- The reserved bits of a plot word (R127). -/
def plotWordRsv (w : Dword) : Bool := field w 63 41 != 0 || field w 31 26 != 0

/-- A form of class H on a plot word: PRIV, then R413's reserved bits and reach. -/
def withWord (c : Ctx) (e : Nat) (k : Dword → Res) : Res :=
  let w := c.wide 0 e
  if isPrivileged c.plot = false then .trap .priv (c.tag e) (infoPriv c)
  else if plotWordRsv w = true then sysTrap c e 0 w
  else if field w 40 32 ≠ c.plot.vi ∧ isVi0 c.plot = false then sysTrap c e 1 w
  else k w

/-- A form of class H on a configured plot. -/
def withPlot (s : State) (c : Ctx) (e : Nat) (k : Nat → Plot → Res) : Res :=
  withWord c e (fun w => match plotByWord? s w with
    | none => sysTrap c e 2 w
    | some (key, p) => k key p)

/-- FREEZE (R424, R444): it emits once every cell of the plot has stopped. -/
def execFreeze (c1 c0 : Cons) (s : State) : Outcome :=
  fireOnce s c1 c0 .s32 (fun c e => withPlot s c e (fun key p =>
    if p.frozen = true then .done s (scalarOut c1 c0 .s32 0)
    else .issued (match p.stop with
      | .none => beginStop s key .freeze none
      | .wave => onPlot s key (fun p => { p with stop := .freeze })
      | .freeze => s)))

/-- A frozen plot resumed; the record of a restored plot, which waits for it, runs on. -/
def resumePlotNow (s : State) (key : Nat) (p : Plot) : State :=
  match recOf? s p with
  | some (k, r) => bif r.bound == some key && !r.running then thaw (seat s key k r) key else thaw s key
  | none => thaw s key

/-- THAW (R444). -/
def execThaw (c1 c0 : Cons) (s : State) : Outcome :=
  fireOnce s c1 c0 .s32 (fun c e => withPlot s c e (fun key p =>
    if p.frozen = false ∨ p.trap.isSome = true then sysTrap c e 5 (plotWord p)
    else .done (resumePlotNow s key p) (scalarOut c1 c0 .s32 0)))

/-- MARKWAVE (R423, R444): it emits 0 once the marker image is taken, 1 where the wave fell to a freeze. -/
def execMarkwave (c1 c0 : Cons) (s : State) : Outcome :=
  fireOnce s c1 c0 .s32 (fun c e => withPlot s c e (fun key p =>
    if p.frozen = true ∨ p.stop ≠ .none then sysTrap c e 5 (plotWord p)
    else .issued (beginStop s key (bif field s.wavebud 31 0 == 0 then .freeze else .wave)
      (some { start := s.time.toNat, sent := false, arrived := [], waiter := some c.f }))))

/-- The words of a saved image. -/
def imageWords (s : State) (id : Nat) : List Dword :=
  match Tab.at? s.images id with
  | some im => imageHead im (imageTask s im) ++ imageBody im
  | none => []

/-- The marker image that a MARKWAVE has taken of a plot and no IMGSAVE has written. -/
def waveImage? (s : State) (w : Dword) : Option Nat :=
  (s.images.find? (fun (_, im) => im.kind == 1 && im.live && im.va.isNone && plotWord im.plot == w && (match im.task with
    | some k => (match Tab.at? s.recs k with
      | some r => r.running
      | none => false)
    | none => true))).map (·.1)

/-- An image written where IMGSAVE says, its record requeued; it emits the bytes of the image. `before` is the state in which a
fault or a wait leaves the firing. -/
def writeImage (before s : State) (c : Ctx) (e id n : Nat) (c1 c0 : Cons) : Res :=
  let va := vaOf (c.k2 n)
  let bytes := ((Tab.at? s.images id).map (·.bytes)).getD 0
  if c.k2 n = 0 then
    match storeImage? s id with
    | none => sysTrap c e 4 (c.wide 0 e)
    | some s => .done (requeue s id) (scalarOut c1 c0 .s64 (dw bytes))
  else
    match cellWrite before c e 4 va (imageWords s id) with
    | .stop r => r
    | .ok _ _ =>
      if va % 64 ≠ 0 then .trap .align (c.tag e) (infoMem 4 0 va)
      else match cellWrite s c e 4 va (imageWords s id) with
        | .stop _ => .stall before
        | .ok s _ => .done (requeue { s with images := Tab.upd s.images id (fun im => { im with va := some va }) } id)
            (scalarOut c1 c0 .s64 (dw bytes))

/-- IMGSAVE (R426, R444): the image of a plot that is frozen, or that a marker wave has saved. -/
def execImgsave (n : BitVec 4) (c1 c0 : Cons) (s : State) : Outcome :=
  fireOnce s c1 c0 .s64 (fun c e => withWord c e (fun w =>
    match plotByWord? s w, waveImage? s w with
    | some (key, p), image =>
      if p.frozen = true then
        if cellsStopped key p true = false then .stall s
        else
          let (s1, id) := takeImage s key 2
          writeImage s s1 c e id n.toNat c1 c0
      else match image with
        | some id => writeImage s s c e id n.toNat c1 c0
        | none => sysTrap c e 5 w
    | none, some id => writeImage s s c e id n.toNat c1 c0
    | none, none => sysTrap c e 2 w))

/-- The offending word and bit of an image header (R426). -/
def badImageHead? (h : List Dword) : Option (Nat × Nat) :=
  let w := fun (i : Nat) => ((h[i]?).getD 0 : Dword)
  let one := fun (i : Nat) (l : List (Option Nat)) => (lowestBit l).map (fun b => (i, b))
  [one 0 [badZero? (w 0) 5 0, badUnless? (field (w 0) 47 0 != 0) 6, badUnless? (field (w 0) 51 48 == 4) 48,
      badUnless? (field (w 0) 55 52 == Config.stepping.toNat) 52, badUnless? (field (w 0) 63 56 == 1 || field (w 0) 63 56 == 2) 56],
   one 1 [badZero? (w 1) 63 41, badZero? (w 1) 31 26], one 2 [badZero? (w 2) 63 57], one 4 [badZero? (w 4) 63 32],
   one 5 [badZero? (w 5) 63 0], one 6 [badZero? (w 6) 63 0], one 7 [badZero? (w 7) 63 0]].findSome? id

/-- Whether a plot word names a rectangle of the fabric (R444). -/
def onFabric (w : Dword) : Bool :=
  field w 23 18 % 4 == 0 && field w 17 12 % 4 == 0 && (field w 23 18 + field w 11 6).ble 48 && (field w 17 12 + field w 5 0).ble 48

/-- Whether it is of the shape of an image's plot word, and of its VI (R444). -/
def rectangleOk (w saved : Dword) : Bool := field w 40 32 == field saved 40 32 && field w 11 0 == field saved 11 0 && onFabric w

/-- A plot without cells at the place that a plot word names. -/
def wordPlace (w : Dword) : Plot :=
  Plot.empty (field w 25 24) (field w 23 18) (field w 17 12) (field w 11 6) (field w 5 0) (field w 40 32) 0 .graph []

/-- The saved image whose bytes these are: one from which nothing has been restored, if there is one. -/
def imageOf? (s : State) (h body : List Dword) : Option Nat :=
  let same := fun (im : SavedImage) => imageBody im == body && (imageHead im 0).take 3 == h.take 3
  match s.images.find? (fun (_, im) => same im && im.live) with
  | some (id, _) => some id
  | none => (s.images.find? (fun (_, im) => same im)).map (·.1)

/-- A restored plot waits for its record, where that still waits for this image. -/
def bindRestored (s : State) (key id : Nat) : State :=
  match (Tab.at? s.images id).bind (·.task) with
  | none => s
  | some k => match Tab.at? s.recs k with
    | some r => bif r.image == some id then onRec s k (fun r => { r with image := none, bound := some key })
        else onPlot s key (fun p => { p with task := none })
    | none => onPlot s key (fun p => { p with task := none })

/-- IMGLOAD (R426, R444): the plot is configured and restored, and stays frozen. SYSREG comes first, as far as what can be read shows it,
and then the lowest code (R128). Where the configuration fails the firing traps, with the registers of R63
(notes/assumptions/46.md). -/
def execImgload (n : BitVec 4) (c1 c0 : Cons) (s : State) : Outcome :=
  fireOnce s c1 c0 .s32 (fun c e => withWord c e (fun w =>
    let va := vaOf (c.k2 n.toNat)
    let taken := s.plots.any (fun (_, p) => (wordPlace w).overlaps p)
    match cellRead s c e 4 va 8 with
    | .stop (.trap cause tag info) =>
      if onFabric w = false then sysTrap c e 2 w
      else if taken = true then sysTrap c e 5 w
      else .trap cause tag info
    | .stop r => r
    | .ok s h =>
      if rectangleOk w ((h[1]?).getD 0) = false then sysTrap c e 2 w
      else if taken = true then sysTrap c e 5 w
      else match badImageHead? h with
        | some (i, b) => rsvHdr c e i b
        | none => match cellRead s c e 4 (va + 64) (field ((h[0]?).getD 0) 47 0 / 8 - 8) with
          | .stop r => r
          | .ok s body =>
            if crc32 body ≠ lo32 ((h[4]?).getD 0) then rsvHdr c e 4 0
            else if va % 64 ≠ 0 then .trap .align (c.tag e) (infoMem 4 0 va)
            else match configure s (field w 40 32) .graph none (field ((h[2]?).getD 0) 56 0) (field w 25 24) false
                (some (field w 23 18, field w 17 12)) with
              | .wait => .stall s
              | .failed s cause info cell _ => .loadFailed s cause info cell
              | .ok s key => match imageOf? s h body with
                | none => .done (onPlot s key (fun p => { p with frozen := true })) (scalarOut c1 c0 .s32 0)
                | some id => .done (bindRestored (restoreInto s id key) key id) (scalarOut c1 c0 .s32 0)))

/-! ### VIRQ, TIMER, the journal forms, RAND (R201, R445) -/

/-- VIRQ (R445): a release at system scope; the vector is journalled, and in replay it is the recorded one (R437). -/
def execVirq (vec : BitVec 6) (s : State) : Outcome :=
  fireOnce s 0x1FF#9 0x1FF#9 .s32 (fun c _ =>
    let (s, pending) := releaseFirst s c
    if pending = true then .stall s
    else
      let (s, k) := match recOf? s c.plot with
        | some (_, r) => journal s r.job (dw (at_ 8 56)) 0 0 (dw vec.toNat)
        | none => (s, dw vec.toNat)
      .done (raiseIrq s c.plot.vi (k.toNat % 64)) [])

/-- TIMER (R445). -/
def execTimer (c1 c0 : Cons) (s : State) : Outcome :=
  fireOnce s c1 c0 .s64 (fun c e =>
    let (s, t) := journalFiring s c 4 (c.tag e) s.time
    .done s (scalarOut c1 c0 .s64 t))

/-- The journal state of a job (R445). -/
def journalState (j : Job) : Dword :=
  bif j.jmode == 0 then 0
  else dw (at_ j.jmode 62 + at_ (bif j.nr then 1 else 0) 61 + at_ (bif j.diverged then 1 else 0) 60 +
    (bif j.jmode == 2 then j.used.length else j.jcount))

/-- JNL.Q (R445). -/
def execJnlQ (c1 c0 : Cons) (s : State) : Outcome :=
  fireOnce s c1 c0 .s64 (fun c _ =>
    let v := match (recOf? s c.plot).bind (fun x => Tab.at? s.jobs x.2.job) with
      | some j => journalState j
      | none => 0
    .done s (scalarOut c1 c0 .s64 v))

/-- JNL.NOTE (R445). -/
def execJnlNote (c1 c0 : Cons) (s : State) : Outcome :=
  fireOnce s c1 c0 .s64 (fun c e =>
    let (s, v) := journalFiring s c 9 (c.tag e) (c.wide 0 e)
    .done s (scalarOut c1 c0 .s64 v))

/-- The result of RAND from a word g of the entropy source (R201). -/
def randValue (ty : Ty) (g : Dword) : Dword :=
  match ty with
  | .n64 => g
  | .f32 => dw (roundMag fmtF32 rne false false (field g 63 40) (-24) false)
  | _ => zx32 (lo32 g)

/-- RAND of one element (R201). -/
def randElem (ty : Ty) (s : State) (c : Ctx) (e : Nat) : ElemRes :=
  let (i, s) := draw s
  let (s, g) := journalFiring s c 5 (c.tag e) (Config.entropy i)
  .done s (some (randValue ty g))

/-- RAND (R201): each element draws one word, which the journal records or forces. -/
def execRand (ty : Ty) (c1 c0 : Cons) (s : State) : Outcome :=
  match ctxOf? s s.cur with
  | none => .fault .noFiring
  | some c => match (readyElems c.blk c.inst c.f.slot).take (laneLimit (ty == .n64)) with
    | [] => .next s
    | es => .next (eachDone c 4 c1 c0 (runKind (ty == .n64)) (eachOf s c (randElem ty) es))

end Sys2Proof.Machine
end

