-- ==== Sys2Proof/Machine/Host.lean ====
section
/-!
DEFINITION. Sys2Proof/Machine/Host.lean: what the outside does to the module and what happens to it: doorbells and the register
window (R381, R458, R459), BAR4 (R460), MSI-X (R461), resets and bring-up (R428, R465), the Reeve's rounds (R452), soft
errors (R429, R430), heat (R464).
-/
namespace Sys2Proof.Machine

/-- Whether a function answers the host (R465). -/
def hostUp (s : State) (v : Nat) : Bool := v.blt 512 && s.ready && s.power

/-- Whether a write of the host through a function's BARs arrives: none does while the function's VI is being reset (R465, R466). -/
def hostOk (s : State) (v : Nat) : Bool := hostUp s v && !(viOf s v).busy

/-- Whether an access of the host is of 8 bytes at an aligned offset: any other is dropped, and a read of it returns all ones (R458). -/
def hostWhole (size off : Nat) : Bool := size == 8 && off % 8 == 0

/-- A write of the host that arrives. -/
def hostWrite (s : State) (v : Nat) (g : State → State) : Outcome := .next (bif hostOk s v then g s else s)

/-! ### The doorbell page (R381) -/

/-- JQTAIL (R380, R381). -/
def execJqtail (v q : Nat) (w : Word) (s : State) : Outcome := hostWrite s v (fun s => bif q.blt 16 then writeTail s v q w else s)

/-- JCCONS (R381, R469). -/
def execJccons (v q : Nat) (w : Word) (s : State) : Outcome :=
  hostWrite s v (fun s => bif q.blt 16 then onQueue s v q (fun j => { j with ccons := w }) else s)

/-- The queues of a fence in a mask of queues where any of them stands. -/
def fenced (fence mask : Nat) : Nat := bif mask &&& fence == 0 then mask else mask ||| fence

/-- An item of a queue's cache after a fence: covered for every queue joined where it is for one (R322). -/
def fenceItem (fence : Nat) (x : Nat × List Dword) : Nat × List Dword :=
  match x.2 with
  | w :: ws => (x.1, dw (w.toNat / 2 ^ 16 * 2 ^ 16 + fenced fence (field w 15 0)) :: ws)
  | [] => x

/-- JQFENCE (R322, R384): every queue joined drops what a SYNC.CODE of a job of a queue joined has covered, and takes no plot that holds an
image of it; other queues note that every queue joined has covered it. -/
def execJqfence (v : Nat) (m : BitVec 16) (s : State) : Outcome :=
  hostWrite s v (fun s =>
    let s := onVi s v (fun vi => { vi with queues := vi.queues.map (fun (q, j) =>
      (q, { j with cache := bif m.getLsbD q then j.cache.filter (fun x => field ((x.2.head?).getD 0) 15 0 &&& m.toNat == 0)
                            else j.cache.map (fenceItem m.toNat) })) })
    { s with plots := s.plots.map (fun (k, p) => (k, bif p.vi == v then { p with stale := fenced m.toNat p.stale } else p)) })

/-- FRCONS (R275, R469): the fault records held are tried again. -/
def execFrcons (v : Nat) (w : Word) (s : State) : Outcome := hostWrite s v (fun s => writeViReg s v 0x065 0 (zx32 w))

/-- STRESUME (R273, R274). -/
def execStresume (v : Nat) (w : Word) (s : State) : Outcome := hostWrite s v (fun s => writeViReg s v 0x067 0 (zx32 w))

/-- GERCONS (R366). -/
def execGercons (v : Nat) (w : Word) (s : State) : Outcome := hostWrite s v (fun s => writeViReg s v 0x06A 0 (zx32 w))

/-- A write to the doorbell page of a function (R381); one at another offset, of another size than 8 bytes, or unaligned (R458), is ignored. -/
def doorbellWrite (v size off : Nat) (w : Dword) (s : State) : Outcome :=
  if hostWhole size off = false then .next s
  else if off < 0x080 then execJqtail v (off / 8) (lo32 w) s
  else if off < 0x100 then execJccons v ((off - 0x080) / 8) (lo32 w) s
  else match off with
    | 0x100 => execJqfence v (w.extractLsb' 0 16) s
    | 0x108 => execFrcons v (lo32 w) s
    | 0x110 => execStresume v (lo32 w) s
    | 0x118 => execGercons v (lo32 w) s
    | _ => .next s

/-- What a read of the doorbell page returns: 0 (R381, R465), all ones where it is not of 8 bytes or unaligned (R458). -/
def doorbellRead (s : State) (size off : Nat) : Dword := if s.ready = true ∧ hostWhole size off = false then BitVec.allOnes 64 else 0

/-! ### The register window (R459) -/

/-- TRCONS (R417, R418). -/
def execTrcons (v : Nat) (w : Word) (s : State) : Outcome := hostWrite s v (fun s => writeViReg s v 0x043 0 (zx32 w))

/-- HRCONS (R421). -/
def execHrcons (v : Nat) (w : Word) (s : State) : Outcome := hostWrite s v (fun s => writeViReg s v 0x04D 0 (zx32 w))

/-- A register of a VI written through the window, where R413 does not refuse the value. -/
def windowWrite (s : State) (v r n : Nat) (w : Dword) : Outcome :=
  hostWrite s v (fun s => bif valueOk r w then writeViReg s v r n w else s)

/-- The register of a ring's base, and whether it has one for each queue. -/
def ringReg : Ring → Nat × Bool
  | .tring => (0x041, false)
  | .hring => (0x04B, false)
  | .fring => (0x063, false)
  | .gering => (0x068, false)
  | .jqbase => (0x071, true)
  | .jcring => (0x075, true)

/-- RING_BASE_WRITE (R469). -/
def execRingBaseWrite (v : Nat) (ring : Ring) (n : Nat) (w : Dword) (s : State) : Outcome :=
  bif n.blt (bif (ringReg ring).2 then 16 else 1) then windowWrite s v (ringReg ring).1 n w else .next s

/-- TRAPRSP (R419). -/
def execTraprsp (v : Nat) (w : Dword) (s : State) : Outcome := windowWrite s v 0x044 0 w

/-- IMASK (R416). -/
def execImask (v : Nat) (w : Dword) (s : State) : Outcome := windowWrite s v 0x04A 0 w

/-- VIRESET (R428): VI 0 writes it through VISEL. -/
def execVireset (v : Nat) (w : Dword) (s : State) : Outcome :=
  hostWrite s 0 (fun s => bif v.blt 512 && valueOk 0x04F w then writeViReg s v 0x04F 0 w else s)

/-- The selector of a register at an offset of the window of a function (R459). -/
def windowSel? (s : State) (fn off : Nat) : Option Dword :=
  if 0x2000 ≤ off ∧ off < 0x3E00 then
    some (dw (at_ 1 59 + at_ (bif fn == 0 then s.visel.toNat else fn) 50 + at_ (0x040 + (off - 0x2000) / 128) 40 + off % 128 / 8))
  else if 0x4000 ≤ off ∧ off < 0xE000 ∧ fn = 0 then some (dw (at_ 2 59 + at_ (0x100 + (off - 0x4000) / 4096) 40 + off % 4096 / 8))
  else none

/-- A write to the register window of a function: VISEL and MSTATUS of the physical function; a register of R412, checked as a
SYSWR of a plot of the function's VI. -/
def writeWindow (s : State) (fn size off : Nat) (w : Dword) : State :=
  if hostWhole size off = false then s
  else if off = 0x3F00 then
    bif fn == 0 && field w 63 9 == 0 then { s with visel := w.extractLsb' 0 9 } else s
  else if off = 0x3F08 then
    bif fn == 0 && field w 63 4 == 0 && w.getLsbD 1 then moduleReset s else s
  else match windowSel? s fn off with
    | none => s
    | some a => match accessWhy? (fn == 0) fn a (some w) with
      | some _ => s
      | none => bif selScope a == 1 then writeViReg s (selVi a) (selReg a) (selIndex a) w
          else writeModuleReg s (selReg a) (selIndex a) w

/-- MSTATUS (R464); RST reads 0. -/
def mstatus (s : State) : Dword :=
  dw (at_ (bif s.booterr then 1 else 0) 3 + at_ (bif s.thr then 1 else 0) 2 + (bif s.ready then 1 else 0))

/-- What a read of a function's register window returns (R458, R459): a register as a SYSRD of a plot of the function's VI reads it;
0 at an unmapped offset, where R413 refuses, and, but for MSTATUS, until READY (R465). -/
def windowRead (s : State) (fn size off : Nat) : Dword :=
  if off = 0x3F08 ∧ fn = 0 ∧ size = 8 then mstatus s
  else if s.ready = false then 0
  else if hostWhole size off = false then BitVec.allOnes 64
  else if off = 0x3F00 ∧ fn = 0 then dw s.visel.toNat
  else match windowSel? s fn off with
    | none => 0
    | some a => match accessWhy? (fn == 0) fn a none with
      | some _ => 0
      | none => bif selScope a == 1 then viRegValue (viOf s (selVi a)) (selReg a) (selIndex a) else moduleRegValue s (selReg a) (selIndex a)

/-- REGISTER_WRITE (R412, R458, R459): 8 bytes written at an offset of a function's register window. -/
def execRegisterWrite (fn : Nat) (off w : Dword) (s : State) : Outcome := hostWrite s fn (fun s => writeWindow s fn 8 off.toNat w)

/-- The mask of an entry of a function's MSI-X table written by the host (R461): where it is clear a vector still pending is delivered. -/
def writeMsiXMask (s : State) (fn vec : Nat) (masked : Bool) : State :=
  bif fn.blt 512 && vec.blt 64 then deliverIrqs (onVi s fn (fun vi => { vi with msix := setBit vi.msix vec masked })) fn else s

/-- MSI_X_ENTRY_UNMASK (R461): an entry of the function's table is unmasked; 64 above its number, it is masked. -/
def execMsiXEntryUnmask (fn vec : Nat) (s : State) : Outcome :=
  .next (bif vec.blt 128 then writeMsiXMask s fn (vec % 64) (vec / 64 == 1) else s)

/-- What the Pending Bit Array of a function reads as (R461). -/
def pendingBits (s : State) (fn : Nat) : Dword := viRegValue (viOf s fn) 0x049 0

/-! ### BAR4 (R460) -/

/-- The P-cell that a host write to an address passes through, the owner of its region, and whether its token is there (R261, R263); the hub
where it has none. -/
def hostPort (vi : Vi) (va : Nat) (write : Bool) : Nat × Bool :=
  match bif write then (regionOf? vi va).bind (fun r => Tab.at? vi.owners r) else none with
  | some o => (o.port, o.here)
  | none => (hubPort, true)

/-- A host access as what makes an access for a VI. -/
def Via.host (v : Nat) : Via := { Via.hub v with src := 6 }

/-- What a host access finds: its P-cell and address; a fault record's cause; a wait, for a page under migration, a hand-over, or its
line. -/
def hostWay (s : State) (v va : Nat) (write : Bool) : Except (Option Nat) (State × Nat × Nat) :=
  match translateNow s v va (bif write then .write else .read) with
  | .ok s pa =>
    let (port, here) := hostPort (viOf s v) va write
    if paReserved s pa then .error (some 9)
    else if here && lineReady s port v (pa / 128) then .ok (s, port, pa) else .error none
  | .fail _ (.xlate why) => .error (some why)
  | .fail _ (.migrate _ _ _) => .error none
  | .miss _ => .error none

/-- A read of the host answered. -/
def hostAnswer (s : State) (w : Dword) : State := { s with hostReads := s.hostReads ++ [w] }

/-- An access of the host through BAR4 (R460): a read or write of 8 bytes as the function's VI, performed before the host's next one (R321): a write through the
owner's coalescer where its region has an owner, else at the line's home (R261). A page under migration holds it back (R272), and a hand-over of
the region (R263); before READY reads return 0 (R465), one of another size or unaligned all ones (R458); a write is dropped while the VI is being
reset (R466). -/
def hostAccess (v : Nat) (off : BitVec 40) (size : Nat) (wr : Option Dword) (s : State) : Outcome :=
  let va := off.toNat
  if (bif wr.isSome then hostOk s v else hostUp s v) = false then .next (match wr with
    | some _ => s
    | none => hostAnswer s 0)
  else if hostWhole size va = false then .next (match wr with
    | some _ => s
    | none => hostAnswer s (BitVec.allOnes 64))
  else match hostWay s v va wr.isSome, wr with
    | .ok (s, port, pa), some w => .next (writePa s port v pa 8 w.toNat)
    | .ok (s, port, pa), none =>
      let (s, x, _) := readPa s port v pa 8
      .next (hostAnswer s (dw x))
    | .error none, _ => .next { askReeve s (Via.host v) va wr.isSome with hostQ := s.hostQ ++ [(v, va, wr)] }
    | .error (some cause), some _ => .next (putFault s v 2 cause 0 va 0 0)
    | .error (some cause), none => .next (hostAnswer (putFault s v 2 cause 0 va 0 0) (BitVec.allOnes 64))

/-- HOST_MEMORY_ACCESS (R460): an access of 8 bytes. -/
def execHostMemoryAccess (v : Nat) (off : BitVec 40) (wr : Option Dword) (s : State) : Outcome := hostAccess v off 8 wr s

/-! ### Resets and bring-up (R428, R465) -/

/-- FUNCTION_LEVEL_RESET (R428, R465). -/
def execFunctionLevelReset (v : Nat) (s : State) : Outcome := .next (bif v.blt 512 && s.power then resetFunction s v else s)

/-- PERST (R465): a module reset; power is there. -/
def execPerst (s : State) : Outcome := .next (moduleReset s)

/-- RST (R464, R465): MSTATUS written; bit 1 starts a module reset. -/
def execRst (w : Dword) (s : State) : Outcome := hostWrite s 0 (fun s => writeWindow s 0 8 0x3F08 w)

/-- BRINGUP_READY (R465). -/
def execBringupReady (s : State) : Outcome := .next (bringUp s)

/-! ### The Reeve's rounds (R452) -/

/-- Where the record of the Reeve's round stands: in no die's pool. -/
def reeveRec : Nat := recKey 4 0 0

/-- The plot of the Reeve's last round, which holds what it left until the next (R456). -/
def reevePlot? (s : State) : Option (Nat × Plot) := s.plots.find? (fun (_, p) => p.role == .reeve)

/-- Whether the Reeve can take a record: it runs no round, and queue 15 of VI 0 has one. -/
def reeveReady (s : State) : Bool :=
  queueTakes s 0 15 && !Tab.has s.recs reeveRec && (reevePlot? s).all (fun (_, p) => !p.running && !p.frozen && p.stop == .none)

/-- The plot of the Reeve's last round released. -/
def clearReeve (s : State) : State :=
  match reevePlot? s with
  | some (k, _) => releasePlot s k
  | none => s

/-- The Reeve's round begun on a record that its front end has taken for a job; none where it has to wait. -/
def reeveStart (s : State) (j : Nat) (r : Rec) : Option State :=
  let k := reeveRec
  match jobImage s j r.code with
  | .wait => none
  | .refused s => some s
  | .ok s im =>
    let s := beginJournal (putRec s k r) j
    if r.lo = r.hi then some (finishRec s k true)
    else match configure (clearReeve s) 0 .reeve (some 15) r.code 0 true none with
      | .wait => none
      | .failed s cause info cell pw => some (failTask s k cause info cell pw)
      | .ok s key => match Tab.at? s.plots key with
        | none => none
        | some p => match readArgs s 0 p r.args with
          | .wait => none
          | .bad cause info => some (releasePlot (failTask s k cause info (tcellOf p 0 0 0) (plotWord p)) key)
          | .ok s es seed => some (onPlot (seat s key k r) key (fun p =>
              startRound { writeArgs p r im.handles es with srseed := seed, inh := false }))

/-- REEVE_ROUND (R452): the Reeve takes the next record of queue 15 of VI 0 and runs its round. -/
def execReeveRound (s : State) : Outcome :=
  if reeveReady s = false then .next s
  else match readSlot s 0 15 with
    | .wait s => .next s
    | .fault cause _ _ => .next (badJob s 0 15 0 (causeCode cause))
    | .ok s1 ws =>
      if badRoot ws = true then .next (badJob s1 0 15 ((ws[7]?).getD 0) 0)
      else
        let q := Tab.atD (viOf s1 0).queues 15 JobQueue.reset
        let (s2, j) := takeJob s1 0 15 (newJob 0 15 q.head ((ws[7]?).getD 0) q.jnl)
        .next ((reeveStart s2 j { recOf ws j with root := true, join := 0 }).getD s)

/-! ### Soft errors (R158, R429, R430) -/

/-- A plot configured again where it stands, with what it held (R429): what the loader writes comes from the image again, the
rest stays. -/
def reloadedPlot (p q : Plot) : Plot :=
  { p with scrub := false, ports := q.ports, cells := resumeCells q.cells p.cells, routes := q.routes ++ p.routes.filter (fun (k, _) => Nat.ble (2 ^ 20) k),
           logs := q.logs, groups := q.groups, fixups := q.fixups, items := q.items, stale := q.stale,
           folds := q.folds.map (fun (k, f) => (k, match Tab.at? p.folds k with
             | some o => { f with gen := o.gen, hdrs := o.hdrs, pstall := o.pstall }
             | none => f)) }

/-- The reload of a plot's configuration from CODE; a reload that fails ends its round as failed, and counts in MASKHIT as any load does
(R64). While the image cannot be read the plot issues nothing, and the reload is tried again. -/
def reload (s : State) (key : Nat) (p : Plot) : State :=
  let queue := ((recOf? s p).bind (fun x => Tab.at? s.jobs x.2.job)).map (·.queue)
  let bare := dropOwners { s with plots := Tab.del s.plots key } key p.vi
  let cfgerr := fun s : State => raiseRecord s p.vi .cfgerr 0 0 (tcellOf p 0 0 0) (plotWord p)
  match configure bare p.vi p.role queue p.code p.die false (some (p.x, p.y)) with
  | .wait => onPlot s key (fun p => { p with scrub := true })
  | .failed s2 _ _ _ _ =>
    let s := onVi (onPlot s key (fun p => { p with scrub := false })) p.vi (fun vi => { vi with maskhit := (viOf s2 p.vi).maskhit })
    cfgerr (bif p.running then abandonRound s key (causeCode .cfgerr) else releasePlot s key)
  | .ok s2 k2 => match Tab.at? s2.plots k2 with
    | none => s
    | some q => cfgerr (onVi { s2 with plots := Tab.set (Tab.del s2.plots k2) key (reloadedPlot p q) } p.vi (fun vi =>
        { vi with owners := vi.owners.map (fun (r, o) => (r, bif o.plot == k2 then { o with plot := key } else o)) }))

/-- CONFIG_SCRUB (R429): the scrubber has read the configuration of a plot. -/
def execConfigScrub (plot : Nat) (found : Scrub) (s : State) : Outcome :=
  match found with
  | .clean => .next s
  | .corrected => .next { s with cfgcorr := satInc s.cfgcorr }
  | .uncorrectable => match Tab.at? s.plots plot with
    | none => .next s
    | some p => .next (reload s plot p)

/-- The header of a slot of an on-chip fold changed. -/
def onHdr (s : State) (plot sid slot : Nat) (g : Fold → Dword → Dword) : State :=
  onPlot s plot (fun p => { p with folds := Tab.upd p.folds sid (fun f =>
    bif f.far || !slot.blt f.slots then f else { f with hdrs := Tab.set f.hdrs slot (g f (Tab.atD f.hdrs slot (mkHdr 0 0 0 f.gen))) }) })

/-- A slot of a far fold poisoned in its header array (R158). -/
def poisonFar (s : State) (p : Plot) (f : Fold) (slot : Nat) : State :=
  match hubRead s p.vi (f.hdrAt slot) 1 with
  | .ok s [h] => (hubStore? s p.vi (f.hdrAt slot) [poisonHdr h]).getD s
  | _ => s

/-- A slot of a fold poisoned by an error in its data: OCC and GEN stay, and a slot without a header is as one of zero (R158). -/
def poisonData (s : State) (plot sid slot : Nat) : State :=
  match (Tab.at? s.plots plot).bind (fun p => (foldOf? p sid).map (fun f => (p, f))) with
  | none => s
  | some (p, f) =>
    bif !slot.blt f.slots then s
    else bif f.far then poisonFar s p f slot
    else onPlot s plot (fun p => onFold p sid (fun f => { f with hdrs := Tab.set f.hdrs slot (poisonHdr (Tab.atD f.hdrs slot 0)) }))

/-- OCC of a slot of an on-chip fold. -/
def slotOcc (p : Plot) (sid slot : Nat) : Nat :=
  match foldOf? p sid with
  | some f => hdrOcc (Tab.atD f.hdrs slot 0)
  | none => 0

/-- UNCORRECTABLE_ERROR (R158, R213, R217, R430): a slot or a line is poisoned, the round of a plot is abandoned, or the tile firings
that read the data find the error. -/
def execUncorrectableError (site : ErrSite) (s : State) : Outcome :=
  match site with
  | .foldData plot sid slot =>
    let found := onPlot s plot (fun p => findError p (fun _ => poisonedSource? p sid slot (slotOcc p sid slot)))
    .next (poisonData found plot sid slot)
  | .foldHeader plot sid slot =>
    let found := onPlot s plot (fun p => findError p (fun _ => poisonedSource? p sid slot 0))
    .next (onHdr found plot sid slot (fun f _ => mkHdr 0 3 0 f.gen))
  | .nearData plot scell off => .next (onPlot s plot (fun p => findError p (fun cell => badRaw? p cell (some scell) off)))
  | .accData plot cell off => .next (onPlot s plot (fun p => findError p (fun k j => bif k == cell then badRaw? p cell none off j else none)))
  | .l2Line slice key => .next (onSlice s slice (fun sl => { sl with lines := Tab.upd sl.lines key (fun l => { l with poison := true }) }))
  | .memLine pa => .next (bif s.poison.contains (pa / 128) then s else { s with poison := pa / 128 :: s.poison })
  | .buffer plot => match Tab.at? s.plots plot with
    | none => .next s
    | some p => .next (bif p.running then
        raiseRecord (abandonRound s plot (causeCode .cfgerr)) p.vi .cfgerr 0 0 (tcellOf p 0 0 0) (plotWord p) else s)

/-! ### Heat (R464) -/

/-- THERMAL_THROTTLE (R464): the clock is to be halved at the next bell mark; no count of cycles and no result changes. -/
def execThermalThrottle (s : State) : Outcome := .next { s with thrNext := some true }

/-- THERMAL_RESTORE (R464): the full clock is to be restored at the next bell mark. -/
def execThermalRestore (s : State) : Outcome := .next { s with thrNext := some false }

/-- THERMAL_SHUTDOWN (R464): the dies lose power; only a reset leaves this state. -/
def execThermalShutdown (s : State) : Outcome := .next { s with power := false }

end Sys2Proof.Machine
end

