-- ==== Sys2Proof/Machine/Partition.lean ====
section
/-!
DEFINITION. Sys2Proof/Machine/Partition.lean: the partition forms, way masks and window quotas (R299, R303, R307-R312), and
the end of a drain.
-/
namespace Sys2Proof.Machine

/-- SYSREG of R312. -/
def partTrap (c : Ctx) (e why part : Nat) : Res := .trap .sysreg (c.tag e) (dw (at_ why 8 + part % 64))

/-- The slices of a partition. -/
def partSlices (s : State) (p : Nat) : List Nat :=
  (List.range (2 ^ field (partOf s p) 53 51)).map (field (partOf s p) 50 45 + ·)

/-- Whether a partition is valid. -/
def partValid (s : State) (p : Nat) : Bool := (partOf s p).getLsbD 63

/-- Whether a partition is quiesced. -/
def partQui (s : State) (p : Nat) : Bool := (partOf s p).getLsbD 62

/-- The partition that a firing names in a[5:0] (R309): the Reeve alone may, and the other bits are reserved. A form that has reached the hub
before it on that partition, and waits, is applied first. -/
def withPart (s : State) (c : Ctx) (e : Nat) (k : Nat → Res) : Res :=
  let a := c.low 0 e
  let p := field a 5 0
  if c.plot.role ≠ .reeve then .trap .priv (c.tag e) (infoPriv c)
  else if field a 31 6 ≠ 0 then partTrap c e 5 p
  else if anyEarlier s c (fun d => d.opcode == 0xFC && field (d.low 0 d.lead) 5 0 == p) = true then .stall s
  else k p

/-- QUI of a partition set or cleared. -/
def setQui (s : State) (p : Nat) (q : Bool) : State :=
  { s with partcfg := Tab.set s.partcfg p (bif q then partOf s p ||| dw (2 ^ 62) else partOf s p &&& ~~~(dw (2 ^ 62))) }

/-- The lines of the slices of a set, with their slices and ways. -/
def linesOf (s : State) (ns : List Nat) : List (Nat × Nat × L2Line) :=
  ns.flatMap (fun n => (sliceOf s n).lines.map (fun (k, l) => (n, k, l)))

/-- PART.QUIESCE (R310). -/
def execPartQuiesce (c1 c0 : Cons) (s : State) : Outcome :=
  fireOnce s c1 c0 .s64 (fun c e => withPart s c e (fun p =>
    if partValid s p then
      .done (setQui s p true) (scalarOut c1 c0 .s64 (dw ((linesOf s (partSlices s p)).filter (fun (_, _, l) => l.dirty)).length))
    else partTrap c e 0 p))

/-- Whether a line overlaps a range; a length of 0 is the whole partition (R310). -/
def inRange (l : L2Line) (b len : Nat) : Bool := len == 0 || ((128 * l.line).blt (b + len) && b.blt (128 * l.line + 128))

/-- Dirty lines written back and cleaned. -/
def cleanLines (s : State) (ls : List (Nat × Nat × L2Line)) : State :=
  ls.foldl (fun s (n, k, l) => onSlice (writeBack s n l) n (fun sl => { sl with lines := Tab.set sl.lines k { l with dirty := false } })) s

/-- Lines invalidated. -/
def dropLines (s : State) (ls : List (Nat × Nat × L2Line)) : State :=
  ls.foldl (fun s (n, k, _) => onSlice s n (fun sl => { sl with lines := Tab.del sl.lines k })) s

/-- Whether a line of a partition's slice is misplaced (R308): its VI has left, or its home is another slice. -/
def misplaced (s : State) (p n : Nat) (l : L2Line) : Bool := viPart? s l.vi != some p || homeIn s p (128 * l.line) != n

/-- A form that needs its partition valid and quiesced (R310). -/
def withQuiesced (s : State) (c : Ctx) (e : Nat) (k : Nat → Res) : Res :=
  withPart s c e (fun p =>
    if partValid s p = false then partTrap c e 0 p else if partQui s p = false then partTrap c e 1 p else k p)

/-- PART.WB (R310). -/
def execPartWb (c1 c0 : Cons) (s : State) : Outcome :=
  fireOnce s c1 c0 .s64 (fun c e => withQuiesced s c e (fun p =>
    let ls := (linesOf s (partSlices s p)).filter (fun (_, _, l) => l.dirty && inRange l (c.wide 1 e).toNat (c.wide 2 e).toNat)
    .done (cleanLines s ls) (scalarOut c1 c0 .s64 (dw ls.length))))

/-- PART.INV (R310). -/
def execPartInv (c1 c0 : Cons) (s : State) : Outcome :=
  fireOnce s c1 c0 .s64 (fun c e => withQuiesced s c e (fun p =>
    let ls := (linesOf s (partSlices s p)).filter (fun (n, _, l) =>
      misplaced s p n l && inRange l (c.wide 1 e).toNat (c.wide 2 e).toNat)
    .done (dropLines s ls) (scalarOut c1 c0 .s64 (dw ls.length))))

/-- PART.RESUME (R310). -/
def execPartResume (c1 c0 : Cons) (s : State) : Outcome :=
  fireOnce s c1 c0 .s64 (fun c e => withQuiesced s c e (fun p =>
    let ls := (linesOf s (partSlices s p)).filter (fun (n, _, l) => misplaced s p n l)
    .done (setQui (dropLines s ls) p false) (scalarOut c1 c0 .s64 (dw ls.length))))

/-- Whether the fields of a SETHASH descriptor keep R311. -/
def hashFieldsOk (d : List Dword) : Bool :=
  let w := fun (i : Nat) => ((d[i]?).getD 0 : Dword)
  let lg := field (w 0) 8 6
  let base := field (w 0) 5 0
  field (w 0) 62 9 == 0 && lg.ble 6 && base % 2 ^ lg == 0 && (base + 2 ^ lg).ble 64 && w 15 == 0 &&
    (List.range 6).all (fun k =>
      let m := w (k + 1)
      field m 63 52 == 0 && field m 6 0 == 0 && (bif k.blt lg then m != 0 else m == 0))

/-- The VIs that a SETHASH descriptor lists. -/
def hashVis (d : List Dword) : List Nat := (List.range 512).filter (fun v => ((d[7 + v / 64]?).getD 0).getLsbD (v % 64))

/-- Whether a slice is free for a partition: its own, or no valid partition's. -/
def sliceFree (s : State) (p n : Nat) : Bool :=
  (List.range 64).all (fun q => q == p || !partValid s q || !(partSlices s q).contains n)

/-- Whether a VI may move into a partition (R311). -/
def viMovable (s : State) (p v : Nat) : Bool :=
  match viPart? s v with
  | none => true
  | some q => q == p || partQui s q

/-- The streams of the VIs of a partition that hold a window. -/
def partWindows (s : State) (p : Nat) : List (Nat × Nat × Stream) :=
  (s.pcells.flatMap (fun (port, q) => q.ctxs.map (fun (ctx, t) => (port, ctx, t)))).filter (fun (_, _, t) =>
    t.windowed && viPart? s t.vi == some p)

/-- A window written back at its slices, and given up: its stream runs on with none. -/
def endWindow (s : State) (w : Nat × Nat × Stream) : State :=
  let (port, ctx, t) := w
  let s := t.wlines.foldl (fun s (off, l) => bif l.mask == 0 then s
    else storeAt (homeSlice? s t.vi (128 * l.line)) s (t.windowDie off) t.vi l.line l.data l.mask none) (freeWindow s t)
  onStream s port ctx (fun t => { t with windowed := false, givers := [], share := 0, wlines := [], head := 0, tail := 0,
                                         performed := t.performed + t.wlines.foldl (fun n (_, l) => n + l.n) 0 })

/-- The new configuration, masks and membership of a partition, at one instant (R311, R454). -/
def installHash (s : State) (p : Nat) (d : List Dword) : State :=
  let w0 := (d[0]?).getD 0
  let gen := (field (partOf s p) 61 54 + 1) % 256
  let cfg := dw (at_ (field w0 63 63) 63 + at_ 1 62 + at_ gen 54 + at_ (field w0 8 6) 51 + at_ (field w0 5 0) 45)
  let vs := hashVis d
  let old := (List.range 512).filter (fun v => viPart? s v == some p && !vs.contains v)
  let s := { s with partcfg := Tab.set s.partcfg p cfg,
                    hmask := (List.range 6).foldl (fun t k => Tab.set t (8 * p + k) ((d[k + 1]?).getD 0)) s.hmask }
  let s := vs.foldl (fun s v => onVi s v (fun vi => { vi with vdom := dw p })) s
  old.foldl (fun s v => onVi s v (fun vi => { vi with vdom := dw (64 + p) })) s

/-- A translation fault of a descriptor's read, at whichever of its words, names the descriptor's address (R311). -/
def descTrap (va : Nat) (r : Res) : Res :=
  match r with
  | .trap .xlate tag info => .trap .xlate tag (dw (info.toNat / 2 ^ 57 * 2 ^ 57 + va % 2 ^ 57))
  | r => r

/-- PART.SETHASH (R311). -/
def execPartSethash (c1 c0 : Cons) (s : State) : Outcome :=
  fireOnce s c1 c0 .s64 (fun c e => withPart s c e (fun p =>
    let va := vaOf (c.wide 1 e)
    match cellRead s c e 4 va 16 with
    | .stop r => descTrap va r
    | .ok s d =>
      if va % 128 ≠ 0 then .trap .align (c.tag e) (infoMem 4 0 va)
      else if hashFieldsOk d = false then partTrap c e 2 p
      else
        let w0 := (d[0]?).getD 0
        let new := (List.range (2 ^ field w0 8 6)).map (field w0 5 0 + ·)
        if partValid s p ∧ partQui s p = false then partTrap c e 1 p
        else if w0.getLsbD 63 ∧ new.all (sliceFree s p) = false then partTrap c e 3 p
        else if (hashVis d).all (viMovable s p) = false then partTrap c e 4 p
        else if s.slices.any (fun (_, sl) => sl.queue.any (fun r => r.part == p)) ∨ (partWindows s p).any (fun (_, _, t) => t.sent != 0) = true then
          .stall s
        else
          let mine := bif partValid s p then partSlices s p else []
          let dirty := (linesOf s mine).filter (fun (_, _, l) => l.dirty)
          let wins := partWindows s p
          let n := dirty.length + wins.foldl (fun n (_, _, t) => n + (t.wlines.filter (fun (_, l) => l.mask != 0)).length) 0
          let s := wins.foldl endWindow s
          let s := cleanLines s ((linesOf s mine).filter (fun (_, _, l) => l.dirty))
          let leave := mine.filter (fun k => !(w0.getLsbD 63 && new.contains k))
          let s := dropLines s (linesOf s leave)
          .done (installHash s p d) (scalarOut c1 c0 .s64 (dw n))))

/-- The VI that a firing of WAYMASK.SET or WQUOTA.SET names, and its value (R309, R312). -/
def withVi (c : Ctx) (e : Nat) (k : Nat → Nat → Res) : Res :=
  let a := c.low 0 e
  let b := c.wide 1 e
  if isVi0 c.plot = false then .trap .priv (c.tag e) (infoPriv c)
  else if field a 31 9 ≠ 0 ∨ field b 63 16 ≠ 0 then partTrap c e 5 0
  else k (field a 8 0) (field b 15 0)

/-- WAYM with its two fields. -/
def waymOf (drain mask : BitVec 16) : Dword := dw (at_ drain.toNat 16 + mask.toNat)

/-- WAYMASK.SET (R299, R312): ways removed drain first; ways added are used once it completes. One that has reached the hub before it for the
same VI is applied first (R309). -/
def execWaymaskSet (c1 c0 : Cons) (s : State) : Outcome :=
  fireOnce s c1 c0 .s64 (fun c e => withVi c e (fun v m =>
    let new := BitVec.ofNat 16 m
    let old := wayMask s v
    let busy := s.vis.any (fun (u, vi) => u != v && (vi.waym.extractLsb' 16 16 &&& new &&& ~~~old) != 0)
    let before := anyEarlier s c (fun d => d.opcode == 0xFD && field d.word 23 18 == 0 && field (d.low 0 d.lead) 8 0 == v)
    if busy ∨ before ∨ (viOf s v).wayset.isSome then .stall s
    else if old &&& ~~~new = 0 then .done (onVi s v (fun vi => { vi with waym := waymOf 0 new })) (scalarOut c1 c0 .s64 0)
    else .issued (onVi s v (fun vi => { vi with waym := waymOf (old &&& ~~~new) (old &&& new), wayset := some (c.f, dw m) }))))

/-- WAYMASK_DRAIN_DONE (R299): every slice has written back and invalidated the VI's lines in its draining ways. -/
def execWaymaskDrainDone (v : Nat) (s : State) : Outcome :=
  match (viOf s v).wayset with
  | none => .next s
  | some (f, m) =>
    let drain := (viOf s v).waym.extractLsb' 16 16
    let ns := match viPart? s v with
      | none => []
      | some p => partSlices s p
    let ls := (linesOf s ns).filter (fun (_, k, l) => l.vi == v && drain.getLsbD (k % 16))
    let dirty := ls.filter (fun (_, _, l) => l.dirty)
    let s := dropLines (dirty.foldl (fun s (n, _, l) => writeBack s n l) s) ls
    let s := onVi s v (fun vi => { vi with waym := waymOf 0 (m.extractLsb' 0 16), wayset := none })
    .next (finishScalar s f .s64 (dw dirty.length))

/-- WQUOTA.SET (R312, R305). -/
def execWquotaSet (c1 c0 : Cons) (s : State) : Outcome :=
  fireOnce s c1 c0 .s64 (fun c e => withVi c e (fun v q =>
    .done (onVi s v (fun vi => { vi with wquota := dw (at_ (field vi.wquota 47 32) 32 + q) })) (scalarOut c1 c0 .s64 0)))

end Sys2Proof.Machine
end

