-- ==== Sys2Proof/Machine/Settle.lean ====
section
/-!
DEFINITION. Sys2Proof/Machine/Settle.lean: what follows at once from any change of a plot: EMPTY (R129), end of stream from a slot
(R117), retirement (R102), the sequential thread (R98); waves go on or end (R423, R427); the hub takes the traps (R127).
-/
namespace Sys2Proof.Machine

/-! ### EMPTY (R129) -/

/-- The flagged port of a slot that makes an element EMPTY: the slot reads another port, every such port holds the element, and
the flagged one does not. -/
def emptyPort? (b : Block) (i : Inst) (slot e : Nat) : Option Nat :=
  let reads := Tab.atD b.reads slot 0
  (portsOf (Tab.atD b.flags slot 0 &&& reads)).find? (fun q =>
    let others := (portsOf reads).filter (fun r => r != q)
    !others.isEmpty && others.all (fun r => holds i slot r e) && !holds i slot q e)

/-- The lowest element of an instance that a flag makes EMPTY: its slot, port and tag. -/
def emptyIn? (b : Block) (i : Inst) : Option (Nat × Nat × Nat) :=
  b.flags.findSome? (fun (slot, _) => (waiting b i slot).findSome? (fun e => (emptyPort? b i slot e).map (fun q => (slot, q, i.first + e))))

/-- EMPTY of a plot (R126, R129). Of several elements it names the first by cell, block, frame and slot, which is the model's choice
(notes/assumptions/63.md). -/
def trapEmpty (p : Plot) : Plot :=
  match p.cells.findSome? (fun (cell, c) => c.blocks.findSome? (fun (bidx, b) =>
      b.insts.findSome? (fun (_, i) => (emptyIn? b i).map (fun x => (cell, bidx, x))))) with
  | none => p
  | some (cell, bidx, slot, port, tag) => takeTrap p .empty tag (infoPort slot port 0) (tcellOf p cell bidx slot) []

/-! ### End of stream (R117) -/

/-- The tag of the EOS that a slot is to emit: every port it reads has recorded EOS, and it has resolved every element below the
lowest of them. -/
def eosDue? (b : Block) (slot : Nat) : Option Nat :=
  bif b.eosSent.contains slot || isIseos b slot || !eosComplete b slot then none
  else match eosOf b slot with
    | none => none
    | some t =>
      let n := domCount b.bounds
      let runs := bif t == 0 || n == 0 then 0 else runOf b.bounds (Nat.min t n - 1) + 1
      bif redDone b slot && runs.ble b.next &&
        b.insts.all (fun (_, i) => (elemsOf i.len).all (fun e => t.ble (i.first + e) || resolved b i slot e)) then some t
      else none

/-- An EOS sent by a slot to the consumers of its word, by OUT along its route. -/
def sendEos (p : Plot) (cell bidx slot tag : Nat) (w : Word) : Plot :=
  let p := onBlock p cell bidx (fun b => { b with eosSent := slot :: b.eosSent })
  match decode w with
  | .ok (.out route dst c0) =>
    { p with tokens := p.tokens ++ [{ route := 64 * cell + route.toNat, sender := 64 * bidx + slot, bidx := dst.toNat, slot := consSlot c0,
                                      port := consPort c0, tag := tag, eos := true, mark := false, kind := .s32, elems := [],
                                      left := wayTime p (64 * cell + route.toNat) 0 }] }
  | _ => (localCons w).foldl (fun p o => queueEos p cell bidx tag 0 o) p

/-- Every EOS that the slots of a block are to emit. -/
def emitEos (p : Plot) (cell bidx : Nat) (b : Block) : Plot :=
  bif b.eos.isEmpty then p
  else (List.range b.words.length).foldl (fun p slot => match eosDue? b slot with
    | none => p
    | some t => sendEos p cell bidx slot t ((b.words[slot]?).getD 0)) p

/-! ### Retirement and the sequential thread (R98, R102) -/

/-- Whether every slot of a block has resolved every element of an instance. -/
def retires (b : Block) (i : Inst) : Bool :=
  (List.range b.words.length).all (fun slot => (elemsOf i.len).all (resolved b i slot))

/-- A block without the instances that retire. -/
def retire (b : Block) : Block := { b with insts := b.insts.filter (fun (_, i) => !retires b i) }

/-- A sequential block that the thread enters: its bounds are read and its instances begin again. -/
def enterBlock (b : Block) : Block := let b := applySetks b; { b with bounds := readBounds b, next := 0, succ := none }

/-- Whether the thread of a cell is through with the block it is in. -/
def throughWith (c : Cell) (b : Block) : Bool := b.insts.isEmpty && (c.thread.exited || (runCount b.bounds).ble b.next)

/-- The thread of a cell goes on to the block that NEXT chose, or ends. -/
def moveThread (c : Cell) : Cell :=
  match c.thread.bidx.bind (fun i => (Tab.at? c.blocks i).map (fun b => (i, b))) with
  | none => c
  | some (i, b) =>
    bif !throughWith c b then c
    else match c.thread.exited, b.succ with
      | false, some (_, _, n) =>
        let c := { c with blocks := Tab.upd c.blocks i (fun b => { b with succ := none }) }
        { c with thread := { bidx := some n, exited := false }, blocks := Tab.upd c.blocks n enterBlock }
      | _, _ => { c with thread := { bidx := none, exited := false } }

/-- What follows in a cell. -/
def settleCell (c : Cell) : Cell := moveThread { c with blocks := c.blocks.map (fun (i, b) => (i, retire b)) }

/-- What follows in a plot whose cells issue. -/
def settlePlot (p : Plot) : Plot :=
  bif !p.live then p
  else
    let p := trapEmpty p
    let p := p.cells.foldl (fun q (cell, c) => c.blocks.foldl (fun q (bidx, b) => emitEos q cell bidx b) q) p
    { p with cells := p.cells.map (fun (k, c) => (k, settleCell c)) }

/-- What follows in the machine: the plots, waves that send their markers or end, then the hub takes the traps. -/
def settle (s : State) : State :=
  let s := { s with plots := s.plots.map (fun (k, p) => (k, sendMarkers k (settlePlot p))) }
  collectTraps (s.plots.foldl (fun s (k, _) => endWave s k) s)

end Sys2Proof.Machine
end

