-- ==== Sys2Proof/Machine/Smithy.lean ====
section
/-!
DEFINITION. Sys2Proof/Machine/Smithy.lean: the smithy and its legacy operations (R66-R70).
-/
namespace Sys2Proof.Machine

/-- Byte q of a word. -/
def byteOf (w : Word) (q : Nat) : Nat := w.toNat / 2 ^ (8 * q) % 256

/-- A 32-bit word of an integer. -/
def word32 (x : Int) : Dword := zx32 (BitVec.ofInt 32 x)

/-- A word of four bytes. -/
def ofBytes (f : Nat → Nat) : Dword := dw (f 0 % 256 + 256 * (f 1 % 256) + 65536 * (f 2 % 256) + 16777216 * (f 3 % 256))

/-- The sum of four terms. -/
def sum4 (f : Nat → Int) : Int := f 0 + f 1 + f 2 + f 3

/-- A firing of an escape form (R66, R67): one request of its die's smithy for the elements it fires on, with its results; a
full queue of 64 stalls it. -/
def fireSmithy (f : Ctx → Nat → Dword) (s : State) : Outcome :=
  match ctxOf? s s.cur with
  | none => .fault .noFiring
  | some c =>
    match readyElems c.blk c.inst c.f.slot with
    | [] => .next s
    | es =>
      let q := Tab.atD s.smithy c.plot.die []
      if 64 ≤ q.length then .next (stallFiring s)
      else
        let r : SmithyReq := { firing := c.f, first := c.inst.first, vi := c.plot.vi, out := mapElems c es (f c), left := 32 }
        let s := addToll { s with smithy := Tab.set s.smithy c.plot.die (q ++ [r]) } c.plot.vi 9 1
        .next (onPlot s c.f.plot (fun p => markIssued p c.f es))

/-- LGC.DP4 (R69). -/
def execLgcDp4 (_c1 _c0 : Cons) (s : State) : Outcome :=
  fireSmithy (fun c e => word32 ((c.low 2 e).toNat + sum4 (fun q => sx (byteOf (c.low 0 e) q) 8 * sx (byteOf (c.low 1 e) q) 8))) s

/-- LGC.SAD (R69). -/
def execLgcSad (_c1 _c0 : Cons) (s : State) : Outcome :=
  fireSmithy (fun c e => word32 ((c.low 2 e).toNat + sum4 (fun q =>
    (((byteOf (c.low 0 e) q : Int) - byteOf (c.low 1 e) q).natAbs : Int)))) s

/-- LGC.AVG (R69). -/
def execLgcAvg (_c1 _c0 : Cons) (s : State) : Outcome :=
  fireSmithy (fun c e => ofBytes (fun q => (byteOf (c.low 0 e) q + byteOf (c.low 1 e) q + 1) / 2)) s

/-- LGC.CLAMP (R69). -/
def execLgcClamp (_c1 _c0 : Cons) (s : State) : Outcome :=
  fireSmithy (fun c e => word32 (min (max (c.low 0 e).toInt (c.low 1 e).toInt) (c.low 2 e).toInt)) s

/-- LGC.SWZ (R69). -/
def execLgcSwz (_c1 _c0 : Cons) (s : State) : Outcome :=
  fireSmithy (fun c e => ofBytes (fun q => byteOf (c.low 0 e) (field (c.low 1 e) (2 * q + 1) (2 * q)))) s

/-- e4m3 without its upper limit and without NaN, as R70 rounds before the comparison with 448: 0x7F would be 480. -/
def fmtE4m3Open : Fmt := { prec := 4, emin := -9, width := 16, maxFin := 0x7FFF, inf := none, nan := 0x7FFF }

/-- The conversion of LGC.CVT8 (R70). -/
def cvt8 (x : Nat) : Nat :=
  match decodeF fmtF32 x with
  | .nan => 0x7F
  | .inf neg => 0x7F + bif neg then 128 else 0
  | .fin neg m e =>
    let mag := roundMag fmtE4m3Open rne false false m e false
    bif (0x7E).blt mag then 0x7F + bif neg then 128 else 0 else mag + bif neg then 128 else 0

/-- LGC.CVT8 (R70). -/
def execLgcCvt8 (_c1 _c0 : Cons) (s : State) : Outcome := fireSmithy (fun c e => dw (cvt8 (c.low 0 e).toNat)) s

/-- Whether a smithy can complete a request (R67): 32 cycles after it entered the queue, and 16 after the one before. -/
def smithyDue (s : State) (die : Nat) : Bool :=
  match Tab.atD s.smithy die [] with
  | [] => false
  | r :: _ => r.left == 0 && Tab.atD s.smithyRest die 0 == 0

/-- SMITHY_COMPLETE (R67): the oldest request of a die's queue emits its results. -/
def execSmithyComplete (die : Nat) (s : State) : Outcome :=
  match Tab.atD s.smithy die [] with
  | [] => .next s
  | r :: rest =>
    let s : State := { s with smithy := Tab.put s.smithy die rest [], smithyRest := Tab.set s.smithyRest die 16 }
    match ctxOf? s r.firing with
    | none => .next s
    | some c => .next (bif c.inst.first == r.first then complete s c 0 (r.out.map (·.1)) (both c.c1 c.c0 .r32 r.out) else s)

end Sys2Proof.Machine
end

