-- ==== Sys2Proof/Machine/Schedule.lean ====
section
/-!
DEFINITION. Sys2Proof/Machine/Schedule.lean: what the machine does next (notes/assumptions/4.md): the firings that a cell may issue
(R105, R106, R108), the occurrences of the device that may happen, and the fetch of the word at a firing.
-/
namespace Sys2Proof.Machine

/-! ### Firings (R105, R106, R108) -/

/-- The form at a slot of an instance that its cell may issue on a path now: it is ready, and its unit is free (R105, R170, R214). -/
def readyForm? (c : Cell) (lanes : Bool) (b : Block) (i : Inst) (slot : Nat) : Option Instr :=
  match (b.words[slot]?).map decode with
  | some (.ok f) =>
    bif onLanes f == lanes && !(usesSf f && c.sf != 0) && !(usesArray f && c.arrayBusy) &&
      (bif elementWise f then !(readyElems b i slot).isEmpty else !(readyWhole b i slot).isEmpty) then some f else none
  | _ => none

/-- The live instances of a cell, the oldest first: by the first tag of the run, then by BIDX. -/
def byAge (c : Cell) : List (Nat × Nat × Block × Inst) :=
  let all := c.blocks.flatMap (fun (bidx, b) => b.insts.map (fun (frame, i) => (bidx, frame, b, i)))
  let older := fun (x y : Nat × Nat × Block × Inst) => x.2.2.2.first.blt y.2.2.2.first || (x.2.2.2.first == y.2.2.2.first && x.1.blt y.1)
  let rec put (x : Nat × Nat × Block × Inst) : List (Nat × Nat × Block × Inst) → List (Nat × Nat × Block × Inst)
    | [] => [x]
    | y :: t => bif older x y then x :: y :: t else y :: put x t
  all.foldl (fun l x => put x l) []

/-- The firing that a cell issues next on a path: of its oldest instance, the lowest slot, those left out that have waited in this
cycle. -/
def pathFiring? (waited : List Firing) (key round cell : Nat) (c : Cell) (lanes : Bool) : Option (Firing × Instr) :=
  (byAge c).findSome? (fun (bidx, frame, b, i) => (List.range b.words.length).findSome? (fun slot =>
    let f : Firing := { plot := key, cell := cell, bidx := bidx, slot := slot, frame := frame, round := round }
    bif waited.contains f then none else (readyForm? c lanes b i slot).map (fun x => (f, x))))

/-- Whether a form writes a name. -/
def writesName : Instr → Bool
  | .stn .. | .stnT .. | .kill .. => true
  | _ => false

/-- The name-table entry of a form that accesses a name. -/
def nameIndex? : Instr → Option (BitVec 5)
  | .ldn _ n .. | .stn n .. | .ldnT _ n .. | .stnT n .. | .kill n .. => some n
  | _ => none

/-- Whether a form reads a name. -/
def readsName (i : Instr) : Bool := (nameIndex? i).isSome && !writesName i

/-- Whether a cell issues: its plot is live, or has trapped in this cycle at a later site, so that the freeze has not reached the cell
(R125). -/
def issues (p : Plot) (cell : Nat) : Bool :=
  p.live || (p.trapNow && p.running && p.stop == .none && siteBefore (tcellOf p cell 0 0) p.tcell)

/-- The firings that the paths of the cells issue next, of a sort: of a path that has not issued in this cycle. -/
def nextOnPaths (s : State) (sort : Instr → Bool) : List (Firing × Instr) :=
  s.plots.flatMap (fun (key, p) => p.cells.flatMap (fun (cell, c) => bif issues p cell then [true, false].filterMap (fun lanes =>
      bif s.served.contains (key, cell, lanes) then none
      else match pathFiring? s.stalled key p.round cell c lanes with
        | some (f, i) => bif sort i then some (f, i) else none
        | none => none) else []))

/-- The ordinal of the name that an element of a firing accesses; 0 where there is none. -/
def accessOrd (s : State) (f : Firing) (i : Instr) (e : Nat) : Nat :=
  match ctxOf? s f, nameIndex? i with
  | some c, some n => ((named? s c e n.toNat).map (·.ord)).getD 0
  | _, _ => 0

/-- Whether the word of a firing is a REC form. -/
def isRec (c : Ctx) : Bool := field c.word 31 24 / 4 == 0x30 && field c.word 31 24 != 0xC3

/-- An access of a name that can be made now: of an element of a firing, or of a firing that fires once; `again` where it waits at the name's
home. -/
structure Access where
  ord : Nat
  firing : Firing
  elem : Option Nat
  again : Bool
  deriving DecidableEq, Repr

/-- The accesses of a firing on some of its elements. -/
def accessesOn (s : State) (f : Firing) (i : Instr) (again : Bool) (es : List Nat) : List Access :=
  bif elementWise i then es.map (fun e => { ord := accessOrd s f i e, firing := f, elem := some e, again := again })
  else (es.head?.map (fun e => ({ ord := accessOrd s f i e, firing := f, elem := none, again := again } : Access))).toList

/-- The accesses of the firings that the paths issue next, of a sort. -/
def freshAccesses (s : State) (sort : Instr → Bool) : List Access :=
  (nextOnPaths s sort).flatMap (fun (f, i) => match ctxOf? s f with
    | none => []
    | some c => accessesOn s f i false (bif elementWise i then readyElems c.blk c.inst f.slot else readyWhole c.blk c.inst f.slot))

/-- The accesses that wait at their homes and are to be tried again, of a sort. -/
def heldAccesses (s : State) (sort : Instr → Bool) : List Access :=
  s.retry.flatMap (fun (f, m) => match ctxOf? s f with
    | none => []
    | some c => match decode c.word with
      | .ok i => bif sort i && issues c.plot f.cell then accessesOn s f i true ((heldElems c.inst f.slot).filter m.getLsbD) else []
      | .error _ => [])

/-- The next access of a name, of a sort: the one of the least ordinal, those that wait first (R141). -/
def nextAccess? (s : State) (sort : Instr → Bool) : Option Access :=
  (heldAccesses s sort ++ freshAccesses s sort).foldl (fun m x => match m with
    | none => some x
    | some y => bif x.ord.blt y.ord then some x else some y) none

/-- A firing on names issues: the elements that are ready are offered to their homes, where each is a firing of its own (R148). -/
def offerNames (s : State) (f : Firing) : State :=
  match ctxOf? s f with
  | none => s
  | some c =>
    let es := readyElems c.blk c.inst f.slot
    { onPlot s f.plot (fun p => markHeld p f es) with served := (f.plot, f.cell, false) :: s.served, retry := s.retry ++ [(f, maskOf es)] }

/-- The elements of a firing that are to be tried again without some of them. -/
def untry (s : State) (f : Firing) (m : Word) : State :=
  { s with retry := (s.retry.map (fun (g, x) => (g, bif g == f then x &&& ~~~m else x))).filter (fun x => x.2 != 0) }

/-- The state in which an access is made. -/
def Access.at_ (s : State) (a : Access) : State :=
  match a.elem with
  | none => { bif a.again then untry s a.firing (BitVec.allOnes 32) else s with again := a.again, among := BitVec.allOnes 32 }
  | some e => { untry (bif a.again then s else offerNames s a.firing) a.firing (maskOf [e]) with again := true, among := maskOf [e] }

/-- The next firing of the machine that accesses no name: of the firings of a cycle they come first, then the reads of names, then the
writes (R141, notes/assumptions/4.md). -/
def nextFiring? (s : State) : Option Firing := ((nextOnPaths s (fun i => (nameIndex? i).isNone)).head?).map (·.1)

/-! ### Occurrences of the device -/

/-- An occurrence where a condition holds. -/
def when1 (b : Bool) (i : Instr) : List Instr := bif b then [i] else []

/-- The tile firings of a plot that complete now: their reads and writes of names come after the reads of the cycle (R141). -/
def completions (key : Nat) (p : Plot) : List Instr :=
  p.cells.flatMap (fun (cell, c) => when1 (tileDue? c).isSome (.tileComplete key cell))

/-- What arrives in the cells of a plot at a time of its own, and may do so more than once in a cycle. -/
def arrivalsOf (key : Nat) (p : Plot) : List Instr :=
  (List.range p.tokens.length).flatMap (fun k => match p.tokens[k]? with
    | none => []
    | some t => when1 (canArrive p k && (!t.mark || p.wave.isSome)) (bif t.mark then .markerArrival key k else .tokenArrival key k) ++
        when1 ((t.hedge? p).isSome && t.meets p && !p.frozen && p.stop != .freeze) (.hedgeDrop key k)) ++
  (match p.eosQ.find? (fun t => t.left == 0) with
    | some t => when1 (!p.frozen) (.eosArrival key t.cell t.bidx t.slot t.port t.tag)
    | none => [])

/-- What a plot does by itself, once in a cycle. -/
def plotEvents (s : State) (key : Nat) (p : Plot) : List Instr :=
  let cells := fun (g : Nat → Nat → Block → List Instr) => p.cells.flatMap (fun (cell, c) => c.blocks.flatMap (fun (bidx, b) => g cell bidx b))
  cells (fun cell bidx _ => when1 (canGenerate p cell bidx) (.instanceGenerate key cell bidx)) ++
  cells (fun cell bidx b => bif !p.live then [] else (List.range b.words.length).flatMap (fun slot => match redAt? b slot with
    | none => []
    | some f =>
      let r := Tab.atD b.reds slot Red.zero
      when1 (canEmit b f slot r) (.reductionEmit key cell bidx slot) ++ when1 (canCombine b slot r) (.reductionCombine key cell bidx slot))) ++
  when1 (watchdogDue p) (.watchdogNoprog key) ++ when1 (roundOver p) (.roundEnd key) ++ when1 (choose? s key p).isSome (.dispatch key) ++
  when1 (freezeDone key p) (.freezeComplete key) ++ when1 (waveDone s key p) (.waveComplete key) ++ when1 (waveSpent s p) (.wavebudExpiry key)

/-- What may happen at a P-cell. -/
def portEvents (s : State) (port : Nat) (c : PCell) : List Instr :=
  when1 ((dieOf? port).isNone && (nextReq? s port).isSome) (.sliceRequest port) ++ when1 (!c.nacked.isEmpty) (.nackResend port) ++
  (c.lines.filter (fun (_, b) => Nat.ble 64 b.age)).map (fun (line, _) => .coalescerFlush port line) ++
  when1 (nextWalk? s port).isSome (.pageWalkComplete port) ++
  (c.ctxs.filter (fun (_, t) => t.canRun s)).map (fun (ctx, _) => .streamFetch port ctx) ++
  when1 (c.copies.any (fun j => (64 * j.done).blt j.len)) (.copyPerform port) ++
  when1 (c.copies.any (fun j => j.len.ble (64 * j.done) && j.mm != none)) (.copyMmDeliver port) ++
  when1 (!c.tokens.isEmpty) (.ownTokenArrival port)

/-- What may happen at an L2 slice, or at the way past L2. -/
def sliceEvents (n : Nat) (sl : Slice) : List Instr :=
  bif sl.queue.isEmpty then []
  else [.ldReply n, .writeAcknowledge n, .atomicPerform n]

/-- What may happen for a VI at the hub. -/
def viEvents (s : State) (v : Nat) (vi : Vi) : List Instr :=
  let queues := (List.range 16).map (fun i => (vi.nextq + i) % 16)
  (match queues.find? (fun q => queueTakes s v q && !(v == 0 && q == 15)) with
    | some q => [.jobRecordTake v q]
    | none => []) ++
  when1 ((nextTrap? vi).isSome && (vi.tvec.getLsbD 63 || ringBase vi.tring != 0)) (.trapRecordDelivery v) ++
  when1 (vi.tvec.getLsbD 63 && !vi.hfail && (match vi.traps with
    | t :: _ => t.written
    | [] => false)) (.handlerRound v) ++
  when1 vi.wayset.isSome (.waymaskDrainDone v) ++ when1 (ftimeoutDue s v) (.ftimeoutExpiry v) ++
  when1 ((field s.quantum 31 0).blt vi.fsdef.toNat) (.fairSharePreempt v)

/-- What may happen to a record in a pool. -/
def recEvents (s : State) (k : Nat) (r : Rec) : List Instr :=
  when1 (wantsPlot s k) (.plotConfigure k) ++ when1 (stageable s k r) (.stageDeclaration k) ++
  when1 (r.ready s && r.open_ && firstStaged s k r && stageSlot s (recDie k) (recVi k)) (.stagingRead k)

/-- Whether a microsecond has passed since a moment. -/
def microPassed (s : State) (since : Nat) : Bool := Config.cyclesPerUs.ble (s.time.toNat - since)

/-- The occurrences whose time the spec gives, those that may come once in a cycle. -/
def dueEvents (s : State) : List Instr :=
  when1 (Config.bellPeriod.ble (s.time.toNat - s.bellAt)) .bellMark ++ s.plots.flatMap (fun (k, p) => plotEvents s k p) ++
  s.nets.filterMap (fun (die, n) => (servedPort? s die n).map .sliceRequest) ++
  when1 (microPassed s s.usShare) .fairShareTick ++ when1 (microPassed s s.usToll) .tollTick

/-- The occurrences at units outside the C-cells, whose times the spec does not give. -/
def freeEvents (s : State) : List Instr :=
  s.plots.flatMap (fun (k, p) => when1 (p.rev.any (fun r => r.left == 0)) (.recordReversal k) ++ when1 (!p.arrivals.isEmpty) (.barrierArrival k) ++
    when1 (s.pcells.any (fun (_, c) => c.watches.any (fun w => w.plot == k && w.hit))) (.farHeaderReread k) ++
    when1 p.scrub (.configScrub k .uncorrectable)) ++
  s.pcells.flatMap (fun (k, c) => portEvents s k c) ++
  s.slices.flatMap (fun (n, sl) => sliceEvents n sl) ++
  s.smithy.flatMap (fun (die, _) => when1 (smithyDue s die) (.smithyComplete die)) ++
  when1 (s.sigs.any (fun x => !sigHeld s x)) .sigAtHub ++
  s.flights.map (fun (k, x) => match x.at_ with
    | .outcome _ _ => .gsendOutcome k
    | _ => .groupMessageSteer k) ++
  s.deltas.map (fun (k, _) => .readinessCountUpdate k) ++
  (s.groups.filter (fun (k, g) => !g.pound.isEmpty && !headAway s k)).map (fun (k, _) => .poundDrain k) ++
  s.vis.flatMap (fun (v, vi) => viEvents s v vi) ++ s.recs.flatMap (fun (k, r) => recEvents s k r) ++
  (s.jobs.filter (fun (_, j) => j.live == 0)).map (fun (k, _) => .jobComplete k) ++ when1 (reeveReady s) .reeveRound ++
  when1 (!s.ready && !s.booterr) .bringupReady

/-! ### The choice -/

/-- What a step does: a cycle passes; something happens; a firing issues. -/
inductive Choice where
  | cycle (s : State)
  | occur (i : Instr) (s : State)
  | fire (f : Firing) (s : State)
  deriving DecidableEq, Repr

/-- Whether an instruction is a form of the program, which has a word; the others are occurrences. -/
def isForm (i : Instr) : Bool := (encode i).isSome

/-- Whether a plot's cells issue. -/
def plotLive (s : State) (key : Nat) : Bool := ((Tab.at? s.plots key).map (·.live)).getD false

/-- Whether the page that a waiting access of the host needs is there. -/
def pageThere (s : State) (x : Nat × Nat × Option Dword) : Bool :=
  match hostWay s x.1 x.2.1 x.2.2.isSome with
  | .error none => false
  | _ => true

/-- A free occurrence that has not yet been in this cycle, or the end of the cycle: the choice is free, but what may happen is not put off
for ever (R109): after Config.patience cycles that ended before all of it had happened, a cycle ends only when it has. -/
def freeChoice (s : State) : Choice :=
  let l := (freeEvents s).filter (fun i => !s.recent.contains i)
  bif l.isEmpty then .cycle { s with owed := 0 }
  else
    let s1 := { s with ctr := s.ctr + 1 }
    match l[Config.pick s.ctr % (l.length + bif s.owed.blt Config.patience then 1 else 0)]? with
    | some i => .occur i { s1 with recent := i :: s.recent }
    | none => .cycle { s1 with owed := s.owed + 1 }

/-- What the machine does of its own accord: what arrives now; an occurrence that is due; a firing; what the outside waits for; a free
occurrence; else the cycle ends. -/
def ownChoice (s : State) : Choice :=
  match s.plots.findSome? (fun (k, p) => (arrivalsOf k p).head?) with
  | some i => .occur i s
  | none => match (dueEvents s).find? (fun i => !s.recent.contains i) with
    | some i => .occur i { s with recent := i :: s.recent }
    | none => match nextFiring? s with
      | some f => .fire f s
      | none => match nextAccess? s readsName with
      | some a => .fire a.firing (a.at_ s)
      | none => match (s.plots.flatMap (fun (k, p) => completions k p)).find? (fun i => !s.recent.contains i) with
      | some i => .occur i { s with recent := i :: s.recent }
      | none => match nextAccess? s writesName with
      | some a => .fire a.firing (a.at_ s)
      | none => match s.hostQ with
        | x :: rest =>
          if pageThere s x = true then .occur (.hostMemoryAccess x.1 (BitVec.ofNat 40 x.2.1) x.2.2) { s with hostQ := rest }
          else freeChoice s
        | [] => freeChoice s

/-- Whether a firing to be tried again is a REC that is to take effect (R248). -/
def recDue (s : State) (f : Firing) : Bool := (ctxOf? s f).any (fun c => isRec c && Tab.atD c.inst.held f.slot 0 != 0)

/-- Whether an occurrence is an access of the host to memory or to a doorbell page, which the host link orders (R321). -/
def hostOrdered : Instr → Bool
  | .hostMemoryAccess .. | .jqtail .. | .jccons .. | .jqfence .. | .frcons .. | .stresume .. | .gercons .. => true
  | _ => false

/-- Whether an entry of the agenda has to wait: one that the host link orders behind an access of the host that waits (R321); a migration, for
what is on its way to its pages (R272). -/
def outsideWaits (s : State) (i : Instr) : Bool :=
  (hostOrdered i && !s.hostQ.isEmpty) || (match i with
    | .migrationComplete port _ evict => migrationWaits s port evict
    | _ => false)

/-- The first entry of the agenda that does not have to wait, and the others. -/
def nextOutside? (s : State) : List Instr → Option (Instr × List Instr)
  | [] => none
  | i :: t => bif outsideWaits s i then (nextOutside? s t).map (fun (j, l) => (j, i :: l)) else some (i, t)

/-- What a step does. A firing named in `issue` comes first, then a REC that is to take effect; then the next entry of the agenda that does not
have to wait: an occurrence, or, for a form, whatever the machine does of its own accord. Without power only a reset by PERST happens. -/
def choose (s : State) : Choice :=
  if s.power = false then
    match s.agenda with
    | .perst :: rest => .occur .perst { s with agenda := rest }
    | _ :: rest => .cycle { s with agenda := rest }
    | [] => .cycle s
  else match s.issue with
    | some f => if plotLive s f.plot = true then .fire f { s with issue := none } else .cycle { s with issue := none }
    | none => match s.retry.find? (fun x => recDue s x.1) with
    | some x => .fire x.1 { untry s x.1 (BitVec.allOnes 32) with again := true }
    | none => match nextOutside? s s.agenda with
      | some (i, rest) => if isForm i = true then ownChoice { s with agenda := rest } else .occur i { s with agenda := rest }
      | none => ownChoice s

/-! ### A plot that holds one word (notes/assumptions/2.md) -/

/-- A block of rank 0 that holds one word in slot 0, its instance live with element 0 of every port the form reads at 0. -/
def fetchBlock (w : Word) : Block :=
  let reads := readable w
  let ops := (portsOf reads).map (fun q => (portKey 0 q, ({ kind := .r32, elems := [(0, .val 0)] } : Operand)))
  { gblk := 0, frames := 1, base := 0, seq := false, dom := [], exits := 0, step := Config.stepping, feat := 0xFF, words := [w], k := [],
    names := [], reads := [(0, reads)], flags := [], bounds := [], next := 1,
    insts := [(0, { run := 0, first := 0, len := 1, ops := ops, done := [], issued := [], held := [], stalled := [], nulls := [] })],
    early := [], eos := [], eosSent := [], pendK := [], succ := none, mism := [], reds := [] }

/-- A plot of VI 0 at the origin of die 0, running, whose cell (0, 0) holds that block. -/
def fetchPlot (w : Word) : Plot :=
  { Plot.empty 0 0 0 4 4 0 0 .graph [] with running := true, cells := [(0, { Cell.empty with blocks := [(0, fetchBlock w)] })] }

/-! ### Around an instruction -/

/-- The word at a firing. -/
def fetch? (s : State) (f : Firing) : Option Word := ((Tab.at? s.plots f.plot).bind (fun p => blockAt? p f.cell f.bidx)).bind (fun b => b.words[f.slot]?)

/-- The firings of a plot that wait at a home, with their elements. -/
def heldFirings (key : Nat) (p : Plot) : List (Firing × Word) :=
  p.cells.flatMap (fun (cell, c) => c.blocks.flatMap (fun (bidx, b) => b.insts.flatMap (fun (frame, i) =>
    (i.held.filter (fun (slot, m) => m != 0 && !recWaits p cell bidx frame slot)).map (fun (slot, m) =>
      (({ plot := key, cell := cell, bidx := bidx, slot := slot, frame := frame, round := p.round } : Firing), m)))))

/-- The firings of a plot that wait for a name tried again. -/
def retryHeld (s : State) (key : Nat) (p : Plot) : State :=
  let held := heldFirings key p
  let others := fun (l : List (Firing × Word)) => l.filter (fun x => !held.any (fun y => y.1 == x.1))
  { s with retry := others s.retry ++ held, parked := others s.parked, stalled := s.stalled.filter (fun f => f.plot != key) }

/-- FAR_HEADER_REREAD (R156): a P-cell reads again a header line to which the line's slice has reported a write, so that the plot's waiting
firings are tried again. -/
def execFarHeaderReread (plot : Nat) (s : State) : Outcome :=
  let due := fun (w : Watch) => w.plot == plot && w.hit
  match Tab.at? s.plots plot with
  | none => .next s
  | some p =>
    if s.pcells.any (fun (_, c) => c.watches.any due) then
      .next (retryHeld { s with pcells := s.pcells.map (fun (k, c) => (k, { c with watches := c.watches.filter (fun w => !due w) })) } plot p)
    else .next s

/-- The folds of a plot as their homes see them: records and headers. -/
def homes (p : Plot) : Tab Fold := p.folds.map (fun (k, f) => (k, { f with pstall := 0 }))

/-- After a change of the folds of a plot or of their headers, the firings that wait for a name are tried again (R147, R160, R216). -/
def wake (old s : State) : State :=
  s.plots.foldl (fun s (key, p) => match Tab.at? old.plots key with
    | none => s
    | some q => bif homes p == homes q then s else retryHeld s key p) s

/-- The firings to be tried again without those that no longer wait at a home. -/
def pruneRetry (s : State) : State :=
  { s with retry := s.retry.filter (fun (f, m) => (ctxOf? s f).any (fun c => Tab.atD c.inst.held f.slot 0 &&& m != 0)) }

/-- The next cycle begins; without power nothing passes. -/
def cycle (s : State) : State :=
  if s.power = true then wake s (settle (pruneRetry (finishResets (tick s)))) else s

/-- What follows an instruction in the cycle: what settles at once, and what is tried again. -/
def after (old s : State) : State := wake old (settle s)

/-- An access that could not be made is tried again in the next cycle: of a REC, when it is to take effect again. -/
def tryLater (f : Firing) (s : State) : State :=
  match ctxOf? s f with
  | some c => bif isRec c then onPlot s f.plot (fun p => { p with recQ := p.recQ ++ [(1, f)] }) else { s with parked := s.parked ++ [(f, s.among)] }
  | none => s

/-- The elements of a slot that have fired or are issued. -/
def firedOn (s : State) (f : Firing) : Option (Word × Word) :=
  (ctxOf? s f).map (fun c => (Tab.atD c.inst.done f.slot 0, Tab.atD c.inst.issued f.slot 0))

/-- A firing that has taken effect, on one element at least, noted for the watchdog of its plot (R130). -/
def noteFired (old s : State) (f : Firing) : State :=
  bif firedOn old f == firedOn s f then s else onPlot s f.plot (fun p => { p with fired := true })

/-- The place of a firing among those that have issued and wait: kept while it waits, and then given up (R285). -/
def keepPlace (f : Firing) (s : State) : State :=
  match ctxOf? s f with
  | none => s
  | some c =>
    bif !c.keepsPlace then s
    else bif Waiting.stays s { firing := f, run := c.inst.run, note := 0 } then noteWait s f c.inst.run 0
    else { s with waiting := s.waiting.filter (fun w => !(w.firing == f && w.run == c.inst.run)) }

/-- What follows a firing: its path has issued in this cycle, unless the firing waits, or was tried again. -/
def afterFiring (old : State) (f : Firing) (lanes : Bool) (s : State) : State :=
  let waits := old.stalled.length.blt s.stalled.length
  let s := keepPlace f (noteFired old s f)
  let s := bif s.again then bif waits then tryLater f s else s
    else bif waits then s else { s with served := (f.plot, f.cell, lanes) :: s.served }
  after old { s with again := false, among := BitVec.allOnes 32 }

end Sys2Proof.Machine
end

