-- ==== Sys2Proof/Machine/Dispatch.lean ====
section
/-!
DEFINITION. Sys2Proof/Machine/Dispatch.lean: one arm per instruction, each one direct call of its meaning.
-/
namespace Sys2Proof.Machine

def exec (i : Instr) (s : State) : Host.Outcome State Fault Refusal :=
  match i with
  | .nop => Sys2Proof.Machine.execNop s
  | .mov c1 c0 => Sys2Proof.Machine.execMov c1 c0 s
  | .imm val c1 c0 => Sys2Proof.Machine.execImm val c1 c0 s
  | .kread wide n c1 c0 => Sys2Proof.Machine.execKread wide n c1 c0 s
  | .setk wide n => Sys2Proof.Machine.execSetk wide n s
  | .tag dim c1 c0 => Sys2Proof.Machine.execTag dim c1 c0 s
  | .out route bidx c0 => Sys2Proof.Machine.execOut route bidx c0 s
  | .steerT c1 c0 => Sys2Proof.Machine.execSteerT c1 c0 s
  | .steerF c1 c0 => Sys2Proof.Machine.execSteerF c1 c0 s
  | .sel c1 c0 => Sys2Proof.Machine.execSel c1 c0 s
  | .merge c1 c0 => Sys2Proof.Machine.execMerge c1 c0 s
  | .eos c1 c0 => Sys2Proof.Machine.execEos c1 c0 s
  | .iseos c1 c0 => Sys2Proof.Machine.execIseos c1 c0 s
  | .exit code => Sys2Proof.Machine.execExit code s
  | .next code => Sys2Proof.Machine.execNext code s
  | .bar n c1 c0 => Sys2Proof.Machine.execBar n c1 c0 s
  | .barw n c1 c0 => Sys2Proof.Machine.execBarw n c1 c0 s
  | .sig n => Sys2Proof.Machine.execSig n s
  | .pmask c1 c0 => Sys2Proof.Machine.execPmask c1 c0 s
  | .fold n => Sys2Proof.Machine.execFold n s
  | .ldn keep nidx c1 c0 => Sys2Proof.Machine.execLdn keep nidx c1 c0 s
  | .stn nidx => Sys2Proof.Machine.execStn nidx s
  | .ldnT keep nidx c1 c0 => Sys2Proof.Machine.execLdnT keep nidx c1 c0 s
  | .stnT nidx c1 c0 => Sys2Proof.Machine.execStnT nidx c1 c0 s
  | .probe which n c1 c0 => Sys2Proof.Machine.execProbe which n c1 c0 s
  | .kill nidx => Sys2Proof.Machine.execKill nidx s
  | .refold n => Sys2Proof.Machine.execRefold n s
  | .foldq n c1 c0 => Sys2Proof.Machine.execFoldq n c1 c0 s
  | .add bsrc ty c1 c0 => Sys2Proof.Machine.execAdd bsrc ty c1 c0 s
  | .sub bsrc ty c1 c0 => Sys2Proof.Machine.execSub bsrc ty c1 c0 s
  | .mul bsrc ty c1 c0 => Sys2Proof.Machine.execMul bsrc ty c1 c0 s
  | .mulh bsrc ty c1 c0 => Sys2Proof.Machine.execMulh bsrc ty c1 c0 s
  | .mad bsrc ty c1 c0 => Sys2Proof.Machine.execMad bsrc ty c1 c0 s
  | .div bsrc ty c1 c0 => Sys2Proof.Machine.execDiv bsrc ty c1 c0 s
  | .rem bsrc ty c1 c0 => Sys2Proof.Machine.execRem bsrc ty c1 c0 s
  | .and bsrc ty c1 c0 => Sys2Proof.Machine.execAnd bsrc ty c1 c0 s
  | .or bsrc ty c1 c0 => Sys2Proof.Machine.execOr bsrc ty c1 c0 s
  | .xor bsrc ty c1 c0 => Sys2Proof.Machine.execXor bsrc ty c1 c0 s
  | .andn bsrc ty c1 c0 => Sys2Proof.Machine.execAndn bsrc ty c1 c0 s
  | .shl bsrc ty c1 c0 => Sys2Proof.Machine.execShl bsrc ty c1 c0 s
  | .shr bsrc ty c1 c0 => Sys2Proof.Machine.execShr bsrc ty c1 c0 s
  | .sar bsrc ty c1 c0 => Sys2Proof.Machine.execSar bsrc ty c1 c0 s
  | .rot bsrc ty c1 c0 => Sys2Proof.Machine.execRot bsrc ty c1 c0 s
  | .min bsrc ty c1 c0 => Sys2Proof.Machine.execMin bsrc ty c1 c0 s
  | .max bsrc ty c1 c0 => Sys2Proof.Machine.execMax bsrc ty c1 c0 s
  | .abs ty c1 c0 => Sys2Proof.Machine.execAbs ty c1 c0 s
  | .neg ty c1 c0 => Sys2Proof.Machine.execNeg ty c1 c0 s
  | .clz ty c1 c0 => Sys2Proof.Machine.execClz ty c1 c0 s
  | .popc ty c1 c0 => Sys2Proof.Machine.execPopc ty c1 c0 s
  | .brev ty c1 c0 => Sys2Proof.Machine.execBrev ty c1 c0 s
  | .ext bsrc ty c1 c0 => Sys2Proof.Machine.execExt bsrc ty c1 c0 s
  | .ins bsrc ty c1 c0 => Sys2Proof.Machine.execIns bsrc ty c1 c0 s
  | .addsat bsrc ty c1 c0 => Sys2Proof.Machine.execAddsat bsrc ty c1 c0 s
  | .subsat bsrc ty c1 c0 => Sys2Proof.Machine.execSubsat bsrc ty c1 c0 s
  | .cmp cond ty c1 c0 => Sys2Proof.Machine.execCmp cond ty c1 c0 s
  | .sext wid ty c1 c0 => Sys2Proof.Machine.execSext wid ty c1 c0 s
  | .zext wid ty c1 c0 => Sys2Proof.Machine.execZext wid ty c1 c0 s
  | .addr bsrc scale c1 c0 => Sys2Proof.Machine.execAddr bsrc scale c1 c0 s
  | .addc bsrc ty c1 c0 => Sys2Proof.Machine.execAddc bsrc ty c1 c0 s
  | .fadd rm ty c1 c0 => Sys2Proof.Machine.execFadd rm ty c1 c0 s
  | .fsub rm ty c1 c0 => Sys2Proof.Machine.execFsub rm ty c1 c0 s
  | .fmul rm ty c1 c0 => Sys2Proof.Machine.execFmul rm ty c1 c0 s
  | .fma rm ty c1 c0 => Sys2Proof.Machine.execFma rm ty c1 c0 s
  | .fmin nanp ty c1 c0 => Sys2Proof.Machine.execFmin nanp ty c1 c0 s
  | .fmax nanp ty c1 c0 => Sys2Proof.Machine.execFmax nanp ty c1 c0 s
  | .fabs ty c1 c0 => Sys2Proof.Machine.execFabs ty c1 c0 s
  | .fneg ty c1 c0 => Sys2Proof.Machine.execFneg ty c1 c0 s
  | .fcmp cond ty c1 c0 => Sys2Proof.Machine.execFcmp cond ty c1 c0 s
  | .fclass ty c1 c0 => Sys2Proof.Machine.execFclass ty c1 c0 s
  | .frnd rm ty c1 c0 => Sys2Proof.Machine.execFrnd rm ty c1 c0 s
  | .exp2 rm ty c1 c0 => Sys2Proof.Machine.execExp2 rm ty c1 c0 s
  | .log2 rm ty c1 c0 => Sys2Proof.Machine.execLog2 rm ty c1 c0 s
  | .rcp rm ty c1 c0 => Sys2Proof.Machine.execRcp rm ty c1 c0 s
  | .rsqrt rm ty c1 c0 => Sys2Proof.Machine.execRsqrt rm ty c1 c0 s
  | .sqrt rm ty c1 c0 => Sys2Proof.Machine.execSqrt rm ty c1 c0 s
  | .sin rm ty c1 c0 => Sys2Proof.Machine.execSin rm ty c1 c0 s
  | .cos rm ty c1 c0 => Sys2Proof.Machine.execCos rm ty c1 c0 s
  | .tanh rm ty c1 c0 => Sys2Proof.Machine.execTanh rm ty c1 c0 s
  | .sigm rm ty c1 c0 => Sys2Proof.Machine.execSigm rm ty c1 c0 s
  | .cvt rm cv c1 c0 => Sys2Proof.Machine.execCvt rm cv c1 c0 s
  | .qnt rm ty c1 c0 => Sys2Proof.Machine.execQnt rm ty c1 c0 s
  | .dqnt ty c1 c0 => Sys2Proof.Machine.execDqnt ty c1 c0 s
  | .redAdd row satq ty c1 c0 => Sys2Proof.Machine.execRedAdd row satq ty c1 c0 s
  | .redMax row satq ty c1 c0 => Sys2Proof.Machine.execRedMax row satq ty c1 c0 s
  | .redMin row satq ty c1 c0 => Sys2Proof.Machine.execRedMin row satq ty c1 c0 s
  | .scanAdd row satq ty c1 c0 => Sys2Proof.Machine.execScanAdd row satq ty c1 c0 s
  | .perm idx w64 c1 c0 => Sys2Proof.Machine.execPerm idx w64 c1 c0 s
  | .lrot idx w64 c1 c0 => Sys2Proof.Machine.execLrot idx w64 c1 c0 s
  | .bcast idx w64 c1 c0 => Sys2Proof.Machine.execBcast idx w64 c1 c0 s
  | .compress idx w64 c1 c0 => Sys2Proof.Machine.execCompress idx w64 c1 c0 s
  | .expand idx w64 c1 c0 => Sys2Proof.Machine.execExpand idx w64 c1 c0 s
  | .rand ty c1 c0 => Sys2Proof.Machine.execRand ty c1 c0 s
  | .rcpa ty c1 c0 => Sys2Proof.Machine.execRcpa ty c1 c0 s
  | .tmma sa sb ks c1 c0 => Sys2Proof.Machine.execTmma sa sb ks c1 c0 s
  | .tmmaT sa sb ks c1 c0 => Sys2Proof.Machine.execTmmaT sa sb ks c1 c0 s
  | .ttrans sa ks c1 c0 => Sys2Proof.Machine.execTtrans sa ks c1 c0 s
  | .tadd sa sb ks c1 c0 => Sys2Proof.Machine.execTadd sa sb ks c1 c0 s
  | .tsub sa sb ks c1 c0 => Sys2Proof.Machine.execTsub sa sb ks c1 c0 s
  | .tmul sa sb ks c1 c0 => Sys2Proof.Machine.execTmul sa sb ks c1 c0 s
  | .tscaleR sa sb ks c1 c0 => Sys2Proof.Machine.execTscaleR sa sb ks c1 c0 s
  | .tscaleC sa sb ks c1 c0 => Sys2Proof.Machine.execTscaleC sa sb ks c1 c0 s
  | .tmaxz sa ks c1 c0 => Sys2Proof.Machine.execTmaxz sa ks c1 c0 s
  | .texp2 sa ks c1 c0 => Sys2Proof.Machine.execTexp2 sa ks c1 c0 s
  | .trsum sa ks c1 c0 => Sys2Proof.Machine.execTrsum sa ks c1 c0 s
  | .tcsum sa ks c1 c0 => Sys2Proof.Machine.execTcsum sa ks c1 c0 s
  | .trmax sa ks c1 c0 => Sys2Proof.Machine.execTrmax sa ks c1 c0 s
  | .tcvt sa ks c1 c0 => Sys2Proof.Machine.execTcvt sa ks c1 c0 s
  | .tqnt sa sb ks c1 c0 => Sys2Proof.Machine.execTqnt sa sb ks c1 c0 s
  | .tzero ks c1 c0 => Sys2Proof.Machine.execTzero ks c1 c0 s
  | .tcopy sa ks c1 c0 => Sys2Proof.Machine.execTcopy sa ks c1 c0 s
  | .tmmaSp sa sb ks c1 c0 => Sys2Proof.Machine.execTmmaSp sa sb ks c1 c0 s
  | .recordOn fresh log c1 c0 => Sys2Proof.Machine.execRecordOn fresh log c1 c0 s
  | .recordOff c1 c0 => Sys2Proof.Machine.execRecordOff c1 c0 s
  | .recordMark c1 c0 => Sys2Proof.Machine.execRecordMark c1 c0 s
  | .reverse c1 c0 => Sys2Proof.Machine.execReverse c1 c0 s
  | .adjseed ks => Sys2Proof.Machine.execAdjseed ks s
  | .logq which c1 c0 => Sys2Proof.Machine.execLogq which c1 c0 s
  | .logext c1 c0 => Sys2Proof.Machine.execLogext c1 c0 s
  | .agOpen n c1 c0 => Sys2Proof.Machine.execAgOpen n c1 c0 s
  | .agClose c1 c0 => Sys2Proof.Machine.execAgClose c1 c0 s
  | .srd c1 c0 => Sys2Proof.Machine.execSrd c1 c0 s
  | .swr => Sys2Proof.Machine.execSwr s
  | .ld ty c1 c0 => Sys2Proof.Machine.execLd ty c1 c0 s
  | .st ty => Sys2Proof.Machine.execSt ty s
  | .pref => Sys2Proof.Machine.execPref s
  | .copy dir n c1 c0 => Sys2Proof.Machine.execCopy dir n c1 c0 s
  | .copyMm n c0 => Sys2Proof.Machine.execCopyMm n c0 s
  | .atomAdd ty c1 c0 => Sys2Proof.Machine.execAtomAdd ty c1 c0 s
  | .atomFadd ty c1 c0 => Sys2Proof.Machine.execAtomFadd ty c1 c0 s
  | .atomMin ty c1 c0 => Sys2Proof.Machine.execAtomMin ty c1 c0 s
  | .atomMax ty c1 c0 => Sys2Proof.Machine.execAtomMax ty c1 c0 s
  | .atomBit bop ty c1 c0 => Sys2Proof.Machine.execAtomBit bop ty c1 c0 s
  | .atomSwap ty c1 c0 => Sys2Proof.Machine.execAtomSwap ty c1 c0 s
  | .atomCas ty c1 c0 => Sys2Proof.Machine.execAtomCas ty c1 c0 s
  | .fenceAcq scope c1 c0 => Sys2Proof.Machine.execFenceAcq scope c1 c0 s
  | .fenceRel scope c1 c0 => Sys2Proof.Machine.execFenceRel scope c1 c0 s
  | .fenceAr scope c1 c0 => Sys2Proof.Machine.execFenceAr scope c1 c0 s
  | .qfence n c1 c0 => Sys2Proof.Machine.execQfence n c1 c0 s
  | .drain mem c1 c0 => Sys2Proof.Machine.execDrain mem c1 c0 s
  | .waitq scope c1 c0 => Sys2Proof.Machine.execWaitq scope c1 c0 s
  | .own n c1 c0 => Sys2Proof.Machine.execOwn n c1 c0 s
  | .mPush c1 c0 => Sys2Proof.Machine.execMPush c1 c0 s
  | .mAccept c1 c0 => Sys2Proof.Machine.execMAccept c1 c0 s
  | .sliceof c1 c0 => Sys2Proof.Machine.execSliceof c1 c0 s
  | .tlbinv all ks c1 c0 => Sys2Proof.Machine.execTlbinv all ks c1 c0 s
  | .gmake n c1 c0 => Sys2Proof.Machine.execGmake n c1 c0 s
  | .gfree hk n c1 c0 => Sys2Proof.Machine.execGfree hk n c1 c0 s
  | .gjoin hk n c1 c0 => Sys2Proof.Machine.execGjoin hk n c1 c0 s
  | .gleave hk n c1 c0 => Sys2Proof.Machine.execGleave hk n c1 c0 s
  | .ready hk n c1 c0 => Sys2Proof.Machine.execReady hk n c1 c0 s
  | .unready hk n c1 c0 => Sys2Proof.Machine.execUnready hk n c1 c0 s
  | .gsend try1 hk n c1 c0 => Sys2Proof.Machine.execGsend try1 hk n c1 c0 s
  | .gtake c1 c0 => Sys2Proof.Machine.execGtake c1 c0 s
  | .gcountSnapclr n c1 c0 => Sys2Proof.Machine.execGcountSnapclr n c1 c0 s
  | .gpound hk n c1 c0 => Sys2Proof.Machine.execGpound hk n c1 c0 s
  | .spawn pb n c1 c0 => Sys2Proof.Machine.execSpawn pb n c1 c0 s
  | .spawnr pb n c1 c0 => Sys2Proof.Machine.execSpawnr pb n c1 c0 s
  | .join inh n c1 c0 => Sys2Proof.Machine.execJoin inh n c1 c0 s
  | .wsdecl n c1 c0 => Sys2Proof.Machine.execWsdecl n c1 c0 s
  | .yield c1 c0 => Sys2Proof.Machine.execYield c1 c0 s
  | .cancel c1 c0 => Sys2Proof.Machine.execCancel c1 c0 s
  | .jobdone => Sys2Proof.Machine.execJobdone s
  | .taskq which c1 c0 => Sys2Proof.Machine.execTaskq which c1 c0 s
  | .trap code => Sys2Proof.Machine.execTrap code s
  | .trapret c1 c0 => Sys2Proof.Machine.execTrapret c1 c0 s
  | .sysrd c1 c0 => Sys2Proof.Machine.execSysrd c1 c0 s
  | .syswr c1 c0 => Sys2Proof.Machine.execSyswr c1 c0 s
  | .tollrd c1 c0 => Sys2Proof.Machine.execTollrd c1 c0 s
  | .tollsig n c1 c0 => Sys2Proof.Machine.execTollsig n c1 c0 s
  | .syncCode c1 c0 => Sys2Proof.Machine.execSyncCode c1 c0 s
  | .halt => Sys2Proof.Machine.execHalt s
  | .freeze c1 c0 => Sys2Proof.Machine.execFreeze c1 c0 s
  | .thaw c1 c0 => Sys2Proof.Machine.execThaw c1 c0 s
  | .markwave c1 c0 => Sys2Proof.Machine.execMarkwave c1 c0 s
  | .imgsave n c1 c0 => Sys2Proof.Machine.execImgsave n c1 c0 s
  | .imgload n c1 c0 => Sys2Proof.Machine.execImgload n c1 c0 s
  | .virq vec => Sys2Proof.Machine.execVirq vec s
  | .timer c1 c0 => Sys2Proof.Machine.execTimer c1 c0 s
  | .jnlQ c1 c0 => Sys2Proof.Machine.execJnlQ c1 c0 s
  | .jnlNote c1 c0 => Sys2Proof.Machine.execJnlNote c1 c0 s
  | .partQuiesce c1 c0 => Sys2Proof.Machine.execPartQuiesce c1 c0 s
  | .partWb c1 c0 => Sys2Proof.Machine.execPartWb c1 c0 s
  | .partInv c1 c0 => Sys2Proof.Machine.execPartInv c1 c0 s
  | .partSethash c1 c0 => Sys2Proof.Machine.execPartSethash c1 c0 s
  | .partResume c1 c0 => Sys2Proof.Machine.execPartResume c1 c0 s
  | .waymaskSet c1 c0 => Sys2Proof.Machine.execWaymaskSet c1 c0 s
  | .wquotaSet c1 c0 => Sys2Proof.Machine.execWquotaSet c1 c0 s
  | .lgcDp4 c1 c0 => Sys2Proof.Machine.execLgcDp4 c1 c0 s
  | .lgcSad c1 c0 => Sys2Proof.Machine.execLgcSad c1 c0 s
  | .lgcAvg c1 c0 => Sys2Proof.Machine.execLgcAvg c1 c0 s
  | .lgcClamp c1 c0 => Sys2Proof.Machine.execLgcClamp c1 c0 s
  | .lgcSwz c1 c0 => Sys2Proof.Machine.execLgcSwz c1 c0 s
  | .lgcCvt8 c1 c0 => Sys2Proof.Machine.execLgcCvt8 c1 c0 s
  | .smithyComplete die => Sys2Proof.Machine.execSmithyComplete die s
  | .plotConfigure recId => Sys2Proof.Machine.execPlotConfigure recId s
  | .dispatch plot => Sys2Proof.Machine.execDispatch plot s
  | .instanceGenerate plot cell bidx => Sys2Proof.Machine.execInstanceGenerate plot cell bidx s
  | .roundEnd plot => Sys2Proof.Machine.execRoundEnd plot s
  | .tokenArrival plot k => Sys2Proof.Machine.execTokenArrival plot k s
  | .eosArrival plot cell bidx slot port tag => Sys2Proof.Machine.execEosArrival plot cell bidx slot port tag s
  | .markerArrival plot k => Sys2Proof.Machine.execMarkerArrival plot k s
  | .hedgeDrop plot k => Sys2Proof.Machine.execHedgeDrop plot k s
  | .trapRecordDelivery vi => Sys2Proof.Machine.execTrapRecordDelivery vi s
  | .handlerRound vi => Sys2Proof.Machine.execHandlerRound vi s
  | .watchdogNoprog plot => Sys2Proof.Machine.execWatchdogNoprog plot s
  | .reductionCombine plot cell bidx slot => Sys2Proof.Machine.execReductionCombine plot cell bidx slot s
  | .reductionEmit plot cell bidx slot => Sys2Proof.Machine.execReductionEmit plot cell bidx slot s
  | .farHeaderReread plot => Sys2Proof.Machine.execFarHeaderReread plot s
  | .tileComplete plot cell => Sys2Proof.Machine.execTileComplete plot cell s
  | .recordReversal plot => Sys2Proof.Machine.execRecordReversal plot s
  | .sliceRequest port => Sys2Proof.Machine.execSliceRequest port s
  | .nackResend port => Sys2Proof.Machine.execNackResend port s
  | .ldReply slice => Sys2Proof.Machine.execLdReply slice s
  | .atomicPerform slice => Sys2Proof.Machine.execAtomicPerform slice s
  | .writeAcknowledge slice => Sys2Proof.Machine.execWriteAcknowledge slice s
  | .coalescerFlush port line => Sys2Proof.Machine.execCoalescerFlush port line s
  | .pageWalkComplete port => Sys2Proof.Machine.execPageWalkComplete port s
  | .migrationComplete port frame evict => Sys2Proof.Machine.execMigrationComplete port frame evict s
  | .ftimeoutExpiry vi => Sys2Proof.Machine.execFtimeoutExpiry vi s
  | .streamFetch port ctx => Sys2Proof.Machine.execStreamFetch port ctx s
  | .copyPerform port => Sys2Proof.Machine.execCopyPerform port s
  | .copyMmDeliver port => Sys2Proof.Machine.execCopyMmDeliver port s
  | .ownTokenArrival port => Sys2Proof.Machine.execOwnTokenArrival port s
  | .waymaskDrainDone vi => Sys2Proof.Machine.execWaymaskDrainDone vi s
  | .barrierArrival plot => Sys2Proof.Machine.execBarrierArrival plot s
  | .groupMessageSteer k => Sys2Proof.Machine.execGroupMessageSteer k s
  | .gsendOutcome k => Sys2Proof.Machine.execGsendOutcome k s
  | .readinessCountUpdate k => Sys2Proof.Machine.execReadinessCountUpdate k s
  | .poundDrain handle => Sys2Proof.Machine.execPoundDrain handle s
  | .jobRecordTake vi queue => Sys2Proof.Machine.execJobRecordTake vi queue s
  | .jobComplete job => Sys2Proof.Machine.execJobComplete job s
  | .stageDeclaration recId => Sys2Proof.Machine.execStageDeclaration recId s
  | .stagingRead recId => Sys2Proof.Machine.execStagingRead recId s
  | .fairSharePreempt vi => Sys2Proof.Machine.execFairSharePreempt vi s
  | .waveComplete plot => Sys2Proof.Machine.execWaveComplete plot s
  | .wavebudExpiry plot => Sys2Proof.Machine.execWavebudExpiry plot s
  | .freezeComplete plot => Sys2Proof.Machine.execFreezeComplete plot s
  | .jqtail vi queue v => Sys2Proof.Machine.execJqtail vi queue v s
  | .jccons vi queue v => Sys2Proof.Machine.execJccons vi queue v s
  | .jqfence vi v => Sys2Proof.Machine.execJqfence vi v s
  | .frcons vi v => Sys2Proof.Machine.execFrcons vi v s
  | .stresume vi v => Sys2Proof.Machine.execStresume vi v s
  | .hostMemoryAccess vi off wr => Sys2Proof.Machine.execHostMemoryAccess vi off wr s
  | .configScrub plot found => Sys2Proof.Machine.execConfigScrub plot found s
  | .uncorrectableError site => Sys2Proof.Machine.execUncorrectableError site s
  | .gercons vi v => Sys2Proof.Machine.execGercons vi v s
  | .trcons vi v => Sys2Proof.Machine.execTrcons vi v s
  | .hrcons vi v => Sys2Proof.Machine.execHrcons vi v s
  | .ringBaseWrite vi ring index v => Sys2Proof.Machine.execRingBaseWrite vi ring index v s
  | .traprsp vi v => Sys2Proof.Machine.execTraprsp vi v s
  | .imask vi v => Sys2Proof.Machine.execImask vi v s
  | .vireset vi v => Sys2Proof.Machine.execVireset vi v s
  | .registerWrite fn off v => Sys2Proof.Machine.execRegisterWrite fn off v s
  | .functionLevelReset vi => Sys2Proof.Machine.execFunctionLevelReset vi s
  | .rst v => Sys2Proof.Machine.execRst v s
  | .msiXEntryUnmask fn vec => Sys2Proof.Machine.execMsiXEntryUnmask fn vec s
  | .bellMark => Sys2Proof.Machine.execBellMark s
  | .sigAtHub => Sys2Proof.Machine.execSigAtHub s
  | .fairShareTick => Sys2Proof.Machine.execFairShareTick s
  | .tollTick => Sys2Proof.Machine.execTollTick s
  | .perst => Sys2Proof.Machine.execPerst s
  | .bringupReady => Sys2Proof.Machine.execBringupReady s
  | .reeveRound => Sys2Proof.Machine.execReeveRound s
  | .thermalThrottle => Sys2Proof.Machine.execThermalThrottle s
  | .thermalRestore => Sys2Proof.Machine.execThermalRestore s
  | .thermalShutdown => Sys2Proof.Machine.execThermalShutdown s

end Sys2Proof.Machine
end

