-- ==== Sys2Proof/Machine/Step.lean ====
section
/-!
DEFINITION. Sys2Proof/Machine/Step.lean: one step of the machine, and the state that runs a given word next.
-/
namespace Sys2Proof.Machine

/-- An outcome whose next state is changed. -/
def Outcome.map (o : Outcome) (g : State → State) : Outcome :=
  match o with
  | .next s => .next (g s)
  | .fault r => .fault r
  | .refused r => .refused r

/-- A firing: the word of its slot is fetched and decoded, and the instruction runs. -/
def fire (old : State) (f : Firing) (s : State) : Outcome :=
  match fetch? s f with
  | none => .fault .noFiring
  | some w => match decode w with
    | .error _ => .fault .badWord
    | .ok i => Outcome.map (exec i { s with cur := f }) (afterFiring old f (onLanes i))

/-- One step: a cycle passes, something happens, or a firing issues. -/
def step (s : State) : Outcome :=
  match choose s with
  | .cycle s' => .next (cycle s')
  | .occur i s' => Outcome.map (exec i s') (after s)
  | .fire f s' => fire s f s'

/-- The state that runs a word next (notes/assumptions/2.md): a plot that holds it in the one slot of its one block, with a live
instance that has every operand, and its firing at issue. -/
def State.withFetchWord (s : State) (nbits w : Nat) : State :=
  { s with plots := Tab.set s.plots s.nextPlot (fetchPlot (BitVec.ofNat 32 (w % 2 ^ nbits))), nextPlot := s.nextPlot + 1, power := true, again := false,
           among := BitVec.allOnes 32,
           issue := some { plot := s.nextPlot, cell := 0, bidx := 0, slot := 0, frame := 0 } }

end Sys2Proof.Machine
end

