-- ==== Sys2Proof/Certificates/Slice0/Obligations.lean ====
section
/-! DEFINITION. Sys2Proof/Certificates/Slice0/Obligations.lean

The statements for the provers. `Sys2Proof.Claim` holds the words they use, `Sys2Proof.Says` the rules they state, each with the
numbers of the rules R<n> of spec/ that it follows, and each `Obligations.<Name>` joins the rules of one subject. -/

namespace Sys2Proof.Claim
open Sys2Proof.Machine

/-! ### Words the statements use -/

/-- An element-wise form fires at `s.cur` on the elements `es`, at most `lim` of those that are ready (R105). -/
abbrev Fires (s : State) (c : Ctx) (lim : Nat) (es : List Nat) : Prop :=
  ctxOf? s s.cur = some c ∧ (readyElems c.blk c.inst c.f.slot).take lim = es ∧ es ≠ []

/-- A form that fires once fires at `s.cur` on the elements `es`, of which `e` is the lowest that is not null in any operand (R105). -/
abbrev FiresOnce (s : State) (c : Ctx) (es : List Nat) (e : Nat) : Prop :=
  ctxOf? s s.cur = some c ∧ s.again = false ∧ readyWhole c.blk c.inst c.f.slot = es ∧ es.find? (fun e => !c.null e) = some e

/-- An element-wise form that acts on the machine fires at `s.cur` on the one element `e`, not null in any operand. -/
abbrev FiresOn (s : State) (c : Ctx) (e : Nat) : Prop :=
  ctxOf? s s.cur = some c ∧ s.again = false ∧ readyElems c.blk c.inst c.f.slot = [e] ∧ c.null e = false

/-- One result for each element, null where an operand is null (R105), sent to both consumers. -/
def perElem (c : Ctx) (c1 c0 : Cons) (kind : Kind) (es : List Nat) (f : Nat → Dword) : List Emit :=
  both c1 c0 kind (es.map (fun e => (e, if c.null e = true then Elem.null else .val (f e))))

/-- The elements a firing can cover: 16 of a 64-bit type, else 32 (R168). -/
def lanes (wide : Bool) : Nat := if wide = true then 16 else 32

/-- The state after a lane form: the elements resolved, the results on their way for `lat` cycles (R170). -/
def lane (s : State) (c : Ctx) (lat : Nat) (es : List Nat) (out : List Emit) : Outcome := .next (complete s c lat es out)

/-- A form on names fires at `s.cur` on the one element `e`, offered to its home and not null in any operand (R148). -/
abbrev FiresName (s : State) (c : Ctx) (e : Nat) : Prop := FiresOn s c e ∧ s.among.getLsbD e = true

end Sys2Proof.Claim

namespace Sys2Proof.Claim
open Sys2Proof.Machine

/-- What a form that passes values of any kind sends: the elements of a scalar's run travel as a run of their width (R132, R169). -/
def sentKind : Kind → Kind
  | .s32 => .r32
  | .s64 => .r64
  | k => k

/-- Results each element of which stands for itself, of whatever kind (R132, R169). -/
def apart (out : List Emit) : List Emit := out.map (fun o => { o with each := true })

/-- What the forms 0x00-0x0C that act by element emit (R132, R133). -/
def controlOut (c : Ctx) (es : List Nat) : Instr → Option (List Emit)
  | .nop => some []
  | .mov c1 c0 => some (both c1 c0 (c.kind 0) (es.map (fun e => (e, (c.elem? 0 e).getD .null))))
  | .imm v c1 c0 => some (perElem c c1 c0 .r32 es (fun _ => dw (v.signExtend 32).toNat))
  | .kread false n c1 c0 => some (perElem c c1 c0 .r32 es (fun _ => dw (c.k n.toNat).toNat))
  | .kread true n c1 c0 => some (perElem c c1 c0 .r64 es (fun _ => dw ((c.k (n.toNat + 1)).toNat * 2 ^ 32 + (c.k n.toNat).toNat)))
  | .tag d c1 c0 =>
    if d = 7 then some (perElem c c1 c0 .r64 es (fun e => dw (c.tag e)))
    else some (perElem c c1 c0 .r32 es (fun e => dw ((((vectorOf c.blk.bounds (c.tag e))[d.toNat]?).getD 0) % 2 ^ 32)))
  | .steerT c1 c0 => some (apart (both c1 c0 (sentKind (c.kind 0)) (es.map (fun e =>
      (e, if c.null e = true then Elem.null else if c.val 3 e ≠ 0 then .val (c.val 0 e) else .null)))))
  | .steerF c1 c0 => some (apart (both c1 c0 (sentKind (c.kind 0)) (es.map (fun e =>
      (e, if c.null e = true then Elem.null else if c.val 3 e = 0 then .val (c.val 0 e) else .null)))))
  | .sel c1 c0 =>
    if sentKind (c.kind 0) = sentKind (c.kind 1) then
      some (apart (perElem c c1 c0 (sentKind (c.kind 0)) es (fun e => if c.val 3 e ≠ 0 then c.val 0 e else c.val 1 e)))
    else none
  | .iseos c1 c0 => some (perElem c c1 c0 .r32 es (fun e => if belowEos (c.tag e) (eosOf c.blk c.f.slot) = true then 0 else 1))
  | _ => none

end Sys2Proof.Claim

open Sys2Proof Sys2Proof.Machine Sys2Proof.Claim in
/-- R132, R133: NOP, MOV, IMM, KREAD, TAG, STEER.T, STEER.F, SEL on operands of one kind, and ISEOS resolve the elements
they fire on and emit what the forms table gives, 2 cycles after issue. -/
def Sys2Proof.Says.ControlForms : Prop :=
  ∀ (i : Instr) (s : State) (c : Ctx) (es : List Nat) (out : List Emit), Fires s c 32 es → controlOut c es i = some out →
    exec i s = .next (complete s c 2 es out)

namespace Sys2Proof.Claim
open Sys2Proof.Machine

/-- An element read at the width of an integer type (R167, R168). -/
def rdBits (ty : IntTy) (k : Kind) (v : Dword) : BitVec (itWidth ty) :=
  (if k.wide = true then v else if itSigned ty = true then (v.setWidth 32).signExtend 64 else (v.setWidth 32).setWidth 64).setWidth _

/-- A word of the width of an integer type as an element: a signed type narrower than 32 bits is sign-extended to 32 (R167). -/
def wrBits (ty : IntTy) (x : BitVec (itWidth ty)) : Dword :=
  if itSigned ty = true ∧ itWidth ty < 32 then (x.signExtend 32).setWidth 64 else x.setWidth 64

/-- The operand at a port. -/
def opnd (c : Ctx) (ty : IntTy) (port e : Nat) : BitVec (itWidth ty) := rdBits ty (c.kind port) (c.val port e)

/-- The operand that BSRC governs (R172): the port, or a constant word, of a 64-bit type with the next as its high word. -/
def opndB (c : Ctx) (bsrc : BitVec 3) (ty : IntTy) (port e : Nat) : BitVec (itWidth ty) :=
  if bsrc = 0 then opnd c ty port e
  else ((if itWidth ty = 64 then c.k bsrc.toNat else 0) ++ c.k (bsrc.toNat - 1) : BitVec 64).setWidth _

/-- The sum, difference and product forms, on words (R175). -/
def arith (c : Ctx) (e : Nat) : Instr → Option Dword
  | .add s ty _ _ => some (wrBits ty (opnd c ty 0 e + opndB c s ty 1 e))
  | .sub s ty _ _ => some (wrBits ty (opnd c ty 0 e - opndB c s ty 1 e))
  | .mul s ty _ _ => some (wrBits ty (opnd c ty 0 e * opndB c s ty 1 e))
  | .mad s ty _ _ => some (wrBits ty (opnd c ty 0 e * opnd c ty 1 e + opndB c s ty 2 e))
  | .neg ty _ _ => some (wrBits ty (-opnd c ty 0 e))
  | .abs ty _ _ => some (wrBits ty (if itSigned ty = true then (opnd c ty 0 e).abs else opnd c ty 0 e))
  | .mulh s ty _ _ => some (wrBits ty (
      let w := itWidth ty
      if itSigned ty = true then (((opnd c ty 0 e).signExtend (2 * w)) * ((opndB c s ty 1 e).signExtend (2 * w))).extractLsb' w w
      else (((opnd c ty 0 e).setWidth (2 * w)) * ((opndB c s ty 1 e).setWidth (2 * w))).extractLsb' w w))
  | .div s ty _ _ => some (wrBits ty (if itSigned ty = true then (opnd c ty 0 e).sdiv (opndB c s ty 1 e) else opnd c ty 0 e / opndB c s ty 1 e))
  | .rem s ty _ _ => some (wrBits ty (if itSigned ty = true then (opnd c ty 0 e).srem (opndB c s ty 1 e) else opnd c ty 0 e % opndB c s ty 1 e))
  | _ => none

/-- The logic and shift forms, on words (R175, R176). -/
def logic (c : Ctx) (e : Nat) : Instr → Option Dword
  | .and s ty _ _ => some (wrBits ty (opnd c ty 0 e &&& opndB c s ty 1 e))
  | .or s ty _ _ => some (wrBits ty (opnd c ty 0 e ||| opndB c s ty 1 e))
  | .xor s ty _ _ => some (wrBits ty (opnd c ty 0 e ^^^ opndB c s ty 1 e))
  | .andn s ty _ _ => some (wrBits ty (opnd c ty 0 e &&& ~~~opndB c s ty 1 e))
  | .shl s ty _ _ => some (wrBits ty (let n := (opndB c s ty 1 e).toNat; if n < itWidth ty then opnd c ty 0 e <<< n else 0))
  | .shr s ty _ _ => some (wrBits ty (let n := (opndB c s ty 1 e).toNat; if n < itWidth ty then opnd c ty 0 e >>> n else 0))
  | .sar s ty _ _ => some (wrBits ty (
      let n := (opndB c s ty 1 e).toNat
      if n < itWidth ty then (opnd c ty 0 e).sshiftRight n else if (opnd c ty 0 e).msb = true then BitVec.allOnes _ else 0))
  | .rot s ty _ _ => some (wrBits ty ((opnd c ty 0 e).rotateLeft (opndB c s ty 1 e).toNat))
  | _ => none

/-- The comparing and saturating forms, on words (R175, R180). -/
def comparing (c : Ctx) (e : Nat) : Instr → Option Dword
  | .min s ty _ _ => some (wrBits ty (
      let x := opnd c ty 0 e; let y := opndB c s ty 1 e
      if (if itSigned ty = true then x.sle y else x.ule y) = true then x else y))
  | .max s ty _ _ => some (wrBits ty (
      let x := opnd c ty 0 e; let y := opndB c s ty 1 e
      if (if itSigned ty = true then y.sle x else y.ule x) = true then x else y))
  | .addsat s ty _ _ => some (wrBits ty (
      let x := opnd c ty 0 e; let y := opndB c s ty 1 e
      if itSigned ty = true then
        if BitVec.saddOverflow x y = true then (if x.msb = true then BitVec.intMin _ else BitVec.intMax _) else x + y
      else if BitVec.uaddOverflow x y = true then BitVec.allOnes _ else x + y))
  | .subsat s ty _ _ => some (wrBits ty (
      let x := opnd c ty 0 e; let y := opndB c s ty 1 e
      if itSigned ty = true then
        if BitVec.ssubOverflow x y = true then (if x.msb = true then BitVec.intMin _ else BitVec.intMax _) else x - y
      else if BitVec.usubOverflow x y = true then 0 else x - y))
  | .cmp cond ty _ _ =>
      let x := opnd c ty 0 e; let y := opnd c ty 1 e
      let lt := if itSigned ty = true then BitVec.slt x y else BitVec.ult x y
      match cond with
      | .eq => some (if x = y then 1 else 0)
      | .ne => some (if x = y then 0 else 1)
      | .lt => some (if lt = true then 1 else 0)
      | .ge => some (if lt = true then 0 else 1)
      | .le => some (if lt = true ∨ x = y then 1 else 0)
      | .gt => some (if lt = true ∨ x = y then 0 else 1)
      | _ => none
  | _ => none

/-- Bits [pos+len-1:pos] of a word, extended to it by the signedness of the type; 0 where `len` is 0 (R177). -/
def fieldOf {w : Nat} (signed : Bool) (x : BitVec w) (pos len : Nat) : BitVec w :=
  if signed = true then (x.extractLsb' pos len).signExtend w else (x.extractLsb' pos len).setWidth w

/-- The element, or the constant word, that BSRC names, with the bits above the width of the type that EXT and INS read (R177). -/
def wholeB (c : Ctx) (bsrc : BitVec 3) (port e : Nat) : Dword := if bsrc = 0 then c.val port e else (c.k (bsrc.toNat - 1)).setWidth 64

/-- An element read as n64 (R168). -/
def rd64 (k : Kind) (v : Dword) : Dword := if k.wide = true then v else (v.setWidth 32).setWidth 64

/-- The forms on bits and fields of a word (R175, R177, R178). -/
def fields (c : Ctx) (e : Nat) : Instr → Option Dword
  | .clz ty _ _ => some (wrBits ty (BitVec.clz (opnd c ty 0 e)))
  | .popc ty _ _ => some (wrBits ty (BitVec.ofNat _ ((List.range (itWidth ty)).filter (opnd c ty 0 e).getLsbD).length))
  | .brev ty _ _ => some (wrBits ty (opnd c ty 0 e).reverse)
  | .ext s ty _ _ =>
    let y := wholeB c s 1 e
    some (wrBits ty (fieldOf (itSigned ty) (opnd c ty 0 e) (y.extractLsb' 0 6).toNat (y.extractLsb' 8 6).toNat))
  | .ins s ty _ _ =>
    let z := wholeB c s 2 e
    let pos := (z.extractLsb' 0 6).toNat
    let mask := ((BitVec.allOnes (z.extractLsb' 8 6).toNat).setWidth (itWidth ty)) <<< pos
    some (wrBits ty ((opnd c ty 0 e &&& ~~~mask) ||| ((opnd c ty 1 e <<< pos) &&& mask)))
  | .sext wid ty _ _ => some (wrBits ty (((opnd c ty 0 e).setWidth (4 <<< wid.toNat)).signExtend _))
  | .zext wid ty _ _ => some (wrBits ty (((opnd c ty 0 e).setWidth (4 <<< wid.toNat)).setWidth _))
  | .addr s scale _ _ => some (rd64 (c.kind 0) (c.val 0 e) + ((opndB c s .i32 1 e).signExtend 64 <<< scale.toNat))
  | _ => none

/-- The type of an integer form, and the cycles to its delivery for `n` elements (R170). -/
def intForm (n : Nat) : Instr → Option (IntTy × Nat × Cons × Cons)
  | .add _ ty c1 c0 | .sub _ ty c1 c0 | .and _ ty c1 c0 | .or _ ty c1 c0 | .xor _ ty c1 c0 | .andn _ ty c1 c0 | .shl _ ty c1 c0
  | .shr _ ty c1 c0 | .sar _ ty c1 c0 | .rot _ ty c1 c0 | .min _ ty c1 c0 | .max _ ty c1 c0 | .addsat _ ty c1 c0 | .subsat _ ty c1 c0
  | .ext _ ty c1 c0 | .ins _ ty c1 c0 | .abs ty c1 c0 | .neg ty c1 c0 | .clz ty c1 c0 | .popc ty c1 c0 | .brev ty c1 c0
  | .sext _ ty c1 c0 | .zext _ ty c1 c0 => some (ty, 2, c1, c0)
  | .mul _ ty c1 c0 | .mulh _ ty c1 c0 | .mad _ ty c1 c0 => some (ty, if itWidth ty = 64 then 4 else 2, c1, c0)
  | .div _ ty c1 c0 | .rem _ ty c1 c0 => some (ty, if itWidth ty = 64 then 24 + (n + 3) / 4 - 1 else 12 + (n + 7) / 8 - 1, c1, c0)
  | .addr _ _ c1 c0 => some (.n64, 2, c1, c0)
  | _ => none

/-- Whether a form divides, and so keeps the special-function unit. -/
def divides : Instr → Bool
  | .div .. | .rem .. => true
  | _ => false

/-- The cell of a firing with its special-function unit busy for `n` cycles (R170). -/
def sfBusy (s : State) (c : Ctx) (n : Nat) : State :=
  onPlot s c.f.plot (fun p => onCell p c.f.cell (fun k => { k with sf := n }))

/-- The state after an integer form: results at the width of the type to both consumers, after its time (R168-R170). -/
def intNext (i : Instr) (s : State) (c : Ctx) (ty : IntTy) (lat : Nat) (c1 c0 : Cons) (es : List Nat) (f : Nat → Dword) : State :=
  let t := complete s c lat es (perElem c c1 c0 (if itWidth ty = 64 then .r64 else .r32) es f)
  if divides i = true then sfBusy t c (if itWidth ty = 64 then (es.length + 3) / 4 else (es.length + 7) / 8) else t

end Sys2Proof.Claim

open Sys2Proof Sys2Proof.Machine Sys2Proof.Claim in
/-- R170, R175: ADD, SUB, MUL, MULH, MAD, DIV, REM, ABS and NEG at the width of their type, in the cycles of R170. -/
def Sys2Proof.Says.IntegerArithmetic : Prop :=
  ∀ (i : Instr) (s : State) (c : Ctx) (es : List Nat) (f : Nat → Dword) (ty : IntTy) (lat : Nat) (c1 c0 : Cons),
    intForm es.length i = some (ty, lat, c1, c0) → Fires s c (lanes (itWidth ty == 64)) es → (∀ e, arith c e i = some (f e)) →
    exec i s = .next (intNext i s c ty lat c1 c0 es f)

open Sys2Proof Sys2Proof.Machine Sys2Proof.Claim in
/-- R170, R175, R176: AND, OR, XOR, ANDN, SHL, SHR, SAR and ROT. -/
def Sys2Proof.Says.IntegerLogic : Prop :=
  ∀ (i : Instr) (s : State) (c : Ctx) (es : List Nat) (f : Nat → Dword) (ty : IntTy) (lat : Nat) (c1 c0 : Cons),
    intForm es.length i = some (ty, lat, c1, c0) → Fires s c (lanes (itWidth ty == 64)) es → (∀ e, logic c e i = some (f e)) →
    exec i s = .next (intNext i s c ty lat c1 c0 es f)

open Sys2Proof Sys2Proof.Machine Sys2Proof.Claim in
/-- R175, R177, R178: CLZ, POPC, BREV, EXT, INS, SEXT, ZEXT and ADDR. -/
def Sys2Proof.Says.IntegerFields : Prop :=
  ∀ (i : Instr) (s : State) (c : Ctx) (es : List Nat) (f : Nat → Dword) (ty : IntTy) (lat : Nat) (c1 c0 : Cons),
    intForm es.length i = some (ty, lat, c1, c0) → Fires s c (lanes (itWidth ty == 64)) es → (∀ e, fields c e i = some (f e)) →
    exec i s = .next (intNext i s c ty lat c1 c0 es f)

namespace Sys2Proof.Claim
open Sys2Proof.Machine

/-- The pattern of an element at the width of a floating-point type. -/
def pat (c : Ctx) (ty : Ty) (port e : Nat) : Nat := (c.val port e).toNat % 2 ^ tyWidth ty

/-- The value of an element as a floating-point type (R78). -/
def fval (c : Ctx) (ty : Ty) (port e : Nat) : FVal := Machine.decodeF (fmtOf ty) (pat c ty port e)

/-- The rounding of an element under the RM of its form (R86, R88): under SR the word of R89 from the plot's seed, the tag and the lane. -/
def rounding (c : Ctx) (rm : Rm) (e : Nat) : Rnd :=
  { mode := rm, word := if rm = .sr then srWord c.plot.srseed (c.tag e) e else 0 }

/-- `wr(round(v, T, RM))`. -/
def rounded (c : Ctx) (rm : Rm) (ty : Ty) (e : Nat) (v : FVal) : Dword := dw (roundF (fmtOf ty) (rounding c rm e) false v)

/-- The result of a form of R181 that rounds one exact result: FADD, FSUB, FMUL, FMA (R182). -/
def floatArith (c : Ctx) (e : Nat) : Instr → Option Dword
  | .fadd rm ty _ _ => some (rounded c rm ty e (addF (fval c ty 0 e) (fval c ty 1 e)))
  | .fsub rm ty _ _ => some (rounded c rm ty e (addF (fval c ty 0 e) (negF (fval c ty 1 e))))
  | .fmul rm ty _ _ => some (rounded c rm ty e (mulF (fval c ty 0 e) (fval c ty 1 e)))
  | .fma rm ty _ _ => some (rounded c rm ty e (addF (mulF (fval c ty 0 e) (fval c ty 1 e)) (fval c ty 2 e)))
  | _ => none

/-- The operands and the NaN rule of FMIN and FMAX (R183): the lesser or the greater, -0 below +0, bit for bit. -/
def pick (less nanp : Bool) (c : Ctx) (ty : Ty) (e : Nat) : Nat :=
  let x := fval c ty 0 e
  let y := fval c ty 1 e
  let nan := (fmtOf ty).nan
  match x.isNan, y.isNan with
  | true, true => nan
  | true, false => if nanp = true then nan else pat c ty 1 e
  | false, true => if nanp = true then nan else pat c ty 0 e
  | false, false =>
    let yFirst := compareF y x = .lt ∨ (compareF y x = .eq ∧ y.neg = true ∧ x.neg = false)
    if less = true then (if yFirst then pat c ty 1 e else pat c ty 0 e) else (if yFirst then pat c ty 0 e else pat c ty 1 e)

/-- The class of a pattern, by the fields of R78: the bit of FCLASS's mask (R184). -/
def classBit (ty : Ty) (x : Nat) : Nat :=
  let f := fmtOf ty
  let neg := decide (2 ^ (f.width - 1) ≤ x)
  let mag := x % 2 ^ (f.width - 1)
  if f.inf = some mag then (if neg = true then 0 else 7)
  else if f.maxFin < mag then 8
  else if mag = 0 then (if neg = true then 3 else 4)
  else if mag < 2 ^ (f.prec - 1) then (if neg = true then 2 else 5)
  else (if neg = true then 1 else 6)

/-- The forms that compare or change patterns without rounding (R183-R185). -/
def floatPick (c : Ctx) (e : Nat) : Instr → Option Dword
  | .fmin nanp ty _ _ => some (dw (pick true nanp c ty e))
  | .fmax nanp ty _ _ => some (dw (pick false nanp c ty e))
  | .fabs ty _ _ => some (dw (
      if (fval c ty 0 e).isNan = true then (fmtOf ty).nan else pat c ty 0 e % 2 ^ ((fmtOf ty).width - 1)))
  | .fneg ty _ _ => some (dw (
      if (fval c ty 0 e).isNan = true then (fmtOf ty).nan else pat c ty 0 e ^^^ 2 ^ ((fmtOf ty).width - 1)))
  | .fclass ty _ _ => some (dw (2 ^ classBit ty (pat c ty 0 e)))
  | .fcmp cond ty _ _ =>
      let x := fval c ty 0 e
      let y := fval c ty 1 e
      let nan := x.isNan || y.isNan
      let o := compareF x y
      let holds := match cond with
        | .eq => !nan && o == .eq
        | .ne => nan || o != .eq
        | .lt => !nan && o == .lt
        | .le => !nan && o != .gt
        | .gt => !nan && o == .gt
        | .ge => !nan && o != .lt
        | .un => nan
        | .ord => !nan
      some (if holds = true then 1 else 0)
  | _ => none

/-- The special functions of R187, RCPA (R188) and FRND (R186). -/
def floatFunc (c : Ctx) (e : Nat) : Instr → Option Dword
  | .exp2 rm ty _ _ => some (dw (funcF .exp2 (fmtOf ty) (rounding c rm e) (pat c ty 0 e)))
  | .log2 rm ty _ _ => some (dw (funcF .log2 (fmtOf ty) (rounding c rm e) (pat c ty 0 e)))
  | .rcp rm ty _ _ => some (dw (funcF .rcp (fmtOf ty) (rounding c rm e) (pat c ty 0 e)))
  | .rsqrt rm ty _ _ => some (dw (funcF .rsqrt (fmtOf ty) (rounding c rm e) (pat c ty 0 e)))
  | .sqrt rm ty _ _ => some (dw (funcF .sqrt (fmtOf ty) (rounding c rm e) (pat c ty 0 e)))
  | .sin rm ty _ _ => some (dw (funcF .sin (fmtOf ty) (rounding c rm e) (pat c ty 0 e)))
  | .cos rm ty _ _ => some (dw (funcF .cos (fmtOf ty) (rounding c rm e) (pat c ty 0 e)))
  | .tanh rm ty _ _ => some (dw (funcF .tanh (fmtOf ty) (rounding c rm e) (pat c ty 0 e)))
  | .sigm rm ty _ _ => some (dw (funcF .sigm (fmtOf ty) (rounding c rm e) (pat c ty 0 e)))
  | .rcpa _ _ _ =>
      let v := funcF .rcp fmtF32 { mode := .rz, word := 0 } (pat c .f32 0 e)
      some (dw (match fval c .f32 0 e with
        | .fin _ 0 _ | .inf _ | .nan => v
        | _ => v - v % 2 ^ 11))
  | _ => none

/-- An f32 value rounded to an integer and clamped to the range of a type; NaN gives 0 (R77, R90). -/
def toInt (c : Ctx) (rm : Rm) (e : Nat) (lo hi : Int) (v : FVal) : Int := toIntF (rounding c rm e) lo hi v

/-- CVT by its conversion code (R190, R191), FRND (R186) and QNT (R192). -/
def convert (c : Ctx) (e : Nat) : Instr → Option Dword
  | .cvt rm cv _ _ =>
    let narrow := fun src dst sat => some (dw (roundF (fmtOf dst) (rounding c rm e) sat (fval c src 0 e)))
    match cv with
    | 0x0#4 => narrow .f32 .bf16 false
    | 0x1#4 => narrow .f32 .e4m3 false
    | 0x2#4 => narrow .f32 .e5m2 false
    | 0x3#4 => narrow .f32 .e5m2 true
    | 0x4#4 => narrow .bf16 .f32 false
    | 0x5#4 => narrow .e4m3 .f32 false
    | 0x6#4 => narrow .e5m2 .f32 false
    | 0x7#4 => some (dw ((toInt c rm e (-2 ^ 31) (2 ^ 31 - 1) (fval c .f32 0 e)) % 2 ^ 32).toNat)
    | 0x8#4 => some (dw ((toInt c rm e 0 (2 ^ 32 - 1) (fval c .f32 0 e)) % 2 ^ 32).toNat)
    | 0x9#4 => some (dw ((toInt c rm e (-2 ^ 63) (2 ^ 63 - 1) (fval c .f32 0 e)) % 2 ^ 64).toNat)
    | 0xA#4 => some (rounded c rm .f32 e (ofInt (rdInt .i32 (c.kind 0) (c.val 0 e))))
    | 0xB#4 => some (rounded c rm .f32 e (ofInt (rdInt .n32 (c.kind 0) (c.val 0 e))))
    | 0xC#4 => some (rounded c rm .f32 e (ofInt (rdInt .i64 (c.kind 0) (c.val 0 e))))
    | 0xD#4 => narrow .bf16 .e4m3 false
    | 0xE#4 => narrow .bf16 .e5m2 false
    | _ => none
  | .frnd rm ty _ _ =>
    some (dw (match fval c ty 0 e with
      | .nan => (fmtOf ty).nan
      | .inf _ => pat c ty 0 e
      | .fin neg m x => roundF (fmtOf ty) rne false (.fin neg (roundStep (rounding c rm e) neg m x 0 false) 0)))
  | .qnt rm ty _ _ =>
    let x := fval c .f32 0 e
    let scale := (c.val 1 e).toNat % 256
    let y := scaleF (127 - (scale : Int)) x
    match ty with
    | .e4m3 => some (if scale = 255 ∨ x.isNan = true then 0x7F else rounded c rm .e4m3 e y)
    | .i4x => some (if scale = 255 ∨ x.isNan = true then 0 else dw ((toInt c rm e (-7) 7 y) % 2 ^ 4).toNat)
    | .i8 => some (if scale = 255 ∨ x.isNan = true then 0 else dw ((toInt c rm e (-128) 127 y) % 2 ^ 32).toNat)
    | _ => none
  | _ => none

/-- The time of a floating-point form of `n` elements, whether its results are 64-bit, and its consumers (R170). -/
def floatForm (n : Nat) : Instr → Option (Nat × Bool × Cons × Cons)
  | .fadd _ _ c1 c0 | .fsub _ _ c1 c0 | .fmul _ _ c1 c0 | .fma _ _ c1 c0 | .fmin _ _ c1 c0 | .fmax _ _ c1 c0 | .fcmp _ _ c1 c0
  | .frnd _ _ c1 c0 | .qnt _ _ c1 c0 => some (4, false, c1, c0)
  | .cvt _ cv c1 c0 => some (4, cv == 0x9#4, c1, c0)
  | .fabs _ c1 c0 | .fneg _ c1 c0 | .fclass _ c1 c0 => some (2, false, c1, c0)
  | .exp2 _ _ c1 c0 | .log2 _ _ c1 c0 | .rcp _ _ c1 c0 | .rsqrt _ _ c1 c0 | .sqrt _ _ c1 c0 | .sin _ _ c1 c0 | .cos _ _ c1 c0
  | .tanh _ _ c1 c0 | .sigm _ _ c1 c0 | .rcpa _ c1 c0 => some (12 + (n + 7) / 8 - 1, false, c1, c0)
  | _ => none

/-- Whether a form reads or writes a 64-bit type, and so covers 16 elements (R168). -/
def longForm : Instr → Bool
  | .cvt _ cv _ _ => cv == 0x9#4 || cv == 0xC#4
  | _ => false

/-- A floating-point type of R181. -/
def isFloat : Ty → Bool
  | .f32 | .bf16 | .e4m3 | .e5m2 => true
  | _ => false

/-- The floating-point type that a form of R181 names. -/
def floatTy : Instr → Option Ty
  | .fadd _ t _ _ | .fsub _ t _ _ | .fmul _ t _ _ | .fma _ t _ _ | .fmin _ t _ _ | .fmax _ t _ _ | .fcmp _ t _ _ | .frnd _ t _ _
  | .fabs t _ _ | .fneg t _ _ | .fclass t _ _ | .exp2 _ t _ _ | .log2 _ t _ _ | .rcp _ t _ _ | .rsqrt _ t _ _ | .sqrt _ t _ _
  | .sin _ t _ _ | .cos _ t _ _ | .tanh _ t _ _ | .sigm _ t _ _ => some t
  | .cvt .. | .qnt .. | .rcpa .. => some .f32
  | _ => none

end Sys2Proof.Claim

open Sys2Proof Sys2Proof.Machine Sys2Proof.Claim in
/-- R78-R88, R181, R182: FADD, FSUB, FMUL, FMA and the roundings: exact, then rounded once. -/
def Sys2Proof.Says.FloatArithmetic : Prop :=
  ∀ (i : Instr) (s : State) (c : Ctx) (es : List Nat) (f : Nat → Dword) (ty : Ty) (lat : Nat) (wide : Bool) (c1 c0 : Cons),
    floatForm es.length i = some (lat, wide, c1, c0) → floatTy i = some ty → isFloat ty = true → Fires s c 32 es →
    (∀ e, floatArith c e i = some (f e)) →
    exec i s = .next (complete s c lat es (perElem c c1 c0 .r32 es f))

open Sys2Proof Sys2Proof.Machine Sys2Proof.Claim in
/-- R183-R185: FMIN, FMAX, FABS, FNEG, FCMP and FCLASS on patterns. -/
def Sys2Proof.Says.FloatPatterns : Prop :=
  ∀ (i : Instr) (s : State) (c : Ctx) (es : List Nat) (f : Nat → Dword) (ty : Ty) (lat : Nat) (wide : Bool) (c1 c0 : Cons),
    floatForm es.length i = some (lat, wide, c1, c0) → floatTy i = some ty → isFloat ty = true → Fires s c 32 es →
    (∀ e, floatPick c e i = some (f e)) →
    exec i s = .next (complete s c lat es (perElem c c1 c0 .r32 es f))

open Sys2Proof Sys2Proof.Machine Sys2Proof.Claim in
/-- R90, R186, R190-R192: FRND, CVT and QNT. -/
def Sys2Proof.Says.FloatConversions : Prop :=
  ∀ (i : Instr) (s : State) (c : Ctx) (es : List Nat) (f : Nat → Dword) (ty : Ty) (lat : Nat) (wide : Bool) (c1 c0 : Cons),
    floatForm es.length i = some (lat, wide, c1, c0) → floatTy i = some ty → isFloat ty = true → Fires s c (lanes (longForm i)) es →
    (∀ e, convert c e i = some (f e)) →
    exec i s = .next (complete s c lat es (perElem c c1 c0 (if wide = true then .r64 else .r32) es f))

open Sys2Proof Sys2Proof.Machine Sys2Proof.Claim in
/-- R170, R187, R188: the special functions and RCPA, which keep the special-function unit. -/
def Sys2Proof.Says.FloatFunctions : Prop :=
  ∀ (i : Instr) (s : State) (c : Ctx) (es : List Nat) (f : Nat → Dword) (ty : Ty) (lat : Nat) (wide : Bool) (c1 c0 : Cons),
    floatForm es.length i = some (lat, wide, c1, c0) → floatTy i = some ty → isFloat ty = true → Fires s c 32 es →
    (∀ e, floatFunc c e i = some (f e)) →
    exec i s = .next (sfBusy (complete s c lat es (perElem c c1 c0 .r32 es f)) c ((es.length + 7) / 8))

namespace Sys2Proof.Claim
open Sys2Proof.Machine

/-- An element-wise form fires at `s.cur` on all its ready elements `es` (R105). -/
abbrev FiresAll (s : State) (c : Ctx) (es : List Nat) : Prop :=
  ctxOf? s s.cur = some c ∧ readyElems c.blk c.inst c.f.slot = es ∧ es ≠ []

/-- The firing's block, or its cell, changed. -/
def inBlock (s : State) (c : Ctx) (g : Block → Block) : State := onPlot s c.f.plot (fun p => onBlock p c.f.cell c.f.bidx g)

/-- A SETK write that waits, of an instance whose first tag is `tag`: the highest tag wins, then the highest slot (R133). -/
def pendWord (n : Nat) (v : Word) (tag slot : Nat) (b : Block) : Block :=
  match Tab.at? b.pendK n with
  | some (_, t, sl) => if tag < t ∨ (tag = t ∧ slot < sl) then b else { b with pendK := Tab.set b.pendK n (v, tag, slot) }
  | none => { b with pendK := Tab.set b.pendK n (v, tag, slot) }

/-- An EOS token to a consumer, where the field names one, delivered 2 cycles after issue (R108, R133). -/
def eosTo (p : Plot) (c : Ctx) (tag : Nat) (o : Cons) : List EosTok :=
  if o = 0x1FF#9 then p.eosQ
  else p.eosQ ++ [{ cell := c.f.cell, bidx := c.f.bidx, slot := consSlot o, port := consPort o, tag := tag, left := 2 }]

/-- What the instance-scalar forms of R133 leave, and what they emit. -/
def scalarForm (s : State) (c : Ctx) (e : Nat) : Instr → Option (State × List Emit)
  | .setk false n =>
    some (inBlock s c (pendWord n.toNat ((c.val 0 e).setWidth 32) c.inst.first c.f.slot), [])
  | .setk true n =>
    let v : Dword := if (c.kind 0).wide = true then c.val 0 e else ((c.val 0 e).setWidth 32).signExtend 64
    some (inBlock s c (fun b => pendWord (n.toNat + 1) ((v >>> 32).setWidth 32) c.inst.first c.f.slot
      (pendWord n.toNat (v.setWidth 32) c.inst.first c.f.slot b)), [])
  | .eos c1 c0 =>
    let v : Dword := if (c.kind 0).wide = true then c.val 0 e else (c.val 0 e).setWidth 32 |>.setWidth 64
    let tag := v.toNat % 2 ^ 40
    some (onPlot s c.f.plot (fun p =>
      let p := { p with eosQ := eosTo p c tag c0 }
      { p with eosQ := eosTo p c tag c1 }), [])
  | .exit code =>
    some (onPlot s c.f.plot (fun p =>
      let p := { p with exitc := dw (max p.exitc.toNat code.toNat) }
      if c.blk.seq = true then onCell p c.f.cell (fun k => { k with thread := { k.thread with exited := true } }) else p), [])
  | .next code =>
    let succ := (c.k 14).toNat / 2 ^ (4 * code.toNat) % 16
    if (blockAt? c.plot c.f.cell succ).any (fun (b : Block) => b.seq) = true then
      some (inBlock s c (fun b => match b.succ with
        | some (r, sl, _) => if c.inst.run < r ∨ (r = c.inst.run ∧ sl < c.f.slot) then b else { b with succ := some (c.inst.run, c.f.slot, succ) }
        | none => { b with succ := some (c.inst.run, c.f.slot, succ) }), [])
    else none
  | .pmask c1 c0 =>
    some (s, both c1 c0 .r32 ((List.range c.inst.len).map (fun i => (i, Elem.val (if (c.val 0 e).getLsbD i = true then 1 else 0)))))
  | _ => none

/-- What MERGE emits for an element: a where it is not null, else b (R132). -/
def mergeElem (c : Ctx) (e : Nat) : Elem :=
  match c.elem? 0 e with
  | some (.val v) => .val v
  | some .null => (c.elem? 1 e).getD .null
  | none => .null

/-- The source of each output of a shuffle (R200): an element of a, 0, or null. -/
def shuffleElem (c : Ctx) (w64 : Bool) (e : Nat) : Instr → Option Elem
  | i =>
    let a := fun j => match c.elem? 0 j with
      | some (.val v) => Elem.val (if w64 = true then (if (c.kind 0).wide = true then v else (v.setWidth 32).setWidth 64) else (v.setWidth 32).setWidth 64)
      | _ => Elem.null
    let p := fun j => match c.elem? 3 j with
      | some (.val v) => decide (v ≠ 0)
      | _ => false
    let isVal := fun j => match c.elem? 0 j with
      | some (.val _) => true
      | _ => false
    match i with
    | .perm _ _ _ _ => some (match c.elem? 1 e with
      | some (.val v) => if v.toNat % 32 < c.inst.len then a (v.toNat % 32) else .val 0
      | _ => .null)
    | .lrot n _ _ _ => some (a ((e + n.toNat) % c.inst.len))
    | .bcast n _ _ _ => some (if n.toNat < c.inst.len then a n.toNat else .val 0)
    | .compress _ _ _ _ => some (match ((List.range c.inst.len).filter (fun j => p j && isVal j))[e]? with
      | some j => a j
      | none => .null)
    | .expand _ _ _ _ => some (if p e = true then a ((List.range e).filter p).length else .null)
    | _ => none

/-- The width bit and the consumers of a shuffle. -/
def shuffleForm : Instr → Option (Bool × Cons × Cons)
  | .perm _ w c1 c0 | .lrot _ w c1 c0 | .bcast _ w c1 c0 | .compress _ w c1 c0 | .expand _ w c1 c0 => some (w, c1, c0)
  | _ => none

/-- What an element of a reducing slot brings (R195): null, nothing where its predicate is 0, or its value at the width of the
type, a NaN as the default NaN (R79). -/
def redIn (c : Ctx) (ty : Ty) (e : Nat) : RedIn :=
  if c.null e = true then .null
  else if c.fed 3 = true ∧ c.val 3 e = 0 then .skip
  else .val (if ty.isInt = true then wrInt (tyInt ty) (rdInt (tyInt ty) (c.kind 0) (c.val 0 e))
    else
      let v := (c.val 0 e).toNat % 2 ^ tyWidth ty
      dw (if Machine.decodeF (fmtOf ty) v = .nan then (fmtOf ty).nan else v))

/-- The type of a reducing form. -/
def redTy : Instr → Option Ty
  | .redAdd _ _ ty _ _ | .redMax _ _ ty _ _ | .redMin _ _ ty _ _ | .scanAdd _ _ ty _ _ => some ty
  | _ => none

/-- The tokens of one OUT (R111, R134): the elements sent by offset from the first, those of a 64-bit run in spans of 16. -/
def outTokens (c : Ctx) (route : BitVec 6) (bidx : BitVec 4) (c0 : Cons) (es : List Nat) : List Token :=
  let first := (es.head?).getD 0
  let spans := if c.kind 0 = .r64 then [es.filter (fun e => decide (e < first + 16)), es.filter (fun e => decide (first + 16 ≤ e))] else [es]
  (spans.filter (fun g => !g.isEmpty)).map (fun g =>
    let e0 := (g.head?).getD 0
    let elems := g.map (fun e => (e - e0, (c.elem? 0 e).getD .null))
    { route := 64 * c.f.cell + route.toNat, sender := 64 * c.f.bidx + c.f.slot, bidx := bidx.toNat, slot := consSlot c0, port := consPort c0,
      tag := c.tag e0, eos := false, mark := false, kind := c.kind 0, elems := elems,
      left := wayTime c.plot (64 * c.f.cell + route.toNat) (flitsOf (c.kind 0) elems) })

end Sys2Proof.Claim

open Sys2Proof Sys2Proof.Machine Sys2Proof.Claim in
/-- R133: SETK, EOS, EXIT, NEXT and PMASK fire once for the instance and leave what the forms table gives. -/
def Sys2Proof.Says.ScalarForms : Prop :=
  ∀ (i : Instr) (s t : State) (c : Ctx) (es : List Nat) (e : Nat) (out : List Emit), FiresOnce s c es e →
    scalarForm s c e i = some (t, out) → exec i s = .next (complete t c 2 es out)

open Sys2Proof Sys2Proof.Machine Sys2Proof.Claim in
/-- R133: NEXT raises ILLOP where the nibble of k14 names no sequential block of the cell; TINFO holds the slot and the
opcode. -/
def Sys2Proof.Says.NextTraps : Prop :=
  ∀ (s : State) (c : Ctx) (es : List Nat) (e : Nat) (code : BitVec 3), FiresOnce s c es e → scalarForm s c e (.next code) = none →
    exec (.next code) s = .next (trapFiring s c.f .illop c.inst.first (dw (c.f.slot * 2 ^ 50 + 0x0E * 2 ^ 40)))

open Sys2Proof Sys2Proof.Machine Sys2Proof.Claim in
/-- R132: MERGE emits a where it is not null, else b; where neither is null, b is dropped and counted with WHY 5. That
operands of differing kinds go out as two deliveries is the model's choice, log entry 14. -/
def Sys2Proof.Says.Merge : Prop :=
  ∀ (s : State) (c : Ctx) (es : List Nat) (c1 c0 : Cons), FiresAll s c es →
    let clash := es.filter (fun e => c.elem? 0 e != some .null && c.elem? 1 e != some .null)
    let drops := fun (p : Plot) => clash.foldl (fun p e => dropElems p c.f.cell c.f.bidx c.f.slot 1 (c.tag e) 1 5) p
    let left := both c1 c0 (sentKind (c.kind 0)) ((es.filter (fun e => c.elem? 0 e != some .null)).map (fun e => (e, mergeElem c e)))
    let right := both c1 c0 (sentKind (c.kind 1)) ((es.filter (fun e => c.elem? 0 e == some .null)).map (fun e => (e, mergeElem c e)))
    exec (.merge c1 c0) s = .next (onPlot (complete s c 2 es (apart
      (if sentKind (c.kind 0) = sentKind (c.kind 1) then both c1 c0 (sentKind (c.kind 0)) (es.map (fun e => (e, mergeElem c e)))
       else left ++ right))) c.f.plot drops)

open Sys2Proof Sys2Proof.Machine Sys2Proof.Claim in
/-- R134: OUT sends its elements along a route: one token, or two for a 64-bit run, each with the time of its way. That it
waits while a token of its cell has yet to enter its switch is the model's deduction, log entry 58. -/
def Sys2Proof.Says.Out : Prop :=
  ∀ (s : State) (c : Ctx) (es : List Nat) (route : BitVec 6) (bidx : BitVec 4) (c0 : Cons), FiresAll s c es →
    exec (.out route bidx c0) s = .next (if ∀ t ∈ outTokens c route bidx c0 es, canInject c.plot t = true
      then onPlot (complete s c 2 es []) c.f.plot (fun p => { p with tokens := p.tokens ++ outTokens c route bidx c0 es })
      else stallFiring s)

open Sys2Proof Sys2Proof.Machine Sys2Proof.Claim in
/-- R199, R200: PERM, LROT, BCAST, COMPRESS and EXPAND fire once and emit each position's source. -/
def Sys2Proof.Says.Shuffles : Prop :=
  ∀ (i : Instr) (s : State) (c : Ctx) (es : List Nat) (w64 : Bool) (c1 c0 : Cons) (f : Nat → Elem),
    shuffleForm i = some (w64, c1, c0) → ctxOf? s s.cur = some c → readyWhole c.blk c.inst c.f.slot = es → es ≠ [] →
    (∀ e, shuffleElem c w64 e i = some (f e)) →
    exec i s = .next (complete s c 2 es (both c1 c0 (if w64 = true then .r64 else .r32) (es.map (fun e => (e, f e)))))

open Sys2Proof Sys2Proof.Machine Sys2Proof.Claim in
/-- R94, R195: a reducing form puts what its elements bring into its window, if the run is within 32 of the oldest not
combined. -/
def Sys2Proof.Says.ReductionWindow : Prop :=
  ∀ (i : Instr) (s : State) (c : Ctx) (es : List Nat) (ty : Ty), redTy i = some ty →
    Fires s c (lanes (decide (ty = .i64 ∨ ty = .n64))) es →
    let r := Tab.atD c.blk.reds c.f.slot Red.zero
    let r' : Red := { r with window := es.foldl (fun w e => Tab.set w (c.tag e) (redIn c ty e)) r.window }
    c.inst.run < runOf c.blk.bounds r.next + 32 →
    exec i s = .next (inBlock (complete s c 2 es []) c (fun b => { b with reds := Tab.set b.reds c.f.slot r' }))

open Sys2Proof Sys2Proof.Machine Sys2Proof.Claim in
/-- R193, R82: DQNT multiplies an element by the power of two of its scale byte; a scale of 255 gives NaN, a bare 8 of i4x
sets FX. -/
def Sys2Proof.Says.Dequantise : Prop :=
  ∀ (s : State) (c : Ctx) (es : List Nat) (ty : Ty) (c1 c0 : Cons), FiresAll s c es →
    let scale := fun e => (c.val 1 e).toNat % 256
    let bare8 := fun e => decide (ty = .i4x ∧ (c.val 0 e).toNat % 16 = 8)
    let value := fun e => match ty with
      | .i4x => if bare8 e = true then FVal.fin false 0 0 else ofInt (sx (c.val 0 e).toNat 4)
      | .i8 => ofInt (sx (c.val 0 e).toNat 8)
      | t => Machine.decodeF (fmtOf t) (c.val 0 e).toNat
    let fx := es.any (fun e => !c.null e && scale e != 255 && bare8 e)
    exec (.dqnt ty c1 c0) s =
      .next (complete (onPlot s c.f.plot (fun p => { p with numst := if fx = true then p.numst ||| 1 else p.numst })) c 4 es
        (perElem c c1 c0 .r32 es (fun e => if scale e = 255 then 0x7FC00000
          else dw (roundF fmtF32 rne false (scaleF ((scale e : Int) - 127) (value e))))))

namespace Sys2Proof.Claim
open Sys2Proof.Machine

/-- The answer that an access gives on its way to its effect. -/
abbrev Ok {α : Type} (x : Except Halt α) (v : α) : Prop := x = .ok v

/-- A slot whose occupant is the ordinal read, full or dead: the cases of R147 that deliver. -/
abbrev delivers (h : Dword) (ord : Nat) : Prop := hdrOcc h = ord ∧ (hdrState h = 1 ∨ hdrState h = 2)

/-- A slot that a write overwrites (R147): unclaimed, or dead or poison and not occupied by a higher ordinal. -/
abbrev overwrites (h : Dword) (ord : Nat) : Prop :=
  (hdrState h = 0 ∧ hdrReaders h = 0) ∨ (hdrOcc h ≤ ord ∧ (hdrState h = 2 ∨ hdrState h = 3))

/-- The header after a read that counts down its readers: dead where none is left (R147). -/
def oneReaderFewer (h : Dword) : Dword :=
  mkHdr (hdrOcc h) (if hdrReaders h - 1 = 0 then 2 else hdrState h) (hdrReaders h - 1) (h.extractLsb' 6 8)

/-- The payload of a tile handle (R153): SID, GEN, KEEP, ordinal. -/
def handle (f : Fold) (keep : Bool) (ord : Nat) : Dword :=
  dw (f.sid * 2 ^ 52 + f.gen.toNat * 2 ^ 44 + (if keep = true then 2 ^ 43 else 0) + ord % 2 ^ 40)

/-- A fold record checked and without fault, for a firing of FOLD or REFOLD (R144, R165). -/
abbrev goodRecord (s s1 : State) (c : Ctx) (e n : Nat) (ws : List Dword) : Prop := foldRecord s c e n = .ok s1 ws

/-- The fold of a statement set. -/
def setFold (s : State) (c : Ctx) (f : Fold) : State := onPlot s c.f.plot (fun p => { p with folds := Tab.set p.folds f.sid f })

end Sys2Proof.Claim

open Sys2Proof Sys2Proof.Machine Sys2Proof.Claim in
/-- R147, R163: LDN of a name that is full or dead delivers its value; a read that does not keep counts a reader down, and
the last one leaves the name dead. -/
def Sys2Proof.Says.LoadName : Prop :=
  ∀ (s s1 s2 s3 s4 : State) (c : Ctx) (e v : Nat) (keep : Bool) (nidx : BitVec 5) (c1 c0 : Cons) (x : Named) (h : Dword),
    FiresName s c e → named? s c e nidx.toNat = some x → Ok (getHdr s c x.f x.slot) (s1, h) → delivers h x.ord →
    let ty := nameTy (c.name nidx.toNat)
    let kind := if tyWidth ty = 64 then Kind.r64 else .r32
    let out := both c1 c0 kind [(e, .val (widenLoad ty v))]
    (Ok (getData s1 c x.f x.slot (tyWidth ty / 8)) (s2, some v) →
      ((keep = true ∨ hdrState h = 2 ∨ readOnly s2 c.plot x.f = true) →
        exec (.ldn keep nidx c1 c0) s = .next (complete s2 c (c.nameLat nidx.toNat) [e] out)) ∧
      (keep = false → hdrState h = 1 → readOnly s2 c.plot x.f = false → Ok (writeTurn s2 c e x.f) s3 →
        Ok (putHdr s3 c x.f x.slot (oneReaderFewer h)) s4 →
        exec (.ldn keep nidx c1 c0) s = .next (complete s4 c (c.nameLat nidx.toNat) [e] out))) ∧
    (Ok (getData s1 c x.f x.slot (tyWidth ty / 8)) (s2, none) →
      exec (.ldn keep nidx c1 c0) s = .next (trapFiring s c.f .expired (c.tag e)
        (dw (x.f.sid * 2 ^ 52 + x.f.cls * 2 ^ 50 + 2 * 2 ^ 45 + nidx.toNat * 2 ^ 40 + hdrOcc h))))

open Sys2Proof Sys2Proof.Machine Sys2Proof.Claim in
/-- R147, R163, R254: STN of a slot that it may overwrite makes the name full with its readers; into a full adjoint name it
adds. -/
def Sys2Proof.Says.StoreName : Prop :=
  ∀ (s s1 s2 s3 s4 : State) (c : Ctx) (e : Nat) (nidx : BitVec 5) (x : Named) (h : Dword),
    FiresName s c e → named? s c e nidx.toNat = some x → readOnly s c.plot x.f = false → Ok (getHdr s c x.f x.slot) (s1, h) →
    Ok (writeTurn s1 c e x.f) s2 →
    let bytes := tyWidth (nameTy (c.name nidx.toNat)) / 8
    let v := (c.wide 0 e).toNat % 2 ^ (8 * bytes)
    let all := if x.f.adj = true then max bytes x.f.slotBytes else bytes
    (overwrites h x.ord → Ok (putSlot s2 c x.f x.slot all v (mkHdr x.ord 1 x.f.readers x.f.gen)) s3 →
      exec (.stn nidx) s = .next (complete s3 c 2 [e] [])) ∧
    (∀ old, hdrOcc h = x.ord → hdrState h = 1 → x.f.adj = true → Ok (getData s2 c x.f x.slot 4) (s3, some old) →
      Ok (putSlot s3 c x.f x.slot 4
        (roundF fmtF32 rne false (addF (Machine.decodeF fmtF32 old) (Machine.decodeF fmtF32 (v % 2 ^ 32)))) h) s4 →
      exec (.stn nidx) s = .next (complete s4 c 2 [e] []))

open Sys2Proof Sys2Proof.Machine Sys2Proof.Claim in
/-- R147: KILL makes a full or poisoned name dead; of a slot that does not hold the ordinal it changes nothing. -/
def Sys2Proof.Says.KillName : Prop :=
  ∀ (s s1 s2 s3 : State) (c : Ctx) (e : Nat) (nidx : BitVec 5) (x : Named) (h : Dword),
    FiresName s c e → named? s c e nidx.toNat = some x → readOnly s c.plot x.f = false → Ok (getHdr s c x.f x.slot) (s1, h) →
    (hdrOcc h = x.ord → (hdrState h = 1 ∨ hdrState h = 3) → Ok (writeTurn s1 c e x.f) s2 →
      Ok (putHdr s2 c x.f x.slot (mkHdr x.ord 2 0 (h.extractLsb' 6 8))) s3 → exec (.kill nidx) s = .next (complete s3 c 2 [e] [])) ∧
    ((hdrOcc h ≠ x.ord ∨ hdrState h = 0 ∨ hdrState h = 2) → exec (.kill nidx) s = .next (complete s1 c 2 [e] []))

open Sys2Proof Sys2Proof.Machine Sys2Proof.Claim in
/-- R153: LDN.T delivers the handle of a name, STN.T claims a slot and delivers its handle. -/
def Sys2Proof.Says.TileHandles : Prop :=
  ∀ (s s1 s2 s3 : State) (c : Ctx) (es : List Nat) (e : Nat) (keep : Bool) (nidx : BitVec 5) (c1 c0 : Cons) (x : Named) (h : Dword),
    FiresOnce s c es e → named? s c e nidx.toNat = some x → Ok (getHdr s c x.f x.slot) (s1, h) →
    (delivers h x.ord → exec (.ldnT keep nidx c1 c0) s =
      .next (complete s1 c (c.nameLat nidx.toNat) es (both c1 c0 .tile [(0, .val (handle x.f keep x.ord))]))) ∧
    (overwrites h x.ord → readOnly s c.plot x.f = false → Ok (writeTurn s1 c e x.f) s2 →
      Ok (putHdr s2 c x.f x.slot (mkHdr x.ord 0 x.f.readers x.f.gen)) s3 →
      exec (.stnT nidx c1 c0) s =
        .next (complete s3 c (c.nameLat nidx.toNat) es (both c1 c0 .tile [(0, .val (handle x.f false x.ord))])))

open Sys2Proof Sys2Proof.Machine Sys2Proof.Claim in
/-- R147, R159: LDN and STN of an ordinal below the occupant's raise EXPIRED, with the fold, the class and the occupant in
TINFO. -/
def Sys2Proof.Says.NameExpired : Prop :=
  ∀ (s s1 : State) (c : Ctx) (e : Nat) (keep : Bool) (nidx : BitVec 5) (c1 c0 : Cons) (x : Named) (h : Dword),
    FiresName s c e → named? s c e nidx.toNat = some x → Ok (getHdr s c x.f x.slot) (s1, h) → x.ord < hdrOcc h →
    ¬(hdrState h = 0 ∧ hdrReaders h = 0) →
    let info := fun (w : Nat) => dw (x.f.sid * 2 ^ 52 + x.f.cls * 2 ^ 50 + w * 2 ^ 49 + w * 2 ^ 45 + nidx.toNat * 2 ^ 40 + hdrOcc h)
    exec (.ldn keep nidx c1 c0) s = .next (trapFiring s c.f .expired (c.tag e) (info 0)) ∧
    (readOnly s c.plot x.f = false → exec (.stn nidx) s = .next (trapFiring s c.f .expired (c.tag e) (info 1)))

open Sys2Proof Sys2Proof.Machine Sys2Proof.Claim in
/-- R140: an on-chip fold answers at once: its header and data are those of its slot in near or accumulator memory. -/
def Sys2Proof.Says.OnChipSlot : Prop :=
  ∀ (s : State) (c : Ctx) (f : Fold) (n bytes v : Nat) (h : Dword), ctxOf? s c.f = some c → f.far = false →
    Tab.at? c.plot.folds f.sid = some f →
    let put := fun (p : Plot) => { p with folds := Tab.upd p.folds f.sid (fun g => { g with hdrs := Tab.put g.hdrs n h 0 }) }
    Ok (getHdr s c f n) (s, Tab.atD f.hdrs n 0) ∧
    Ok (getData s c f n bytes) (s, some (readN (chipBytes c.plot f) bytes (f.base + n * f.slotBytes))) ∧
    Ok (putHdr s c f n h) (onPlot s c.f.plot put) ∧
    Ok (putSlot s c f n bytes v h) (onPlot s c.f.plot (fun p => put (onChip p f (fun m => writeN m bytes (f.base + n * f.slotBytes) v))))

open Sys2Proof Sys2Proof.Machine Sys2Proof.Claim in
/-- R144, R145, R165: FOLD and REFOLD of an undeclared SID declare the fold of the record; a far one's headers are written
unless it is adopted. -/
def Sys2Proof.Says.FoldForms : Prop :=
  ∀ (s s1 s2 : State) (c : Ctx) (es : List Nat) (e : Nat) (n : BitVec 4) (ws : List Dword) (i : Instr),
    i = .fold n ∨ i = .refold n →
    FiresOnce s c es e → goodRecord s s1 c e n.toNat ws →
    let f := foldOf ws 0 0
    checkFold? s1 (plotNow s1 c) f = none → Tab.at? (plotNow s1 c).folds f.sid = none →
    ((f.far = false ∨ f.adopt = true) → exec i s = .next (complete (setFold s1 c f) c 2 es [])) ∧
    (f.far = true → f.adopt = false → Ok (farPutHdrs s1 c f []) s2 → exec i s = .next (complete (setFold s2 c f) c 2 es []))

open Sys2Proof Sys2Proof.Machine Sys2Proof.Claim in
/-- R165: FOLD of a declared SID, on chip or far, takes the next generation where no slot is kept, else raises FOLDSIZE with
WHY 2. -/
def Sys2Proof.Says.FoldAgain : Prop :=
  ∀ (s s1 s2 s3 : State) (c : Ctx) (es : List Nat) (e : Nat) (n : BitVec 4) (ws : List Dword) (old : Fold) (t : Tab Dword),
    FiresOnce s c es e → goodRecord s s1 c e n.toNat ws →
    let f := foldOf ws 0 0
    checkFold? s1 (plotNow s1 c) f = none → Tab.at? (plotNow s1 c).folds f.sid = some old →
    let next := { f with gen := old.gen + 1 }
    Ok (if old.far = true then allHdrs s1 c old else .ok (s1, old.hdrs)) (s2, t) →
    ((∀ x ∈ t, hdrKept x.2 = false) → (f.far = false ∨ f.adopt = true) →
      exec (.fold n) s = .next (complete (setFold s2 c next) c 2 es [])) ∧
    ((∀ x ∈ t, hdrKept x.2 = false) → f.far = true → f.adopt = false → Ok (farPutHdrs s2 c next []) s3 →
      exec (.fold n) s = .next (complete (setFold s3 c next) c 2 es [])) ∧
    ((∃ x ∈ t, hdrKept x.2 = true) →
      exec (.fold n) s = .next (trapFiring s c.f .foldsize c.inst.first (dw (f.sid * 2 ^ 52 + f.cls * 2 ^ 50 + 2 * 2 ^ 45))))

open Sys2Proof Sys2Proof.Machine Sys2Proof.Claim in
/-- R166: PROBE answers a header word, PSTALL, PSTALL and clears it, or how many slots have readers; 0 for no fold. It emits
2 cycles after issue (log entry 3). -/
def Sys2Proof.Says.Probe : Prop :=
  ∀ (s s1 : State) (c : Ctx) (es : List Nat) (e : Nat) (which : BitVec 2) (n : BitVec 4) (c1 c0 : Cons) (f : Fold) (h : Dword) (t : Tab Dword),
    FiresOnce s c es e → (c.k n.toNat).toNat < 2 ^ 12 →
    let out := fun (v : Dword) => both c1 c0 .s64 [(0, .val v)]
    (Tab.at? c.plot.folds (c.k n.toNat).toNat = none → exec (.probe which n c1 c0) s = .next (complete s c 2 es (out 0))) ∧
    (Tab.at? c.plot.folds (c.k n.toNat).toNat = some f →
      (f.slots ≤ (c.low 0 e).toNat → exec (.probe 0 n c1 c0) s = .next (complete s c 2 es (out 0))) ∧
      ((c.low 0 e).toNat < f.slots → Ok (getHdr s c f (c.low 0 e).toNat) (s1, h) →
        exec (.probe 0 n c1 c0) s = .next (complete s1 c 2 es (out h))) ∧
      exec (.probe 1 n c1 c0) s = .next (complete s c 2 es (out (dw f.pstall.toNat))) ∧
      exec (.probe 2 n c1 c0) s = .next (complete (onPlot s c.f.plot (fun p =>
        { p with folds := Tab.upd p.folds f.sid (fun f => { f with pstall := 0 }) })) c 2 es (out (dw f.pstall.toNat))) ∧
      (Ok (allHdrs s c f) (s1, t) → exec (.probe 3 n c1 c0) s =
        .next (complete s1 c 2 es (out (dw ((t.filter (fun x => decide (hdrReaders x.2 ≠ 0))).length))))))

open Sys2Proof Sys2Proof.Machine Sys2Proof.Claim in
/-- R166: FOLDQ answers a word of the fold's record or its generation, 2 cycles after issue (log entry 3). -/
def Sys2Proof.Says.FoldQuery : Prop :=
  ∀ (s : State) (c : Ctx) (es : List Nat) (e : Nat) (n : BitVec 4) (c1 c0 : Cons), FiresOnce s c es e → (c.k n.toNat).toNat < 2 ^ 15 →
    let sel := (c.k n.toNat).toNat / 2 ^ 12
    let v := match Tab.at? c.plot.folds ((c.k n.toNat).toNat % 2 ^ 12) with
      | none => 0
      | some f => ([f.w0, f.w1, f.w2, f.w3, f.w4, dw f.gen.toNat][sel]?).getD 0
    exec (.foldq n c1 c0) s = .next (complete s c 2 es (both c1 c0 .s64 [(0, .val v)]))

namespace Sys2Proof.Claim
open Sys2Proof.Machine

/-- A REC form, four cycles after its issue, takes effect on the elements it was issued on (R248). -/
abbrev RecTakesEffect (s : State) (c : Ctx) (es : List Nat) (e : Nat) : Prop :=
  ctxOf? s s.cur = some c ∧ s.again = true ∧ heldElems c.inst c.f.slot = es ∧ es.find? (fun e => !c.null e) = some e

/-- The operation of a tile form, the save modes of a and b, and the KS of its control word (R220). -/
def tileForm : Instr → Option (TOp × Save × Save × BitVec 2)
  | .tmma a b k _ _ => some (.mma, a, b, k)
  | .tmmaT a b k _ _ => some (.mmaT, a, b, k)
  | .tmmaSp a b k _ _ => some (.mmaSp, a, b, k)
  | .tadd a b k _ _ => some (.add, a, b, k)
  | .tsub a b k _ _ => some (.sub, a, b, k)
  | .tmul a b k _ _ => some (.mul, a, b, k)
  | .tscaleR a b k _ _ => some (.scaleR, a, b, k)
  | .tscaleC a b k _ _ => some (.scaleC, a, b, k)
  | .tqnt a b k _ _ => some (.qnt, a, b, k)
  | .ttrans a k _ _ => some (.trans, a, .keep, k)
  | .tmaxz a k _ _ => some (.maxz, a, .keep, k)
  | .texp2 a k _ _ => some (.exp2, a, .keep, k)
  | .trsum a k _ _ => some (.rsum, a, .keep, k)
  | .tcsum a k _ _ => some (.csum, a, .keep, k)
  | .trmax a k _ _ => some (.rmax, a, .keep, k)
  | .tcvt a k _ _ => some (.cvt, a, .keep, k)
  | .tcopy a k _ _ => some (.copy, a, .keep, k)
  | .tzero k _ _ => some (.zero, .keep, .keep, k)
  | _ => none

/-- The firing put into the matrix array of its cell, its elements issued. -/
def inArray (s : State) (c : Ctx) (es : List Nat) (j : TileJob) : State :=
  onPlot (onPlot s c.f.plot (fun p => onCell p c.f.cell (fun k => { k with array := k.array ++ [j] }))) c.f.plot (fun p => markIssued p c.f es)

/-- A scalar result of 32 bits. -/
def scalar32 (c1 c0 : Cons) (v : Nat) : List Emit := both c1 c0 .s32 [(0, .val (dw (v % 2 ^ 32)))]

end Sys2Proof.Claim

open Sys2Proof Sys2Proof.Machine Sys2Proof.Claim in
/-- R214, R218-R231: a tile form whose checks pass enters its cell's array with its result, for its occupancy and 7 cycles.
That the sources are read and the result computed at issue is the model's deduction, log entry 31. -/
def Sys2Proof.Says.TileIssue : Prop :=
  ∀ (i : Instr) (s : State) (t : Staged) (c : Ctx) (es : List Nat) (e : Nat) (op : TOp) (sa sb : Save) (ks : BitVec 2),
    FiresOnce s c es e → tileForm i = some (op, sa, sb, ks) →
    let tc := c.k (8 + ks.toNat)
    let refs := tileRefs op tc c e
    let srcs := tileSources c.plot op tc refs
    arrayFree c.plot c.f.cell = true → tileChecks op tc c c.plot refs = none →
    sourceStops c c.plot op tc refs = [] → refs.filterMap (fun o => if o.role = 2 then destStop? c.plot o else none) = [] →
    recordFiring s c op tc refs sa sb = .ok t →
    let r := tileResult c.plot c.f.cell op tc c.inst.first refs
    exec i s = .next (inArray t.s c es
      { firing := c.f, reads := readsNow c.plot srcs, raws := rawSources tc refs, logged := t.logged, kept := t.kept, seed := 0, fault := none,
        raw := tcRD tc, dst := c.val 2 e, bytes := extentD op tc, data := r.1, fx := r.2.1,
        toll := (macsOf op tc).1, macs := r.2.2 * (macsOf op tc).2, occ := occupancy op tc, left := occupancy op tc + 7 })

open Sys2Proof Sys2Proof.Machine Sys2Proof.Claim in
/-- R214-R217: a tile form that is done takes its readers, writes its destination, sets FX, adds its MACs and delivers its
handle or 0. That readers and destination are written at completion is the model's deduction, log entry 31. -/
def Sys2Proof.Says.TileCompletes : Prop :=
  ∀ (s : State) (plot cell : Nat) (p : Plot) (k : Cell) (j : TileJob), Tab.at? s.plots plot = some p → Tab.at? p.cells cell = some k →
    k.array.find? (fun j => j.left == 0) = some j → j.fault = none → lostClaim? p j = none →
    let free := fun (p : Plot) => onCell p cell (fun k => { k with array := k.array.filter (fun x => x != j) })
    let write := fun (p : Plot) => writeDest (j.reads.foldl takeReader p) cell j
    let s1 := onPlot s plot (fun p => { write (free p) with numst := if j.fx = true then (write (free p)).numst ||| 1 else (write (free p)).numst })
    let s2 := if j.macs = 0 then s1 else addToll s1 p.vi j.toll j.macs
    let r := resultRef p j
    exec (.tileComplete plot cell) s = .next (finishScalar s2 j.firing r.1 r.2)

open Sys2Proof Sys2Proof.Machine Sys2Proof.Claim in
/-- R234, R248, R235: REC.ON, REC.OFF and REC.MARK wait four cycles, then take effect on LOGST, LOGPOS and LOGSEG and emit;
that all of it, the emission too, comes in the fourth cycle is log entry 32's. -/
def Sys2Proof.Says.RecordForms : Prop :=
  ∀ (s s1 : State) (c : Ctx) (es : List Nat) (e : Nat) (c1 c0 : Cons) (fresh : Bool) (log : BitVec 3),
    (FiresOnce s c es e →
      let wait := onPlot (onPlot s c.f.plot (fun p => { p with recQ := p.recQ ++ [(4, c.f)] })) c.f.plot (fun p => markHeld p c.f es)
      exec (.recordOn fresh log c1 c0) s = .next wait ∧ exec (.recordOff c1 c0) s = .next wait ∧ exec (.recordMark c1 c0) s = .next wait) ∧
    (RecTakesEffect s c es e →
      let owned := fun (size : Nat) => descFar (logDesc c.plot log.toNat) = true → (logOwner? s c.plot (logDesc c.plot log.toNat) size).isSome = true
      (logRev c.plot = false →
        (fresh = true ∨ logOpen c.plot = false ∨ (log.toNat ≠ logIdx c.plot ∧ logTail c.plot = 0) → owned (descSize (logDesc c.plot log.toNat)) →
          exec (.recordOn fresh log c1 c0) s = .next (complete (onPlot s c.f.plot (fun p => { p with
            logst := setBit (setBit (setBit (withLog p log.toNat (descSize (logDesc c.plot log.toNat))) 63 true) 60 true) 61 false,
            logpos := mkPos 0 noOff, logseg := mkSeg noOff (logDone p) })) c 0 es (scalar32 c1 c0 0))) ∧
        (fresh = false → logOpen c.plot = true → log.toNat = logIdx c.plot → owned (logSize c.plot) →
          exec (.recordOn fresh log c1 c0) s = .next (complete (onPlot s c.f.plot (fun p => { p with
            logst := setBit (setBit p.logst 63 true) 60 true })) c 0 es (scalar32 c1 c0 (logTail c.plot))))) ∧
      exec (.recordOff c1 c0) s = .next (complete (onPlot s c.f.plot (fun p => { p with logst := setBit p.logst 63 false })) c 0 es
        (scalar32 c1 c0 (logTail c.plot))) ∧
      (logOpen c.plot = true →
        appendRecord s c (fun prev => [dw (0xC2 * 2 ^ 56 + prev % 2 ^ 12 * 2 ^ 12), dw (logMark c.plot), 0, 0]) = .ok s1 →
        exec (.recordMark c1 c0) s = .next (complete (onPlot s1 c.f.plot (fun p => { p with
          logst := setBit p.logst 61 false, logseg := mkSeg (logTail c.plot) (logDone p) })) c 0 es (scalar32 c1 c0 (logTail c.plot)))))

open Sys2Proof Sys2Proof.Machine Sys2Proof.Claim in
/-- R237-R241, R249, R251: LOGQ, LOGEXT, and REVERSE, which begins the reversal of the open segment or ends an empty one at
once. The free words are log entry 5's, the 2 cycles to the emissions log entry 3's. -/
def Sys2Proof.Says.LogForms : Prop :=
  ∀ (s s1 s2 s3 : State) (c : Ctx) (es : List Nat) (e : Nat) (which : BitVec 3) (seg : List LogRec) (c1 c0 : Cons), FiresOnce s c es e →
    exec (.logq which c1 c0) s = .next (complete s c 2 es (both c1 c0 .s64 [(0, .val (match which.toNat with
      | 0 => c.plot.logst
      | 1 => c.plot.logpos
      | 2 => c.plot.logseg
      | _ => dw (logSize c.plot - logTail c.plot)))])) ∧
    (c.plot.role = .graph → logOpen c.plot = true → (c.low 0 e).toNat % 32 = 0 →
      let size := logSize c.plot + (c.low 0 e).toNat
      let base := descBase (logDesc c.plot (logIdx c.plot))
      size < 2 ^ 32 →
      (descFar (logDesc c.plot (logIdx c.plot)) = false → inLogSpace c.plot base (base + size) = true) →
      (descFar (logDesc c.plot (logIdx c.plot)) = true → ∃ r b n, regionOf? (viOf s c.plot.vi) base = some r ∧
        Tab.at? (viOf s c.plot.vi).regions r = some (b, n) ∧ base + size ≤ b + n) →
      exec (.logext c1 c0) s = .next (complete (onPlot s c.f.plot (fun p => { p with logst := withLog c.plot (logIdx c.plot) size })) c 2 es
        (scalar32 c1 c0 size))) ∧
    (logOpen c.plot = true → c.plot.rev = none → logRev c.plot = false → logOn c.plot = false → logTrunc c.plot = false →
      openSegment s c c.plot = .ok (s1, seg) → scanFault? c.plot seg [] seg = none → logTail c.plot + 16 * seg.length ≤ logSize c.plot →
      (seg = [] → endReversal s1 c c.f.plot c.plot = .ok s2 →
        exec (.reverse c1 c0) s = .next (complete s2 c 2 es (scalar32 c1 c0 0))) ∧
      (seg ≠ [] →
        logWrite { s1 with ctr := s1.ctr + 2 * seg.length } c c.f.plot c.plot (logTail c.plot)
          ((List.range (2 * seg.length)).map (fun i => Config.freeWord (s1.ctr + i))) = .ok s3 →
        exec (.reverse c1 c0) s = .next (onPlot (onPlot s3 c.f.plot (fun p => { p with
          rev := some { firing := c.f, run := c.inst.run, recs := seg.map (·.off), done := [], next := none, left := 0, srseed := p.srseed },
          logst := setBit p.logst 62 true })) c.f.plot (fun p => markIssued p c.f es))))

open Sys2Proof Sys2Proof.Machine Sys2Proof.Claim in
/-- R250: ADJSEED writes a scalar or a tile as f32 into an adjoint name through the array, which it keeps busy as for the
largest extent (log entry 32). -/
def Sys2Proof.Says.AdjointSeed : Prop :=
  ∀ (s : State) (c : Ctx) (es : List Nat) (e : Nat) (ks : BitVec 2) (f : Fold), FiresOnce s c es e →
    let tc := c.k (8 + ks.toNat)
    let ta := tcTA tc
    let n := 32 * tileCols ta (tcSH tc)
    let ext := n * tileWidth ta / 8
    let scalar := decide (c.kind 0 = .s32)
    let a := seedRef c tc e ext
    let dsid := field (c.val 2 e) 63 52
    let dord := field (c.val 2 e) 39 0
    let d : TRef := { role := 2, raw := false, v := c.val 2 e, kind := .tile, ext := 4 * n, step := 0, tbit := 20, rbit := 13 }
    let srcs : List Source := if scalar = false ∧ a.raw = false then [(a.sid, a.ord, a.keep)] else []
    arrayFree c.plot c.f.cell = true → badSeed? tc = none → c.kind 2 = .tile → foldOf? c.plot dsid = some f → f.adj = true →
    (f.cls = 1 ∨ f.cls = 2) → 4 * n ≤ f.slotBytes →
    (scalar = false → a.kindOk = true) →
    (scalar = false → a.raw = false → ∃ g, foldOf? c.plot a.sid = some g ∧ (g.cls = 1 ∨ g.cls = 2) ∧ ext ≤ g.slotBytes) →
    (scalar = false → a.raw = true → rawBad? c.plot c.f.cell a 0 = none) →
    srcs.filterMap (sourceStop? c c.plot true) = [] → seedStop? c.plot d = none →
    let busy := (max (4 * n) (if scalar = true then 0 else ext) + 255) / 256
    let bytes := if scalar = true then 0 else refData c.plot c.f.cell tc a 0
    exec (.adjseed ks) s = .next (inArray s c es
      { firing := c.f, reads := readsNow c.plot srcs, raws := if scalar = true then [] else rawSources 0 [a], logged := none, kept := [],
        seed := n, fault := none, raw := false, dst := mkHandle dsid 0 false dord, bytes := f.slotBytes,
        data := packPats 32 ((List.range n).map (fun i => if scalar = true then (c.low 0 e).toNat else toF32 (tileElem ta 2048 bytes i).1)),
        fx := false, toll := 0, macs := 0, occ := busy, left := busy + 7 })

namespace Sys2Proof.Claim
open Sys2Proof.Machine

/-- The result of an escape form for an element (R69, R70), on 32-bit words. -/
def legacyElem (c : Ctx) (e : Nat) : Instr → Option Word
  | i =>
    let a := c.low 0 e
    let b := c.low 1 e
    let z := c.low 2 e
    let byte := fun (w : Word) (q : Nat) => w.extractLsb' (8 * q) 8
    match i with
    | .lgcDp4 _ _ => some ([0, 1, 2, 3].foldl (fun (acc : Word) q => acc + (byte a q).signExtend 32 * (byte b q).signExtend 32) z)
    | .lgcSad _ _ => some ([0, 1, 2, 3].foldl (fun (acc : Word) q =>
        acc + (if (byte a q).ult (byte b q) = true then byte b q - byte a q else byte a q - byte b q).setWidth 32) z)
    | .lgcAvg _ _ =>
      let avg := fun q => (((byte a q).setWidth 9 + (byte b q).setWidth 9 + 1) >>> 1).setWidth 8
      some (avg 3 ++ avg 2 ++ avg 1 ++ avg 0)
    | .lgcClamp _ _ =>
      let low := if a.slt b = true then b else a
      some (if z.slt low = true then z else low)
    | .lgcSwz _ _ =>
      let pick := fun q => byte a (b.extractLsb' (2 * q) 2).toNat
      some (pick 3 ++ pick 2 ++ pick 1 ++ pick 0)
    | .lgcCvt8 _ _ => some (BitVec.ofNat 32 (cvt8 a.toNat))
    | _ => none

end Sys2Proof.Claim

open Sys2Proof Sys2Proof.Machine Sys2Proof.Claim in
/-- R67-R70: an escape form joins the queue of its die's smithy and counts toll 9; a completed request delivers the form's
32-bit results. -/
def Sys2Proof.Says.Smithy : Prop :=
  (∀ (i : Instr) (s : State) (c : Ctx) (es : List Nat) (f : Nat → Word), FiresAll s c es → (∀ e, legacyElem c e i = some (f e)) →
    let q := Tab.atD s.smithy c.plot.die []
    let r : SmithyReq := { firing := c.f, first := c.inst.first, vi := c.plot.vi, left := 32, out := es.map (fun e => (e, if c.null e = true then Elem.null else .val ((f e).setWidth 64))) }
    (q.length < 64 → exec i s = .next (onPlot (addToll { s with smithy := Tab.set s.smithy c.plot.die (q ++ [r]) } c.plot.vi 9 1) c.f.plot
      (fun p => markIssued p c.f es))) ∧
    (64 ≤ q.length → exec i s = .next (stallFiring s))) ∧
  (∀ (s : State) (c : Ctx) (die : Nat) (r : SmithyReq) (rest : List SmithyReq), Tab.atD s.smithy die [] = r :: rest →
    ctxOf? s r.firing = some c → c.inst.first = r.first →
    exec (.smithyComplete die) s =
      .next (complete { s with smithy := Tab.put s.smithy die rest [], smithyRest := Tab.set s.smithyRest die 16 } c 0
        (r.out.map (·.1)) (both c.c1 c.c0 .r32 r.out)))

namespace Sys2Proof.Claim
open Sys2Proof.Machine

/-- The firing's elements issued, their results to come. -/
def issuedOn (s : State) (c : Ctx) (es : List Nat) : State := onPlot s c.f.plot (fun p => markIssued p c.f es)

/-- Bytes at an offset of a line, as a line and the mask of what they cover. -/
def bytesAt (o v : Nat) : Line := BitVec.ofNat 1024 (v * 2 ^ (8 * o))

/-- The type and the operation of an atomic (R282). -/
def atomForm : Instr → Option (Ty × AtomOp)
  | .atomAdd ty _ _ => some (ty, .add)
  | .atomFadd ty _ _ => some (ty, .fadd)
  | .atomMin ty _ _ => some (ty, .min)
  | .atomMax ty _ _ => some (ty, .max)
  | .atomBit 0 ty _ _ => some (ty, .and)
  | .atomBit 1 ty _ _ => some (ty, .or)
  | .atomBit 2 ty _ _ => some (ty, .xor)
  | .atomSwap ty _ _ => some (ty, .swap)
  | .atomCas ty _ _ => some (ty, .cas)
  | _ => none

/-- The value that an atomic writes, on words of the width of its type (R282). -/
def atomValue (ty : Ty) (op : AtomOp) (old : Nat) (b c : Dword) : Nat :=
  let w := tyWidth ty
  let x : BitVec w := BitVec.ofNat w old
  let y : BitVec w := b.setWidth w
  let lt := if itSigned (tyInt ty) = true then x.slt y else x.ult y
  match op with
  | .add => (x + y).toNat
  | .fadd => roundF (fmtOf ty) rne false (addF (Machine.decodeF (fmtOf ty) x.toNat) (Machine.decodeF (fmtOf ty) y.toNat))
  | .min => if lt = true ∨ x = y then x.toNat else y.toNat
  | .max => if lt = true then y.toNat else x.toNat
  | .and => (x &&& y).toNat
  | .or => (x ||| y).toNat
  | .xor => (x ^^^ y).toNat
  | .swap => y.toNat
  | .cas => if x = y then (c.setWidth w).toNat else x.toNat

/-- The types of an operation (R282): f32 for ATOM.FADD, and the integers of 32 and 64 bits for the others. -/
def atomType (op : AtomOp) (ty : Ty) : Bool :=
  match ty with
  | .f32 => op == .fadd
  | .i32 | .n32 | .i64 | .n64 => op != .fadd
  | _ => false

/-- The kind of the elements of a type: 64-bit, else 32. -/
def tyKind (ty : Ty) : Kind := if tyWidth ty = 64 then .r64 else .r32

/-- A write taken by a P-cell whose regions are all handed over, or kept there for the token of its region, behind those that came before it
(R263). -/
def takenAt (s : State) (port v va line : Nat) (k : ReqKind) (now : State) : State :=
  match queuedFor? s v port va with
  | none => now
  | some r => onPort s port (fun p => { p with early := p.early ++ [{ vi := v, region := r, line := line, kind := k, who := none }] })

/-- A request as it leaves its P-cell: its home is computed then, once (R295, R307). -/
def leaving (s : State) (r : Req) : Req := if r.sent = true then r else { mkReq s r.port r.vi r.line r.kind with sent := true }

/-- A refused request: of a write, the bytes go back into the buffer of their line (R307). -/
def refused (s : State) (r : Req) : State :=
  let t := match r.kind with
    | .write data mask side by_ => rebuffer s r data mask side by_
    | _ => s
  onPort t r.port (fun p => { p with nacked := p.nacked ++ [r] })

/-- The slice at which the requests of a queue are served; those of queue 64 bypass L2 (R301). -/
def servedAt (slice : Nat) : Option Nat := if slice = 64 then none else some slice

/-- Whether a request is a write of bytes. -/
def isStore : ReqKind → Bool
  | .write .. => true
  | _ => false

/-- A request that a slice or a refusal holds for a line keeps the P-cell's later ones for it back (R292). -/
abbrev free (s : State) (port line : Nat) : Prop :=
  (∀ x ∈ s.slices, ∀ r ∈ x.2.queue, ¬(r.port = port ∧ r.line = line)) ∧ ∀ r ∈ (portOf s port).nacked, r.line ≠ line

end Sys2Proof.Claim

open Sys2Proof Sys2Proof.Machine Sys2Proof.Claim in
/-- R258, R262, R281: LD sends a read of the line, or takes it from the line its cell holds, 2 cycles after issue (log entry
3); ST merges into the coalescer. -/
def Sys2Proof.Says.LoadStore : Prop :=
  ∀ (s s1 : State) (c : Ctx) (e pa : Nat) (ty : Ty) (c1 c0 : Cons), FiresOn s c e →
    let va := vaOf (c.wide 0 e)
    let bytes := tyWidth ty / 8
    let request := issuedOn (sendReq s1 c.port c.plot.vi (pa / 128) (.read (c.reply e va) (pa % 128) ty)) c [e]
    (accessWay s c 0 va bytes .read = .go s1 pa →
      (Tab.at? (portOf s1 c.port).held (pa / 128) = none → exec (.ld ty c1 c0) s = .next request) ∧
      (∀ h, Tab.at? (portOf s1 c.port).held (pa / 128) = some h →
        exec (.ld ty c1 c0) s = .next request ∨
        (h.vi = c.plot.vi ∧ h.plot = c.f.plot ∧ h.cell = c.f.cell ∧ exec (.ld ty c1 c0) s = .next (complete s1 c 2 [e]
          (both c1 c0 (tyKind ty) [(e, .val (widenLoad ty (lineVal h.data (pa % 128) bytes)))]))))) ∧
    (accessWay s c 0 va bytes .write = .go s1 pa →
      let data := bytesAt (pa % 128) ((c.wide 1 e).toNat % 2 ^ tyWidth ty)
      let mask := maskAt (pa % 128) bytes
      exec (.st ty) s = .next (complete (takenAt s1 c.port c.plot.vi va (pa / 128) (.write data mask none [(c.f.plot, c.f.cell)])
        (mergeWrite s1 c.port c.plot.vi (pa / 128) data mask none (c.f.plot, c.f.cell))) c 2 [e] []))

open Sys2Proof Sys2Proof.Machine Sys2Proof.Claim in
/-- R281, R297: PREF fetches a line, and traps only where its cell has no home port, ACCESS with WHY 6, as R258 says and
R281 does not (log entry 17); SLICEOF answers the home slice, or 2^32 - 1 where there is none, 2 cycles after issue (log
entry 3). -/
def Sys2Proof.Says.PrefetchAndSlice : Prop :=
  ∀ (s s1 : State) (c : Ctx) (e pa port : Nat) (c1 c0 : Cons), FiresOn s c e →
    let va := vaOf (c.wide 0 e)
    (homePort? c.plot c.f.cell = none →
      exec .pref s = .next (trapFiring s c.f .access (c.tag e) (dw (6 * 2 ^ 57 + va))) ∧
      exec (.sliceof c1 c0) s = .next (trapFiring s c.f .access (c.tag e) (dw (6 * 2 ^ 57 + va)))) ∧
    (homePort? c.plot c.f.cell = some port →
    (∀ why, translate s (c.via port 0) va .read = .fail s1 (.xlate why) → exec .pref s = .next (complete s1 c 2 [e] [])) ∧
    (translate s (c.via port 0) va .read = .ok s1 pa → (paReserved s1 pa = true ∨ paRemote s1 pa = true) →
      exec .pref s = .next (complete s1 c 2 [e] [])) ∧
    (translate s (c.via port 0) va .read = .ok s1 pa → paReserved s1 pa = false → paRemote s1 pa = false → portRoom s1 port = true →
      exec .pref s = .next (complete (sendReq s1 port c.plot.vi (pa / 128) .prefetch) c 2 [e] [])) ∧
    (∀ why, translate s (c.via port 0) va .none = .fail s1 (.xlate why) →
      exec (.sliceof c1 c0) s = .next (trapFiring s c.f .xlate (c.tag e) (dw (why * 2 ^ 57 + va)))) ∧
    (translate s (c.via port 0) va .none = .ok s1 pa →
      let out := fun (v : Dword) => complete s1 c 2 [e] (both c1 c0 .r32 [(e, .val v)])
      ((paReserved s1 pa = true ∨ homeSlice? s1 c.plot.vi pa = none) → exec (.sliceof c1 c0) s = .next (out 0xFFFFFFFF)) ∧
      (∀ n, paReserved s1 pa = false → homeSlice? s1 c.plot.vi pa = some n → exec (.sliceof c1 c0) s = .next (out (dw n)))))

open Sys2Proof Sys2Proof.Machine Sys2Proof.Claim in
/-- R282: an atomic that may read and write its word is sent to the home slice. -/
def Sys2Proof.Says.AtomicIssue : Prop :=
  ∀ (i : Instr) (s s1 s2 : State) (c : Ctx) (e pa pa' : Nat) (ty : Ty) (op : AtomOp), FiresOn s c e → atomForm i = some (ty, op) →
    let va := vaOf (c.wide 0 e)
    accessWay s c 0 va (tyWidth ty / 8) .write = .go s1 pa' → accessWay s1 c 0 va (tyWidth ty / 8) .read = .go s2 pa →
    let k : ReqKind := .atomic (c.reply e va) (pa % 128) ty op (c.wide 1 e) (c.wide 2 e)
    exec i s = .next (issuedOn (takenAt s2 c.port c.plot.vi va (pa / 128) k
      (dropLine (sendReq s2 c.port c.plot.vi (pa / 128) k) c.port (pa / 128))) c [e])

open Sys2Proof Sys2Proof.Machine Sys2Proof.Claim in
/-- R292, R301, R307: a request enters its home slice's queue, is refused when stale, or waits while the queue is full; a
refused request is sent again. -/
def Sys2Proof.Says.SliceQueue : Prop :=
  ∀ (s : State) (port : Nat) (r : Req) (rest : List Req),
    let u := usePortSlot s port
    ((portOf s port).out = r :: rest → free s port r.line → slotServes s port r = false → exec (.sliceRequest port) s = .next s) ∧
    ((portOf s port).out = r :: rest → free s port r.line → slotServes s port r = true →
      let x := leaving s r
      let gone := onPort u port (fun p => { p with out := rest })
      (reqCurrent s x = false → exec (.sliceRequest port) s = .next (refused gone x)) ∧
      (reqCurrent s x = true → reqQueue s x ≠ 64 →
        let q := (sliceOf s (reqQueue s x)).queue
        let enters := fun (o : Bool) => onSlice gone (reqQueue s x) (fun sl => { sl with queue := sl.queue ++ [{ x with owned := o }] })
        ((q.filter (fun r => !r.owned)).length < 48 → exec (.sliceRequest port) s = .next (enters false)) ∧
        (48 ≤ (q.filter (fun r => !r.owned)).length → ownsSlot s x.vi = true → (q.filter (fun r => r.owned)).length < 16 →
          exec (.sliceRequest port) s = .next (enters true)) ∧
        (48 ≤ (q.filter (fun r => !r.owned)).length → (ownsSlot s x.vi = false ∨ 16 ≤ (q.filter (fun r => r.owned)).length) →
          exec (.sliceRequest port) s = .next s)) ∧
      (x.part = 64 → exec (.sliceRequest port) s = .next (onSlice gone 64 (fun sl =>
        { sl with queue := sl.queue ++ [{ x with owned := false }] })))) ∧
    ((portOf s port).nacked = r :: rest →
      let again := fun (k : ReqKind) => ({ mkReq s port r.vi r.line k with sent := true } : Req)
      (isStore r.kind = false → exec (.nackResend port) s =
        .next (onPort s port (fun p => { p with nacked := rest, out := again r.kind :: p.out }))) ∧
      (isStore r.kind = true →
        (∀ b, Tab.at? (portOf s port).lines r.line = some b → exec (.nackResend port) s = .next (onPort s port (fun p => { p with
          nacked := rest, lines := Tab.del p.lines r.line, out := again (.write b.data b.mask b.side b.by_) :: p.out }))) ∧
        (Tab.at? (portOf s port).lines r.line = none →
          exec (.nackResend port) s = .next (onPort s port (fun p => { p with nacked := rest })))))

open Sys2Proof Sys2Proof.Machine Sys2Proof.Claim in
/-- R278, R281, R282, R292, R430: the head of a slice's queue is served: reads, prefetches, writes, the reads and writes of
streams, and atomics, which write the value that R282 gives and answer the old one. -/
def Sys2Proof.Says.SliceServes : Prop :=
  ∀ (s : State) (slice : Nat) (r : Req) (rest : List Req), (sliceOf s slice).queue = r :: rest →
    let t := onSlice s slice (fun sl => { sl with queue := rest })
    let g := fun (n : Nat) => fetchAt (servedAt slice) t (dieOf? r.port) r.vi r.line n
    (∀ rpl off ty, r.kind = .read rpl off ty →
      let g := g (tyWidth ty / 8)
      (g.poison = true → exec (.ldReply slice) s = .next (replyPoison g.s rpl)) ∧
      (g.poison = false →
        let keep : HeldLine := { vi := r.vi, plot := rpl.firing.plot, cell := rpl.firing.cell, data := g.data }
        let holds := if newerWrite g.s r.port r.line = true then g.s else onPort g.s r.port (fun p => { p with held := Tab.set p.held r.line keep })
        exec (.ldReply slice) s = .next (replyValue holds rpl
          (tyWidth ty == 64) (widenLoad ty (lineVal g.data off (tyWidth ty / 8)))))) ∧
    (r.kind = .prefetch → exec (.ldReply slice) s = .next (g 0).s) ∧
    (∀ data mask side by_, r.kind = .write data mask side by_ →
      exec (.writeAcknowledge slice) s = .next (storeAt (servedAt slice) t (dieOf? r.port) r.vi r.line data mask side)) ∧
    (∀ ctx handle ord, r.kind = .streamRead ctx handle ord →
      let die := fetchDie t r.port ctx ord
      let g := fetchAt (servedAt slice) t die r.vi r.line 128
      exec (.ldReply slice) s = .next (streamLine (carry g.s r.vi 128 die (dieOf? r.port)) r.port ctx handle ord g)) ∧
    (∀ ctx handle n data mask die, r.kind = .streamWrite ctx handle n data mask die →
      exec (.writeAcknowledge slice) s = .next (onPort (storeAt (servedAt slice) t die r.vi r.line data mask none) r.port (fun p => { p with
        ctxs := Tab.upd p.ctxs ctx (fun t => if t.handle = handle then { t with sent := t.sent - n, performed := t.performed + n } else t) }))) ∧
    (∀ rpl off ty op b c, r.kind = .atomic rpl off ty op b c → atomJob? s rpl = none → atomType op ty = true →
      let g := g 0
      (g.poison = true → exec (.atomicPerform slice) s = .next (replyPoison g.s rpl)) ∧
      (g.poison = false →
        let old := lineVal g.data off (tyWidth ty / 8)
        exec (.atomicPerform slice) s = .next (replyValue (onPort (storeAt (servedAt slice) g.s (dieOf? r.port) r.vi r.line (bytesAt off (atomValue ty op old b c))
          (maskAt off (tyWidth ty / 8)) none) r.port (fun p => { p with held := Tab.del p.held r.line })) rpl (tyWidth ty == 64)
          (widenLoad ty old))))

open Sys2Proof Sys2Proof.Machine Sys2Proof.Claim in
/-- R271, R281, R430: a reply resolves its element and delivers its value; a poisoned one traps ACCESS with WHY 3. One whose
firing is gone changes nothing. -/
def Sys2Proof.Says.ReplyDelivers : Prop :=
  ∀ (s : State) (rpl : Reply) (wide : Bool) (v : Dword),
    (∀ c, ctxOf? s rpl.firing = some c → c.inst.first = rpl.first →
      replyValue s rpl wide v = complete s c 0 [rpl.elem] (both c.c1 c.c0 (if wide = true then .r64 else .r32) [(rpl.elem, .val v)]) ∧
      replyPoison s rpl = onPlot s rpl.firing.plot (fun p => takeTrap (unissue p rpl.firing [rpl.elem]) .access (rpl.first + rpl.elem)
          (dw (3 * 2 ^ 57 + rpl.va % 2 ^ 57)) (tcellOf p rpl.firing.cell rpl.firing.bidx rpl.firing.slot) [])) ∧
    (ctxOf? s rpl.firing = none → replyValue s rpl wide v = s ∧ replyPoison s rpl = s)

open Sys2Proof Sys2Proof.Machine Sys2Proof.Claim in
/-- R262, R307: a coalescer line that is flushed becomes a write to its home; a write that was refused keeps its buffer,
into which later writes of the line merge. -/
def Sys2Proof.Says.Coalescer : Prop :=
  ∀ (s : State) (port line : Nat),
    (∀ b, Tab.at? (portOf s port).lines line = some b → exec (.coalescerFlush port line) s = .next (onPort s port (fun p => { p with
      lines := Tab.del p.lines line, out := p.out ++ [mkReq s port b.vi line (.write b.data b.mask b.side b.by_)] }))) ∧
    (∀ v data mask side by_, Tab.at? (portOf s port).lines line = none → (portOf s port).lines.length < 64 → mask ≠ BitVec.allOnes 128 →
      mergeWrite s port v line data mask side by_ = onPort s port (fun p => { p with
        lines := Tab.set p.lines line { data := mergeLine 0 data mask, mask := mask, vi := v, by_ := [by_], age := 0, side := side }
        held := Tab.del p.held line })) ∧
    (∀ r data mask side by_, r.port = port → r.line = line → Tab.at? (portOf s port).lines line = none → (portOf s port).lines.length < 64 →
      rebuffer s r data mask side by_ = onPort s port (fun p => { p with
        lines := Tab.set p.lines line { data := mergeLine 0 data mask, mask := mask, vi := r.vi, by_ := by_, age := 0, side := side } })) ∧
    (∀ r data mask side by_ b, r.port = port → r.line = line → Tab.at? (portOf s port).lines line = some b → b.vi = r.vi →
      rebuffer s r data mask side by_ = onPort s port (fun p => { p with
        lines := Tab.set p.lines line { b with
          data := mergeLine (mergeLine 0 data mask) b.data b.mask, mask := b.mask ||| mask, by_ := (by_ ++ b.by_).eraseDups
          side := if b.side = none then side else b.side } }))

namespace Sys2Proof.Claim
open Sys2Proof.Machine

/-- The direction, the constant words, COPY.MM, and the consumers of a copy (R283). -/
def copyForm : Instr → Option (Nat × Nat × Bool × Cons × Cons)
  | .copy dir n c1 c0 => some (dir.toNat, n.toNat, false, c1, c0)
  | .copyMm n c0 => some (0, n.toNat, true, 0x1FF#9, c0)
  | _ => none

/-- The scalar 0 of 32 bits that a completed form emits. -/
def zero32 (c1 c0 : Cons) : List Emit := both c1 c0 .s32 [(0, .val 0)]

/-- What a fence waits for and drops (R285): whether it releases, whether it acquires; its scope. -/
def fenceForm : Instr → Option (Bool × Bool × BitVec 3 × Cons × Cons)
  | .fenceAcq scope c1 c0 => some (false, true, scope, c1, c0)
  | .fenceRel scope c1 c0 => some (true, false, scope, c1, c0)
  | .fenceAr scope c1 c0 => some (true, true, scope, c1, c0)
  | _ => none

/-- The lines that P-cells hold for the reads of a plot dropped, as every release and acquire does (R285, R317). -/
def readsAnew (s : State) (plot : Nat) : State :=
  { s with pcells := s.pcells.map (fun x => (x.1, { x.2 with held := x.2.held.filter (fun h => h.2.plot != plot) })) }

/-- Whether a write of the firing's cell that has issued before it is not performed (R285). -/
abbrev writesBefore (s : State) (c : Ctx) : Prop := writesPending s c.f.plot c.f.cell = true ∨ ownEarlier s c Ctx.writesMem = true

/-- Whether a read of the firing's cell that has issued before it is not performed (R285). -/
abbrev readsBefore (s : State) (c : Ctx) : Prop := readsPending s c.f.plot c.f.cell = true ∨ ownEarlier s c Ctx.readsMem = true

/-- The entries that TLBINV drops (R290): every size of the page at a, every entry of VI a, or those from guest-physical page b. -/
def invalidates (c : Ctx) (ks : BitVec 2) (a b : Dword) (t : TlbEntry) : Bool :=
  if ks = 0 then t.vi == c.plot.vi && t.va == vaOf a / 2 ^ t.lg * 2 ^ t.lg
  else if ks = 1 then t.vi == a.toNat % 512
  else t.vi == a.toNat % 512 && t.gpa / 2 ^ t.lg2 == b.toNat / 2 ^ t.lg2

end Sys2Proof.Claim

open Sys2Proof Sys2Proof.Machine Sys2Proof.Claim in
/-- R283, R284: COPY and COPY.MM are accepted by the home P-cell with their translated addresses, after the copies that
their cell issued before; COPY emits 2 cycles after acceptance (log entry 3). -/
def Sys2Proof.Says.CopyIssue : Prop :=
  ∀ (i : Instr) (s s1 s2 : State) (c : Ctx) (es : List Nat) (e dir n port sc : Nat) (mm : Bool) (c1 c0 : Cons) (src dsts : List Nat),
    FiresOnce s c es e → copyForm i = some (dir, n, mm, c1, c0) → homePort? c.plot c.f.cell = some port →
    let k2 := c.k (n + 2)
    let k3 := c.k (n + 3)
    let va := vaOf (c.k2 n)
    let dst := if dir = 2 then vaOf (c.wide 1 e) else va
    let len := k3.toNat % 2 ^ 24
    let bf := k3.toNat / 2 ^ 30
    ownEarlier s c (fun d => d.copies || d.writesMem) = false →
    copyField? (dir == 2) k2 k3 = none → len ≠ 0 → len % 64 = 0 →
    (if dir = 2 then sc = 0 else rawNear c.plot c.f.cell k2.toNat (len + headerBytes bf len) = .ok sc) →
    let fromMem := if dir = 0 ∨ dir = 2 then [(va, len)] else []
    let toMem := if dir = 0 then [] else [(dst, len)]
    let way := fun (src : Nat) => { c.via port src with need := fromMem ++ toMem }
    (if dir = 0 ∨ dir = 2 then va % 64 = 0 ∧ copySide s c (way 1) va (len / 64) .read = .inl (.ok s1 src) else s1 = s ∧ src = []) →
    (if dir = 0 then s2 = s1 ∧ dsts = []
      else dst % 64 = 0 ∧ copySide s1 c (way 2) dst (len / 64) .write = .inl (.ok s2 dsts)) →
    let job : CopyJob :=
      { plot := c.f.plot, cell := c.f.cell, vi := c.plot.vi, dir := dir, scell := sc, off := k2.toNat % 2 ^ 18,
        len := len, src := src, dst := dsts, bf := bf, done := 0, mm := if mm = true then some (c.f, k2.setWidth 64) else none,
        awaits := if dir = 0 then [] else copyAwaits s2 c.plot.vi port dst (len / 64) }
    let s3 := onPort s2 port (fun p => { p with copies := p.copies ++ [job] })
    exec i s = .next (if mm = true then issuedOn s3 c es else complete s3 c 2 es (zero32 c1 c0))

open Sys2Proof Sys2Proof.Machine Sys2Proof.Claim in
/-- R283, R284: a copy moves between near memory and memory, 64 bytes at a time where R284 says lines, which is the model's
choice (log entry 69); COPY.MM then delivers its raw reference. -/
def Sys2Proof.Says.CopyMoves : Prop :=
  ∀ (s : State) (port : Nat) (j : CopyJob) (rest : List CopyJob), (portOf s port).copies = j :: rest →
    let u := j.done
    let moved := fun (x : State) => onPort x port (fun p => { p with copies :=
      if j.len ≤ 64 * (u + 1) ∧ j.mm = none then rest else { j with done := u + 1 } :: rest })
    (64 * u < j.len → j ∉ rest → j.bf = 0 → unitReady s port j = true →
      (∀ pa, j.src[u]? = some pa → j.dst[u]? = none →
        let g := readLine s port j.vi (pa / 128) 64
        exec (.copyPerform port) s = .next (moved (onNear g.s j.plot j.scell (fun m =>
          writeN m 64 (j.off + 64 * u) (g.data.toNat / 2 ^ (8 * (pa % 128)) % 2 ^ 512))))) ∧
      (∀ p pa, j.src[u]? = none → j.dst[u]? = some pa → Tab.at? s.plots j.plot = some p →
        exec (.copyPerform port) s = .next (moved (writeUnit s port j.vi pa 0 (readN (nearOf p j.scell) 64 (j.off + 64 * u)) 0))) ∧
      (∀ pa pb, j.src[u]? = some pa → j.dst[u]? = some pb →
        let g := readLine s port j.vi (pa / 128) 64
        exec (.copyPerform port) s = .next (moved (writeUnit g.s port j.vi pb 0 (g.data.toNat / 2 ^ (8 * (pa % 128)) % 2 ^ 512)
          (g.side.toNat % 2 ^ 16))))) ∧
    (∀ f v, j.len ≤ 64 * u → j.mm = some (f, v) →
      exec (.copyMmDeliver port) s = .next (finishScalar (onPort s port (fun p => { p with copies := rest })) f .s64 v))

open Sys2Proof Sys2Proof.Machine Sys2Proof.Claim in
/-- R285: a fence with release waits for the cell's pending writes, one with acquire for its pending reads, and drops the
lines its plot's home ports hold. That at system scope it waits for every unit that is to be written back is log entry
18's; the 2 cycles to the emission are log entry 3's. -/
def Sys2Proof.Says.Fences : Prop :=
  ∀ (i : Instr) (s : State) (c : Ctx) (es : List Nat) (e port : Nat) (rel acq : Bool) (scope : BitVec 3) (c1 c0 : Cons),
    FiresOnce s c es e → fenceForm i = some (rel, acq, scope, c1, c0) → homePort? c.plot c.f.cell = some port →
    let s1 := if rel = true then flushAll s port else s
    (¬(rel = true ∧ writesBefore s1 c) → ¬(acq = true ∧ readsBefore s1 c) →
      let s2 := if rel = true ∧ scope = 5 then
        writeBackWhere s1 (fun l => l.vi == c.plot.vi && decide (2 ^ 42 ≤ 128 * l.line % 2 ^ 46)) else s1
      exec i s = .next (complete (readsAnew s2 c.f.plot) c 2 es (zero32 c1 c0))) ∧
    (rel = true ∧ writesBefore s1 c ∨ acq = true ∧ readsBefore s1 c → exec i s = .next (stallFiring s1))

open Sys2Proof Sys2Proof.Machine Sys2Proof.Claim in
/-- R286, R287: DRAIN waits for the cell's copies and far writes back every dirty line of the VI (log entry 18); QFENCE
joins the streams it names and drops their windows, and has no staging read to wait for where STG is set (log entry 7).
The 2 cycles to the emissions are log entry 3's. -/
def Sys2Proof.Says.DrainAndQfence : Prop :=
  ∀ (s : State) (c : Ctx) (es : List Nat) (e port : Nat) (mem : BitVec 2) (n : BitVec 4) (c1 c0 : Cons), FiresOnce s c es e →
    homePort? c.plot c.f.cell = some port →
    let waits := ownEarlier s c (fun d => d.copies && (d.copiesOut == (mem != 0)))
    (waits = false → (∀ j ∈ (portOf s port).copies, j.plot = c.f.plot → j.cell = c.f.cell → (j.dir = 0 ↔ mem = 0) → j.len ≤ 64 * j.done) →
      exec (.drain mem c1 c0) s =
        .next (complete (readsAnew (if mem = 2 then writeBackVi s c.plot.vi else s) c.f.plot) c 2 es (zero32 c1 c0))) ∧
    (waits = true ∨ (∃ j ∈ (portOf s port).copies, j.plot = c.f.plot ∧ j.cell = c.f.cell ∧ (j.dir = 0 ↔ mem = 0) ∧ 64 * j.done < j.len) →
      exec (.drain mem c1 c0) s = .next (stallFiring s)) ∧
    (let w := c.k n.toNat
     let reeve := c.plot.role == .reeve
     let target := if reeve = true then 384
       else 96 * (w.extractLsb' 23 2).toNat + 24 * (w.extractLsb' 21 2).toNat + (w.extractLsb' 16 5).toNat
     w.extractLsb' 27 5 = 0 → (reeve = true ∨ ((w.extractLsb' 23 2).toNat = c.plot.die ∧ (w.extractLsb' 16 5).toNat < 24)) →
     granted c.plot target = true →
     let joins := fun (k : Nat) (t : Stream) => w.getLsbD k && t.plot == c.f.plot
     let s1 := flushWindows (if w.getLsbD 25 = true then flushAll s port else s) target joins
     ¬(w.getLsbD 25 = true ∧ (writesBefore s1 c ∨ readsBefore s1 c)) →
     (∀ x ∈ (portOf s1 target).ctxs, joins x.1 x.2 = true →
       if x.2.writes = true then x.2.accepted ≤ x.2.performed else ∀ l ∈ x.2.slines, l.data ≠ none) →
     let s2 := onPort s1 target (fun p => { p with
       ctxs := p.ctxs.map (fun x => (x.1, if joins x.1 x.2 = true then x.2.dropWindow else x.2)) })
     exec (.qfence n c1 c0) s = .next (complete (readsAnew s2 c.f.plot) c 2 es (zero32 c1 c0)))

open Sys2Proof Sys2Proof.Machine Sys2Proof.Claim in
/-- R263: OWN stops the old owner, waits for its writes, and sends the token; the owner alone may. -/
def Sys2Proof.Says.OwnHandsOver : Prop :=
  ∀ (s : State) (c : Ctx) (es : List Nat) (e port : Nat) (n : BitVec 4) (c1 c0 : Cons), FiresOnce s c es e →
    homePort? c.plot c.f.cell = some port → (c.k n.toNat).toNat < 2 ^ 17 →
    let w := c.k n.toNat
    let region := w.toNat % 256
    let dest := 96 * (w.extractLsb' 15 2).toNat + 24 * (w.extractLsb' 13 2).toNat + (w.extractLsb' 8 5).toNat
    (∀ q, (∀ h ∈ (portOf s port).tokens, h.firing = c.f → h.sent = true) → (w.extractLsb' 8 5).toNat < 24 →
      Tab.at? (viOf s c.plot.vi).owners region = some { port := port, here := true, plot := c.f.plot } → grantee? s c.plot.vi dest = some q →
      let before := anyEarlier s c (fun d => d.writesMem && d.plot.vi == c.plot.vi && homePort? d.plot d.f.cell == some port)
      (before = true → exec (.own n c1 c0) s = .next (stallFiring s)) ∧
      let taken := onVi s c.plot.vi (fun vi => { vi with owners := Tab.set vi.owners region { port := dest, here := false, plot := q } })
      let token : HandOver := { vi := c.plot.vi, region := region, dest := dest, firing := c.f, sent := false }
      (before = false → exec (.own n c1 c0) s =
        .next (stallFiring (flushAll (onPort taken port (fun p => { p with tokens := p.tokens ++ [token] })) port)))) ∧
    (∀ h, (portOf s port).tokens = [h] → h.firing = c.f → h.sent = false →
      let s1 := flushWindows (flushAll s port) port (fun _ t => t.vi == c.plot.vi)
      (portWrites s1 port c.plot.vi = true → exec (.own n c1 c0) s = .next (stallFiring s1)) ∧
      (portWrites s1 port c.plot.vi = false → exec (.own n c1 c0) s =
        .next (complete (readsAnew (onPort s1 port (fun p => { p with
          tokens := p.tokens.map (fun k => if k = h then { h with sent := true } else k) })) c.f.plot) c 2 es (zero32 c1 c0)))) ∧
    (∀ o, Tab.at? (viOf s c.plot.vi).owners region = some o → o.port ≠ port → (∀ h ∈ (portOf s port).tokens, h.firing = c.f → h.sent = true) →
      exec (.own n c1 c0) s = .next (trapFiring s c.f .access c.inst.first (dw (5 * 2 ^ 61))))

open Sys2Proof Sys2Proof.Machine Sys2Proof.Claim in
/-- R263: the token makes the new owner the owner. -/
def Sys2Proof.Says.TokenOfHandOver : Prop :=
  ∀ (s : State) (port : Nat) (h : HandOver) (rest : List HandOver), (portOf s port).tokens = h :: rest → h.sent = true →
    let s1 := onVi (onPort s port (fun p => { p with tokens := rest })) h.vi (fun vi => { vi with
      owners := Tab.upd vi.owners h.region (fun o => if o.port = h.dest then { o with here := true } else o) })
    let mine := fun (w : EarlyWrite) => w.vi == h.vi && w.region == h.region
    let s2 := onPort s1 h.dest (fun p => { p with early := p.early.filter (fun w => !mine w) })
    tokenHere s1 h.dest h.vi h.region = true →
    (∀ w ∈ (portOf s1 h.dest).early, w.who = none ∧ (mine w = false → tokenHere s1 h.dest w.vi w.region = false)) →
    exec (.ownTokenArrival port) s =
      .next (((portOf s1 h.dest).early.filter mine).foldl (fun s w => takeWrite s h.dest w.vi w.line w.kind) s2)

open Sys2Proof Sys2Proof.Machine Sys2Proof.Claim in
/-- R290: TLBINV drops entries by address, by VI, or by guest-physical page, of one P-cell or of all. -/
def Sys2Proof.Says.Tlbinv : Prop :=
  ∀ (s : State) (c : Ctx) (es : List Nat) (e : Nat) (all : Bool) (ks : BitVec 2) (c1 c0 : Cons), FiresOnce s c es e →
    let a := c.wide 0 e
    let b := c.wide 1 e
    let hit := invalidates c ks a b
    let v := if ks = 0 then c.plot.vi else a.toNat % 512
    c.plot.role ≠ .graph → (ks = 0 ∨ a.toNat < 512) → (ks = 2 → isVi0 c.plot = true) →
    (ks = 1 → a.toNat % 512 ≠ c.plot.vi → isVi0 c.plot = true) →
    let s1 := onVi s v (fun vi => { vi with walked := [] })
    (all = true → exec (.tlbinv all ks c1 c0) s = .next (complete { s1 with
      pcells := s1.pcells.map (fun x => (x.1, dropEntries hit v x.2)), tlb2 := s1.tlb2.map (fun x => (x.1, x.2.filter (fun t => !hit t))) }
      c 2 es (zero32 c1 c0))) ∧
    (∀ port, all = false → homePort? c.plot c.f.cell = some port →
      exec (.tlbinv all ks c1 c0) s = .next (complete (onPort s1 port (dropEntries hit v)) c 2 es (zero32 c1 c0)))

namespace Sys2Proof.Claim
open Sys2Proof.Machine

/-- A scalar of 64 bits to both consumers. -/
def scalar64 (c1 c0 : Cons) (v : Nat) : List Emit := both c1 c0 .s64 [(0, .val (dw v))]

/-- A stream that generates, or performs, in a plot that lets it (R278, R423, R424). -/
abbrev generates (s : State) (port ctx : Nat) (t : Stream) : Prop :=
  Tab.at? (portOf s port).ctxs ctx = some t ∧ t.canRun s = true ∧
  ∃ p, Tab.at? s.plots t.plot = some p ∧ p.frozen = false ∧ p.stop = .none

/-- The handle of R288: GEN, DIE, PEDGE, PIDX, CTX. -/
def streamId (gen port ctx : Nat) : Nat :=
  gen * 2 ^ 24 + port / 96 * 2 ^ 22 + port % 96 / 24 * 2 ^ 20 + port % 24 * 2 ^ 15 + ctx * 2 ^ 11

/-- The ordinal of a tag that lies in a stream (R277). -/
def ordinal? (t : Stream) (tag : Nat) : Option Nat :=
  if t.tbase ≤ tag ∧ tag - t.tbase < t.total then some (tag - t.tbase) else none

/-- A PULL stream after the ordinals of a run have been taken (R279): a line is released once all its elements are. -/
def takenFrom (t : Stream) (took : Nat → Bool) : Stream :=
  let lines := t.slines.map (fun l => { l with left := l.left - ((List.range l.count).filter (fun i => took (l.ord + i))).length })
  Stream.release { t with queue := t.queue.filter (fun x => !took x.1), slines := lines }

/-- The next store of a write stream: its ordinal and its bytes, from the queue or from the ring (R278). -/
def stored (t : Stream) (near : Memory) : Option (Nat × Nat) :=
  if t.mode = 2 then
    if t.cons + t.esz ≤ t.prod ∧ t.next < t.total then
      some (t.next, readN near t.esz (((t.w 5).extractLsb' 0 18).toNat + t.cons % Nat.max 1 t.ring)) else none
  else match Tab.at? t.queue t.next with
    | some (o, .val v) => if o < t.total then some (o, v.toNat % 2 ^ (8 * t.esz)) else none
    | _ => none

/-- A write stream past its next store. -/
def pastStore (t : Stream) : Stream :=
  { t with next := t.next + 1, queue := Tab.del t.queue t.next, cons := if t.mode = 2 then t.cons + t.esz else t.cons }

end Sys2Proof.Claim

open Sys2Proof Sys2Proof.Machine Sys2Proof.Claim in
/-- R288, R257: AG.OPEN takes a free context, its generation and, for a windowed stream, its window, and emits the handle. -/
def Sys2Proof.Says.StreamOpens : Prop :=
  ∀ (s s1 : State) (c : Ctx) (es : List Nat) (e ctx : Nat) (n : BitVec 4) (c1 c0 : Cons) (d : List Dword), FiresOnce s c es e →
    let va := vaOf (c.k2 n.toNat)
    let port := descPort c.plot d
    let wlg := ((d[7]?).getD 0).toNat / 2 ^ 48 % 256
    let win := windowFor? s1 c.plot.vi wlg
    let s2 := match win with
      | none => s1
      | some w => takeWindow s1 c.plot.vi wlg w
    let opens := Tab.atD (portOf s2 port).gens ctx 0
    let route := streamRoute port ctx opens
    let t : Stream :=
      { plot := c.f.plot, vi := c.plot.vi, desc := d, addr := va, gen := opens % 256, handle := streamId (opens % 256) port ctx, route := route,
        asked := 0, slines := [], next := 0, queue := [], accepted := 0, sent := 0, performed := 0, prod := 0, cons := 0, granted := 0,
        waiter := none, windowed := win.isSome, givers := (win.map (·.1)).getD [], share := (win.map (·.2)).getD 0, head := 0, tail := 0,
        wlines := [], frozen := false, closing := false, feat6 := c.blk.feat.getLsbD 6, ended := false }
    cellRead s c e 3 va 8 = .ok s1 d → va % 64 = 0 → descFault? c.plot d = none → port < 384 →
    (((d[6]?).getD 0).getLsbD 8 = true → patternInRegion (viOf s1 c.plot.vi) d = true) → freeContext? s1 c.f.plot c.plot d = some ctx →
    exec (.agOpen n c1 c0) s = .next (complete (onPlot (onPort s2 port (fun p => { p with
        ctxs := Tab.set p.ctxs ctx t, gens := Tab.set p.gens ctx (opens + 1) })) c.f.plot (fun p => addStreamRoute p route d)) c 2 es
      (scalar32 c1 c0 t.handle))

open Sys2Proof Sys2Proof.Machine Sys2Proof.Claim in
/-- R289: SRD answers each element of its run, null outside the stream; it waits for elements not yet fetched. -/
def Sys2Proof.Says.StreamReads : Prop :=
  ∀ (s : State) (c : Ctx) (es : List Nat) (e port ctx : Nat) (c1 c0 : Cons) (t : Stream), FiresOnce s c es e →
    streamOf? s c (c.low 0 e).toNat = some (port, ctx, t) → t.writes = false → t.mode = 1 →
    ((∀ i < c.inst.len, (ordinal? t (c.tag i)).all (fun o => Tab.has t.queue o) = true) →
      exec (.srd c1 c0) s = .next (complete (onStream s port ctx (fun u => takenFrom u (fun o =>
          (List.range c.inst.len).any (fun i => ordinal? t (c.tag i) == some o)))) c 2 es
        (both c1 c0 (if t.esz = 8 then .r64 else .r32) ((List.range c.inst.len).map (fun i =>
          (i, if t.tbase ≤ c.tag i then ((Tab.at? t.queue (c.tag i - t.tbase)).map (fun x => x.2)).getD .null else .null)))))) ∧
    (∀ i o, i < c.inst.len → ordinal? t (c.tag i) = some o → Tab.has t.queue o = false → exec (.srd c1 c0) s = .next (stallFiring s))

open Sys2Proof Sys2Proof.Machine Sys2Proof.Claim in
/-- R289: SWR is accepted into the queue, or traps ACCESS with WHY 5 outside the stream. -/
def Sys2Proof.Says.StreamWrites : Prop :=
  ∀ (s : State) (c : Ctx) (e port ctx : Nat) (t : Stream), FiresOn s c e → streamOf? s c (c.low 0 e).toNat = some (port, ctx, t) →
    t.writes = true → t.mode ≠ 2 → t.closing = false →
    (∀ o, ordinal? t (c.tag e) = some o → t.queue.length < t.cap →
      exec .swr s = .next (complete (onStream s port ctx (fun u => { u with
        queue := Tab.set u.queue u.accepted (c.tag e - u.tbase, .val (c.wide 1 e)), accepted := u.accepted + 1 })) c 2 [e] [])) ∧
    (∀ o, ordinal? t (c.tag e) = some o → t.cap ≤ t.queue.length → exec .swr s = .next (stallFiring s)) ∧
    (ordinal? t (c.tag e) = none → exec .swr s = .next (trapFiring s c.f .access (c.tag e) (dw (3 * 2 ^ 61 + 5 * 2 ^ 57))))

open Sys2Proof Sys2Proof.Machine Sys2Proof.Claim in
/-- R287, R289: WAITQ waits until the stores that the stream had accepted when it issued are performed, AG.CLOSE until all
accepted are, and emit the count; a read stream closes at once. The 2 cycles to the emissions are log entry 3's. -/
def Sys2Proof.Says.StreamEnds : Prop :=
  ∀ (s s1 : State) (c : Ctx) (es : List Nat) (e port ctx : Nat) (scope : BitVec 3) (c1 c0 : Cons) (t : Stream), FiresOnce s c es e →
    streamOf? s c (c.low 0 e).toNat = some (port, ctx, t) →
    let n := (noted? s c).getD t.accepted
    let closing := onStream s port ctx (fun t => { t with closing := true })
    (t.writes = true → settleStream s port ctx n t = (s1, true) →
      exec (.waitq scope c1 c0) s = .next (complete (readsAnew (reachScope s1 c.plot.vi scope) c.f.plot) c 2 es (scalar64 c1 c0 n))) ∧
    (t.writes = true → settleStream s port ctx n t = (s1, false) →
      exec (.waitq scope c1 c0) s = .next (stallFiring (noteWait s1 c.f c.inst.run n))) ∧
    (t.writes = true → settleStream closing port ctx t.accepted t = (s1, true) →
      exec (.agClose c1 c0) s = .next (complete (closeStream (readsAnew s1 c.f.plot) port ctx t) c 2 es (scalar64 c1 c0 t.accepted))) ∧
    (t.writes = true → settleStream closing port ctx t.accepted t = (s1, false) → exec (.agClose c1 c0) s = .next (stallFiring s1)) ∧
    (t.writes = false → exec (.agClose c1 c0) s =
      .next (complete (closeStream (readsAnew closing c.f.plot) port ctx t) c 2 es (scalar64 c1 c0 (t.next - t.queue.length))))

open Sys2Proof Sys2Proof.Machine Sys2Proof.Claim in
/-- R289: M.ACCEPT and M.PUSH hand over ring bytes as raw references, or wait. -/
def Sys2Proof.Says.StreamRings : Prop :=
  ∀ (s : State) (c : Ctx) (es : List Nat) (e port ctx : Nat) (c1 c0 : Cons) (t : Stream), FiresOnce s c es e →
    streamOf? s c (c.low 0 e).toNat = some (port, ctx, t) → t.mode = 2 → 0 < t.ring →
    let n := (c.low 1 e).toNat
    let ref := fun (x : State) (pos : Nat) => both c1 c0 .s64 [(0, Elem.val (rawRef x c.plot c.f.cell (descScell t.desc)
      (((t.w 5).extractLsb' 0 18).toNat + pos % t.ring)))]
    n ≠ 0 → n % 64 = 0 →
    (t.writes = false → (t.cons + t.granted) % t.ring + n ≤ t.ring → t.cons + t.granted + n ≤ t.prod →
      let s1 := onStream s port ctx (fun u => Stream.release { u with cons := t.cons + t.granted, granted := n })
      exec (.mAccept c1 c0) s = .next (complete s1 c 2 es (ref s1 (t.cons + t.granted)))) ∧
    (t.writes = false → (t.cons + t.granted) % t.ring + n ≤ t.ring → t.prod < t.cons + t.granted + n →
      exec (.mAccept c1 c0) s = .next (stallFiring s)) ∧
    (t.writes = true → t.closing = false → t.waiter = none → (t.prod + n) % t.ring + n ≤ t.ring →
      let s1 := onStream s port ctx (fun u => { u with prod := t.prod + n, accepted := (t.prod + n) / u.esz })
      (t.prod + n + n ≤ t.cons + t.ring → exec (.mPush c1 c0) s = .next (complete s1 c 2 es (ref s1 (t.prod + n)))) ∧
      (t.cons + t.ring < t.prod + n + n →
        exec (.mPush c1 c0) s = .next (issuedOn (onStream s1 port ctx (fun u => { u with waiter := some (c.f, n) })) c es)))

open Sys2Proof Sys2Proof.Machine Sys2Proof.Claim in
/-- R278, R279, R430: a read stream's line that has come is delivered: the elements of one run as a token to its route, all
of them into its queue, or those there is room for into its ring; those of a poisoned line are null and counted. -/
def Sys2Proof.Says.StreamGenerates : Prop :=
  ∀ (s : State) (port ctx : Nat) (t : Stream) (l : SLine) (d : Line) (bad : Bool), generates s port ctx t → t.writes = false →
    t.ready? = some (l, d, bad) → t.asked = t.total →
    let rest := l.ord + l.count - t.next
    let es := fun (n : Nat) => (List.range n).map (fun i => (i, t.elemOf s.ctr (t.next + i) d bad))
    let counted := fun (n : Nat) =>
      let s1 : State := { s with ctr := s.ctr + t.next + n }
      if bad = true then (List.range n).foldl (fun s _ => onVi s t.vi (fun vi => { vi with poisoncnt := satInc vi.poisoncnt })) s1 else s1
    let past := fun (n : Nat) (u : Stream) => Stream.release { u with next := t.next + n }
    (t.mode = 0 →
      let first := t.tbase + t.next
      let n := min rest (runEnd ((t.w 7).toNat / 2 ^ 24 % 2 ^ 24) first - first)
      n ≠ 0 → exec (.streamFetch port ctx) s = .next (onPlot (onStream (counted n) port ctx (past n)) t.plot (fun p => { p with
        tokens := p.tokens ++ runToken t t.next (es n) :: (if t.next + n = t.total then [runEos t] else []) }))) ∧
    (t.mode = 1 → rest ≠ 0 → exec (.streamFetch port ctx) s = .next (onStream (counted rest) port ctx (fun u => past rest { u with
        queue := (es rest).foldl (fun q x => Tab.set q (t.next + x.1) (t.next + x.1, x.2)) u.queue }))) ∧
    (t.mode = 2 → t.esz ≠ 64 →
      let n := min rest ((t.cons + t.ring - t.prod) / t.esz)
      n ≠ 0 → exec (.streamFetch port ctx) s = .next (onStream (onNear (counted n) t.plot (descScell t.desc) (fun m =>
          (List.range n).foldl (fun m i => writeN m t.esz (((t.w 5).extractLsb' 0 18).toNat + (t.prod + t.esz * i) % Nat.max 1 t.ring)
            (if bad = true then 0 else lineVal d (t.va (t.next + i) % 128) t.esz)) m)) port ctx
        (fun u => past n { u with prod := u.prod + n * u.esz })))

open Sys2Proof Sys2Proof.Machine Sys2Proof.Claim in
/-- R278, R279, R292, R304: while a line is free a read stream asks its home slice for the next one, or takes it from its
window. -/
def Sys2Proof.Says.StreamAsks : Prop :=
  ∀ (s s1 : State) (port ctx pa : Nat) (t : Stream), generates s port ctx t → t.writes = false → t.ready? = none →
    let o := t.asked
    let asked := fun (win : Option Nat) (data : Option (Line × Bool)) (u : Stream) => { u with
      asked := o + t.lineCount o, slines := u.slines ++ [{ ord := o, count := t.lineCount o, line := pa / 128, win := win, data := data,
                                                           left := t.lineCount o }] }
    streamWay s port t o = .go s1 pa →
    let sent := fun (s : State) (win : Option Nat) =>
      if portRoom s port = true then sendReq (onStream s port ctx (asked win none)) port t.vi (pa / 128) (.streamRead ctx t.handle o) else s
    (windowAt s1 port ctx (t.va o) t = .past → exec (.streamFetch port ctx) s = .next (sent s1 none)) ∧
    (∀ s2, windowAt s1 port ctx (t.va o) t = .wait s2 → exec (.streamFetch port ctx) s = .next s2) ∧
    (∀ s2 off u, windowAt s1 port ctx (t.va o) t = .at_ s2 off → Tab.at? (portOf s2 port).ctxs ctx = some u →
      (Tab.at? u.wlines off = none → exec (.streamFetch port ctx) s = .next (sent s2 (some off))) ∧
      (∀ x, Tab.at? u.wlines off = some x → exec (.streamFetch port ctx) s =
        .next (onStream (carry s2 t.vi 128 (t.windowDie off) (dieOf? port)) port ctx (asked (some off) (some (x.data, x.poison))))))

open Sys2Proof Sys2Proof.Machine Sys2Proof.Claim in
/-- R276, R279, R320: a RUN stream whose last token its cell has not taken in delivers nothing; a read stream asks for no
line while its decoupling lines are taken, or one that it has asked for has not come. -/
def Sys2Proof.Says.StreamBackPressure : Prop :=
  ∀ (s : State) (port ctx : Nat) (t : Stream) (p : Plot), Tab.at? (portOf s port).ctxs ctx = some t → Tab.at? s.plots t.plot = some p →
    t.writes = false →
    (t.mode = 0 → (∃ x ∈ p.tokens, x.route = t.route) →
      exec (.streamFetch port ctx) s = .next (if t.asks = true ∧ p.frozen = false ∧ p.stop = .none then askLine s port ctx t else s)) ∧
    ((t.depth ≤ t.slines.length ∨ ∃ l ∈ t.slines, l.data = none) → t.asks = false)

open Sys2Proof Sys2Proof.Machine Sys2Proof.Claim in
/-- R273, R274: a stream's fault freezes it and is recorded; a write stream's, once every store before it is performed. -/
def Sys2Proof.Says.StreamFaults : Prop :=
  ∀ (s s1 : State) (port ctx cause : Nat) (t : Stream), generates s port ctx t →
    (t.writes = false → t.ready? = none → streamWay s port t t.asked = .fault s1 cause →
      exec (.streamFetch port ctx) s = .next (putFault (onStream s1 port ctx (fun t => { t with frozen := true })) t.vi 0 cause t.handle
        (t.va t.asked) t.asked t.addr)) ∧
    (∀ near o v, t.writes = true → t.esz ≠ 64 → (Tab.at? s.plots t.plot).map (fun p => nearOf p (descScell t.desc)) = some near →
      stored t near = some (o, v) →
      let s0 : State := { s with ctr := s.ctr + 8 }
      streamWay s0 port t o = .fault s1 cause →
      exec (.streamFetch port ctx) s = .next (if t.performed = t.next then
        putFault (onStream s1 port ctx (fun t => { t with frozen := true })) t.vi 0 cause t.handle (t.va o) o t.addr
        else flushWindow s1 port ctx))

open Sys2Proof Sys2Proof.Machine Sys2Proof.Claim in
/-- R278, R304, R320: a write stream's next store goes to its home slice once every store before it is performed, or into
its window. -/
def Sys2Proof.Says.StreamStores : Prop :=
  ∀ (s s1 : State) (port ctx pa o v : Nat) (near : Memory) (t : Stream), generates s port ctx t → t.writes = true → t.esz ≠ 64 →
    (Tab.at? s.plots t.plot).map (fun p => nearOf p (descScell t.desc)) = some near → stored t near = some (o, v) →
    streamWay { s with ctr := s.ctr + 8 } port t o = .go s1 pa →
    let d : Line := BitVec.ofNat 1024 (v * 2 ^ (8 * (pa % 128)))
    let mask := maskAt (pa % 128) t.esz
    (windowAt s1 port ctx (t.va o) t = .past → t.sent = 0 → portRoom s1 port = true → exec (.streamFetch port ctx) s =
      .next (answerPush (onStream (reachPort s1 port t.vi (t.va o) (pa / 128) (.streamWrite ctx t.handle 1 d mask (dieOf? port))) port ctx
        (fun u => { pastStore u with sent := u.sent + 1 })) port ctx)) ∧
    (windowAt s1 port ctx (t.va o) t = .past → (t.sent ≠ 0 ∨ portRoom s1 port = false) → exec (.streamFetch port ctx) s = .next s1) ∧
    (∀ s2, windowAt s1 port ctx (t.va o) t = .wait s2 → exec (.streamFetch port ctx) s = .next s2) ∧
    (∀ s2 off, windowAt s1 port ctx (t.va o) t = .at_ s2 off → exec (.streamFetch port ctx) s =
      .next (answerPush (onStream (carry s2 t.vi t.esz (dieOf? port) (t.windowDie off)) port ctx
        (fun u => (pastStore u).putWindow off (pa / 128) d mask)) port ctx))

namespace Sys2Proof.Claim
open Sys2Proof.Machine

/-- A handle that names a group of the firing's VI (R347, R349): its VI, its index, its generation. -/
abbrev namesGroup (s : State) (c : Ctx) (h : Word) (key : Nat) (g : Group) : Prop :=
  h.toNat / 2 ^ 23 = c.plot.vi ∧ h.toNat / 2 ^ 11 % 2 ^ 12 < 1024 ∧ key = 1024 * c.plot.vi + h.toNat / 2 ^ 11 % 2 ^ 12 ∧
  Tab.at? s.groups key = some g ∧ g.gen = h.toNat % 2 ^ 11

/-- The handle of a group form: constant word kn where HK is 1, else the operand a. -/
def groupOperand (c : Ctx) (e : Nat) (hk : Bool) (n : BitVec 4) : Word := if hk = true then c.k n.toNat else c.low 0 e

/-- The payload of a GSEND (R373): `n` words, the last present, null words 0, none present beyond. -/
abbrev payload (c : Ctx) (n : Nat) (ws : List Word) : Prop :=
  0 < n ∧ n ≤ 64 ∧ (sendWord? c (n - 1)).isSome = true ∧ (∀ i, n ≤ i → i < 64 → sendWord? c i = none) ∧
  ws = (List.range n).map (fun i => (sendWord? c i).getD 0)

/-- A scalar of 32 bits, as a word. -/
def word32 (c1 c0 : Cons) (v : Word) : List Emit := both c1 c0 .s32 [(0, .val (v.setWidth 64))]

/-- A scalar of 32 bits, from a number. -/
def raw32 (c1 c0 : Cons) (v : Nat) : List Emit := both c1 c0 .s32 [(0, .val (dw v))]

end Sys2Proof.Claim

open Sys2Proof Sys2Proof.Machine Sys2Proof.Claim in
/-- R349, R367: a group form with a handle of another VI traps GPERM, one that names no group or an old generation GDEAD. -/
def Sys2Proof.Says.GroupHandles : Prop :=
  ∀ (i : Instr) (s : State) (c : Ctx) (es : List Nat) (e : Nat) (hk : Bool) (n : BitVec 4) (c1 c0 : Cons), FiresOnce s c es e →
    i = .gfree hk n c1 c0 ∨ i = .gjoin hk n c1 c0 ∨ i = .gleave hk n c1 c0 ∨ i = .ready hk n c1 c0 ∨ i = .unready hk n c1 c0 ∨
      i = .gpound hk n c1 c0 →
    let h := groupOperand c e hk n
    let traps := fun (cause : Cause) (why : Nat) => trapFiring s c.f cause c.inst.first (dw (h.toNat * 2 ^ 32 + why * 2 ^ 28))
    (h.toNat / 2 ^ 23 ≠ c.plot.vi → exec i s = .next (traps .gperm 0)) ∧
    (h.toNat / 2 ^ 23 = c.plot.vi → 1024 ≤ h.toNat / 2 ^ 11 % 2 ^ 12 → exec i s = .next (traps .gdead 1)) ∧
    (h.toNat / 2 ^ 23 = c.plot.vi → Tab.at? s.groups (1024 * c.plot.vi + h.toNat / 2 ^ 11 % 2 ^ 12) = none →
      exec i s = .next (traps .gdead 1)) ∧
    (∀ g, h.toNat / 2 ^ 23 = c.plot.vi → h.toNat / 2 ^ 11 % 2 ^ 12 < 1024 →
      Tab.at? s.groups (1024 * c.plot.vi + h.toNat / 2 ^ 11 % 2 ^ 12) = some g → g.gen ≠ h.toNat % 2 ^ 11 →
      exec i s = .next (traps .gdead 0))

open Sys2Proof Sys2Proof.Machine Sys2Proof.Claim in
/-- R363, R369, R375: GMAKE, GFREE, GPOUND and GCOUNT.SNAPCLR; the 2 cycles to their emissions are log entry 3's. -/
def Sys2Proof.Says.GroupForms : Prop :=
  ∀ (s s1 : State) (c : Ctx) (es : List Nat) (e : Nat) (hk : Bool) (n : BitVec 4) (c1 c0 : Cons), FiresOnce s c es e →
    let bytes := (c.low 0 e).toNat
    let va := vaOf (c.k2 n.toNat)
    (poundOk s c.plot.vi va bytes = true →
      (∀ i, (List.range 1024).find? (fun i => !Tab.has s.groups (1024 * c.plot.vi + i)) = some i → s.groups.length < 4096 →
        let key := 1024 * c.plot.vi + i
        let gen := Tab.atD s.groupGens key 1
        let g : Group :=
          { gen := gen, va := va, units := bytes / 64, head := 0, pound := [], nodes := [], members := [], nmem := 0, gdel := 0, snaps := 0 }
        exec (.gmake n c1 c0) s = .next (complete (pinPound { s with groups := Tab.set s.groups key g } key c.plot.vi va bytes) c 2 es
          (word32 c1 c0 (groupHandle key gen)))) ∧
      ((4096 ≤ s.groups.length ∨ ∀ i < 1024, Tab.has s.groups (1024 * c.plot.vi + i) = true) → exec (.gmake n c1 c0) s = .next (complete s c 2 es (word32 c1 c0 0)))) ∧
    (poundOk s c.plot.vi va bytes = false → exec (.gmake n c1 c0) s = .next (trapFiring s c.f .gperm c.inst.first (dw (2 * 2 ^ 28)))) ∧
    (∀ key g, namesGroup s c (groupOperand c e hk n) key g →
      exec (.gfree hk n c1 c0) s =
        .next (complete (freeGroup s key true).1 c 2 es (raw32 c1 c0 (freeGroup s key true).2)) ∧
      (∀ t, Tab.at? g.nodes 0 = some t → 0 ≤ t.counts.foldl (fun (a : Int) (x : Nat × Int) => a + x.2) 0 →
        exec (.gpound hk n c1 c0) s = .next (complete s c 2 es (scalar64 c1 c0
          ((t.counts.foldl (fun (a : Int) (x : Nat × Int) => a + x.2) 0).toNat % 2 ^ 20 * 2 ^ 44 + g.pound.length * 2 ^ 24 +
            (g.units - (g.pound.map (fun m => msgBytes m / 64)).sum))))) ∧
      (Tab.at? g.nodes 0 = none → exec (.gpound hk n c1 c0) s = .next (complete s c 2 es (scalar64 c1 c0
        (g.pound.length * 2 ^ 24 + (g.units - (g.pound.map (fun m => msgBytes m / 64)).sum)))))) ∧
    (∀ key g, namesGroup s c (c.low 0 e) key g → va % 64 = 0 → hubWritable s c.plot.vi (snapWords key g).length va = true →
      cellWrite s c e 4 va (snapWords key g) = .ok s1 [] →
      let clear := fun (ms : Tab Member) => (ms.filter (fun (x : Nat × Member) => x.2.state == 1)).map (fun (x : Nat × Member) => (x.1, { x.2 with del := 0 }))
      exec (.gcountSnapclr n c1 c0) s = .next (complete (onGroup s1 key (fun g => { g with
        gdel := 0, snaps := g.snaps + 1, members := clear g.members })) c 2 es (both c1 c0 .s64 [(0, .val g.gdel)])))

open Sys2Proof Sys2Proof.Machine Sys2Proof.Claim in
/-- R371, R372: GJOIN, GLEAVE, READY and UNREADY, by whether the endpoint is a member. -/
def Sys2Proof.Says.GroupMembers : Prop :=
  ∀ (s : State) (c : Ctx) (es : List Nat) (e key ep : Nat) (hk : Bool) (n : BitVec 4) (c1 c0 : Cons) (g : Group) (x : Endpoint),
    FiresOnce s c es e → namesGroup s c (groupOperand c e hk n) key g → endpointOf? c.plot c.f.cell = some (ep, x) →
    let h := groupOperand c e hk n
    let traps := fun (why : Nat) => trapFiring s c.f .gperm c.inst.first (dw (h.toNat * 2 ^ 32 + why * 2 ^ 28))
    let b := c.low 1 e
    let out := fun (v : Nat) => raw32 c1 c0 v
    (∀ m, Tab.at? x.members key = some m →
      exec (.gjoin hk n c1 c0) s = .next (complete s c 2 es (out m.midx)) ∧
      exec (.gleave hk n c1 c0) s = .next (complete (leaveGroup s key c.f.plot ep) c 2 es (out m.midx)) ∧
      exec (.unready hk n c1 c0) s = .next (complete (withdraw s key c.f.plot ep) c 2 es (out m.ready)) ∧
      (b.toNat ≠ 0 → b.toNat < 256 → m.ready + b.toNat < 256 → 320 * b.toNat ≤ x.size →
        (x.used + x.reserved + 320 * b.toNat ≤ x.size →
          exec (.ready hk n c1 c0) s = .next (complete (changeReady (onEndpoint s c.f.plot ep (fun x =>
            { x with reserved := x.reserved + 320 * b.toNat,
                     members := Tab.upd x.members key (fun m => { m with ready := m.ready + b.toNat }) })) key g c.f.plot c.plot ep b.toNat)
            c 2 es (out (m.ready + b.toNat)))) ∧
        (x.size < x.used + x.reserved + 320 * b.toNat → exec (.ready hk n c1 c0) s = .next (stallFiring s))) ∧
      (b.toNat = 0 → exec (.ready hk n c1 c0) s = .next (traps 4))) ∧
    (Tab.at? x.members key = none →
      exec (.gleave hk n c1 c0) s = .next (complete s c 2 es (out (2 ^ 32 - 1))) ∧
      exec (.ready hk n c1 c0) s = .next (traps 7) ∧ exec (.unready hk n c1 c0) s = .next (traps 7) ∧
      (∀ midx, (List.range 4096).find? (fun i => !Tab.has g.members i) = some midx →
        (∀ nd ∈ pathOf c.plot c.f.plot, Tab.has g.nodes nd = true ∨ nodeLoad s nd < 4096) →
        let me : Member := { state := 1, die := c.plot.die, x := c.plot.x, y := c.plot.y, ep := ep, plot := c.f.plot, del := 0 }
        let mine : Membership := { gen := g.gen, midx := midx, ready := 0 }
        let enter := fun (u : Group) => { u with
          nodes := (pathOf c.plot c.f.plot).foldl (fun t nd =>
            if Tab.has t nd = true then t else Tab.set t nd { counts := [], park := g.pound != [], made := s.nextDelta }) u.nodes,
          members := Tab.set u.members midx me, nmem := Nat.max u.nmem (midx + 1) }
        exec (.gjoin hk n c1 c0) s = .next (complete (onEndpoint (onGroup { s with nextDelta := s.nextDelta + 1 } key enter) c.f.plot ep (fun x => { x with
          members := Tab.set x.members key mine })) c 2 es (out midx)))) ∧
    (Tab.at? x.members key = none → (∀ i < 4096, Tab.has g.members i = true) →
      exec (.gjoin hk n c1 c0) s = .next (complete s c 2 es (out (2 ^ 32 - 1))))

open Sys2Proof Sys2Proof.Machine Sys2Proof.Claim in
/-- R352, R373: GSEND puts a message with the next SSEQ of its cell in flight; that SSEQ counts the send itself is log entry
24's deduction. -/
def Sys2Proof.Says.GroupSend : Prop :=
  ∀ (s : State) (c : Ctx) (es : List Nat) (e key n : Nat) (try1 hk : Bool) (kn : BitVec 4) (c1 c0 : Cons) (h : Word) (g : Group)
    (ws : List Word) (k : Cell),
    ctxOf? s s.cur = some c → s.again = false → readyWhole c.blk c.inst c.f.slot = e :: es → sendHandle? c hk kn.toNat = some h →
    payload c n ws → Tab.atD c.inst.nulls c.f.slot 0 = 0 → namesGroup s c h key g → recOf? s c.plot = none →
    Tab.at? c.plot.cells c.f.cell = some k →
    let s1 := flushAll s c.port
    let gate := 1024 + 64 * c.f.plot + 16 * c.plot.die + (c.plot.y / 12 * 4 + c.plot.x / 12)
    let m : GMsg :=
      { id := s.nextFlight, group := key, gen := g.gen, words := ws, sseq := k.sseq + 1,
        sender := c.plot.die * 2 ^ 12 + (siteOf c.plot c.f.cell).1 * 2 ^ 6 + (siteOf c.plot c.f.cell).2, bounces := 0,
        firing := some c.f, try1 := try1, src := none }
    let s2 := onPlot s1 c.f.plot (fun p => onCell p c.f.cell (fun k' => { k' with sseq := k.sseq + 1 }))
    (∀ x ∈ s.flights, x.2.msg.group = key → ∀ f, x.2.msg.firing = some f → ¬(f.plot = c.f.plot ∧ f.cell = c.f.cell)) →
    ¬writesBefore s1 c →
    exec (.gsend try1 hk kn c1 c0) s = .next (issuedOn { s2 with
      flights := Tab.set s2.flights s2.nextFlight (Flight.mk m (.climb gate) false 0),
      nextFlight := s2.nextFlight + 1 } c (e :: es))

open Sys2Proof Sys2Proof.Machine Sys2Proof.Claim in
/-- R374: GTAKE delivers the oldest counted message of the endpoint in two runs, or waits. -/
def Sys2Proof.Says.GroupTake : Prop :=
  ∀ (s : State) (c : Ctx) (es : List Nat) (e ep : Nat) (c1 c0 : Cons) (x : Endpoint) (m : InMsg) (rest : List InMsg), FiresOnce s c es e →
    endpointOf? c.plot c.f.cell = some (ep, x) → x.msgs = m :: rest →
    let near := nearOf c.plot x.scell
    let word := fun (i : Nat) => (BitVec.ofNat 32 (readN near 4 (x.off + (m.off + 4 * i) % x.size)) : Word)
    let count := (word 0).toNat / 2 ^ 26 + 1
    let run := fun (first : Nat) => (List.range c.inst.len).map (fun e =>
      (e, if first + e < count then Elem.val ((word (16 + first + e)).setWidth 64) else Elem.null))
    (m.counted = false → exec (.gtake c1 c0) s = .next (stallFiring s)) ∧
    (m.counted = true → exec (.gtake c1 c0) s =
      .next (complete (readsAnew (onEndpoint s c.f.plot ep (fun x => { x with msgs := rest })) c.f.plot) c 2 es
        [{ cons := c0, kind := .r32, elems := run 0 }, { cons := c1, kind := .r32, elems := run 32 }]))

open Sys2Proof Sys2Proof.Machine Sys2Proof.Claim in
/-- R355, R356: a message climbs to a node with a positive count, steers down by it, or goes to the pound. -/
def Sys2Proof.Says.GroupSteering : Prop :=
  ∀ (s : State) (k node turn since child : Nat) (fl : Flight) (g : Group), Tab.at? s.flights k = some fl →
    Tab.at? s.groups fl.msg.group = some g →
    let key := fl.msg.group
    let crossing := fun (x : State) => addToll x (key / 1024) 7 (msgBytes fl.msg)
    let goes := fun (x : State) (fl : Flight) (at_ : Transit) => ({ x with flights := Tab.set x.flights k { fl with at_ := at_ } } : State)
    let steer := fun (turn : Nat) =>
      if 1024 ≤ node then deliverMsg s k fl key g ((node - 1024) / 64) child turn
      else
        let y := onGroup s key (fun g => addCount g node child (-1))
        let z := if node = 0 then crossing y else y
        goes z fl (.down (childNode node child) turn z.nextDelta)
    let parks := (∃ t, Tab.at? g.nodes node = some t ∧ t.park = true) ∨ (node = 0 ∧ g.pound ≠ [])
    (fl.at_ = .climb node → ¬ parks →
      (positiveChild? s g node = some child → exec (.groupMessageSteer k) s = .next (steer node)) ∧
      (positiveChild? s g node = none → node ≠ 0 → exec (.groupMessageSteer k) s =
        .next (goes (if parentNode node = 0 then crossing s else s) fl (.climb (parentNode node))))) ∧
    (fl.at_ = .climb node → (parks ∨ (node = 0 ∧ positiveChild? s g node = none)) → fl.parked = false → exec (.groupMessageSteer k) s =
      .next (goes (if node = 0 then s else crossing s) fl .toPound)) ∧
    (fl.at_ = .down node turn since → (node = 0 → headFirst s key g = false) → positiveChild? s g node = some child →
      exec (.groupMessageSteer k) s = .next (steer turn))

open Sys2Proof Sys2Proof.Machine Sys2Proof.Claim in
/-- R355, R352: a message that meets a node without a positive count bounces to the parent, which gets its unit back; after
eight bounces it goes to the pound. -/
def Sys2Proof.Says.GroupBounces : Prop :=
  ∀ (s : State) (k node turn since : Nat) (fl : Flight) (g : Group), Tab.at? s.flights k = some fl → Tab.at? s.groups fl.msg.group = some g →
    fl.at_ = .down node turn since → node ≠ 0 → positiveChild? s g node = none →
    let key := fl.msg.group
    let up := parentNode node
    let back := { fl with tries := fl.tries + 1, msg := { fl.msg with bounces := min 255 (fl.msg.bounces + 1) } }
    let crossing := fun (x : State) => addToll x (key / 1024) 7 (msgBytes fl.msg)
    let goes := fun (x : State) (at_ : Transit) => ({ x with flights := Tab.set x.flights k { back with at_ := at_ } } : State)
    let refunded := onGroup s key (fun g => addCountSince g up (childOf node) since 1)
    let s1 := if up = 0 then crossing refunded else refunded
    let s2 := refund s1 key up turn since
    (7 ≤ fl.tries → fl.parked = false → exec (.groupMessageSteer k) s = .next (goes (if up = 0 then s2 else crossing s2) .toPound)) ∧
    (fl.tries < 7 → up = 0 → exec (.groupMessageSteer k) s = .next (goes s1 (.down 0 0 s1.nextDelta))) ∧
    (∀ g1 child, fl.tries < 7 → up ≠ 0 → Tab.at? s1.groups key = some g1 → positiveChild? s1 g1 up = some child →
      exec (.groupMessageSteer k) s = .next (steerDown s1 k back key g1 up (higher turn up) child)) ∧
    (∀ g1, fl.tries < 7 → up ≠ 0 → Tab.at? s1.groups key = some g1 → positiveChild? s1 g1 up = none →
      let top := parentNode up
      let s3 := refund s1 key up (if levelOf turn < levelOf top then up else top) since
      let s4 := if top = 0 then crossing s3 else s3
      exec (.groupMessageSteer k) s = .next (goes s4 (.down top (higher (higher turn up) top) s4.nextDelta)))

open Sys2Proof Sys2Proof.Machine Sys2Proof.Claim in
/-- R357, R373: a message that reaches the hub is appended to the pound where it has room and none waits; else it waits
there, or a GSEND.try fails. -/
def Sys2Proof.Says.PoundFills : Prop :=
  ∀ (s : State) (k : Nat) (fl : Flight) (g : Group), Tab.at? s.flights k = some fl → Tab.at? s.groups fl.msg.group = some g →
    fl.at_ = .toPound → fl.msg.src = none →
    let key := fl.msg.group
    let held := (g.pound.map (fun m => msgBytes m / 64)).sum
    let goes := fun (x : State) (at_ : Transit) => ({ x with flights := Tab.set x.flights k { fl with at_ := at_ } } : State)
    let first := ∀ x ∈ s.flights, x.2.msg.group = key → ∀ since, x.2.at_ ≠ .waiting since
    (held + msgBytes fl.msg / 64 ≤ g.units → first →
      let s1 := onGroup (writePound s (key / 1024) g (g.head + held) (msgWords fl.msg 0)) key (fun g =>
        setPark { g with pound := g.pound ++ [{ fl.msg with firing := none }] } true)
      exec (.groupMessageSteer k) s = .next (goes s1 (.outcome false none))) ∧
    (g.units < held + msgBytes fl.msg / 64 → fl.msg.try1 = true → exec (.groupMessageSteer k) s = .next (goes s (.outcome true none))) ∧
    (g.units < held + msgBytes fl.msg / 64 → fl.msg.try1 = false →
      exec (.groupMessageSteer k) s = .next (goes { s with nextDelta := s.nextDelta + 1 } (.waiting s.nextDelta)))

open Sys2Proof Sys2Proof.Machine Sys2Proof.Claim in
/-- R354, R356, R358: counts travel up the tree, outcomes return to the sender. That an entry made since takes nothing of an
older count is log entry 66's. -/
def Sys2Proof.Says.GroupCounts : Prop :=
  ∀ (s : State),
    (∀ k d g, Tab.at? s.deltas k = some d → Tab.at? s.groups d.group = some g → g.gen = d.gen →
      let s1 := onGroup { s with deltas := Tab.del s.deltas k } d.group (fun g =>
        if (∃ x, Tab.at? g.nodes d.node = some x ∧ x.made < d.born) then addCount g d.node d.child d.by_ else g)
      (d.node = 0 → exec (.readinessCountUpdate k) s = .next s1) ∧
      (d.node ≠ 0 → exec (.readinessCountUpdate k) s =
        .next (sendDelta s1 d.group d.gen (parentNode d.node) (childOf d.node) d.born d.by_))) ∧
    (∀ k d, Tab.at? s.deltas k = some d → (∀ g, Tab.at? s.groups d.group = some g → g.gen ≠ d.gen) →
      exec (.readinessCountUpdate k) s = .next { s with deltas := Tab.del s.deltas k }) ∧
    (∀ k fl failed f, Tab.at? s.flights k = some fl → fl.at_ = .outcome failed none → fl.msg.firing = some f → fl.msg.src = none →
      exec (.gsendOutcome k) s =
        .next (finishAnywhere { s with flights := Tab.del s.flights k } f .s32 (if failed = true then 1 else 0))) ∧
    (∀ k fl plot ep id midx f, Tab.at? s.flights k = some fl → fl.at_ = .outcome false (some (plot, ep, id, midx)) → fl.msg.firing = some f →
      fl.msg.src = none → countsNext s plot ep id = true →
      let s1 := countDelivery { s with flights := Tab.del s.flights k } fl plot ep id midx
      exec (.gsendOutcome k) s = .next (finishAnywhere s1 f .s32 0))

open Sys2Proof Sys2Proof.Machine Sys2Proof.Claim in
/-- R359, R361: the hub counts a delivery, and its message can then be taken. That it counts those of one inbox in order is
log entry 66's. -/
def Sys2Proof.Says.DeliveryCounted : Prop :=
  ∀ (s : State) (fl : Flight) (plot ep id midx : Nat) (g : Group), Tab.has s.plots plot = true → Tab.at? s.groups fl.msg.group = some g →
    fl.msg.src = none → fl.parked = false →
    let seen := onEndpoint s plot ep (fun x => { x with msgs := x.msgs.map (fun m => if m.id = id then { m with counted := true } else m) })
    (g.gen = fl.msg.gen → countDelivery s fl plot ep id midx = onGroup seen fl.msg.group (fun g => { g with
      gdel := g.gdel + 1, members := Tab.upd g.members midx (fun m => { m with del := satInc m.del }) })) ∧
    (g.gen ≠ fl.msg.gen → countDelivery s fl plot ep id midx = seen)

open Sys2Proof Sys2Proof.Machine Sys2Proof.Claim in
/-- R357, R365: the pound's head is steered once a count is positive; in replay the message that comes next goes to the
member that the journal names. -/
def Sys2Proof.Says.PoundDrains : Prop :=
  ∀ (s : State) (key : Nat) (g : Group) (m : GMsg), Tab.at? s.groups key = some g → headAway s key = false →
    let s1 : State := { s with nextFlight := s.nextFlight + 1 }
    let flight := fun (m : GMsg) => ({ msg := m, at_ := .down 0 0 s.nextDelta, parked := true, tries := 0 } : Flight)
    (∀ rest child, g.pound = m :: rest → (∀ x ∈ g.pound, replayJob? s x = none) → (∀ w ∈ waitingOf s key, replayJob? s w.2.2.msg = none) →
      positiveChild? s g 0 = some child → exec (.poundDrain key) s =
        .next (steerDown s1 s.nextFlight (flight (fromPound s (key / 1024) g g.head m)) key g 0 0 child)) ∧
    (∀ plot ep p, (poundMessages s (key / 1024) g g.head g.pound).find? (fun x => (forced? s key g x).isSome) = some m → forced? s key g m = some (plot, ep, p) →
      exec (.poundDrain key) s = .next (deliverMsg (addToll s1 (key / 1024) 7 (msgBytes m)) s.nextFlight (flight m) key g plot ep
        (1024 + 64 * plot + 16 * p.die + (p.y / 12 * 4 + p.x / 12))))

namespace Sys2Proof.Claim
open Sys2Proof.Machine

/-- The record that SPAWN, SPAWNR or JOIN makes of its template for a job (R399), its template, and its consumers. -/
def placedBy (c : Ctx) (e : Nat) (ws : List Dword) (job : Nat) (parent : Dword) : Instr → Option (Rec × BitVec 4 × Cons × Cons)
  | .spawn pb n c1 c0 =>
    let t := recOf ws job
    some ({ t with join := 0, parent := if pb = true then c.wide 1 e else t.parent }, n, c1, c0)
  | .spawnr pb n c1 c0 =>
    let t := recOf ws job
    some ({ t with join := 0, lo := (c.wide 0 e).toNat % 2 ^ 40, hi := (c.wide 1 e).toNat % 2 ^ 40,
                   parent := if pb = true then c.wide 2 e else t.parent }, n, c1, c0)
  | .join inh n c1 c0 =>
    let t := recOf ws job
    some ({ t with join := (c.wide 0 e).toNat, parent := if inh = true then parent else t.parent }, n, c1, c0)
  | _ => none

/-- Whether a placing form hands on the running record's parent (R399). -/
def inherits : Instr → Bool
  | .join inh _ _ _ => inh
  | _ => false

/-- The operands that a placing form takes: HI not below LO, a count below 2^24 (R399). -/
def placeable (c : Ctx) (e : Nat) : Instr → Bool
  | .spawnr .. => decide ((c.wide 0 e).toNat % 2 ^ 40 ≤ (c.wide 1 e).toNat % 2 ^ 40)
  | .join .. => decide ((c.wide 0 e).toNat < 2 ^ 24)
  | _ => true

end Sys2Proof.Claim

open Sys2Proof Sys2Proof.Machine Sys2Proof.Claim in
/-- R399, R384: SPAWN, SPAWNR and JOIN place a record of a template in a slot of the pool and emit its handle. -/
def Sys2Proof.Says.Spawning : Prop :=
  ∀ (i : Instr) (s s1 s2 s3 : State) (c : Ctx) (es : List Nat) (e rk k : Nat) (ws : List Dword) (run r : Rec) (n : BitVec 4) (c1 c0 : Cons)
    (im : JobImage),
    FiresOnce s c es e → recOf? s1 c.plot = some (rk, run) → placedBy c e ws run.job (((recOf? s1 c.plot).map (·.2.parent)).getD 0) i = some (r, n, c1, c0) →
    placeable c e i = true → readTemplate s c e n.toNat = .ok s1 ws → releaseFirst s1 c = (s2, false) →
    (∀ j, Tab.at? s2.jobs run.job = some j → j.cause = none) → jobImage s2 run.job r.code = .ok s3 im →
    slotFor? s3 c.plot.vi im c.plot.die r.anydie = some k →
    let s4 := placeAt s3 k r
    let s5 := if inherits i = true then onPlot s4 c.f.plot (fun p => { p with inh := true }) else s4
    exec i s = .next (complete (settleRec s5 k) c 2 es (both c1 c0 .s64 [(0, .val (taskHandle s5 k))]))

open Sys2Proof Sys2Proof.Machine Sys2Proof.Claim in
/-- R388-R400: YIELD, CANCEL, JOBDONE and TASKQ. -/
def Sys2Proof.Says.TaskForms : Prop :=
  ∀ (s s1 : State) (c : Ctx) (es : List Nat) (e : Nat) (which : BitVec 3) (c1 c0 : Cons), FiresOnce s c es e →
    exec (.yield c1 c0) s = .next (complete (onPlot s c.f.plot (fun p => { p with yield := true })) c 2 es (zero32 c1 c0)) ∧
    (liveRec? s c.plot.vi (c.wide 0 e) = none → exec (.cancel c1 c0) s = .next (complete s c 2 es (zero32 c1 c0))) ∧
    (∀ k r, liveRec? s c.plot.vi (c.wide 0 e) = some (k, r) → r.running = true →
      exec (.cancel c1 c0) s = .next (complete s c 2 es (zero32 c1 c0))) ∧
    (∀ k r, liveRec? s c.plot.vi (c.wide 0 e) = some (k, r) → r.running = false →
      let gone := s.recs.filter (fun x => x.1 == k || (!x.2.running && x.2.src.contains (c.wide 0 e)))
      exec (.cancel c1 c0) s = .next (complete (gone.foldl (fun s x => finishRec s x.1 true) s) c 2 es (raw32 c1 c0 gone.length))) ∧
    (∀ k r, releaseFirst s c = (s1, false) → recOf? (reachScope s1 c.plot.vi 5) c.plot = some (k, r) → exec .jobdone s =
      .next (complete (onJob (reachScope s1 c.plot.vi 5) r.job (fun j => if j.jd = true then j else { j with jd := true, code := c.low 0 e })) c 2 es [])) ∧
    (∀ k r, recOf? s c.plot = some (k, r) → exec (.taskq which c1 c0) s = .next (complete s c 2 es (both c1 c0 .s64 [(0, .val
      (match which.toNat with
      | 0 => dw r.lo
      | 1 => dw r.hi
      | 2 => taskHandle s k
      | 3 => if c.plot.inh = true then 0 else r.parent
      | 4 => dw (s.recs.filter (fun x => x.1 / 65536 == 512 * c.plot.die + c.plot.vi && x.2.ready s)).length
      | 5 => (viOf s c.plot.vi).fsdef.setWidth 64
      | _ => 0))])))

open Sys2Proof Sys2Proof.Machine Sys2Proof.Claim in
/-- R392: WSDECL writes a working-set declaration of a template and emits 0. -/
def Sys2Proof.Says.Declares : Prop :=
  ∀ (s s1 s2 s3 : State) (c : Ctx) (es : List Nat) (e : Nat) (n : BitVec 4) (c1 c0 : Cons) (t ps : List Dword) (d0 d1 : Dword),
    FiresOnce s c es e →
    let va := vaOf (c.k2 n.toNat)
    let a := (c.low 0 e).toNat
    let wsd := vaOf ((t[6]?).getD 0)
    let w4 := (t[4]?).getD 0
    cellRead s c e 4 va 8 = .ok s1 t → cellRead s1 c e 4 (vaOf (c.wide 1 e)) 2 = .ok s2 [d0, d1] → va % 64 = 0 →
    vaOf (c.wide 1 e) % 16 = 0 → wsd ≠ 0 → a < 4 → d0.extractLsb' 57 5 = 0 → (d0.getLsbD 62 = true → d0.getLsbD 63 = true) →
    d1.toNat % 256 = 0 →
    cellStores s2 c e 4 [(wsd + 16 * a, d0), (wsd + 16 * a + 8, d1),
      (va + 32, dw (w4.toNat / 8 * 8 + max (w4.toNat % 8) (a + 1)))] = .ok s3 ps →
    exec (.wsdecl n c1 c0) s = .next (complete (storeTriples s3 c ps) c 2 es (zero32 c1 c0))

open Sys2Proof Sys2Proof.Machine Sys2Proof.Claim in
/-- R386, R387: an idle plot takes the chosen record and starts its round; a frozen one goes on. -/
def Sys2Proof.Says.Dispatches : Prop :=
  ∀ (s s1 : State) (plot k : Nat) (p : Plot) (r : Rec) (entries : List Dword) (seed : Dword), Tab.at? s.plots plot = some p →
    choose? s plot p = some (k, r) → Tab.at? s.recs k = some r → r.grain = 0 →
    let stale := ((Tab.at? s.jobs r.job).map (fun j => p.stale.testBit j.queue)).getD false
    (p.frozen = false → yielded s p r = false → stale = false → r.image = none → readArgs s p.vi p r.args = .ok s1 entries seed →
      let handles := ((((Tab.at? s.jobs r.job).bind (fun j => Tab.at? j.images r.code)).map (·.handles)).getD [])
      exec (.dispatch plot) s = .next (onPlot (seat s1 plot k r) plot (fun p =>
        startRound { writeArgs p r handles entries with srseed := seed, inh := false }))) ∧
    (∀ key, p.frozen = false → yielded s p r = false → stale = true →
      configure (releasePlot s plot) p.vi .graph ((Tab.at? s.jobs r.job).map (·.queue)) p.code p.die r.image.isNone (some (p.x, p.y)) = .ok s1 key →
      exec (.dispatch plot) s = .next s1) ∧
    (p.frozen = false → yielded s p r = true → exec (.dispatch plot) s = .next s) ∧
    (p.frozen = true → exec (.dispatch plot) s = .next (thaw (seat s plot k r) plot))

open Sys2Proof Sys2Proof.Machine Sys2Proof.Claim in
/-- R401: a record wider than two grains splits in halves while slots are free. -/
def Sys2Proof.Says.Splitting : Prop :=
  ∀ (s : State) (k slot fuel : Nat) (q : Rec), Tab.at? s.recs k = some q → q.image = none →
    ((q.grain = 0 ∨ q.hi - q.lo ≤ 2 * q.grain) → splitRec (fuel + 1) s k = s) ∧
    (q.grain ≠ 0 → 2 * q.grain < q.hi - q.lo → freeSlot? s (recDie k) (recVi k) = some slot → parentOf? s k q = none →
      let mid := q.lo + (q.hi - q.lo) / 2
      let part := fun (x : Rec) => { x with decl := x.wsn, open_ := false }
      let s1 := putRec s slot { part q with lo := mid, charged := 0, src := taskHandle s k :: q.src }
      splitRec (fuel + 1) s k = splitRec fuel (onRec s1 k (fun x => { part x with hi := mid })) k) ∧
    (q.grain ≠ 0 → 2 * q.grain < q.hi - q.lo → freeSlot? s (recDie k) (recVi k) = none → splitRec (fuel + 1) s k = s)

open Sys2Proof Sys2Proof.Machine Sys2Proof.Claim in
/-- R388, R103: a plot's round ends when nothing is left and its writes are performed; its record completes. -/
def Sys2Proof.Says.Rounds : Prop :=
  ∀ (s : State) (plot : Nat) (p : Plot), Tab.at? s.plots plot = some p →
    let s1 := flushPlot (closeRound s plot) plot
    (roundOver p = true → streamsOf s1 plot = [] → plotWrites s1 plot p = false → p.role = .graph →
      let s2 := onPlot s1 plot (fun p => { p with
        running := false, task := none, inh := false, failed := none, subject := none, used := s1.time.toNat })
      (p.task = none → exec (.roundEnd plot) s = .next s2) ∧
      (∀ k, p.task = some k → p.failed = none → exec (.roundEnd plot) s = .next (finishRec s2 k (!p.inh)))) ∧
    (roundOver p = false → exec (.roundEnd plot) s = .next s)

open Sys2Proof Sys2Proof.Machine Sys2Proof.Claim in
/-- R380-R384: a queue's next record becomes a job with a root record; a bad one completes with status 2; where there is no
slot it waits. -/
def Sys2Proof.Says.JobQueues : Prop :=
  ∀ (s s1 : State) (v q : Nat) (ws : List Dword), queueTakes s v q = true → ¬(v = 0 ∧ q = 15) → readSlot s v q = .ok s1 ws →
    let tag := (ws[7]?).getD 0
    (badRoot ws = true → exec (.jobRecordTake v q) s = .next (badJob s1 v q tag 0)) ∧
    (∀ s2 key s3 im k, badRoot ws = false →
      takeJob s1 v q (newJob v q (Tab.atD (viOf s1 v).queues q JobQueue.reset).head tag (Tab.atD (viOf s1 v).queues q JobQueue.reset).jnl) =
        (s2, key) →
      jobImage s2 key (vaOf ((ws[0]?).getD 0)) = .ok s3 im →
      slotFor? s3 v im (((Tab.atD (viOf s1 v).queues q JobQueue.reset).base.extractLsb' 5 2).toNat)
        ((Tab.atD (viOf s1 v).queues q JobQueue.reset).base.getLsbD 7 || (recOf ws key).anydie) = some k →
      exec (.jobRecordTake v q) s = .next (settleRec (placeAt (beginJournal s3 key) k { recOf ws key with root := true }) k)) ∧
    (∀ s2 key s3 im, badRoot ws = false →
      takeJob s1 v q (newJob v q (Tab.atD (viOf s1 v).queues q JobQueue.reset).head tag (Tab.atD (viOf s1 v).queues q JobQueue.reset).jnl) =
        (s2, key) →
      jobImage s2 key (vaOf ((ws[0]?).getD 0)) = .ok s3 im →
      slotFor? s3 v im (((Tab.atD (viOf s1 v).queues q JobQueue.reset).base.extractLsb' 5 2).toNat)
        ((Tab.atD (viOf s1 v).queues q JobQueue.reset).base.getLsbD 7 || (recOf ws key).anydie) = none →
      exec (.jobRecordTake v q) s = .next s1)

open Sys2Proof Sys2Proof.Machine Sys2Proof.Claim in
/-- R388, R389, R469: a job with nothing live writes its completion entry and raises its queue's vector; it waits for ring
space. -/
def Sys2Proof.Says.JobEnds : Prop :=
  ∀ (s s1 : State) (job : Nat) (j : Job), Tab.at? s.jobs job = some j → j.jmode = 0 →
    let q := Tab.atD (viOf s1 j.vi).queues j.queue JobQueue.reset
    let status := if j.bad = true then 2 else if j.cause.isSome = true then 1 else 0
    let entry := [j.tag, dw (status * 2 ^ 56 + j.cause.getD 0 * 2 ^ 48 + j.queue * 2 ^ 44 + j.code.toNat), j.index.setWidth 64,
      if j.jd = true then 1 else 0]
    (j.live ≠ 0 → exec (.jobComplete job) s = .next s) ∧
    (j.live = 0 → viWrites (flushVi s j.vi) j.vi = false → s1 = freeJobGroups (reachScope (flushVi s j.vi) j.vi 5) job j →
      (∀ s2, ringPut? s1 j.vi (ringBase q.cring) (2 ^ (q.cring.toNat % 16 + 7)) 32 q.cprod q.ccons entry = some s2 →
        let s3 := onQueue s2 j.vi j.queue (fun q => { q with cprod := q.cprod + 1 })
        exec (.jobComplete job) s = .next (raiseIrq { s3 with jobs := Tab.del s3.jobs job } j.vi j.queue)) ∧
      (ringPut? s1 j.vi (ringBase q.cring) (2 ^ (q.cring.toNat % 16 + 7)) 32 q.cprod q.ccons entry = none →
        exec (.jobComplete job) s = .next s1))

namespace Sys2Proof.Claim
open Sys2Proof.Machine

/-- The lines of some slices, with their slices and ways, that satisfy a condition. -/
def linesWhere (s : State) (p : Nat) (g : Nat → Nat → L2Line → Bool) : List (Nat × Nat × L2Line) :=
  (linesOf s (partSlices s p)).filter (fun x => g x.1 x.2.1 x.2.2)

/-- A line that overlaps the range from `b` of `n` bytes; `n` = 0 is the whole partition (R310). -/
def overlaps (b n : Nat) (l : L2Line) : Bool := decide (n = 0 ∨ (128 * l.line < b + n ∧ b < 128 * l.line + 128))

/-- The partition forms and their consumers. -/
def partForm : Instr → Option (Cons × Cons)
  | .partQuiesce c1 c0 | .partWb c1 c0 | .partInv c1 c0 | .partSethash c1 c0 | .partResume c1 c0 => some (c1, c0)
  | _ => none

/-- Whether a PART.SETHASH that has reached the hub before a firing waits on its partition: forms on one partition are applied in the order in
which they reach the hub (R309). -/
def sethashBefore (s : State) (c : Ctx) (p : Nat) : Bool :=
  anyEarlier s c (fun d => d.opcode == 0xFC && (d.low 0 d.lead).toNat % 64 == p)

/-- Whether a WAYMASK.SET that has reached the hub before a firing waits for its VI (R309). -/
def waymaskBefore (s : State) (c : Ctx) (v : Nat) : Bool :=
  anyEarlier s c (fun d => d.opcode == 0xFD && field d.word 23 18 == 0 && (d.low 0 d.lead).toNat % 512 == v)

/-- SYSREG of R312. -/
def partStop (s : State) (c : Ctx) (why p : Nat) : State := trapFiring s c.f .sysreg c.inst.first (dw (why * 2 ^ 8 + p % 64))

end Sys2Proof.Claim

open Sys2Proof Sys2Proof.Machine Sys2Proof.Claim in
/-- R310, R312: the PART forms are the Reeve's, and refuse a partition of 64 or more or one that is not valid; WAYMASK.SET
and WQUOTA.SET are VI 0's. -/
def Sys2Proof.Says.PartitionPrivilege : Prop :=
  ∀ (i : Instr) (s : State) (c : Ctx) (es : List Nat) (e : Nat) (c1 c0 : Cons), FiresOnce s c es e → partForm i = some (c1, c0) →
    (c.plot.role ≠ .reeve → exec i s = .next (trapFiring s c.f .priv c.inst.first (infoPriv c))) ∧
    (c.plot.role = .reeve → 64 ≤ (c.low 0 e).toNat → exec i s = .next (partStop s c 5 ((c.low 0 e).toNat % 64))) ∧
    (c.plot.role = .reeve → (c.low 0 e).toNat < 64 → partValid s (c.low 0 e).toNat = false → (∀ c1 c0, i ≠ .partSethash c1 c0) →
      sethashBefore s c (c.low 0 e).toNat = false →
      exec i s = .next (partStop s c 0 (c.low 0 e).toNat)) ∧
    (c.plot.role = .reeve → (c.low 0 e).toNat < 64 → sethashBefore s c (c.low 0 e).toNat = true → exec i s = .next (stallFiring s)) ∧
    (isVi0 c.plot = false → exec (.waymaskSet c1 c0) s = .next (trapFiring s c.f .priv c.inst.first (infoPriv c)) ∧
      exec (.wquotaSet c1 c0) s = .next (trapFiring s c.f .priv c.inst.first (infoPriv c)))

open Sys2Proof Sys2Proof.Machine Sys2Proof.Claim in
/-- R308-R311: PART.QUIESCE, PART.WB, PART.INV and PART.RESUME of a partition, the last three only while it is quiesced. -/
def Sys2Proof.Says.PartitionForms : Prop :=
  ∀ (s : State) (c : Ctx) (es : List Nat) (e : Nat) (c1 c0 : Cons), FiresOnce s c es e → c.plot.role = .reeve → (c.low 0 e).toNat < 64 →
    let p := (c.low 0 e).toNat
    let range := overlaps (c.wide 1 e).toNat (c.wide 2 e).toNat
    let wb := linesWhere s p (fun _ _ l => l.dirty && range l)
    let inv := linesWhere s p (fun n _ l => misplaced s p n l && range l)
    let gone := linesWhere s p (fun n _ l => misplaced s p n l)
    partValid s p = true → sethashBefore s c p = false →
    exec (.partQuiesce c1 c0) s = .next (complete { s with partcfg := Tab.set s.partcfg p (partOf s p ||| 0x4000000000000000) } c 2 es
      (scalar64 c1 c0 (linesWhere s p (fun _ _ l => l.dirty)).length)) ∧
    (partQui s p = false → exec (.partWb c1 c0) s = .next (partStop s c 1 p) ∧ exec (.partInv c1 c0) s = .next (partStop s c 1 p) ∧
      exec (.partResume c1 c0) s = .next (partStop s c 1 p)) ∧
    (partQui s p = true →
      exec (.partWb c1 c0) s = .next (complete (cleanLines s wb) c 2 es (scalar64 c1 c0 wb.length)) ∧
      exec (.partInv c1 c0) s = .next (complete (dropLines s inv) c 2 es (scalar64 c1 c0 inv.length)) ∧
      exec (.partResume c1 c0) s = .next (complete (setQui (dropLines s gone) p false) c 2 es (scalar64 c1 c0 gone.length)))

open Sys2Proof Sys2Proof.Machine Sys2Proof.Claim in
/-- R309, R311: PART.SETHASH ends the windows, writes dirty lines back, drops the lines of slices that leave, and installs
the hash. -/
def Sys2Proof.Says.SetHash : Prop :=
  ∀ (s s1 : State) (c : Ctx) (es : List Nat) (e : Nat) (c1 c0 : Cons) (d : List Dword), FiresOnce s c es e → c.plot.role = .reeve →
    (c.low 0 e).toNat < 64 →
    let p := (c.low 0 e).toNat
    let w0 := (d[0]?).getD 0
    let new : List Nat := (List.range (2 ^ (w0.extractLsb' 6 3).toNat)).map ((w0.extractLsb' 0 6).toNat + ·)
    let mine := if partValid s1 p = true then partSlices s1 p else []
    let dirty := fun (x : State) => (linesOf x mine).filter (fun l => l.2.2.dirty)
    let wins := partWindows s1 p
    sethashBefore s c p = false → cellRead s c e 4 (vaOf (c.wide 1 e)) 16 = .ok s1 d → vaOf (c.wide 1 e) % 128 = 0 → hashFieldsOk d = true →
    (partValid s1 p = true → partQui s1 p = false → exec (.partSethash c1 c0) s = .next (partStop s c 1 p)) ∧
    ((partValid s1 p = true → partQui s1 p = true) → (w0.getLsbD 63 = true → ∀ n ∈ new, sliceFree s1 p n = true) →
      (∀ v ∈ hashVis d, viMovable s1 p v = true) → (∀ x ∈ s1.slices, ∀ r ∈ x.2.queue, r.part ≠ p) →
      (∀ x ∈ wins, x.2.2.sent = 0) →
      let s2 := wins.foldl endWindow s1
      let s3 := cleanLines s2 (dirty s2)
      let s4 := dropLines s3 (linesOf s3 (mine.filter (fun k => !(w0.getLsbD 63 && new.contains k))))
      exec (.partSethash c1 c0) s = .next (complete (installHash s4 p d) c 2 es (scalar64 c1 c0
        ((dirty s1).length + wins.foldl (fun n x => n + (x.2.2.wlines.filter (fun l => l.2.mask != 0)).length) 0)))) ∧
    ((partValid s1 p = true → partQui s1 p = true) → (w0.getLsbD 63 = true → ∀ n ∈ new, sliceFree s1 p n = true) →
      (∀ v ∈ hashVis d, viMovable s1 p v = true) → ((∃ x ∈ s1.slices, ∃ r ∈ x.2.queue, r.part = p) ∨ ∃ x ∈ wins, x.2.2.sent ≠ 0) →
      exec (.partSethash c1 c0) s = .next (stallFiring s1))

open Sys2Proof Sys2Proof.Machine Sys2Proof.Claim in
/-- R298, R299, R305, R309: WQUOTA.SET sets the quota; WAYMASK.SET adds ways at once and drains those it takes away. -/
def Sys2Proof.Says.WaysAndQuotas : Prop :=
  ∀ (s : State) (c : Ctx) (es : List Nat) (e : Nat) (c1 c0 : Cons), FiresOnce s c es e → isVi0 c.plot = true →
    (c.low 0 e).toNat < 512 → (c.wide 1 e).toNat < 2 ^ 16 →
    let v := (c.low 0 e).toNat
    let new : BitVec 16 := (c.wide 1 e).setWidth 16
    let old : BitVec 16 := (viOf s v).waym.extractLsb' 0 16
    exec (.wquotaSet c1 c0) s = .next (complete (onVi s v (fun vi => { vi with
      wquota := dw ((vi.wquota.extractLsb' 32 16).toNat * 2 ^ 32 + new.toNat) })) c 2 es (both c1 c0 .s64 [(0, .val 0)])) ∧
    ((viOf s v).wayset = none → waymaskBefore s c v = false → (∀ x ∈ s.vis, x.1 ≠ v → x.2.waym.extractLsb' 16 16 &&& new &&& ~~~old = 0) →
      (old &&& ~~~new = 0 → exec (.waymaskSet c1 c0) s = .next (complete (onVi s v (fun vi => { vi with waym := new.setWidth 64 })) c 2 es
        (both c1 c0 .s64 [(0, .val 0)]))) ∧
      (old &&& ~~~new ≠ 0 →
        let draining := dw ((old &&& ~~~new).toNat * 2 ^ 16 + (old &&& new).toNat)
        exec (.waymaskSet c1 c0) s = .next (issuedOn (onVi s v (fun vi => { vi with
          waym := draining, wayset := some (c.f, new.setWidth 64) })) c es)))

open Sys2Proof Sys2Proof.Machine Sys2Proof.Claim in
/-- R299: when the drain is done, the lines in the drained ways are written back and gone, and the form emits how many were
dirty. -/
def Sys2Proof.Says.WaysDrained : Prop :=
  ∀ (s : State) (v p : Nat) (f : Firing) (m : Dword), (viOf s v).wayset = some (f, m) → viPart? s v = some p →
    let drain : BitVec 16 := (viOf s v).waym.extractLsb' 16 16
    let ls := linesWhere s p (fun _ k l => l.vi == v && drain.getLsbD (k % 16))
    let dirty := ls.filter (fun x => x.2.2.dirty)
    exec (.waymaskDrainDone v) s = .next (finishScalar (onVi (dropLines (dirty.foldl (fun s x => writeBack s x.1 x.2.2) s) ls) v (fun vi => { vi with
      waym := (m.extractLsb' 0 16).setWidth 64, wayset := none })) f .s64 (dw dirty.length))

open Sys2Proof Sys2Proof.Machine Sys2Proof.Claim in
/-- R122: an arrival adds to COUNT, and takes EXPECT from it for every phase it completes; arrivals at a home are applied
one at a time, in order. R135: one of 0 changes nothing. -/
def Sys2Proof.Says.Arriving : Prop :=
  (∀ (b : Barrier) (n : Nat), 0 < n → 0 < b.expect → b.phase < 2 ^ 16 →
    ∃ k, k * b.expect ≤ b.count + n ∧ b.count + n < (k + 1) * b.expect ∧
      b.arrive n = { b with count := b.count + n - k * b.expect, phase := (b.phase + k) % 2 ^ 16 }) ∧
  (∀ (b : Barrier), b.arrive 0 = b) ∧
  (∀ (s : State) (plot : Nat) (p : Plot) (x : Sig) (more : List Sig), Tab.at? s.plots plot = some p → p.arrivals = x :: more →
    Tab.has p.barriers x.pa = true →
    exec (.barrierArrival plot) s = .next (onPlot (onPlot s plot (fun p => { p with arrivals := more })) plot (fun p =>
      { p with barriers := Tab.upd p.barriers x.pa (fun b => b.arrive x.n) })))

open Sys2Proof Sys2Proof.Machine Sys2Proof.Claim in
/-- R120: an EXPECT of 0 is taken as 1. -/
def Sys2Proof.Says.NothingExpected : Prop := ∀ (b : Barrier) (n : Nat), b.arrive n =
    { { b with expect := max 1 b.expect }.arrive n with expect := b.expect }

open Sys2Proof Sys2Proof.Machine Sys2Proof.Claim in
/-- R120-R124: BAR arrives once and emits the phase, SIG sends arrivals, BARW waits for the phase to pass. -/
def Sys2Proof.Says.BarrierForms : Prop :=
  ∀ (s s1 s2 s3 : State) (c : Ctx) (es : List Nat) (e pa : Nat) (n : BitVec 4) (c1 c0 : Cons) (b : Barrier), FiresOnce s c es e →
    let va := vaOf (c.k2 n.toNat)
    let held := fun (x : State) (b : Barrier) => onPlot x c.f.plot (fun p => { p with barriers := Tab.set p.barriers pa b })
    let others := b.waiters.filter (fun w =>
      !(w.1.cell == c.f.cell && w.1.bidx == c.f.bidx && w.1.slot == c.f.slot && w.1.frame == c.f.frame))
    (barrierWay s c va .write true = .go s1 pa → releaseFirst s1 c = (s2, false) → bindBarrier s2 c va pa = .ok (s3, some b) →
      exec (.bar n c1 c0) s = .next (complete (held s3 (b.arrive 1)) c 2 es (raw32 c1 c0 b.phase))) ∧
    (barrierWay s c va .write false = .go s1 pa → releaseFirst s1 c = (s2, false) →
      let x : Sig := { by_ := (c.f.plot, c.f.cell), vi := c.plot.vi, gen := c.plot.bgen, pa := pa, n := (c.low 0 e).toNat % 2 ^ 16 }
      exec (.sig n) s = .next (complete { s2 with sigs := s2.sigs ++ [x] } c 2 es [])) ∧
    (barrierWay s c va .read true = .go s1 pa → bindBarrier s1 c va pa = .ok (s3, some b) →
      (b.phase = (c.low 0 e).toNat % 2 ^ 16 →
        exec (.barw n c1 c0) s = .next (stallFiring (held s3 { b with waiters := others ++ [(c.f, c.inst.run)] }))) ∧
      (b.phase ≠ (c.low 0 e).toNat % 2 ^ 16 →
        exec (.barw n c1 c0) s = .next (complete (readsAnew (held s3 { b with waiters := others }) c.f.plot) c 2 es
          (raw32 c1 c0 b.phase))))

open Sys2Proof Sys2Proof.Machine Sys2Proof.Claim in
/-- R123: a SIG reaches the home of its barrier, or the barrier in memory; one of an old generation is counted in STALESIG. -/
def Sys2Proof.Says.Signals : Prop :=
  ∀ (s : State) (x : Sig) (rest : List Sig), s.sigs = x :: rest →
    let s0 : State := { s with sigs := rest }
    (x.gen ≠ (viOf s x.vi).bgen → exec .sigAtHub s = .next (onVi s0 x.vi (fun vi => { vi with stalesig := satInc vi.stalesig }))) ∧
    (∀ k p, x.gen = (viOf s x.vi).bgen → barrierHomes s x.vi x.pa = [(k, p)] → p.stop ≠ .freeze →
      exec .sigAtHub s = .next (onPlot { s0 with ctr := s.ctr + 1 } k (fun p => { p with arrivals := p.arrivals ++ [x] }))) ∧
    (x.gen = (viOf s x.vi).bgen → barrierHomes s x.vi x.pa = [] → barrierImage? s x.vi x.pa = none → lineReady s hubPort x.vi (x.pa / 128) = true →
      exec .sigAtHub s = .next (arriveInMemory s0 x.vi x.pa x.n)) ∧
    (∀ plot p (y : Sig) more, Tab.at? s.plots plot = some p → p.arrivals = y :: more →
      let s1 := onPlot s plot (fun p => { p with arrivals := more })
      (Tab.has p.barriers y.pa = false → exec (.barrierArrival plot) s = .next (if lineReady s1 hubPort p.vi (y.pa / 128) = true
        then arriveInMemory s1 p.vi y.pa y.n else { s1 with sigs := s1.sigs ++ [y] })))

namespace Sys2Proof.Claim
open Sys2Proof.Machine

/-- Lines of memory copied to others, charged to a VI, in ascending order (R272, R433). -/
def copied (s : State) (v src dst : Nat) : Nat → State
  | 0 => s
  | n + 1 => copyLine (copied s v src dst n) v (src + n) (dst + n)

/-- A P-cell waits for one access of an unit at an address, and to read or write, at most once. -/
abbrev waitsOnce (s : State) (port : Nat) (m : Miss) : Prop :=
  ∀ x ∈ (portOf s port).misses, x.who = m.who → x.va = m.va → x.write = m.write → x = m

/-- The first access of a P-cell that waits for a page to migrate (R272), with the leaf entry, its page and its size. -/
abbrev migrates (s : State) (port : Nat) (m : Miss) (entry pfn lg : Nat) : Prop :=
  m.fail = some (.migrate entry pfn lg) ∧ (portOf s port).misses.find? (fun m => !m.victim && (match m.fail with
    | some (.migrate _ _ _) => true
    | _ => false)) = some m

end Sys2Proof.Claim

open Sys2Proof Sys2Proof.Machine Sys2Proof.Claim in
/-- R392-R394, R396: a declaration of one of the first eight records is admitted while SQUOTA has room and no record before
it waits for its own; the lines of the first of its staging function are read in slots that serve it; a fault ends it. -/
def Sys2Proof.Says.Staging : Prop :=
  ∀ (s s1 : State) (k : Nat) (r : Rec) (w : WorkSet), Tab.at? s.recs k = some r → currentSet s k r = .set s1 w →
    let v := recVi k
    let units := (w.bytes + 65535) / 65536
    let staged := fun (x : State) (g : Rec → Rec) => ({ x with recs := Tab.upd x.recs k g } : State)
    let granted := fun (x : State) (g : Rec → Rec) => staged { x with ctr := x.ctr + 1 } (fun r => { g r with
      open_ := true, line := 0, turn := x.ctr })
    let next := fun (r : Rec) => { r with decl := r.decl + 1, line := 0, open_ := false }
    let used := ((viOf s1 v).squota.extractLsb' 32 16).toNat
    let quota := ((viOf s1 v).squota.extractLsb' 0 16).toNat
    (stageable s k r = true → (∀ x ∈ stagedBefore s k r, stageable s x.1 x.2 = true → admitted? s x.1 x.2 = none) →
      (w.near = false → used + units ≤ quota →
        exec (.stageDeclaration k) s = .next (granted (addUsed s1 v units) (fun r => { r with charged := r.charged + units }))) ∧
      (w.near = false → quota < used + units → exec (.stageDeclaration k) s = .next s) ∧
      (∀ key, w.near = true → w.frozen = true → nearPlot? s1 k r w = some key →
        exec (.stageDeclaration k) s = .next (granted s1 (fun r => { r with bound := some key, areas := w.area :: r.areas })))) ∧
    (∀ port, stagingPort? s (recDie k) v = some port → r.ready s = true → r.open_ = true → firstStaged s k r = true →
      stageSlot s (recDie k) v = true →
      let va := (w.start + 128 * r.line) % 2 ^ 57
      (w.bytes ≤ 128 * r.line → exec (.stagingRead k) s = .next (staged s1 next)) ∧
      (∀ s2 why, 128 * r.line < w.bytes → translate s1 (Via.staging port v) va .read = .fail s2 (.xlate why) →
        exec (.stagingRead k) s = .next (staged s2 next)) ∧
      (∀ s2 pa, 128 * r.line < w.bytes → translate s1 (Via.staging port v) va .read = .ok s2 pa → paReserved s2 pa = false →
        paRemote s2 pa = false → lineReady s2 port v (pa / 128) = true →
        let f := readLine s2 port v (pa / 128) 128
        let s3 := addToll (useSlot f.s (recDie k)) v 8 128
        (w.near = false → exec (.stagingRead k) s = .next (staged s3 (fun r => { r with line := r.line + 1 }))) ∧
        (∀ key, w.near = true → r.bound = some key →
          exec (.stagingRead k) s = .next (staged (putSnapshot s3 key w.area (128 * r.line) f.data) (fun r => { r with line := r.line + 1 })))))

open Sys2Proof Sys2Proof.Machine Sys2Proof.Claim in
/-- R396-R398: each microsecond FSDEF of a VI with work grows while it holds less than its share; beyond QUANTUM a plot is
pre-empted for it. -/
def Sys2Proof.Says.FairShare : Prop :=
  ∀ (s : State),
    (∃ t, exec .fairShareTick s = .next t ∧ t.usShare = s.time.toNat ∧
      ∀ v < 512,
        let sum := ((List.range 512).filter (fun u => hasReady s u || (viOf s u).queues.any (fun q => q.2.base.getLsbD 4 && q.2.head != q.2.tail))).foldl
          (fun n u => n + weightOf s u) 0
        (viActive s v = false → viOf t v = viOf s v) ∧
        (viActive s v = true → heldCells s v * sum < 4608 * weightOf s v → (oldestWaiting? s v).isSome = true →
          viOf t v = { viOf s v with fsdef := satInc (viOf s v).fsdef }) ∧
        (viActive s v = true → (4608 * weightOf s v ≤ heldCells s v * sum ∨ oldestWaiting? s v = none) →
          viOf t v = { viOf s v with fsdef := 0 })) ∧
    (∀ v k r shape pin key, s.quantum.toNat % 2 ^ 32 < (viOf s v).fsdef.toNat → preempting s = false → oldestWaiting? s v = some (k, r) →
      shapeOf? s k r = some (shape, pin) →
      (makePlace s.plots.length s shape pin ≠ none → exec (.fairSharePreempt v) s = .next s) ∧
      (makePlace s.plots.length s shape pin = none → victimFor? s v shape pin = some key →
        exec (.fairSharePreempt v) s = .next (beginStop s key (if s.wavebud.toNat % 2 ^ 32 = 0 then .freeze else .wave)
          (some { start := s.time.toNat, sent := false, arrived := [], waiter := none })))) ∧
    (∀ v, (viOf s v).fsdef.toNat ≤ s.quantum.toNat % 2 ^ 32 → exec (.fairSharePreempt v) s = .next s)

open Sys2Proof Sys2Proof.Machine Sys2Proof.Claim in
/-- R432: toll 6 grows each microsecond by the ways and window quota of a VI, and nothing else changes. -/
def Sys2Proof.Says.TollTick : Prop :=
  ∀ (s : State), ∃ t, exec .tollTick s = .next t ∧ t.usToll = s.time.toNat ∧ t.plots = s.plots ∧ t.mem = s.mem ∧
    ∀ v < 512, ∀ i, i ≠ 6 → Tab.atD (viOf t v).tolls i 0 = Tab.atD (viOf s v).tolls i 0 ∧
      (viPart? s v = none → Tab.atD (viOf t v).tolls 6 0 = Tab.atD (viOf s v).tolls 6 0) ∧
      (∀ p, viPart? s v = some p → Tab.atD (viOf t v).tolls 6 0 = Tab.atD (viOf s v).tolls 6 0 + dw
        (((List.range 16).filter (fun w => (viOf s v).waym.getLsbD w || (viOf s v).waym.getLsbD (16 + w))).length *
          2 ^ ((partOf s p).extractLsb' 51 3).toNat + (((viOf s v).wquota.extractLsb' 32 16).toNat + 7) / 8))

open Sys2Proof Sys2Proof.Machine Sys2Proof.Claim in
/-- R268, R271: a walk fills the TLBs, marks the entries used, or leaves its fault with the access; that a migrating page
may be given up is log entry 33. -/
def Sys2Proof.Says.PageWalks : Prop :=
  ∀ (s : State) (port : Nat) (m : Miss), nextWalk? s port = some m → waitsOnce s port m →
    (∀ why, walk s m.who.vi m.va = .error (.xlate why) →
      exec (.pageWalkComplete port) s = .next (onMiss s port m (fun m => some { m with walking := false, fail := some (.xlate why) }))) ∧
    (∀ w, walk s m.who.vi m.va = .ok w →
      let allowed := (permFault? w.entry (if m.write = true then .write else .read)).isNone
      let s1 := if allowed = true then markUsed s m.who.vi w m.write else s
      exec (.pageWalkComplete port) s = .next (fillTlb (onMiss s1 port m (fun _ => none)) port { w.entry with
        dirty := w.entry.dirty || (allowed && m.write) })) ∧
    (∀ entry pfn lg, walk s m.who.vi m.va = .error (.migrate entry pfn lg) →
      let found := { m with walking := false, fail := some (.migrate entry pfn lg) }
      let waits := onMiss { s with ctr := s.ctr + 1 } port m (fun _ => some found)
      let given := onMiss waits port found (fun m => some { m with victim := true })
      let h := m.who.handleOf given
      exec (.pageWalkComplete port) s = .next (if Config.freeChoice s.ctr = true ∧ nothingToEvict waits found = true then
          onVi (putFault given m.who.vi h.1 6 h.2.1 m.va h.2.2.1 h.2.2.2) m.who.vi (fun vi => { vi with
            ftstart := some (vi.ftstart.getD s.time.toNat) })
        else waits))

open Sys2Proof Sys2Proof.Machine Sys2Proof.Claim in
/-- R272: a migrated page is copied to its frame and its entry moved, after an evicted page was copied to the CXL tier; a
frame that is no place for it changes nothing. -/
def Sys2Proof.Says.Migration : Prop :=
  ∀ (s : State) (port frame entry pfn lg : Nat) (m : Miss), migrates s port m entry pfn lg →
    let page := pfn * 4096 / 2 ^ lg * 2 ^ lg
    let moved := fun (x : State) =>
      onPort (movedFrame (movePage (copied x m.who.vi (page / 128) (frame * 4096 / 128) (2 ^ lg / 128)) entry lg frame true)
        page (frame * 4096) (2 ^ lg)) port
        (fun p => { p with misses := p.misses.map (fun x => if x = m then { m with fail := none } else x) })
    (frameOk s true frame lg = true → migrationWaits s port none = false → exec (.migrationComplete port frame none) s = .next (moved s)) ∧
    (∀ evict, (frameOk s true frame lg = false ∨ migrationWaits s port evict = true) → exec (.migrationComplete port frame evict) s = .next s) ∧
    (∀ other place, frameOk s true frame lg = true → migrationWaits s port (some (other, place)) = false → evictable s (m.needs s) other lg = true → frameOk s false place lg = true →
      let from_ := field (newestWord s other) 51 12 * 4096 / 2 ^ lg * 2 ^ lg
      let s1 := movePage (copied s m.who.vi (from_ / 128) (place * 4096 / 128) (2 ^ lg / 128)) other lg place false
      exec (.migrationComplete port frame (some (other, place))) s = .next (moved (movedFrame s1 from_ (place * 4096) (2 ^ lg))))

open Sys2Proof Sys2Proof.Machine Sys2Proof.Claim in
/-- R273: after FTIMEOUT a plot that waits for a page is frozen, saved and its access recorded as NOVICTIM. -/
def Sys2Proof.Says.NoVictim : Prop :=
  ∀ (s : State) (v start : Nat), (viOf s v).ftstart = some start →
    (s.time.toNat - start < (viOf s v).ftimeout.toNat * Config.cyclesPerUs → exec (.ftimeoutExpiry v) s = .next s) ∧
    ((viOf s v).ftimeout.toNat * Config.cyclesPerUs ≤ s.time.toNat - start →
      (victims s v = [] → exec (.ftimeoutExpiry v) s = .next (onVi s v (fun vi => { vi with ftstart := none }))) ∧
      (∀ port m l key p, victims s v = (port, m) :: l → m.who.plot = some key → Tab.at? s.plots key = some p →
        (p.stop = .none → p.frozen = false → exec (.ftimeoutExpiry v) s = .next (beginStop s key .freeze none)) ∧
        (∀ f, (p.stop ≠ .none ∨ p.frozen = true) → cellsStopped key p true = true → m.who.firing = some f →
          let s1 := saveAndRequeue (onMiss s port m (fun _ => none)) key 2
          let s2 := raiseRecord s1 v .novictim (((ctxIn? p f).map (fun c => c.inst.first)).getD 0) (dw (m.who.src * 2 ^ 61 + m.va % 2 ^ 57))
            (tcellOf p f.cell f.bidx f.slot) (plotWord p)
          exec (.ftimeoutExpiry v) s =
            .next (if victims s2 v = [] then onVi s2 v (fun vi => { vi with ftstart := none }) else s2))))

open Sys2Proof Sys2Proof.Machine Sys2Proof.Claim in
/-- R423, R424, R427: a freeze completes when its cells have stopped, a wave when every marker has arrived, and a wave that
has spent WAVEBUD becomes a freeze. -/
def Sys2Proof.Says.FreezesAndWaves : Prop :=
  ∀ (s : State) (plot : Nat) (p : Plot), Tab.at? s.plots plot = some p →
    (p.stop = .freeze → p.frozen = false → cellsStopped plot p true = true →
      let s1 := onPlot s plot (fun p => { abandonReverse p with frozen := true, stop := .none, wave := none,
                                                                  tokens := p.tokens.filter (fun t => !t.mark) })
      let s2 := (freezeWaiters s1 (plotWord p)).foldl (fun s f => finishScalar s f .s32 0) s1
      (p.wave = none → exec (.freezeComplete plot) s = .next s2) ∧
      (∀ w f, p.wave = some w → w.waiter = some f → exec (.freezeComplete plot) s = .next (finishScalar s2 f .s32 1)) ∧
      (∀ w, p.wave = some w → w.waiter = none → p.trap = none → exec (.freezeComplete plot) s = .next (saveAndRequeue s2 plot 2))) ∧
    (∀ w, p.wave = some w → p.stop = .wave → p.frozen = false → w.sent = true → (∀ x ∈ p.routes, x.1 ∈ w.arrived) → p.eosQ = [] →
      deliveryTo s plot = false →
      (w.waiter = none → exec (.waveComplete plot) s = .next (saveAndRequeue s plot 1)) ∧
      (∀ f, w.waiter = some f → exec (.waveComplete plot) s = .next (finishAnywhere (takeImage s plot 1).1 f .s32 0))) ∧
    (∀ w, p.wave = some w → p.stop = .wave →
      ((s.wavebud.toNat % 2 ^ 32) * Config.cyclesPerUs ≤ s.time.toNat - w.start →
        exec (.wavebudExpiry plot) s = .next (onPlot s plot (fun p => { p with stop := .freeze }))) ∧
      (s.time.toNat - w.start < (s.wavebud.toNat % 2 ^ 32) * Config.cyclesPerUs → exec (.wavebudExpiry plot) s = .next s))

namespace Sys2Proof.Claim
open Sys2Proof.Machine

/-- SYSREG of R413: WHY, and bits 60-0 of the selector or operand at fault. -/
def sysStop (s : State) (c : Ctx) (why : Nat) (a : Dword) : State :=
  trapFiring s c.f .sysreg c.inst.first (dw (why * 2 ^ 61 + a.toNat % 2 ^ 61))

/-- A plot word that a class H form of a firing accepts, and the plot it names (R413, R444). -/
abbrev mayActOn (c : Ctx) (w : Dword) : Prop :=
  isPrivileged c.plot = true ∧ plotWordRsv w = false ∧ ((w.extractLsb' 32 9).toNat = c.plot.vi ∨ isVi0 c.plot = true)

/-- The class H forms on a plot word. -/
def plotForm : Instr → Bool
  | .freeze .. | .thaw .. | .markwave .. | .imgsave .. | .imgload .. => true
  | _ => false

/-- A firing whose job keeps no journal (R435). -/
abbrev unjournalled (s : State) (c : Ctx) : Prop :=
  ∀ k r j, recOf? s c.plot = some (k, r) → Tab.at? s.jobs r.job = some j → j.jmode ≠ 1 ∧ j.jmode ≠ 2

/-- The 64 signed bytes of a toll record (R434). -/
def tollRecord (s : State) (v g : Nat) (nonce : Dword) : List Dword :=
  let toll := fun i => if 4 * g + i < 11 then Tab.atD (viOf s v).tolls (4 * g + i) 0 else 0
  [dw (v * 2 ^ 55 + g * 2 ^ 53), (viOf s v).sigseq + 1, s.time, nonce, toll 0, toll 1, toll 2, toll 3]

end Sys2Proof.Claim

open Sys2Proof Sys2Proof.Machine Sys2Proof.Claim in
/-- R441: SYSRD and SYSWR of a plot, VI or module register, or SYSREG with the WHY of R413. -/
def Sys2Proof.Says.SystemRegisters : Prop :=
  ∀ (s : State) (c : Ctx) (es : List Nat) (e : Nat) (c1 c0 : Cons), FiresOnce s c es e →
    let a := c.wide 0 e
    let w := c.wide 1 e
    let vi := (a.extractLsb' 50 9).toNat
    let reg := (a.extractLsb' 40 10).toNat
    let index := (a.extractLsb' 0 40).toNat
    let reads := fun (v : Dword) => complete s c 2 es (both c1 c0 .s64 [(0, .val v)])
    let writes := fun (s : State) => complete s c 2 es (zero32 c1 c0)
    (∀ why, accessWhy? (isVi0 c.plot) c.plot.vi a none = some why → exec (.sysrd c1 c0) s = .next (sysStop s c why a)) ∧
    (∀ why, accessWhy? (isVi0 c.plot) c.plot.vi a (some w) = some why → (why = 4 → a.extractLsb' 59 2 = 0#2 → plotTarget? s c ≠ none) →
      exec (.syswr c1 c0) s = .next (sysStop s c why a)) ∧
    (a.extractLsb' 59 2 = 0#2 → plotTarget? s c = none →
      (reg ≠ 0x00D → accessWhy? (isVi0 c.plot) c.plot.vi a none = none → exec (.sysrd c1 c0) s = .next (sysStop s c 2 a)) ∧
      (accessWhy? (isVi0 c.plot) c.plot.vi a (some w) ∈ [none, some 4] → exec (.syswr c1 c0) s = .next (sysStop s c 2 a))) ∧
    (accessWhy? (isVi0 c.plot) c.plot.vi a none = none →
      (a.extractLsb' 59 2 = 0#2 → c.plot.role ≠ .handler → ∀ v, plotRegValue? s c.plot reg index = some v →
        Tab.at? s.plots c.f.plot = some c.plot → exec (.sysrd c1 c0) s = .next (reads v)) ∧
      (a.extractLsb' 59 2 = 1#2 → exec (.sysrd c1 c0) s = .next (reads (viRegValue (viOf s vi) reg index))) ∧
      (a.extractLsb' 59 2 = 2#2 → exec (.sysrd c1 c0) s = .next (reads (moduleRegValue s reg index)))) ∧
    (accessWhy? (isVi0 c.plot) c.plot.vi a (some w) = none →
      (∀ key p, a.extractLsb' 59 2 = 0#2 → plotTarget? s c = some (key, p) →
        exec (.syswr c1 c0) s = .next (writes (onPlot s key (fun p => writePlotReg p reg w)))) ∧
      (a.extractLsb' 59 2 = 1#2 → exec (.syswr c1 c0) s = .next (writes (writeViReg s vi reg index w))) ∧
      (a.extractLsb' 59 2 = 2#2 → exec (.syswr c1 c0) s = .next (writes (writeModuleReg s reg index w))))

open Sys2Proof Sys2Proof.Machine Sys2Proof.Claim in
/-- R411-R413: an access is refused in order: unassigned, reserved or wrong scope 0; another VI or privilege 1; no reader or
writer 3; index 2; value 4. -/
def Sys2Proof.Says.RegisterChecks : Prop :=
  ∀ (vi0 : Bool) (v : Nat) (a : Dword) (w : Option Dword),
    let reg := (a.extractLsb' 40 10).toNat
    let scope := (a.extractLsb' 59 2).toNat
    let vi := (a.extractLsb' 50 9).toNat
    (regInfo? reg = none → accessWhy? vi0 v a w = some 0) ∧
    (a.extractLsb' 61 3 ≠ 0#3 → accessWhy? vi0 v a w = some 0) ∧
    (∀ i, regInfo? reg = some i → a.extractLsb' 61 3 = 0#3 →
      (scope ≠ i.scope → accessWhy? vi0 v a w = some 0) ∧
      (scope = i.scope →
        (scope = 1 → vi ≠ v → vi0 = false → accessWhy? vi0 v a w = some 1) ∧
        ((scope = 1 → vi = v ∨ vi0 = true) →
          let who := if w.isSome = true then i.wr else i.rd
          (who = .vi0 → vi0 = false → accessWhy? vi0 v a w = some 1) ∧
          (who = .none → accessWhy? vi0 v a w = some 3) ∧
          ((who = .all ∨ (who = .vi0 ∧ vi0 = true)) →
            (i.size ≤ (a.extractLsb' 0 40).toNat → accessWhy? vi0 v a w = some 2) ∧
            ((a.extractLsb' 0 40).toNat < i.size → reg ≠ 0x102 →
              (w = none → accessWhy? vi0 v a w = none) ∧
              (∀ x, w = some x → accessWhy? vi0 v a w = if valueOk reg x = true then none else some 4))))))

open Sys2Proof Sys2Proof.Machine Sys2Proof.Claim in
/-- R412: a writable register reads what was written; IPEND, JQERR clear by ones; SQUOTA keeps its use; BELL takes effect
later. A table holds one entry for an index. -/
def Sys2Proof.Says.RegistersHold : Prop :=
  ∀ (s : State) (v n r : Nat) (w : Dword), valueOk r w = true →
    (r ∈ [0x040, 0x041, 0x043, 0x045, 0x04A, 0x04B, 0x04D, 0x050, 0x060, 0x061, 0x062, 0x063, 0x065, 0x066, 0x068, 0x06A, 0x06E,
        0x073, 0x075, 0x077, 0x078] →
      viRegValue (viOf (writeViReg s v r n w) v) r n = w) ∧
    (r = 0x071 →
      let q := Tab.atD (viOf s v).queues n JobQueue.reset
      let t := writeViReg s v r n w
      let size := 2 ^ ((w.extractLsb' 0 4).toNat + 4)
      ((q.tail - q.head).toNat ≤ size → viRegValue (viOf t v) r n = w) ∧
      (size < (q.tail - q.head).toNat → viRegValue (viOf t v) r n = w &&& ~~~0x10#64 ∧ viRegValue (viOf t v) 0x074 n = 1)) ∧
    (∀ k < 64, (viOf (writeViReg s v 0x049 0 w) v).ipend.getLsbD k = ((viOf s v).ipend.getLsbD k && !w.getLsbD k)) ∧
    (viRegValue (viOf (writeViReg s v 0x06D 0 w) v) 0x06D 0).extractLsb' 0 16 = w.extractLsb' 0 16 ∧
    (viRegValue (viOf (writeViReg s v 0x06D 0 w) v) 0x06D 0).extractLsb' 32 16 = (viOf s v).squota.extractLsb' 32 16 ∧
    viRegValue (viOf (writeViReg s v 0x074 n w) v) 0x074 n = viRegValue (viOf s v) 0x074 n &&& ~~~((w.setWidth 32).setWidth 64) ∧
    (∀ u, u ≠ v → r ≠ 0x04F → r ≠ 0x040 → r ≠ 0x044 → r ≠ 0x063 → r ≠ 0x065 → r ≠ 0x067 → viOf (writeViReg s v r n w) u = viOf s u) ∧
    (r ∈ [0x103, 0x104] → moduleRegValue (writeModuleReg s r n w) r n = w) ∧
    (r = 0x06C → ((viOf s v).poolmem.map (·.1)).Nodup → viRegValue (viOf (writeViReg s v r n w) v) r n = w) ∧
    (r ∈ [0x106, 0x107] → (s.smap.map (·.1)).Nodup → moduleRegValue (writeModuleReg s r n w) r n = w) ∧
    (moduleRegValue (writeModuleReg s 0x100 n w) 0x100 n = moduleRegValue s 0x100 n ∧
      Tab.atD (writeModuleReg s 0x100 n w).bellNext n 0 = w)

open Sys2Proof Sys2Proof.Machine Sys2Proof.Claim in
/-- R434, R442: TOLLRD reads a counter; TOLLSIG writes the signed record and emits its sequence number. -/
def Sys2Proof.Says.TollForms : Prop :=
  ∀ (s s1 : State) (c : Ctx) (es : List Nat) (e : Nat) (n : BitVec 4) (c1 c0 : Cons) (l : List Dword), FiresOnce s c es e →
    let a := c.low 0 e
    let v := (a.extractLsb' 4 9).toNat
    let i := (a.extractLsb' 0 4).toNat
    let u := (a.extractLsb' 2 9).toNat
    let g := (a.extractLsb' 0 2).toNat
    let ws := tollRecord s u g (c.wide 1 e)
    (a.extractLsb' 13 19 = 0#19 → (v = c.plot.vi ∨ isVi0 c.plot = true) → i < 11 →
      exec (.tollrd c1 c0) s = .next (complete s c 2 es (both c1 c0 .s64 [(0, .val (Tab.atD (viOf s v).tolls i 0))]))) ∧
    (a.extractLsb' 13 19 = 0#19 → v ≠ c.plot.vi → isVi0 c.plot = false → exec (.tollrd c1 c0) s = .next (sysStop s c 1 (a.setWidth 64))) ∧
    (a.extractLsb' 11 21 = 0#21 → (u = c.plot.vi ∨ isVi0 c.plot = true) → g < 3 → vaOf (c.k2 n.toNat) % 32 = 0 →
      cellWrite s c e 4 (vaOf (c.k2 n.toNat)) (ws ++ digestDwords (hmac64 Config.deviceKey ws)) = .ok s1 l →
      exec (.tollsig n c1 c0) s = .next (complete (onVi s1 u (fun vi => { vi with sigseq := (viOf s u).sigseq + 1 })) c 2 es
        (both c1 c0 .s32 [(0, .val ((((viOf s u).sigseq + 1).setWidth 32).setWidth 64))])))

open Sys2Proof Sys2Proof.Machine Sys2Proof.Claim in
/-- R413, R444: FREEZE, THAW and MARKWAVE check privilege, reserved bits and reach, then act on the plot that the word
names. -/
def Sys2Proof.Says.PlotForms : Prop :=
  ∀ (i : Instr) (s : State) (c : Ctx) (es : List Nat) (e key : Nat) (c1 c0 : Cons) (p : Plot), FiresOnce s c es e →
    let w := c.wide 0 e
    (plotForm i = true →
      (isPrivileged c.plot = false → exec i s = .next (trapFiring s c.f .priv c.inst.first (infoPriv c))) ∧
      (isPrivileged c.plot = true → plotWordRsv w = true → exec i s = .next (sysStop s c 0 w)) ∧
      (isPrivileged c.plot = true → plotWordRsv w = false → (w.extractLsb' 32 9).toNat ≠ c.plot.vi → isVi0 c.plot = false →
        exec i s = .next (sysStop s c 1 w))) ∧
    (mayActOn c w → plotByWord? s w = none →
      exec (.freeze c1 c0) s = .next (sysStop s c 2 w) ∧ exec (.thaw c1 c0) s = .next (sysStop s c 2 w) ∧
      exec (.markwave c1 c0) s = .next (sysStop s c 2 w)) ∧
    (mayActOn c w → plotByWord? s w = some (key, p) →
      (p.frozen = true → exec (.freeze c1 c0) s = .next (complete s c 2 es (zero32 c1 c0)) ∧
        exec (.markwave c1 c0) s = .next (sysStop s c 5 (plotWord p))) ∧
      (p.frozen = false → p.stop = .none → exec (.freeze c1 c0) s = .next (issuedOn (beginStop s key .freeze none) c es) ∧
        exec (.markwave c1 c0) s = .next (issuedOn (beginStop s key (if s.wavebud.toNat % 2 ^ 32 = 0 then .freeze else .wave)
          (some { start := s.time.toNat, sent := false, arrived := [], waiter := some c.f })) c es)) ∧
      (p.frozen = true → p.trap = none →
        exec (.thaw c1 c0) s = .next (complete (resumePlotNow s key p) c 2 es (zero32 c1 c0))) ∧
      ((p.frozen = false ∨ p.trap.isSome = true) → exec (.thaw c1 c0) s = .next (sysStop s c 5 (plotWord p))))

namespace Sys2Proof.Claim
open Sys2Proof.Machine

/-- The end of a firing whose words could not be written: its trap, or a wait. -/
def stopped (s : State) (c : Ctx) : Res → State
  | .trap cause _ info => trapFiring s c.f cause c.inst.first info
  | .stall x => stallFiring x
  | _ => s

/-- An IMGSAVE of a plot word that writes image `id` of the state `x` (R444): into IMGMEM where its address is 0, else there. -/
def saves (s x : State) (c : Ctx) (es : List Nat) (e : Nat) (n : BitVec 4) (c1 c0 : Cons) (id : Nat) : State :=
  let va := vaOf (c.k2 n.toNat)
  let bytes := ((Tab.at? x.images id).map (·.bytes)).getD 0
  if c.k2 n.toNat = 0 then
    match storeImage? x id with
    | none => sysStop s c 4 (c.wide 0 e)
    | some y => complete (requeue y id) c 2 es (scalar64 c1 c0 bytes)
  else
    match cellWrite s c e 4 va (imageWords x id), cellWrite x c e 4 va (imageWords x id) with
    | .stop r, _ => stopped s c r
    | .ok _ _, .ok y _ =>
      if va % 64 = 0 then
        complete (requeue { y with images := Tab.upd y.images id (fun im => { im with va := some va }) } id) c 2 es (scalar64 c1 c0 bytes)
      else trapFiring s c.f .align c.inst.first (infoMem 4 0 va)
    | .ok _ _, .stop _ => if va % 64 = 0 then stallFiring s else trapFiring s c.f .align c.inst.first (infoMem 4 0 va)

end Sys2Proof.Claim

open Sys2Proof Sys2Proof.Machine Sys2Proof.Claim in
/-- R426, R444: IMGSAVE writes or stores the image of a frozen plot and emits its bytes; IMGLOAD configures and restores
one, and refuses a wrong CRC. -/
def Sys2Proof.Says.ImageForms : Prop :=
  ∀ (s s1 s2 : State) (c : Ctx) (es : List Nat) (e key id : Nat) (n : BitVec 4) (c1 c0 : Cons) (p : Plot) (h body l : List Dword), FiresOnce s c es e →
    let w := c.wide 0 e
    let va := vaOf (c.k2 n.toNat)
    let saved := (h[1]?).getD 0
    let bytes := ((Tab.at? s.images id).map (·.bytes)).getD 0
    (mayActOn c w → plotByWord? s w = some (key, p) → p.frozen = true → cellsStopped key p true = true →
      exec (.imgsave n c1 c0) s = .next (saves s (takeImage s key 2).1 c es e n c1 c0 (takeImage s key 2).2)) ∧
    (mayActOn c w → plotByWord? s w = none → waveImage? s w = some id →
      exec (.imgsave n c1 c0) s = .next (saves s s c es e n c1 c0 id) ∧
      (c.k2 n.toNat = 0 → storeImage? s id = some s1 →
        exec (.imgsave n c1 c0) s = .next (complete (requeue s1 id) c 2 es (scalar64 c1 c0 bytes))) ∧
      (c.k2 n.toNat ≠ 0 → va % 64 = 0 → cellWrite s c e 4 va (imageWords s id) = .ok s1 l →
        exec (.imgsave n c1 c0) s = .next (complete (requeue { s1 with images := Tab.upd s1.images id (fun im => { im with va := some va }) } id)
          c 2 es (scalar64 c1 c0 bytes)))) ∧
    (∀ cause tag info, mayActOn c w → cellRead s c e 4 va 8 = .stop (.trap cause tag info) →
      (onFabric w = false → exec (.imgload n c1 c0) s = .next (sysStop s c 2 w)) ∧
      (onFabric w = true → (∃ x ∈ s.plots, (wordPlace w).overlaps x.2 = true) → exec (.imgload n c1 c0) s = .next (sysStop s c 5 w)) ∧
      (onFabric w = true → (∀ x ∈ s.plots, (wordPlace w).overlaps x.2 = false) →
        exec (.imgload n c1 c0) s = .next (trapFiring s c.f cause tag info))) ∧
    (mayActOn c w → cellRead s c e 4 va 8 = .ok s1 h →
      (rectangleOk w saved = false → exec (.imgload n c1 c0) s = .next (sysStop s c 2 w)) ∧
      (rectangleOk w saved = true → (∃ x ∈ s.plots, (wordPlace w).overlaps x.2 = true) → exec (.imgload n c1 c0) s = .next (sysStop s c 5 w))) ∧
    (mayActOn c w → va % 64 = 0 → cellRead s c e 4 va 8 = .ok s1 h → rectangleOk w saved = true →
      (∀ x ∈ s.plots, (wordPlace w).overlaps x.2 = false) → badImageHead? h = none →
      cellRead s1 c e 4 (va + 64) ((((h[0]?).getD 0).extractLsb' 0 48).toNat / 8 - 8) = .ok s2 body →
      (∀ s3 cause info cell pw, crc32 body = ((h[4]?).getD 0).setWidth 32 →
        configure s2 (w.extractLsb' 32 9).toNat .graph none (((h[2]?).getD 0).extractLsb' 0 57).toNat (w.extractLsb' 24 2).toNat false
          (some ((w.extractLsb' 18 6).toNat, (w.extractLsb' 12 6).toNat)) = .failed s3 cause info cell pw →
        exec (.imgload n c1 c0) s = .next (onPlot s3 c.f.plot (fun p => takeTrap p cause 0 info cell []))) ∧
      (∀ s3, crc32 body = ((h[4]?).getD 0).setWidth 32 →
        configure s2 (w.extractLsb' 32 9).toNat .graph none (((h[2]?).getD 0).extractLsb' 0 57).toNat (w.extractLsb' 24 2).toNat false
          (some ((w.extractLsb' 18 6).toNat, (w.extractLsb' 12 6).toNat)) = .ok s3 key → imageOf? s3 h body = some id →
        exec (.imgload n c1 c0) s = .next (complete (bindRestored (restoreInto s3 id key) key id) c 2 es (zero32 c1 c0))) ∧
      (crc32 body ≠ ((h[4]?).getD 0).setWidth 32 →
        exec (.imgload n c1 c0) s = .next (trapFiring s c.f .rsvfld c.inst.first (infoHdr c.blk.step 0 4 0))))

open Sys2Proof Sys2Proof.Machine Sys2Proof.Claim in
/-- R322, R443, R445: SYNC.CODE, HALT, VIRQ, TIMER, JNL.NOTE and JNL.Q of a firing without a journal. -/
def Sys2Proof.Says.SystemForms : Prop :=
  ∀ (s s1 : State) (c : Ctx) (es : List Nat) (e : Nat) (c1 c0 : Cons) (vec : BitVec 6), FiresOnce s c es e →
    let b := (c.wide 1 e).toNat
    let t := flushVi s c.plot.vi
    (b = 0 → exec (.syncCode c1 c0) s = .next (complete s c 2 es (zero32 c1 c0))) ∧
    (0 < b → b < 2 ^ 32 → viWrites t c.plot.vi = true → exec (.syncCode c1 c0) s = .next (stallFiring t)) ∧
    (0 < b → b < 2 ^ 32 → viWrites t c.plot.vi = false →
      let queue := (recOf? t c.plot).bind (fun x => (Tab.at? t.jobs x.2.job).map (·.queue))
      exec (.syncCode c1 c0) s = .next (complete (dropCode t c.plot.vi queue (vaOf (c.wide 0 e)) b) c 2 es (zero32 c1 c0))) ∧
    exec .halt s = .next (complete (onPlot s c.f.plot (fun p => { discardRound p with exitc := 7 })) c 2 es []) ∧
    (releaseFirst s c = (s1, false) → unjournalled s1 c →
      exec (.virq vec) s = .next (complete (raiseIrq s1 c.plot.vi vec.toNat) c 2 es [])) ∧
    (unjournalled s c → exec (.timer c1 c0) s = .next (complete s c 2 es (both c1 c0 .s64 [(0, .val s.time)])) ∧
      exec (.jnlNote c1 c0) s = .next (complete s c 2 es (both c1 c0 .s64 [(0, .val (c.wide 0 e))])) ∧
      exec (.jnlQ c1 c0) s = .next (complete s c 2 es (both c1 c0 .s64 [(0, .val (
        match (recOf? s c.plot).bind (fun x => Tab.at? s.jobs x.2.job) with
        | some j => if j.jmode = 0 then 0 else journalState j
        | none => 0))])))

open Sys2Proof Sys2Proof.Machine Sys2Proof.Claim in
/-- R435-R438: a choice is journalled in record mode and forced in replay mode; a full or unmatched journal is marked. -/
def Sys2Proof.Says.Journal : Prop :=
  ∀ (s s1 : State) (key : Nat) (j : Job) (w0 w1 w2 value : Dword), Tab.at? s.jobs key = some j →
    (j.jmode = 1 → j.jcount < j.jsize → hubStore? s j.vi (j.jbase + 64 + 32 * j.jcount) [w0, w1, w2, value] = some s1 →
      journal s key w0 w1 w2 value =
        (journalHeader (onJob s1 key (fun j => { j with jcount := j.jcount + 1 })) { j with jcount := j.jcount + 1 }, value)) ∧
    (j.jmode = 1 → j.jsize ≤ j.jcount → journal s key w0 w1 w2 value = (journalBreak s key (fun j => { j with nr := true }), value)) ∧
    (∀ i v, j.jmode = 2 → journalFind s j w0 w1 w2 j.jtotal 0 = some (i, v) → journal s key w0 w1 w2 value =
      (journalHeader (onJob s key (fun j => { j with used := j.used ++ [i] })) { j with used := j.used ++ [i] }, v)) ∧
    (j.jmode = 2 → journalFind s j w0 w1 w2 j.jtotal 0 = none →
      journal s key w0 w1 w2 value = (journalBreak s key (fun j => { j with diverged := true }), value))

open Sys2Proof Sys2Proof.Machine Sys2Proof.Claim in
/-- R201: RAND draws one word of the entropy source for its element and emits it by its type. -/
def Sys2Proof.Says.RandomWords : Prop :=
  ∀ (s : State) (c : Ctx) (e : Nat) (ty : Ty) (c1 c0 : Cons), FiresOn s c e → unjournalled s c →
    let g := Config.entropy s.ctr
    let out := fun (kind : Kind) (v : Dword) => Host.Outcome.next (complete { s with ctr := s.ctr + 1 } c 4 [e] (both c1 c0 kind [(e, .val v)]))
    (ty = .n64 → exec (.rand ty c1 c0) s = out .r64 g) ∧
    (ty = .n32 → exec (.rand ty c1 c0) s = out .r32 ((g.setWidth 32).setWidth 64)) ∧
    (ty = .f32 → exec (.rand ty c1 c0) s = out .r32 (dw (roundF fmtF32 rne false (.fin false (g.extractLsb' 40 24).toNat (-24)))))

namespace Sys2Proof.Claim
open Sys2Proof.Machine

/-- A plot that has taken a trap (R125, R126): its registers, the record that waits for the hub, and frozen. -/
def trapped (p : Plot) (cause tag : Nat) (info cell : Dword) : Plot :=
  let code := dw cause
  let t := dw (tag % 2 ^ 40)
  { p with
    frozen := true, trapNow := true, tcause := code, ttag := t, tinfo := info, tcell := cell,
    trap := some { cause := code, tag := t, info := info, cell := cell, entries := [], seq := none } }

/-- TCELL of R126. -/
def cellWord (p : Plot) (cell bidx slot : Nat) : Dword :=
  dw (slot * 2 ^ 18 + bidx * 2 ^ 14 + p.die * 2 ^ 12 + (p.x + cell % 64) * 2 ^ 6 + (p.y + cell / 64))

/-- The work of a round discarded: the tokens, the instances, the reversal; nothing is left to generate (R419). -/
def workGone (p : Plot) : Plot :=
  let block := fun (b : Block) => { b with insts := [], early := [], reds := [], next := runCount b.bounds }
  let cell := fun (c : Cell) => { c with
    thread := { bidx := none, exited := false }, array := [], pend := [], blocks := c.blocks.map (fun x => (x.1, block x.2)) }
  { p with tokens := [], eosQ := [], links := [], rev := none, recQ := [],
           barriers := p.barriers.map (fun x => (x.1, { x.2 with waiters := [] })), cells := p.cells.map (fun x => (x.1, cell x.2)) }

/-- A trapped plot that goes on: what waited at a home is tried again (R419). -/
def goesOn (p : Plot) : Plot := { reissue p with frozen := false, trap := none, idle := 0 }

end Sys2Proof.Claim

open Sys2Proof Sys2Proof.Machine Sys2Proof.Claim in
/-- R125, R126, R245: a trap freezes its plot, writes TCAUSE, TTAG, TINFO and TCELL, and abandons a record being reversed;
of two traps of one cycle that of the lowest (y, x) stands, a later one changes nothing; the cause codes. -/
def Sys2Proof.Says.TakingTraps : Prop :=
  (∀ (s : State) (f : Firing) (cause : Cause) (tag : Nat) (info : Dword) (p : Plot), Tab.at? s.plots f.plot = some p →
    let t := trapFiring s f cause tag info
    let word := cellWord p f.cell f.bidx f.slot
    (p.trap = none → Tab.at? t.plots f.plot = some (trapped (abandonReverse p) (causeCode cause) tag info word)) ∧
    (∀ r, p.trap = some r → p.trapNow = true → r.seq = none → siteBefore word r.cell = true →
      Tab.at? t.plots f.plot = some (trapped p (causeCode cause) tag info word)) ∧
    (∀ r, p.trap = some r → (p.trapNow = false ∨ r.seq.isSome = true ∨ siteBefore word r.cell = false) → Tab.at? t.plots f.plot = some p) ∧
    (∀ k, k ≠ f.plot → Tab.at? t.plots k = Tab.at? s.plots k) ∧ { t with plots := s.plots } = s) ∧
  ([Cause.illop, .rsvfld, .feature, .stepping, .undecl, .expired, .empty, .foldsize, .foldrange, .access, .xlate, .align, .novictim, .logfull,
      .logstate, .gdead, .gperm, .taskovf, .noprog, .hedge, .rate, .priv, .sysreg, .cfgerr, .software].map causeCode =
    [0x01, 0x02, 0x03, 0x04, 0x05, 0x10, 0x11, 0x12, 0x13, 0x20, 0x21, 0x22, 0x23, 0x30, 0x31, 0x40, 0x41, 0x48, 0x50, 0x51, 0x52, 0x60,
      0x61, 0x70, 0xFF])

open Sys2Proof Sys2Proof.Machine Sys2Proof.Claim in
/-- R440: TRAP raises SOFTWARE with its code, and the operand where it has one. -/
def Sys2Proof.Says.SoftwareTrap : Prop :=
  ∀ (s : State) (c : Ctx) (es : List Nat) (e : Nat) (code : BitVec 6), FiresOnce s c es e →
    exec (.trap code) s = .next (trapFiring s c.f .software c.inst.first
      (dw ((if c.fed 0 = true then (c.low 0 e).toNat else 0) * 2 ^ 32 + code.toNat)))

open Sys2Proof Sys2Proof.Machine Sys2Proof.Claim in
/-- R125, R127, R418: once the cycle is over in which a plot trapped, the hub takes its trap once, with the VI's next
sequence number, as a record of 16 words. -/
def Sys2Proof.Says.HubTakesTraps : Prop :=
  ∀ (s : State) (key : Nat) (p : Plot) (r : TrapRec), Tab.at? s.plots key = some p → p.trap = some r →
    ((r.seq.isSome = true ∨ p.trapNow = true) → collectTrap s key = s) ∧
    (r.seq = none → p.trapNow = false →
      let q := (viOf s p.vi).tseq + 1
      let t := collectTrap s key
      let words := [r.cause, r.tag, r.info, r.cell, plotWord p, q, 0, 0] ++ r.entries.take 8 ++ List.replicate (8 - r.entries.length) 0
      viOf t p.vi = { viOf s p.vi with
        tseq := q
        traps := (viOf s p.vi).traps ++ [{ seq := q, words := words, subject := some key, written := false, index := 0 }] } ∧
      Tab.at? t.plots key = some { p with trap := some { r with seq := some q } } ∧ t.mem = s.mem ∧ t.recs = s.recs ∧ t.jobs = s.jobs)

open Sys2Proof Sys2Proof.Machine Sys2Proof.Claim in
/-- R418, R469: the oldest unwritten record goes to the trap ring, or with no ring stays at the hub; without a handler
vector 16 is raised. -/
def Sys2Proof.Says.TrapDelivery : Prop :=
  ∀ (s : State) (v : Nat),
    ((∀ t ∈ (viOf s v).traps, t.written = true) → exec (.trapRecordDelivery v) s = .next s) ∧
    (∀ t, (viOf s v).traps.find? (fun t => !t.written) = some t →
      let base := ((viOf s v).tring.extractLsb' 12 45).toNat * 4096
      let size := 2 ^ (((viOf s v).tring.extractLsb' 0 4).toNat + 4)
      let kept := fun (x : Vi) (i : Word) => { x with
        traps := x.traps.map (fun u => if u.seq = t.seq then { u with written := true, index := i } else u) }
      let gone := fun (x : Vi) => { x with traps := x.traps.filter (fun u => u.seq != t.seq) }
      (base = 0 → (viOf s v).tvec.getLsbD 63 = true →
        exec (.trapRecordDelivery v) s = .next (onVi s v (fun x => kept x 0xFFFFFFFF))) ∧
      (base = 0 → (viOf s v).tvec.getLsbD 63 = false → exec (.trapRecordDelivery v) s = .next s) ∧
      (base ≠ 0 → size ≤ ((viOf s v).trprod - (viOf s v).trcons).toNat → exec (.trapRecordDelivery v) s = .next s) ∧
      (∀ s1, base ≠ 0 → ((viOf s v).trprod - (viOf s v).trcons).toNat < size →
        hubStore? s v (base + 128 * ((viOf s v).trprod.toNat % size)) t.words = some s1 → (viOf s1 v).tvec = (viOf s v).tvec →
        ((viOf s v).tvec.getLsbD 63 = true → exec (.trapRecordDelivery v) s = .next (onVi s1 v (fun x =>
          kept { x with trprod := x.trprod + 1 } (BitVec.ofNat 32 ((viOf s v).trprod.toNat % size))))) ∧
        ((viOf s v).tvec.getLsbD 63 = false → exec (.trapRecordDelivery v) s =
          .next (raiseIrq (onVi s1 v (fun x => gone { x with trprod := x.trprod + 1 })) v 16))))

open Sys2Proof Sys2Proof.Machine Sys2Proof.Claim in
/-- R417, R418: the handler is configured on the lowest die with room, then its round for the oldest record begins with k15
the ring index. -/
def Sys2Proof.Says.HandlerRounds : Prop :=
  ∀ (s s1 : State) (v key : Nat) (p : Plot) (t : TrapWait) (rest : List TrapWait), (viOf s v).traps = t :: rest →
    ((t.written = false ∨ (viOf s v).tvec.getLsbD 63 = false) → exec (.handlerRound v) s = .next s) ∧
    (t.written = true → (viOf s v).tvec.getLsbD 63 = true → (viOf s v).hfail = false →
      ((viOf s v).handler = some key → Tab.at? s.plots key = some p → p.running = false → p.frozen = false →
        let subject := recordPlot? s v t
        exec (.handlerRound v) s = .next (onPlot s key (fun p => startRound { onBlocks (onBlocks p applySetks) (putK 15 t.index) with
          subject := some { seq := t.seq, words := t.words, plot := subject, answered := false }, used := s.time.toNat }))) ∧
      ((viOf s v).handler = some key → Tab.at? s.plots key = some p → (p.running = true ∨ p.frozen = true) →
        exec (.handlerRound v) s = .next s) ∧
      ((viOf s v).handler = none → configure s v .handler none ((viOf s v).tvec.extractLsb' 0 57).toNat 0 true none = .ok s1 key →
        exec (.handlerRound v) s = .next (onVi s1 v (fun vi => { vi with handler := some key }))) ∧
      (∀ cause info cell pw, (viOf s v).handler = none →
        configure s v .handler none ((viOf s v).tvec.extractLsb' 0 57).toNat 0 true none = .failed s1 cause info cell pw →
        exec (.handlerRound v) s = .next (raiseRecord (onVi s1 v (fun vi => { vi with hfail := true })) v cause 0 info cell pw)))

open Sys2Proof Sys2Proof.Machine Sys2Proof.Claim in
/-- R419, R440: TRAPRET resumes, nulls or abandons the trap of its round's record, once. -/
def Sys2Proof.Says.TrapReturn : Prop :=
  ∀ (s : State) (c : Ctx) (es : List Nat) (e : Nat) (c1 c0 : Cons), FiresOnce s c es e →
    (c.plot.role ≠ .handler → exec (.trapret c1 c0) s = .next (trapFiring s c.f .priv c.inst.first (infoPriv c))) ∧
    (∀ u, c.plot.role = .handler → c.plot.subject = some u → (c.low 0 e).toNat < 3 →
      let s1 := onPlot s c.f.plot (fun p => { p with subject := some { u with answered := true } })
      (u.answered = true → exec (.trapret c1 c0) s = .next (complete s c 2 es (raw32 c1 c0 1))) ∧
      (u.answered = false → subjectOf? s1 c.plot.vi u.seq = none →
        exec (.trapret c1 c0) s = .next (complete s1 c 2 es (raw32 c1 c0 1))) ∧
      (∀ key p r, u.answered = false → subjectOf? s1 c.plot.vi u.seq = some (key, p) → p.trap = some r → Tab.at? s1.plots key = some p →
        (c.low 0 e = 0 → p.withdrawn = false →
          exec (.trapret c1 c0) s = .next (complete (onPlot s1 key goesOn) c 2 es (raw32 c1 c0 0))) ∧
        (c.low 0 e = 1 → p.withdrawn = false →
          exec (.trapret c1 c0) s = .next (complete (onPlot (onPlot s1 key (fun p => nullTrapped p r)) key goesOn) c 2 es (raw32 c1 c0 0))) ∧
        (c.low 0 e = 2 → p.withdrawn = false → exec (.trapret c1 c0) s = .next (complete (onPlot s1 key (fun p => { workGone p with
          frozen := false, trap := none, failed := some r.cause.toNat })) c 2 es (raw32 c1 c0 0))))) ∧
    (∀ u, c.plot.role = .handler → c.plot.subject = some u → c.low 0 e = 3 →
      exec (.trapret c1 c0) s = .next (trapFiring s c.f .rsvfld c.inst.first (infoHdr c.blk.step 0 0 0)))

open Sys2Proof Sys2Proof.Machine Sys2Proof.Claim in
/-- R130: a plot that has fired nothing for its limit of cycles traps NOPROG with its first eight blocked items. -/
def Sys2Proof.Says.Watchdog : Prop :=
  ∀ (s : State) (plot : Nat) (p : Plot), Tab.at? s.plots plot = some p →
    let limit := max 0x10000 (p.wdt.toNat % 2 ^ 32)
    let due := p.live = true ∧ hasLive p = true ∧ p.wdt.toNat % 2 ^ 32 ≠ 0 ∧ limit ≤ p.idle
    let entries := (blockedItems p).take 8
    ∃ t, exec (.watchdogNoprog plot) s = .next t ∧ { t with plots := s.plots } = s ∧
      (¬due → Tab.at? t.plots plot = some p) ∧
      (due → p.trap = none → ∀ x rest, entries = x :: rest → Tab.at? t.plots plot =
        some (takeTrap p .noprog x.1 (dw entries.length) (cellWord p x.2.1 x.2.2.1 x.2.2.2.1) (entries.map noprogEntry)))

namespace Sys2Proof.Claim
open Sys2Proof.Machine

/-- The record of every plot that trapped before this cycle has the sequence number that the hub gave it (R127, R418). -/
def trapsHeld (s : State) : Prop := ∀ k p r, Tab.at? s.plots k = some p → p.trapNow = false → p.trap = some r → r.seq.isSome = true

end Sys2Proof.Claim

open Sys2Proof Sys2Proof.Machine Sys2Proof.Claim in
/-- R127: in every state that a step leaves, the hub has numbered the record of each plot that trapped before this cycle. -/
def Sys2Proof.Says.HubHasTraps : Prop :=
  ∀ (s t : State), trapsHeld s → step s = .next t → trapsHeld t

open Sys2Proof Sys2Proof.Machine in
/-- No plot is trapped at reset. -/
def Sys2Proof.Says.ResetHubHasTraps : Prop :=
  Sys2Proof.Claim.trapsHeld State.reset

namespace Sys2Proof.Claim
open Sys2Proof.Machine

/-- The next instance of a block (R99-R101): the first tag and length of its run, with the operands that came early. -/
def nextInst (b : Block) : Inst :=
  let mine := b.early.filter (fun x => x.1 / 256 == b.next)
  { run := b.next, first := runFirst b.bounds b.next, len := runLen b.bounds b.next, ops := mine.map (fun x => (x.1 % 256, x.2)),
    done := [], issued := [], held := [], stalled := [], nulls := [] }

/-- A block with its next instance live in its frame, at the run modulo FRAMES. -/
def generated (b : Block) : Block :=
  { b with
    next := b.next + 1, early := b.early.filter (fun x => x.1 / 256 != b.next)
    insts := Tab.set b.insts (b.next % b.frames) (nextInst b) }

/-- The scope that ends below a tag of a reducing slot (R195-R197): whether it ends there, and what it then emits. -/
def scopeClosed (b : Block) (f : RedForm) (r : Red) : Red := if scopeEnds b.bounds (f.row && !f.scan) r.next = true then closeScope b f r else r

/-- The accumulator after an element (R195): a value joins it; null and a false predicate leave it. -/
def accumulated (f : RedForm) (acc : Option Dword) : RedIn → Option Dword
  | .val v => some (match acc with
    | none => v
    | some a => redCombine f a v)
  | _ => acc

end Sys2Proof.Claim

open Sys2Proof Sys2Proof.Machine Sys2Proof.Claim in
/-- R99: each tag of a domain is in exactly one run, of at most 32 tags of one row. -/
def Sys2Proof.Says.RunsOfADomain : Prop :=
  ∀ (bounds : List Nat) (t : Nat), t < domCount bounds →
    let r := runOf bounds t
    r < runCount bounds ∧ runFirst bounds r ≤ t ∧ t < runFirst bounds r + runLen bounds r ∧ runLen bounds r ≤ 32 ∧
    runFirst bounds r / domInner bounds = t / domInner bounds ∧
    (∀ q, q < runCount bounds → runFirst bounds q ≤ t → t < runFirst bounds q + runLen bounds q → q = r)

open Sys2Proof Sys2Proof.Machine Sys2Proof.Claim in
/-- R98-R101: a block's next instance is created in its frame, of a sequential block when the thread is in it and nothing is
live. -/
def Sys2Proof.Says.Instances : Prop :=
  ∀ (s : State) (plot cell bidx : Nat) (p : Plot) (c : Cell) (b : Block), Tab.at? s.plots plot = some p → Tab.at? p.cells cell = some c →
    Tab.at? c.blocks bidx = some b → p.live = true → b.next < runCount b.bounds →
    (b.seq = false → Tab.at? b.insts (b.next % b.frames) = none →
      exec (.instanceGenerate plot cell bidx) s = .next (onPlot s plot (fun p => onBlock p cell bidx generated))) ∧
    (b.seq = true → c.thread.bidx = some bidx → c.thread.exited = false → b.insts = [] →
      exec (.instanceGenerate plot cell bidx) s = .next (onPlot s plot (fun p => onBlock p cell bidx (fun b => generated (applySetks b))))) ∧
    ((b.seq = false ∧ (Tab.at? b.insts (b.next % b.frames)).isSome = true) ∨ (b.seq = true ∧ (c.thread.bidx ≠ some bidx ∨ b.insts ≠ [])) →
      ∃ t, exec (.instanceGenerate plot cell bidx) s = .next t ∧ ∀ k, Tab.at? t.plots k = Tab.at? s.plots k)

open Sys2Proof Sys2Proof.Machine Sys2Proof.Claim in
/-- R107, R115, R116: a token that is admitted reaches its cell: its elements a port, its EOS the port's register, its mark
the wave. -/
def Sys2Proof.Says.Arrivals : Prop :=
  ∀ (s : State) (plot k : Nat) (p : Plot) (t : Token) (r : Route), Tab.at? s.plots plot = some p → p.tokens[k]? = some t →
    Tab.at? p.routes t.route = some r → canArrive p k = true →
    let taken := fun (p : Plot) => ({ p with tokens := p.tokens.take k ++ p.tokens.drop (k + 1) } : Plot)
    (t.mark = false → t.eos = false → exec (.tokenArrival plot k) s =
      .next (onPlot s plot (fun p => arrive (taken p) r.dst t.bidx t.slot t.port t.kind t.tag t.elems))) ∧
    (t.mark = false → t.eos = true → exec (.tokenArrival plot k) s =
      .next (onPlot s plot (fun p => recordEos (taken p) r.dst t.bidx t.slot t.port t.tag))) ∧
    (∀ w, t.mark = true → p.wave = some w → exec (.markerArrival plot k) s =
      .next (onPlot s plot (fun p => { taken p with wave := some { w with arrived := t.route :: w.arrived } })))

open Sys2Proof Sys2Proof.Machine Sys2Proof.Claim in
/-- R104, R107: an element for a live instance is stored at its port; one of another kind is dropped with WHY 3. -/
def Sys2Proof.Says.Matching : Prop :=
  ∀ (p : Plot) (cell bidx slot port tag : Nat) (kind : Kind) (b : Block) (i : Inst) (e : Nat) (x : Elem), port < 3 → kind.scalar = false →
    blockAt? p cell bidx = some b → tag < domCount b.bounds → b.frames ≠ 0 → Tab.at? b.insts (runOf b.bounds tag % b.frames) = some i →
    i.run = runOf b.bounds tag → tag = runFirst b.bounds i.run + e → e < runLen b.bounds i.run →
    (∀ t, eosOf b slot = some t → tag < t) →
    let key := 4 * slot + port
    (∀ o, Tab.at? i.ops key = some o → o.kind ≠ kind →
      arrive p cell bidx slot port kind tag [(0, x)] = dropElems p cell bidx slot port tag 1 3) ∧
    (Tab.at? i.ops key = none → arrive p cell bidx slot port kind tag [(0, x)] =
      onInst p cell bidx (i.run % b.frames) (fun i => { i with ops := Tab.set i.ops key { kind := kind, elems := [(e, x)] } })) ∧
    (∀ o, Tab.at? i.ops key = some o → o.kind = kind →
      (Tab.at? o.elems e = none → arrive p cell bidx slot port kind tag [(0, x)] =
        onInst p cell bidx (i.run % b.frames) (fun i => { i with ops := Tab.set i.ops key { o with elems := Tab.set o.elems e x } })))

open Sys2Proof Sys2Proof.Machine Sys2Proof.Claim in
/-- R107, R118, R119: a drop is counted in MISMCNT, which saturates, and traps RATE where RATETRAP is set; a tag beyond the
domain is dropped with WHY 1. -/
def Sys2Proof.Says.Drops : Prop :=
  ∀ (p : Plot) (cell bidx slot port tag count why : Nat) (b : Block), 0 < count → blockAt? p cell bidx = some b →
    let counted := onBlock p cell bidx (fun b => { b with mism := Tab.set b.mism slot (min 0xFFFF (Tab.atD b.mism slot 0 + count)) })
    (p.ratetrap.getLsbD 0 = false → dropElems p cell bidx slot port tag count why = counted) ∧
    (p.ratetrap.getLsbD 0 = true → p.trap = none → dropElems p cell bidx slot port tag count why =
      trapped (abandonReverse counted) 0x52 tag (dw (slot * 2 ^ 58 + port * 2 ^ 56 + why * 2 ^ 52)) (cellWord p cell bidx slot)) ∧
    (∀ kind es, es ≠ [] → domCount b.bounds ≤ tag →
      arrive p cell bidx slot port kind tag es = dropElems p cell bidx slot port tag es.length 1)

open Sys2Proof Sys2Proof.Machine Sys2Proof.Claim in
/-- R116: the EOS register of a port keeps the lowest tag. -/
def Sys2Proof.Says.EndOfStream : Prop :=
  ∀ (s : State) (plot cell bidx slot port tag : Nat) (p : Plot) (b : Block), Tab.at? s.plots plot = some p →
    let here : EosTok := { cell := cell, bidx := bidx, slot := slot, port := port, tag := tag, left := 0 }
    here ∈ p.eosQ → p.frozen = false → blockAt? p cell bidx = some b → b.insts = [] → b.early = [] →
    exec (.eosArrival plot cell bidx slot port tag) s = .next (onPlot s plot (fun p =>
      onBlock { p with eosQ := dropFirst here p.eosQ } cell bidx (fun b =>
        { b with eos := Tab.set b.eos (4 * slot + port) (match Tab.at? b.eos (4 * slot + port) with
          | none => tag
          | some old => min old tag) })))

open Sys2Proof Sys2Proof.Machine Sys2Proof.Claim in
/-- R114, R421: a token that meets a hedge is dropped, reported to VI 0 and to its VI, and recorded; the plot goes on. -/
def Sys2Proof.Says.Hedges : Prop :=
  ∀ (s : State) (plot k dir : Nat) (p : Plot) (t : Token) (site : Int × Int), Tab.at? s.plots plot = some p → p.tokens[k]? = some t →
    t.hedge? p = some (site, dir) → t.meets p = true → p.frozen = false → p.stop ≠ .freeze →
    let n := s.hedgeSeq + 1
    let s1 : State := { s with hedgeSeq := n }
    let ws := hedgeWords s1 p t site dir
    let s2 := putHedge s1 0 ws
    let s3 := if p.vi = 0 then s2 else putHedge s2 p.vi ws
    exec (.hedgeDrop plot k) s = .next (onPlot (raiseRecord s3 p.vi .hedge t.tag (dw (s3.hedgeSeq.toNat * 2 ^ 32))
      (cellWord p (t.route / 64) (t.sender / 64) (t.sender % 64)) (plotWord p)) plot (fun p =>
        { p with tokens := p.tokens.take k ++ p.tokens.drop (k + 1) }))

open Sys2Proof Sys2Proof.Machine Sys2Proof.Claim in
/-- R195-R197: the next tag below an EOS on port a joins the accumulator, a scope that ends is closed; a result that is due
is emitted with the first tag of its scope. -/
def Sys2Proof.Says.Reductions : Prop :=
  ∀ (s : State) (plot cell bidx slot : Nat) (p : Plot) (b : Block) (f : RedForm) (x : RedIn), Tab.at? s.plots plot = some p →
    blockAt? p cell bidx = some b → redAt? b slot = some f →
    let r := Tab.atD b.reds slot Red.zero
    (belowEos r.next (eosOfA b slot) = false → exec (.reductionCombine plot cell bidx slot) s =
      .next (onPlot s plot (fun p => onBlock p cell bidx (fun b => { b with reds := Tab.set b.reds slot r })))) ∧
    (belowEos r.next (eosOfA b slot) = true → Tab.at? r.window r.next = some x →
      (f.slow = true ∨ (Tab.at? r.window (r.next + 1) = none ∧ eosOf b slot = none)) → f.scan = false →
      exec (.reductionCombine plot cell bidx slot) s = .next (onPlot s plot (fun p => onBlock p cell bidx (fun b =>
        { b with reds := Tab.set b.reds slot (scopeClosed b f { r with
          window := Tab.del r.window r.next, acc := accumulated f r.acc x, next := r.next + 1, left := 8 }) })))) ∧
    (∀ first es rest, r.due = (0, first, es) :: rest → (∀ d ∈ r.due, belowEos d.2.1 (eosOfA b slot) = true) → eosCloses b f slot r = false →
      let wide := f.ty == .i64 || f.ty == .n64
      exec (.reductionEmit plot cell bidx slot) s = .next (onPlot s plot (fun p =>
        let p1 := onBlock p cell bidx (fun b => { b with reds := Tab.set b.reds slot { r with due := rest } })
        deliver (deliver p1 cell bidx first { cons := f.c0, kind := if f.scan = true then runKind wide else scalarKind wide, elems := es })
          cell bidx first { cons := f.c1, kind := if f.scan = true then runKind wide else scalarKind wide, elems := es })))

open Sys2Proof Sys2Proof.Machine Sys2Proof.Claim in
/-- R241-R244: a record's reversal starts on a free array while its plot is live (log entry 32), and when its time has
passed takes effect whole; R156: a far header is read again. -/
def Sys2Proof.Says.Reversing : Prop :=
  ∀ (s : State) (plot : Nat) (p : Plot) (r : Reversal) (c : Ctx) (seg : List LogRec) (q : LogRec), Tab.at? s.plots plot = some p → p.rev = some r →
    ctxIn? p r.firing = some c → c.inst.run = r.run → Tab.atD c.inst.issued c.f.slot 0 ≠ 0 → readRecs s c p r.recs = .ok seg →
    nextRecord? p (seg.filter (fun q => !r.done.contains q.off)) = some q →
    (r.next ≠ some q.off → p.live = true → arrayFree p q.cell = true →
      exec (.recordReversal plot) s = .next (onPlot s plot (fun p => startRecord p r q (reversalTime p seg q)))) ∧
    (∀ p1 tolls, r.next = some q.off → r.left = 0 → reverseRecord s c p seg q = .ok (p1, tolls) → r.done.length + 1 < r.recs.length →
      let p2 := { p1 with rev := some { r with done := r.done ++ [q.off], next := none }, logseg := mkSeg (logMark p) (logDone p + 1), fired := true }
      exec (.recordReversal plot) s = .next (tolls.foldl (fun s x => if x.2 = 0 then s else addToll s p.vi x.1 x.2)
        { s with plots := Tab.set s.plots plot p2, ctr := s.ctr + 65536 })) ∧
    (∀ cause info, r.next = some q.off → r.left = 0 → reverseRecord s c p seg q = .error (.halt (.trap cause info)) →
      exec (.recordReversal plot) s = .next (trapOnce s r.firing cause info)) ∧
    (let due := fun (w : Watch) => w.plot == plot && w.hit;
      ((∀ k pc, (k, pc) ∈ s.pcells → pc.watches.all (fun w => !due w) = true) → exec (.farHeaderReread plot) s = .next s) ∧
      ((∃ k pc, (k, pc) ∈ s.pcells ∧ pc.watches.any due = true) → ∃ t, exec (.farHeaderReread plot) s = .next t ∧
        t.pcells = s.pcells.map (fun x => (x.1, { x.2 with watches := x.2.watches.filter (fun w => !due w) })) ∧
        { t with pcells := s.pcells, retry := s.retry, parked := s.parked, stalled := s.stalled } = s ∧
        ∀ cell k bidx b frame i slot m, (cell, k) ∈ p.cells → (bidx, b) ∈ k.blocks → (frame, i) ∈ b.insts → (slot, m) ∈ i.held → m ≠ 0 →
          (∀ x ∈ p.recQ, x.2 ≠ { plot := plot, cell := cell, bidx := bidx, slot := slot, frame := frame, round := p.round }) →
          (({ plot := plot, cell := cell, bidx := bidx, slot := slot, frame := frame, round := p.round } : Firing), m) ∈ t.retry))

open Sys2Proof Sys2Proof.Machine Sys2Proof.Claim in
/-- R385, R61: a record's plot is configured; a failure retires the task as failed. -/
def Sys2Proof.Says.Configuring : Prop :=
  ∀ (s s1 : State) (k : Nat) (r : Rec), wantsPlot s k = true → Tab.at? s.recs k = some r →
    let queue := (Tab.at? s.jobs r.job).map (·.queue)
    let result := configure s (recVi k) .graph queue r.code (recDie k) r.image.isNone none
    (∀ key, result = .ok s1 key → exec (.plotConfigure k) s = .next s1) ∧
    (∀ cause info cell pw, result = .failed s1 cause info cell pw → Tab.at? s1.recs k = some r →
      let failed := failJob s1 r.job (causeCode cause)
      let waits := ∃ x, Tab.at? failed.recs k = some x ∧ x.running = false
      (waits → exec (.plotConfigure k) s = .next (raiseRecord (freeRec failed k) (recVi k) cause 0 info cell pw)) ∧
      (¬waits → exec (.plotConfigure k) s = .next (raiseRecord failed (recVi k) cause 0 info cell pw))) ∧
    (result = .wait → exec (.plotConfigure k) s = .next s)

namespace Sys2Proof.Claim
open Sys2Proof.Machine

/-- A function that the host can write through (R465, R466). -/
abbrev reachable (s : State) (v : Nat) : Prop := v < 512 ∧ s.ready = true ∧ s.power = true ∧ (viOf s v).busy = false

/-- A function that answers reads of the host (R465). -/
abbrev readable (s : State) (v : Nat) : Prop := v < 512 ∧ s.ready = true ∧ s.power = true

/-- The order of vectors that wait: as they became pending, ascending within a cycle (R415). -/
abbrev irqBefore (x y : Nat × Nat) : Prop := x.1 < y.1 ∨ (x.1 = y.1 ∧ x.2 < y.2)

/-- A write of the host to one register of a VI: the VI, the register, the index, the value. -/
def hostForm : Instr → Option (Nat × Nat × Nat × Dword)
  | .frcons v w => some (v, 0x065, 0, w.setWidth 64)
  | .stresume v w => some (v, 0x067, 0, w.setWidth 64)
  | .gercons v w => some (v, 0x06A, 0, w.setWidth 64)
  | .trcons v w => some (v, 0x043, 0, w.setWidth 64)
  | .hrcons v w => some (v, 0x04D, 0, w.setWidth 64)
  | .traprsp v w => some (v, 0x044, 0, w)
  | .imask v w => some (v, 0x04A, 0, w)
  | .ringBaseWrite v .tring 0 w => some (v, 0x041, 0, w)
  | .ringBaseWrite v .hring 0 w => some (v, 0x04B, 0, w)
  | .ringBaseWrite v .fring 0 w => some (v, 0x063, 0, w)
  | .ringBaseWrite v .gering 0 w => some (v, 0x068, 0, w)
  | .ringBaseWrite v .jqbase n w => some (v, 0x071, n, w)
  | .ringBaseWrite v .jcring n w => some (v, 0x075, n, w)
  | _ => none

/-- The function that a host write goes through. -/
def hostFunction : Instr → Option Nat
  | .jqtail v _ _ | .jccons v _ _ | .jqfence v _ | .frcons v _ | .stresume v _ | .gercons v _ | .trcons v _ | .hrcons v _ | .traprsp v _
  | .imask v _ | .registerWrite v _ _ => some v
  | .vireset _ _ | .rst _ => some 0
  | _ => none

end Sys2Proof.Claim

open Sys2Proof Sys2Proof.Machine Sys2Proof.Claim in
/-- R381, R458, R459: doorbells and window writes act as writes of their registers; through a function that is not there
nothing happens. -/
def Sys2Proof.Says.HostWrites : Prop :=
  ∀ (i : Instr) (s : State),
    (∀ v r n w, hostForm i = some (v, r, n, w) → reachable s v → n < 16 →
      exec i s = .next (if valueOk r w = true then writeViReg s v r n w else s)) ∧
    (∀ v, hostFunction i = some v → ¬reachable s v → exec i s = .next s)

open Sys2Proof Sys2Proof.Machine Sys2Proof.Claim in
/-- R380-R384, R322: JQTAIL beyond the ring sets OVR and clears EN; JCCONS; JQFENCE drops what SYNC.CODE has covered. -/
def Sys2Proof.Says.Doorbells : Prop :=
  ∀ (s : State) (v q : Nat) (w : Word) (m : BitVec 16), reachable s v → q < 16 →
    let size := fun (j : JobQueue) => 2 ^ ((j.base.extractLsb' 0 4).toNat + 4)
    (exec (.jqtail v q w) s = .next (onQueue s v q (fun j =>
      if size j < (w - j.head).toNat then { j with tail := w, err := 1, base := j.base &&& ~~~0x10#64 } else { j with tail := w }))) ∧
    (exec (.jccons v q w) s = .next (onQueue s v q (fun j => { j with ccons := w }))) ∧
    (∃ t, exec (.jqfence v m) s = .next t ∧
      (∀ k j, Tab.at? (viOf s v).queues k = some j → Tab.at? (viOf t v).queues k = some { j with
        cache := if m.getLsbD k = true then j.cache.filter (fun x => decide (((x.2.head?).getD 0).setWidth 16 &&& m = 0#16))
                 else j.cache.map (fenceItem m.toNat) }) ∧
      (∀ k p, Tab.at? s.plots k = some p → Tab.at? t.plots k = some (if p.vi = v ∧ p.stale &&& m.toNat ≠ 0 then { p with
        stale := p.stale ||| m.toNat } else p)))

open Sys2Proof Sys2Proof.Machine Sys2Proof.Claim in
/-- R381, R458, R465: each write of the doorbell page acts as its doorbell, at another offset or unaligned as none; reads
return 0, unaligned ones all ones. That reads before READY return 0 even unaligned is the model's reading, log entry 49. -/
def Sys2Proof.Says.DoorbellPage : Prop :=
  ∀ (s : State) (v size off : Nat) (w : Dword),
    let write := fun (off : Nat) => doorbellWrite v 8 off w s
    (size ≠ 8 ∨ off % 8 ≠ 0 ∨ 0x120 ≤ off → doorbellWrite v size off w s = .next s) ∧
    (∀ q < 16, write (8 * q) = exec (.jqtail v q (w.setWidth 32)) s ∧ write (0x80 + 8 * q) = exec (.jccons v q (w.setWidth 32)) s) ∧
    write 0x100 = exec (.jqfence v (w.setWidth 16)) s ∧ write 0x108 = exec (.frcons v (w.setWidth 32)) s ∧
    write 0x110 = exec (.stresume v (w.setWidth 32)) s ∧ write 0x118 = exec (.gercons v (w.setWidth 32)) s ∧
    ((size = 8 ∧ off % 8 = 0) ∨ s.ready = false → doorbellRead s size off = 0) ∧
    (size ≠ 8 ∨ off % 8 ≠ 0 → s.ready = true → doorbellRead s size off = 2 ^ 64 - 1)

open Sys2Proof Sys2Proof.Machine Sys2Proof.Claim in
/-- R458, R459, R464, R465: what a read of the register window returns: MSTATUS, VISEL, a register of a VI as SYSRD reads
it, 0 where R413 refuses or nothing is mapped, and until READY. -/
def Sys2Proof.Says.WindowReads : Prop :=
  ∀ (s : State) (fn size off : Nat),
    (fn = 0 → windowRead s fn 8 0x3F08 = dw ((if s.ready = true then 1 else 0) + (if s.thr = true then 4 else 0) +
      (if s.booterr = true then 8 else 0))) ∧
    ((fn ≠ 0 ∨ off ≠ 0x3F08 ∨ size ≠ 8) → s.ready = false → windowRead s fn size off = 0) ∧
    ((size ≠ 8 ∨ off % 8 ≠ 0) → s.ready = true → windowRead s fn size off = 2 ^ 64 - 1) ∧
    (s.ready = true → windowRead s 0 8 0x3F00 = dw s.visel.toNat) ∧
    (∀ r n, off = 0x2000 + 128 * r + 8 * n → r < 60 → n < 16 → s.ready = true →
      let v := if fn = 0 then s.visel.toNat else fn
      let a := dw (2 ^ 59 + v * 2 ^ 50 + (0x040 + r) * 2 ^ 40 + n)
      (accessWhy? (fn == 0) fn a none = none → windowRead s fn 8 off = viRegValue (viOf s (selVi a)) (selReg a) (selIndex a)) ∧
      (∀ why, accessWhy? (fn == 0) fn a none = some why → windowRead s fn 8 off = 0)) ∧
    (fn ≠ 0 → 0x3E00 ≤ off → off % 8 = 0 → windowRead s fn 8 off = 0)

open Sys2Proof Sys2Proof.Machine Sys2Proof.Claim in
/-- R458, R459: VISEL, MSTATUS and the VI registers at their offsets, checked as SYSWR. -/
def Sys2Proof.Says.RegisterWindow : Prop :=
  ∀ (s : State) (fn : Nat) (off w : Dword), reachable s fn →
    (fn = 0 → off = 0x3F00 → w.toNat < 512 → exec (.registerWrite fn off w) s = .next { s with visel := w.setWidth 9 }) ∧
    (fn = 0 → off = 0x3F08 → w.toNat < 16 → w.getLsbD 1 = true →
      exec (.registerWrite fn off w) s = .next (moduleReset s) ∧ exec (.rst w) s = .next (moduleReset s)) ∧
    (fn = 0 → w.getLsbD 1 = false → exec (.rst w) s = .next s) ∧
    (off.toNat % 8 ≠ 0 → exec (.registerWrite fn off w) s = .next s) ∧ (∀ size, size ≠ 8 → writeWindow s fn size off.toNat w = s) ∧
    (∀ r n, off.toNat = 0x2000 + 128 * r + 8 * n → r < 60 → n < 16 →
      let v := if fn = 0 then s.visel.toNat else fn
      let a := dw (2 ^ 59 + v * 2 ^ 50 + (0x040 + r) * 2 ^ 40 + n)
      (accessWhy? (fn == 0) fn a (some w) = none → exec (.registerWrite fn off w) s = .next (writeViReg s v (0x040 + r) n w)) ∧
      (∀ why, accessWhy? (fn == 0) fn a (some w) = some why → exec (.registerWrite fn off w) s = .next s))

open Sys2Proof Sys2Proof.Machine Sys2Proof.Claim in
/-- R460, R272, R458, R465: a BAR4 access reads or writes as the VI, is recorded as a fault, waits for a migrating page, or
reads 0 or all ones. -/
def Sys2Proof.Says.HostMemory : Prop :=
  ∀ (s s1 : State) (v pa : Nat) (off : BitVec 40) (w : Dword),
    let answered := fun (s : State) (x : Dword) => ({ s with hostReads := s.hostReads ++ [x] } : State)
    (¬readable s v → exec (.hostMemoryAccess v off none) s = .next (answered s 0)) ∧
    (¬reachable s v → exec (.hostMemoryAccess v off (some w)) s = .next s) ∧
    (∀ size, (size ≠ 8 ∨ off.toNat % 8 ≠ 0) →
      (readable s v → hostAccess v off size none s = .next (answered s 0xFFFFFFFFFFFFFFFF)) ∧ hostAccess v off size (some w) s = .next s) ∧
    (∀ wr, exec (.hostMemoryAccess v off wr) s = hostAccess v off 8 wr s) ∧
    (readable s v → off.toNat % 8 = 0 →
      (translateNow s v off.toNat .read = .ok s1 pa → paReserved s1 pa = false → lineReady s1 hubPort v (pa / 128) = true →
        let x := readPa s1 hubPort v pa 8
        exec (.hostMemoryAccess v off none) s = .next (answered x.1 (dw x.2.1))) ∧
      ((viOf s v).busy = false → translateNow s v off.toNat .write = .ok s1 pa → paReserved s1 pa = false →
        (regionOf? (viOf s1 v) off.toNat = none → lineReady s1 hubPort v (pa / 128) = true →
          exec (.hostMemoryAccess v off (some w)) s = .next (writePa s1 hubPort v pa 8 w.toNat)) ∧
        (∀ r o, regionOf? (viOf s1 v) off.toNat = some r → Tab.at? (viOf s1 v).owners r = some o → o.here = true →
          lineReady s1 o.port v (pa / 128) = true →
          exec (.hostMemoryAccess v off (some w)) s = .next (writePa s1 o.port v pa 8 w.toNat)) ∧
        (∀ r o, regionOf? (viOf s1 v) off.toNat = some r → Tab.at? (viOf s1 v).owners r = some o → o.here = false →
          exec (.hostMemoryAccess v off (some w)) s = .next { askReeve s (Via.host v) off.toNat true with
            hostQ := s.hostQ ++ [(v, off.toNat, some w)] })) ∧
      (translateNow s v off.toNat .read = .ok s1 pa → paReserved s1 pa = true →
        exec (.hostMemoryAccess v off none) s = .next (answered (putFault s v 2 9 0 off.toNat 0 0) 0xFFFFFFFFFFFFFFFF)) ∧
      (∀ why, translateNow s v off.toNat .read = .fail s1 (.xlate why) →
        exec (.hostMemoryAccess v off none) s = .next (answered (putFault s v 2 why 0 off.toNat 0 0) 0xFFFFFFFFFFFFFFFF)) ∧
      (∀ why, (viOf s v).busy = false → translateNow s v off.toNat .write = .fail s1 (.xlate why) →
        exec (.hostMemoryAccess v off (some w)) s = .next (putFault s v 2 why 0 off.toNat 0 0)) ∧
      (∀ entry pfn lg, translateNow s v off.toNat .read = .fail s1 (.migrate entry pfn lg) →
        exec (.hostMemoryAccess v off none) s = .next { askReeve s (Via.host v) off.toNat false with
          hostQ := s.hostQ ++ [(v, off.toNat, none)] }))

open Sys2Proof Sys2Proof.Machine Sys2Proof.Claim in
/-- R414-R416, R461: a vector raised becomes pending and, unmasked, is sent once; an entry unmasked sends what waits. -/
def Sys2Proof.Says.Interrupts : Prop :=
  ∀ (s : State) (v k : Nat), v < 512 → k < 64 →
    let vi := viOf s v
    let goes := fun (x : Nat × Nat) => !vi.imask.getLsbD x.2 && !vi.msix.getLsbD x.2 && x.1 != s.time.toNat
    (vi.ipend.getLsbD k = true → raiseIrq s v k = s) ∧
    (vi.ipend.getLsbD k = false →
      let t := raiseIrq s v k
      (∀ n < 64, (viOf t v).ipend.getLsbD n = (vi.ipend.getLsbD n || n == k)) ∧ t.msi = s.msi ∧
      (∀ x, x ∈ (viOf t v).iorder ↔ x = (s.time.toNat, k) ∨ x ∈ vi.iorder) ∧
      (vi.iorder.Pairwise irqBefore → (∀ x ∈ vi.iorder, x.1 ≤ s.time.toNat ∧ x ≠ (s.time.toNat, k)) → (viOf t v).iorder.Pairwise irqBefore)) ∧
    (let t := deliverIrqs s v
     t.msi = s.msi ++ (vi.iorder.filter goes).map (fun x => (v, x.2)) ∧ (viOf t v).iorder = vi.iorder.filter (fun x => !goes x)) ∧
    exec (.msiXEntryUnmask v k) s = .next (deliverIrqs (onVi s v (fun x => { x with msix := x.msix &&& ~~~(1#64 <<< k) })) v) ∧
    exec (.msiXEntryUnmask v (64 + k)) s = .next (deliverIrqs (onVi s v (fun x => { x with msix := x.msix ||| 1#64 <<< k })) v) ∧
    pendingBits s v = vi.ipend

open Sys2Proof Sys2Proof.Machine Sys2Proof.Claim in
/-- R428, R465: PERST, function-level resets and VIRESET, what a module reset leaves, and the registers that a VI reset
clears. -/
def Sys2Proof.Says.Resets : Prop :=
  ∀ (s : State) (v : Nat),
    (exec .perst s = .next (moduleReset s)) ∧
    (v < 512 → s.power = true → (v = 0 ∨ (viOf s v).busy = false) →
      exec (.functionLevelReset v) s = .next (if v = 0 then moduleReset s else beginReset s v)) ∧
    (v < 512 → v ≠ 0 → (viOf s v).busy = true → exec (.functionLevelReset v) s = .next s) ∧
    (reachable s 0 → ∀ w : Dword, v < 512 → v ≠ 0 → (viOf s v).busy = false → w.getLsbD 0 = true → w.toNat < 4 →
      exec (.vireset v w) s = .next (beginReset s v)) ∧
    (v < 512 → v ≠ 0 →
      let t := beginReset s v
      (viOf t v).busy = true ∧ (∀ k r, (k, r) ∈ t.recs → recVi k ≠ v) ∧ (∀ k j, (k, j) ∈ t.jobs → j.vi ≠ v) ∧
        (∀ k p, (k, p) ∈ t.plots → p.vi = v → p.frozen = true) ∧ (∀ q j, (q, j) ∈ (viOf t v).queues → j.base.getLsbD 4 = false)) ∧
    ((∀ x ∈ s.vis, x.2.busy = false) → finishResets s = s) ∧
    (∀ x, s.vis = [(v, x)] → x.busy = true →
      let u : State := { s with ctr := s.ctr + 1 }
      finishResets s = if Config.freeChoice s.ctr = true ∨ 2 * Config.cyclesPerUs ≤ s.time.toNat - x.busyAt then resetVi u v else u) ∧
    (let t := moduleReset s
     t.plots = [] ∧ t.recs = [] ∧ t.jobs = [] ∧ t.groups = [] ∧ t.pcells = [] ∧ t.slices = [] ∧ t.images = [] ∧ t.time = 0 ∧ t.ready = false ∧
       t.power = true ∧ t.partcfg = State.reset.partcfg ∧ t.hmask = State.reset.hmask ∧ t.bell = [] ∧
       ∀ u x, Tab.at? s.vis u = some x → Tab.at? t.vis u = some { Vi.reset with tolls := x.tolls, sigseq := x.sigseq }) ∧
    (0 < v → v < 512 →
      let t := resetVi s v
      (viOf t v).tvec = 0 ∧ (viOf t v).tring = 0 ∧ (viOf t v).traps = [] ∧ (viOf t v).handler = none ∧ (viOf t v).ipend = 0 ∧
        (viOf t v).imask = 0 ∧ (viOf t v).hring = 0 ∧ (viOf t v).fring = 0 ∧ (viOf t v).gering = 0 ∧ (viOf t v).rgntab = 0 ∧
        (viOf t v).s1root = 0 ∧ (viOf t v).ftimeout = 1000 ∧ (viOf t v).owners = [] ∧ (viOf t v).poolmem = [] ∧ (viOf t v).busy = false)

open Sys2Proof Sys2Proof.Machine Sys2Proof.Claim in
/-- R465: bring-up checks the firmware, then sets SPANID, the CXL windows and the partitions, and READY. -/
def Sys2Proof.Says.BringUp : Prop :=
  ∀ (s : State),
    ((s.ready = true ∨ s.booterr = true ∨ s.power = false) → exec .bringupReady s = .next s) ∧
    (s.ready = false → s.booterr = false → s.power = true →
      ∃ t, exec .bringupReady s = .next t ∧
        if Config.firmwareGood = true then
          t.ready = true ∧ t.booterr = false ∧ t.spanid = Config.bootSpanid &&& 0xBF3F#64 ∧
          t.cxl0 = min (2 ^ 41) (Config.bootCxl 0) ∧ t.cxl1 = min (2 ^ 41) (Config.bootCxl 1) ∧
          ∀ v < 512, viOf t v = { viOf s v with vdom := dw (Config.bootPart v % 4) }
        else t = { s with booterr := true })

open Sys2Proof Sys2Proof.Machine Sys2Proof.Claim in
/-- R452: the Reeve takes the next record of queue 15 of VI 0 and starts its round. -/
def Sys2Proof.Says.ReeveRounds : Prop :=
  ∀ (s s1 : State) (ws : List Dword),
    (reeveReady s = false → exec .reeveRound s = .next s) ∧
    (reeveReady s = true → readSlot s 0 15 = .ok s1 ws →
      let q := Tab.atD (viOf s1 0).queues 15 JobQueue.reset
      (badRoot ws = true → exec .reeveRound s = .next (badJob s1 0 15 ((ws[7]?).getD 0) 0)) ∧
      (∀ s2 j s3 im s4 key p s5 es seed, badRoot ws = false → takeJob s1 0 15 (newJob 0 15 q.head ((ws[7]?).getD 0) q.jnl) = (s2, j) →
        let r := { recOf ws j with root := true, join := 0 }
        jobImage s2 j r.code = .ok s3 im → r.lo ≠ r.hi →
        configure (clearReeve (beginJournal (putRec s3 reeveRec r) j)) 0 .reeve (some 15) r.code 0 true none = .ok s4 key → Tab.at? s4.plots key = some p →
        readArgs s4 0 p r.args = .ok s5 es seed →
        exec .reeveRound s = .next (onPlot (seat s5 key reeveRec r) key (fun p =>
          startRound { writeArgs p r im.handles es with srseed := seed, inh := false }))))

open Sys2Proof Sys2Proof.Machine Sys2Proof.Claim in
/-- R158, R213, R429, R430: corrected errors are counted; uncorrectable ones poison a slot or a line, are found by the tile
firing that reads the data, or abandon a round. -/
def Sys2Proof.Says.SoftErrors : Prop :=
  ∀ (s : State) (plot sid slot pa slice key : Nat) (p : Plot) (f : Fold),
    (exec (.configScrub plot .clean) s = .next s) ∧
    (exec (.configScrub plot .corrected) s = .next { s with cfgcorr := if s.cfgcorr = 0xFFFFFFFF then s.cfgcorr else s.cfgcorr + 1 }) ∧
    (Tab.at? s.plots plot = none → exec (.configScrub plot .uncorrectable) s = .next s) ∧
    (∀ queue, Tab.at? s.plots plot = some p → queue = ((recOf? s p).bind (fun x => Tab.at? s.jobs x.2.job)).map (·.queue) →
      configure (dropOwners { s with plots := Tab.del s.plots plot } plot p.vi) p.vi p.role queue p.code p.die false (some (p.x, p.y)) = .wait →
      exec (.configScrub plot .uncorrectable) s = .next (onPlot s plot (fun p => { p with scrub := true }))) ∧
    (∀ s1 s2 h, Tab.at? s.plots plot = some p → Tab.at? p.folds sid = some f → f.far = true → slot < f.slots → (∀ c ∈ p.cells, c.2.array = []) →
      hubRead s p.vi (f.hdrAt slot) 1 = .ok s1 [h] → hubStore? s1 p.vi (f.hdrAt slot) [poisonHdr h] = some s2 →
      exec (.uncorrectableError (.foldData plot sid slot)) s = .next s2) ∧
    (Tab.at? s.plots plot = some p → Tab.at? p.folds sid = some f → f.far = false → slot < f.slots →
      (∃ t q g, exec (.uncorrectableError (.foldData plot sid slot)) s = .next t ∧ Tab.at? t.plots plot = some q ∧ Tab.at? q.folds sid = some g ∧
        hdrState (Tab.atD g.hdrs slot 0) = 3 ∧ hdrOcc (Tab.atD g.hdrs slot 0) = hdrOcc (Tab.atD f.hdrs slot 0) ∧
        (Tab.atD g.hdrs slot 0).extractLsb' 6 8 = (Tab.atD f.hdrs slot 0).extractLsb' 6 8) ∧
      (∃ t q g, exec (.uncorrectableError (.foldHeader plot sid slot)) s = .next t ∧ Tab.at? t.plots plot = some q ∧ Tab.at? q.folds sid = some g ∧
        hdrState (Tab.atD g.hdrs slot 0) = 3 ∧ hdrOcc (Tab.atD g.hdrs slot 0) = 0)) ∧
    (∃ t, exec (.uncorrectableError (.memLine pa)) s = .next t ∧ pa / 128 ∈ t.poison ∧ (∀ x, x ∈ s.poison → x ∈ t.poison) ∧
      { t with poison := s.poison } = s) ∧
    (exec (.uncorrectableError (.l2Line slice key)) s =
      .next (onSlice s slice (fun sl => { sl with lines := Tab.upd sl.lines key (fun l => { l with poison := true }) }))) ∧
    (∀ c j role r ref ext off, Tab.at? s.plots plot = some p → Tab.at? p.cells key = some c → c.array = [j] → j.fault = none → 0 < j.occ →
      j.raws = [(role, r, ref, ext)] → ref.testBit 20 = true → ref % 2 ^ 18 ≤ off → off < ref % 2 ^ 18 + ext →
      ∃ t q d, exec (.uncorrectableError (.accData plot key off)) s = .next t ∧ Tab.at? t.plots plot = some q ∧ Tab.at? q.cells key = some d ∧
        d.array = [{ j with fault := some (.access, infoRaw role 3 r ref) }]) ∧
    (Tab.at? s.plots plot = some p → p.running = true → p.withdrawn = false → exec (.uncorrectableError (.buffer plot)) s =
      .next (raiseRecord (onPlot s plot (fun p => { workGone p with frozen := false, trap := none, failed := some 0x70 })) p.vi .cfgerr 0 0
        (cellWord p 0 0 0) (plotWord p)))

open Sys2Proof Sys2Proof.Machine Sys2Proof.Claim in
/-- R12, R395, R464: the bell takes the calendar's pending writes; heat halves the clock from the next bell mark, or takes
the power. -/
def Sys2Proof.Says.BellAndHeat : Prop :=
  ∀ (s : State),
    (exec .thermalThrottle s = .next { s with thrNext := some true }) ∧ (exec .thermalRestore s = .next { s with thrNext := some false }) ∧
    (exec .thermalShutdown s = .next { s with power := false }) ∧
    (∃ t, exec .bellMark s = .next t ∧ t.bellNext = [] ∧ t.bellAt = s.time.toNat ∧ t.thr = s.thrNext.getD s.thr ∧
      { t with bell := s.bell, bellNext := s.bellNext, bellAt := s.bellAt, thr := s.thr, thrNext := s.thrNext } = s ∧ t.thrNext = none ∧
      (∀ n, s.bellNext.all (fun x => x.1 != n) = true → Tab.atD t.bell n 0 = Tab.atD s.bell n 0) ∧
      (∀ n w, s.bellNext = [(n, w)] → (s.bell.map (·.1)).Nodup → Tab.atD t.bell n 0 = w)) ∧
    (s.power = false → s.agenda = [] → step s = .next s)

namespace Sys2Proof.Claim
open Sys2Proof.Machine

/-- A token stands at the end of its route in a plot whose switches run, the first of its route (R106, R113). -/
abbrev atItsCell (s : State) (plot k : Nat) (p : Plot) (t : Token) (r : Route) : Prop :=
  Tab.at? s.plots plot = some p ∧ p.tokens[k]? = some t ∧ Tab.at? p.routes t.route = some r ∧ t.left = 0 ∧ p.frozen = false ∧
  p.stop ≠ .freeze ∧ t.hedge? p = none ∧ ∀ u ∈ p.tokens.take k, u.route ≠ t.route

/-- The tokens of a plot without the one that is gone. -/
def withoutToken (k : Nat) (p : Plot) : Plot := { p with tokens := p.tokens.take k ++ p.tokens.drop (k + 1) }

end Sys2Proof.Claim

open Sys2Proof Sys2Proof.Machine Sys2Proof.Claim in
/-- R289, R279: SRD of a run whose ordinals are in the queue, SWR within the stream while its queue has room, M.ACCEPT of
landed bytes and M.PUSH with free bytes behind it complete. -/
def Sys2Proof.Says.StreamFormsComplete : Prop :=
  ∀ (s : State) (c : Ctx) (es : List Nat) (e port ctx : Nat) (c1 c0 : Cons) (t : Stream),
    streamOf? s c (c.low 0 e).toNat = some (port, ctx, t) →
    let n := (c.low 1 e).toNat
    (FiresOnce s c es e → t.writes = false → t.mode = 1 →
      (∀ i < c.inst.len, (ordinal? t (c.tag i)).all (fun o => Tab.has t.queue o) = true) →
      ∃ u out, exec (.srd c1 c0) s = .next (complete u c 2 es out) ∧
        u = onStream s port ctx (fun x => takenFrom x (fun o => (List.range c.inst.len).any (fun i => ordinal? t (c.tag i) == some o))) ∧
        ∀ x ∈ out, x.elems.map (·.1) = List.range c.inst.len) ∧
    (FiresOn s c e → t.writes = true → t.mode ≠ 2 → t.closing = false → (ordinal? t (c.tag e)).isSome = true → t.queue.length < t.cap →
      ∃ u, exec .swr s = .next (complete u c 2 [e] []) ∧ u = onStream s port ctx (fun x => { x with
        queue := Tab.set x.queue x.accepted (c.tag e - x.tbase, .val (c.wide 1 e)), accepted := x.accepted + 1 })) ∧
    (FiresOnce s c es e → t.writes = false → t.mode = 2 → n ≠ 0 → n % 64 = 0 → (t.cons + t.granted) % max 1 t.ring + n ≤ t.ring →
      t.cons + t.granted + n ≤ t.prod →
      ∃ u v, exec (.mAccept c1 c0) s = .next (complete u c 2 es (both c1 c0 .s64 [(0, .val v)])) ∧
        u = onStream s port ctx (fun x => Stream.release { x with cons := t.cons + t.granted, granted := n })) ∧
    (FiresOnce s c es e → t.writes = true → t.mode = 2 → t.closing = false → t.waiter = none → n ≠ 0 → n % 64 = 0 →
      (t.prod + n) % max 1 t.ring + n ≤ t.ring → t.prod + n + n ≤ t.cons + t.ring →
      ∃ u v, exec (.mPush c1 c0) s = .next (complete u c 2 es (both c1 c0 .s64 [(0, .val v)])) ∧
        u = onStream s port ctx (fun x => { x with prod := t.prod + n, accepted := (t.prod + n) / max 1 x.esz }))

open Sys2Proof Sys2Proof.Machine Sys2Proof.Claim in
/-- R98, R100, R101: the generator of a dataflow block whose frame is free creates its next instance, and that of a
sequential block once the thread is in it and nothing is live; a SETK takes effect with it. -/
def Sys2Proof.Says.GenerationCompletes : Prop :=
  ∀ (s : State) (plot cell bidx : Nat) (p : Plot) (c : Cell) (b : Block), Tab.at? s.plots plot = some p → Tab.at? p.cells cell = some c →
    Tab.at? c.blocks bidx = some b → p.live = true → b.next < runCount b.bounds →
    ((b.seq = false ∧ Tab.at? b.insts (b.next % b.frames) = none) ∨
      (b.seq = true ∧ c.thread.bidx = some bidx ∧ c.thread.exited = false ∧ b.insts = [])) →
    exec (.instanceGenerate plot cell bidx) s = .next (onPlot s plot (fun p => onBlock p cell bidx (fun b =>
      generated (if b.seq = true then applySetks b else b))))

open Sys2Proof Sys2Proof.Machine Sys2Proof.Claim in
/-- R106, R107, R114, R116, R421, R423: a token, an EOS and a marker that stand first of their route at its end arrive, a
data token where 385 entries of the run buffer are free; an EOS from a slot of the cell is recorded; a token at a hedge
is dropped and recorded. -/
def Sys2Proof.Says.ArrivalsComplete : Prop :=
  ∀ (s : State) (plot k : Nat) (p : Plot) (t : Token) (r : Route),
    (atItsCell s plot k p t r → t.mark = false → t.eos = false → (∀ c, Tab.at? p.cells r.dst = some c → bufferUsed c ≤ 512 - 385) →
      exec (.tokenArrival plot k) s = .next (onPlot s plot (fun p =>
        arrive (withoutToken k p) r.dst t.bidx t.slot t.port t.kind t.tag t.elems))) ∧
    (atItsCell s plot k p t r → t.mark = false → t.eos = true →
      exec (.tokenArrival plot k) s = .next (onPlot s plot (fun p => recordEos (withoutToken k p) r.dst t.bidx t.slot t.port t.tag))) ∧
    (∀ w, atItsCell s plot k p t r → t.mark = true → p.wave = some w →
      exec (.markerArrival plot k) s = .next (onPlot s plot (fun p => { withoutToken k p with
        wave := some { w with arrived := t.route :: w.arrived } }))) ∧
    (∀ cell bidx slot port tag, Tab.at? s.plots plot = some p → p.frozen = false →
      let x : EosTok := { cell := cell, bidx := bidx, slot := slot, port := port, tag := tag, left := 0 }
      x ∈ p.eosQ → exec (.eosArrival plot cell bidx slot port tag) s =
        .next (onPlot s plot (fun p => recordEos { p with eosQ := dropFirst x p.eosQ } cell bidx slot port tag))) ∧
    (∀ site dir, Tab.at? s.plots plot = some p → p.tokens[k]? = some t → t.hedge? p = some (site, dir) → t.meets p = true → p.frozen = false →
      p.stop ≠ .freeze → ∃ u, exec (.hedgeDrop plot k) s = .next u ∧ u.hedgeSeq = s.hedgeSeq + 1 ∧
        Tab.at? u.plots plot = some (withoutToken k p) ∧
        (viOf u p.vi).tseq = (viOf s p.vi).tseq + 1)

open Sys2Proof Sys2Proof.Machine Sys2Proof.Claim in
/-- R7, R8: the two edge sites that a P-cell adjoins, and what each mesh link of a site leads to. -/
def Sys2Proof.Says.MeshJoins : Prop :=
  (∀ edge idx, edge < 4 → idx < 24 →
    let site := fun (n : Nat) => match edge with
      | 0 => (2 * idx + n, 0)
      | 1 => (47, 2 * idx + n)
      | 2 => (47 - 2 * idx - n, 47)
      | _ => (0, 47 - 2 * idx - n)
    adjoins edge idx = (site 0, site 1) ∧ ∀ n < 2, joined (site n).1 (site n).2 edge = .pcell edge idx) ∧
  (∀ x y, x < 48 → y < 48 →
    joined x y 0 = (if y = 0 then .pcell 0 (x / 2) else .site x (y - 1)) ∧ joined x y 1 = (if x = 47 then .pcell 1 (y / 2) else .site (x + 1) y) ∧
    joined x y 2 = (if y = 47 then .pcell 2 ((47 - x) / 2) else .site x (y + 1)) ∧
    joined x y 3 = (if x = 0 then .pcell 3 ((47 - y) / 2) else .site (x - 1) y))

namespace Sys2Proof.Claim
open Sys2Proof.Machine

/-- The comparing forms without CMP and the saturating forms (R175). -/
def minmaxForm (c : Ctx) (e : Nat) : Instr → Option Dword
  | .cmp .. => none
  | i => comparing c e i

/-- An age of an instance: its run's first tag, then its block (R106). -/
abbrev older (a b : Nat × Nat) : Prop := a.1 < b.1 ∨ (a.1 = b.1 ∧ a.2 < b.2)

/-- The forms whose firing changes nothing outside its cells and its plot's sticky flag: control apart from memory and names, the lanes, the
reductions and the shuffles. -/
def lanesOnly : Instr → Bool
  | .nop | .mov .. | .imm .. | .kread .. | .tag .. | .steerT .. | .steerF .. | .sel .. | .iseos ..
  | .add .. | .sub .. | .mul .. | .mulh .. | .mad .. | .div .. | .rem .. | .and .. | .or .. | .xor .. | .andn .. | .shl .. | .shr .. | .sar ..
  | .rot .. | .min .. | .max .. | .abs .. | .neg .. | .clz .. | .popc .. | .brev .. | .ext .. | .ins .. | .addsat .. | .subsat .. | .cmp ..
  | .sext .. | .zext .. | .addr .. | .addc .. | .fadd .. | .fsub .. | .fmul .. | .fma .. | .fmin .. | .fmax .. | .fabs .. | .fneg .. | .fcmp ..
  | .fclass .. | .frnd .. | .exp2 .. | .log2 .. | .rcp .. | .rsqrt .. | .sqrt .. | .sin .. | .cos .. | .tanh .. | .sigm .. | .rcpa ..
  | .cvt .. | .qnt .. | .dqnt .. | .redAdd .. | .redMax .. | .redMin .. | .scanAdd ..
  | .perm .. | .lrot .. | .bcast .. | .compress .. | .expand .. => true
  | _ => false

/-- The opcodes that the map of R53 leaves unassigned, retired or illegal. -/
def noOpcode (n : Nat) : Bool :=
  (decide (0x13 ≤ n) && decide (n < 0x20)) || (decide (0x29 ≤ n) && decide (n < 0x30)) || (decide (0x4F ≤ n) && decide (n < 0x70)) ||
  (decide (0x92 ≤ n) && decide (n < 0xA0)) || (decide (0xB1 ≤ n) && decide (n < 0xBE)) || n == 0xBF || n == 0xC7 || n == 0xFF

end Sys2Proof.Claim

open Sys2Proof Sys2Proof.Machine Sys2Proof.Claim in
/-- R175: MIN, MAX, ADDSAT and SUBSAT, signed or unsigned by the type. -/
def Sys2Proof.Says.IntegerLimits : Prop :=
  ∀ (i : Instr) (s : State) (c : Ctx) (es : List Nat) (f : Nat → Dword) (ty : IntTy) (lat : Nat) (c1 c0 : Cons),
    intForm es.length i = some (ty, lat, c1, c0) → Fires s c (lanes (itWidth ty == 64)) es → (∀ e, minmaxForm c e i = some (f e)) →
    exec i s = .next (intNext i s c ty lat c1 c0 es f)

open Sys2Proof Sys2Proof.Machine Sys2Proof.Claim in
/-- R180: CMP emits n32 1 where the condition holds between the operands at the type's width, else 0. -/
def Sys2Proof.Says.Compare : Prop :=
  ∀ (s : State) (c : Ctx) (es : List Nat) (f : Nat → Dword) (cond : Cmp) (ty : IntTy) (c1 c0 : Cons),
    Fires s c (lanes (itWidth ty == 64)) es → (∀ e, comparing c e (.cmp cond ty c1 c0) = some (f e)) →
    exec (.cmp cond ty c1 c0) s = .next (complete s c 2 es (perElem c c1 c0 .r32 es f))

open Sys2Proof Sys2Proof.Machine Sys2Proof.Claim in
/-- R179: ADDC emits the sum at the width of its type to C0 and the carry to C1; a field 0x1FF discards what it is sent. -/
def Sys2Proof.Says.AddWithCarry : Prop :=
  (∀ (s : State) (c : Ctx) (es : List Nat) (b : BitVec 3) (ty : IntTy) (c1 c0 : Cons), itSigned ty = false →
    Fires s c (lanes (itWidth ty == 64)) es →
    let sum := fun e => (opnd c ty 0 e).toNat + (opnd c ty 1 e).toNat + (if opndB c b ty 2 e = 0 then 0 else 1)
    let out := fun (v : Nat → Nat) => es.map (fun e => (e, if c.null e = true then Elem.null else .val (dw (v e))))
    exec (.addc b ty c1 c0) s = .next (complete s c 2 es
      [{ cons := c0, kind := if itWidth ty = 64 then .r64 else .r32, elems := out (fun e => sum e % 2 ^ itWidth ty) },
       { cons := c1, kind := .r32, elems := out (fun e => sum e / 2 ^ itWidth ty) }])) ∧
  (∀ (p : Plot) (cell bidx first : Nat) (kind : Kind) (es : Tab Elem),
    deliver p cell bidx first { cons := 0x1FF, kind := kind, elems := es } = p)

open Sys2Proof Sys2Proof.Machine Sys2Proof.Claim in
/-- R105: the end of a firing changes, of the whole machine, the marks of its slot in its instance, the results on their way
in its cell, and the watchdog's count. -/
def Sys2Proof.Says.CompleteFrame : Prop :=
  ∀ (s : State) (c : Ctx) (lat : Nat) (es : List Nat) (out : List Emit), lat ≠ 0 →
    let t := complete s c lat es out
    { t with plots := s.plots } = s ∧
    (∀ k, k ≠ c.f.plot → Tab.at? t.plots k = Tab.at? s.plots k) ∧
    ∀ p, Tab.at? s.plots c.f.plot = some p → ∃ q, Tab.at? t.plots c.f.plot = some q ∧ { q with cells := p.cells } = p ∧
      (∀ n, n ≠ c.f.cell → Tab.at? q.cells n = Tab.at? p.cells n) ∧
      ∀ k, Tab.at? p.cells c.f.cell = some k → ∃ l, Tab.at? q.cells c.f.cell = some l ∧ { l with blocks := k.blocks, pend := k.pend } = k ∧
        (∀ n, n ≠ c.f.bidx → Tab.at? l.blocks n = Tab.at? k.blocks n) ∧
        ∀ b, Tab.at? k.blocks c.f.bidx = some b → ∃ d, Tab.at? l.blocks c.f.bidx = some d ∧ { d with insts := b.insts } = b ∧
          (∀ n, n ≠ c.f.frame → Tab.at? d.insts n = Tab.at? b.insts n) ∧
          ∀ i, Tab.at? b.insts c.f.frame = some i → ∃ j, Tab.at? d.insts c.f.frame = some j ∧
            { j with done := i.done, issued := i.issued, held := i.held } = i ∧
            (∀ n, n ≠ c.f.slot → Tab.atD j.done n 0 = Tab.atD i.done n 0) ∧
            ∀ e, e < 32 → (Tab.atD j.done c.f.slot 0).getLsbD e = ((Tab.atD i.done c.f.slot 0).getLsbD e || es.contains e)

open Sys2Proof Sys2Proof.Machine Sys2Proof.Claim in
/-- R105, R131, R167: a lane or control form leaves memory, every other plot, the hub and every register but NUMST as they
were. -/
def Sys2Proof.Says.LaneFrame : Prop :=
  ∀ (i : Instr) (s t : State), lanesOnly i = true → exec i s = .next t →
    { t with plots := s.plots, stalled := s.stalled } = s ∧
    (∀ k, k ≠ s.cur.plot → Tab.at? t.plots k = Tab.at? s.plots k) ∧
    ∀ p, Tab.at? s.plots s.cur.plot = some p → ∃ q, Tab.at? t.plots s.cur.plot = some q ∧
      { q with cells := p.cells, numst := p.numst } = p ∧ (q.numst ||| 1) = (p.numst ||| 1) ∧
      (∀ n, n ≠ s.cur.cell → Tab.at? q.cells n = Tab.at? p.cells n) ∧
      ∀ k, Tab.at? p.cells s.cur.cell = some k → ∃ l, Tab.at? q.cells s.cur.cell = some l ∧
        l.frame = k.frame ∧ l.acc = k.acc ∧ l.array = k.array ∧ l.thread = k.thread ∧ l.hold = k.hold ∧ l.sseq = k.sseq

open Sys2Proof Sys2Proof.Machine Sys2Proof.Claim in
/-- R10, R170: a result on its way is delivered when its cycles have passed. -/
def Sys2Proof.Says.Delivering : Prop :=
  ∀ (p : Plot) (cell : Nat) (k : Cell) (m : Bool),
    (Tab.at? p.cells cell = some k → deliverDue p cell = (k.pend.filter (fun d => d.left == 0)).foldl
      (fun p d => deliverAll p cell d.bidx d.first d.out) (onCell p cell (fun k => { k with pend := k.pend.filter (fun d => d.left != 0) }))) ∧
    (p.cells = [(cell, k)] →
      let ticked : Plot := { p with
        cells := [(cell, tickCell k)], eosQ := p.eosQ.map (fun t => { t with left := t.left - 1 }), trapNow := false
        rev := p.rev.map (fun r => { r with left := r.left - 1 }), recQ := p.recQ.map (fun x => (x.1 - 1, x.2)) }
      let moved := if p.frozen = true ∨ p.stop = .freeze then ticked else flow ticked
      ((∀ d ∈ k.pend, 1 < d.left) → tickPlot m p = countIdle m moved ∧
        ∃ l, Tab.at? (tickPlot m p).cells cell = some l ∧ l.pend = k.pend.map (fun d => { d with left := d.left - 1 })) ∧
      (∀ d, k.pend = [d] → d.left ≤ 1 → tickPlot m p = countIdle m
        (deliverAll (onCell moved cell (fun k => { k with pend := [] })) cell d.bidx d.first d.out)))

open Sys2Proof Sys2Proof.Machine Sys2Proof.Claim in
/-- R106, R108: on a path a cell issues of its oldest ready instance the lowest ready slot. -/
def Sys2Proof.Says.IssueOrder : Prop :=
  ∀ (waited : List Firing) (key round cell : Nat) (c : Cell) (path : Bool) (f : Firing) (i : Instr), pathFiring? waited key round cell c path = some (f, i) →
    f.plot = key ∧ f.round = round ∧ f.cell = cell ∧ f ∉ waited ∧
    ∃ b x, (f.bidx, b) ∈ c.blocks ∧ (f.frame, x) ∈ b.insts ∧ f.slot < b.words.length ∧ readyForm? c path b x f.slot = some i ∧
      (∀ n < f.slot, readyForm? c path b x n ≠ none → ({ f with slot := n } : Firing) ∈ waited) ∧
      (∀ bidx b' frame x' slot, (bidx, b') ∈ c.blocks → (frame, x') ∈ b'.insts → slot < b'.words.length →
        older (x'.first, bidx) (x.first, f.bidx) → readyForm? c path b' x' slot ≠ none →
        ({ plot := key, cell := cell, bidx := bidx, slot := slot, frame := frame, round := round } : Firing) ∈ waited)

open Sys2Proof Sys2Proof.Machine in
/-- R86: rounding returns each representable value's own pattern, under every mode; the stochastic word is below 2^16. -/
def Sys2Proof.Says.RepresentableExact : Prop :=
  ∀ (f : Fmt) (r : Rnd) (p : Nat), f ∈ [fmtF32, fmtBf16, fmtE5m2, fmtE4m3] → r.word < 2 ^ 16 → p < 2 ^ f.width →
    Machine.decodeF f p ≠ .nan → roundF f r false (Machine.decodeF f p) = p

open Sys2Proof Sys2Proof.Machine in
/-- R75, R261: a line stored changes exactly its masked bytes and keeps the canonical form; reset memory reads 0 (log entry
1). -/
def Sys2Proof.Says.MemoryStores : Prop :=
  ∀ (s : State) (line : Nat) (d : Line) (mask : BitVec 128), Memory.wf s.mem = true →
    let t := storeMem s line d mask none
    Memory.wf t.mem = true ∧
    (∀ a, a / 128 = line → mask.getLsbD (a % 128) = true → readByte t.mem a = d.extractLsb' (8 * (a % 128)) 8) ∧
    (∀ a, (a / 128 ≠ line ∨ mask.getLsbD (a % 128) = false) → readByte t.mem a = readByte s.mem a) ∧
    { t with mem := s.mem, poison := s.poison } = s ∧
    (∀ x, x ∈ t.poison ↔ x ∈ s.poison ∧ (mask ≠ BitVec.allOnes 128 ∨ x ≠ line)) ∧
    Memory.wf State.reset.mem = true ∧ ∀ a, readByte State.reset.mem a = 0

open Sys2Proof Sys2Proof.Machine Sys2Proof.Claim in
/-- R295: the home slice is BASE and the sum of the parities of the address under HMASKk, times 2^k; a request carries the
partition and HGEN; SLICEOF answers the home slice. -/
def Sys2Proof.Says.HomeSlice : Prop :=
  ∀ (s : State) (v p pa : Nat), viPart? s v = some p → paRemote s pa = false →
    let cfg := partOf s p
    let odd := fun (k : Nat) => decide (((List.range 64).filter (fun b => pa.testBit b && (Tab.atD s.hmask (8 * p + k) 0).getLsbD b)).length % 2 = 1)
    let home := (cfg.extractLsb' 45 6).toNat + ((List.range (cfg.extractLsb' 51 3).toNat).map (fun k => if odd k = true then 2 ^ k else 0)).sum
    homeSlice? s v pa = some home ∧
    (∀ port line k, paRemote s (128 * line) = false →
      (mkReq s port v line k).part = p ∧ (mkReq s port v line k).hgen = (cfg.extractLsb' 54 8).toNat) ∧
    (∀ s0 c e port c1 c0, FiresOn s0 c e → c.plot.vi = v → homePort? c.plot c.f.cell = some port → paReserved s pa = false →
      Machine.translate s0 (c.via port 0) (vaOf (c.wide 0 e)) .none = .ok s pa →
      exec (.sliceof c1 c0) s0 = .next (complete s c 2 [e] (both c1 c0 .r32 [(e, .val (dw home))])))

open Sys2Proof in
/-- Words written out in the spec, and the instructions they stand for. -/
def Sys2Proof.Says.DecodeWords : Prop :=
  ([0x0003FFFF, 0x0903FE28, 0x06000212, 0x3023FE10, 0x4A43FE2E, 0x4E045020, 0x73E06821, 0x7027FE18, 0x84C7FE08, 0x2187FE18, 0x220BFFFF,
      0xCC043010, 0xF01FFFFF, 0xFFFFFFFF] : List Word).map decode =
    [.ok .nop, .ok (.sel 0x1FF 0x028), .ok (.out 0 1 0x012), .ok (.add 1 .i32 0x1FF 0x010), .ok (.cmp .lt .i32 0x1FF 0x02E),
      .ok (.addc 0 .n32 0x028 0x020), .ok (.fma .sr .f32 0x034 0x021), .ok (.fadd .rne .bf16 0x1FF 0x018), .ok (.cvt .sr 1 0x1FF 0x008),
      .ok (.ldn true 1 0x1FF 0x018), .ok (.stn 2), .ok (.ld .n32 0x018 0x010), .ok (.trap 7), .error .illop]

open Sys2Proof in
/-- R49-R56: every well-formed form is what its own word decodes to. -/
def Sys2Proof.Says.DecodeEncode : Prop := ∀ (i : Instr) (w : Word), i.wf = true → encode i = some w → decode w = .ok i

open Sys2Proof in
/-- R49-R56: a word that decodes is the word of its instruction, which is well-formed. -/
def Sys2Proof.Says.EncodeDecode : Prop := ∀ (i : Instr) (w : Word), decode w = .ok i → encode i = some w ∧ i.wf = true

open Sys2Proof Sys2Proof.Claim in
/-- R53, R55: an opcode that the map leaves unassigned, retired or illegal decodes as ILLOP. -/
def Sys2Proof.Says.UnassignedRefused : Prop := ∀ (w : Word), noOpcode (w.extractLsb' 24 8).toNat = true → decode w = .error .illop

open Sys2Proof Sys2Proof.Machine in
/-- A step at a firing runs the instruction that the word there decodes to; an occurrence runs itself; else a cycle passes. -/
def Sys2Proof.Says.StepRunsDecoded : Prop :=
  (∀ (s u : State) (f : Firing) (w : Word) (i : Instr), choose s = .fire f u → fetch? u f = some w → decode w = .ok i →
    step s = Outcome.map (exec i { u with cur := f }) (afterFiring s f (onLanes i))) ∧
  (∀ (s u : State) (i : Instr), choose s = .occur i u → step s = Outcome.map (exec i u) (after s)) ∧
  (∀ (s u : State), choose s = .cycle u → step s = .next (cycle u)) ∧
  (∀ (s : State) (f : Firing) (p : Plot), s.power = true → s.issue = some f → Tab.at? s.plots f.plot = some p → p.live = true →
    choose s = .fire f { s with issue := none }) ∧
  (∀ (s : State) (i : Instr) (rest : List Instr), s.power = true → s.issue = none → s.retry = [] → s.agenda = i :: rest →
    outsideWaits s i = false →
    (isForm i = false → choose s = .occur i { s with agenda := rest }) ∧ (isForm i = true → choose s = ownChoice { s with agenda := rest })) ∧
  (∀ (s : State) (i j : Instr) (rest : List Instr), s.power = true → s.issue = none → s.retry = [] → s.agenda = i :: j :: rest →
    outsideWaits s i = true → outsideWaits s j = false → isForm j = false → choose s = .occur j { s with agenda := i :: rest })

open Sys2Proof Sys2Proof.Machine in
/-- R412, R294 and the registers' own rules: the values after reset that the spec gives. -/
def Sys2Proof.Says.ResetValues : Prop :=
  let s := State.reset
  s.plots = [] ∧ s.time = 0 ∧ s.ready = false ∧ s.quantum = 2000 ∧ s.wavebud = 50 ∧ s.spanid = 0 ∧ s.cfgcorr = 0 ∧
  (∀ p < 4, partOf s p = dw (2 ^ 63 + 4 * 2 ^ 51 + 16 * p * 2 ^ 45)) ∧ (∀ p, 4 ≤ p → partOf s p = 0) ∧
  ∀ v, (viOf s v).tvec = 0 ∧ (viOf s v).trprod = 0 ∧ (viOf s v).trcons = 0 ∧ (viOf s v).ipend = 0 ∧ (viOf s v).imask = 0 ∧
    (viOf s v).ftimeout = 1000 ∧ (viOf s v).squota = 0x100 ∧ (viOf s v).fsweight = 1 ∧ (viOf s v).waym = 0xFFFF ∧
    (viOf s v).wquota = 0x1000 ∧ (viOf s v).bgen = 0 ∧ (∀ i, Tab.atD (viOf s v).tolls i 0 = 0)

/-- A step runs the decoded instruction. At a firing, step is exec of the instruction that the word there decodes to, with
the settling that follows; an occurrence is exec of itself; otherwise a cycle passes; a firing named in issue and the
agenda come as log entries 2 and 4 say. (R42, R105, R108) -/
def Obligations.StepRuns : Prop :=
  Sys2Proof.Says.StepRunsDecoded

/-- Words of the spec decode as it says. Fourteen words written out from the spec's encodings decode to the instructions
they stand for, the last to none. (R49, R53, R132, R180) -/
def Obligations.DecodeWords : Prop :=
  Sys2Proof.Says.DecodeWords

/-- Decoding the word of a form gives the form back. For every well-formed instruction that has a word, decode of that word
is the instruction, with every operand. (R49, R50, R53, R55) -/
def Obligations.DecodeEncode : Prop :=
  Sys2Proof.Says.DecodeEncode

/-- A word that decodes is its instruction's word; unassigned opcodes are refused. If a word decodes to an instruction, that
is well-formed and its word is this word; every word with an opcode that the map leaves unassigned is refused as ILLOP.
(R49, R51, R53, R55) -/
def Obligations.EncodingIsExact : Prop :=
  Sys2Proof.Says.EncodeDecode ∧ Sys2Proof.Says.UnassignedRefused

/-- The state after reset. After reset no plot is there, the registers hold the spec's reset values, partitions 0 to 3 are
valid with 16 slices each; that BGEN and the toll counters are 0 is log entry 6's choice. (R412, R294, R465) -/
def Obligations.ResetState : Prop :=
  Sys2Proof.Says.ResetValues ∧ Sys2Proof.Says.ResetHubHasTraps

/-- Every step leaves the hub with the record of each plot that trapped in an earlier cycle. If in a state the record of
each plot that trapped before this cycle has its sequence number, then so it is in every state that a step leaves. That
the hub numbers the record by the end of the trap's cycle is log entry 53's deduction: R127 and R418 give no time.
(R127, R418) -/
def Obligations.HubHasTraps : Prop :=
  Sys2Proof.Says.HubHasTraps

/-- What a firing on the lanes leaves unchanged. The end of a firing changes only its slot's marks, its cell's results on
their way and the watchdog's count; a lane or control form leaves all memory, every other plot, the hub, the VIs and
every register but the sticky flag unchanged. (R105, R131, R167, R85) -/
def Obligations.Frames : Prop :=
  Sys2Proof.Says.CompleteFrame ∧ Sys2Proof.Says.LaneFrame

/-- A stored line. A line stored changes exactly the bytes its mask names, every other byte reads as before, the canonical
form is kept; a line written whole is poisoned no more, one written in part stays so. What unlisted memory reads as is
log entry 1's choice. (R75, R262, R430) -/
def Obligations.MemoryStores : Prop :=
  Sys2Proof.Says.MemoryStores

/-- Runs, instances, the order of issue and the delivery of results. Each tag is in exactly one run; a block's next instance
enters its frame; a cell issues of its oldest ready instance the lowest ready slot; every result of a cell whose cycles
have passed is delivered to its consumers, and the others come a cycle nearer. (R99, R100, R101, R106, R108, R10) -/
def Obligations.IssueOrder : Prop :=
  Sys2Proof.Says.RunsOfADomain ∧ Sys2Proof.Says.Instances ∧ Sys2Proof.Says.IssueOrder ∧ Sys2Proof.Says.Delivering

/-- Tokens, end of stream and hedges. An admitted token reaches its port, its EOS register or the wave; elements are matched
with their instance or dropped and counted; a hedge drops and reports. (R104, R107, R114, R115, R116, R118, R119, R421) -/
def Obligations.Tokens : Prop :=
  Sys2Proof.Says.Arrivals ∧ Sys2Proof.Says.Matching ∧ Sys2Proof.Says.Drops ∧ Sys2Proof.Says.EndOfStream ∧
  Sys2Proof.Says.Hedges

/-- The control forms. NOP, MOV, IMM, KREAD, TAG, STEER, SEL, ISEOS, SETK, EOS, EXIT, NEXT and PMASK answer the next state
that the forms table gives; NEXT traps where it names no sequential block. (R131, R132, R133) -/
def Obligations.ControlForms : Prop :=
  Sys2Proof.Says.ControlForms ∧ Sys2Proof.Says.ScalarForms ∧ Sys2Proof.Says.NextTraps

/-- MERGE, OUT and the shuffles. MERGE takes the operand that is not null and counts a clash; OUT puts tokens on their way;
the shuffles emit each position's source; the mesh joins sites and P-cells as the spec's table says. The two deliveries
of MERGE where the kinds differ are log entry 14's choice, and that OUT waits at its switch is log entry 58's deduction.
(R7, R8, R132, R134, R111, R199, R200) -/
def Obligations.Routing : Prop :=
  Sys2Proof.Says.Merge ∧ Sys2Proof.Says.Out ∧ Sys2Proof.Says.Shuffles ∧ Sys2Proof.Says.MeshJoins

/-- Reductions and scans. Elements enter the window, are combined in ascending tag order below an EOS on port a, and a
closed scope's result is emitted when it is due. (R94, R195, R196, R197) -/
def Obligations.Reductions : Prop :=
  Sys2Proof.Says.ReductionWindow ∧ Sys2Proof.Says.Reductions

/-- Integer arithmetic. ADD, SUB, MUL, MULH, MAD, DIV, REM, ABS and NEG complete with the result at the width of the type,
delivered after the cycles of R170. (R168, R170, R172, R175) -/
def Obligations.IntegerArithmetic : Prop :=
  Sys2Proof.Says.IntegerArithmetic

/-- Integer logic, shifts, minima, maxima and saturation. AND, OR, XOR, ANDN, SHL, SHR, SAR, ROT, MIN, MAX, ADDSAT and
SUBSAT complete with the result at the width of the type. (R168, R170, R175, R176) -/
def Obligations.IntegerLogic : Prop :=
  Sys2Proof.Says.IntegerLogic ∧ Sys2Proof.Says.IntegerLimits

/-- Bit counts, fields, extensions and addresses. CLZ, POPC, BREV, EXT, INS, SEXT, ZEXT and ADDR complete with the result
that the rules give. (R175, R177, R178) -/
def Obligations.IntegerFields : Prop :=
  Sys2Proof.Says.IntegerFields

/-- CMP. CMP compares its operands, both from their ports, under its type, signed or unsigned, and emits n32 1 where the
condition holds and 0 otherwise, null where an operand is null. (R180) -/
def Obligations.Compare : Prop :=
  Sys2Proof.Says.Compare

/-- ADDC sends the sum to C0 and the carry to C1. ADDC computes x + y + (1 if z is not 0), sends the sum at the type's width
to C0 and the carry to C1, and what is sent to 0x1FF is discarded. (R179) -/
def Obligations.AddWithCarry : Prop :=
  Sys2Proof.Says.AddWithCarry

/-- Floating-point arithmetic and patterns. FADD, FSUB, FMUL, FMA, FMIN, FMAX, FABS, FNEG, FCMP and FCLASS complete with the
exact result rounded once, or the pattern the rules give. (R78, R79, R86, R87, R182, R183, R184, R185) -/
def Obligations.FloatArithmetic : Prop :=
  Sys2Proof.Says.FloatArithmetic ∧ Sys2Proof.Says.FloatPatterns

/-- FRND and the conversions. FRND, CVT, QNT and DQNT complete with the element rounded to an integral value, converted,
quantised or scaled back. (R82, R86, R90, R186, R190, R191, R192, R193) -/
def Obligations.FloatConversions : Prop :=
  Sys2Proof.Says.FloatConversions ∧ Sys2Proof.Says.Dequantise

/-- Special functions. The special functions complete with the value their rules give and keep the special-function unit.
(R170, R187, R188) -/
def Obligations.FloatFunctions : Prop :=
  Sys2Proof.Says.FloatFunctions

/-- A representable value rounds to itself. In f32, bf16, e5m2 and e4m3, rounding the value of a pattern that is no NaN
gives that pattern, under every mode. (R78, R86) -/
def Obligations.RepresentableExact : Prop :=
  Sys2Proof.Says.RepresentableExact

/-- Random words and the journal. RAND emits a word of the entropy source, which is free (log entry 5); a choice is
journalled in record mode and forced in replay mode. (R201, R435, R436, R437, R438) -/
def Obligations.RandomAndJournal : Prop :=
  Sys2Proof.Says.RandomWords ∧ Sys2Proof.Says.Journal

/-- Reads of names and tile handles. LDN delivers the value of a name and counts its readers down; an overwritten ordinal
traps EXPIRED; LDN.T and STN.T deliver handles. (R147, R153, R159, R163) -/
def Obligations.NameReads : Prop :=
  Sys2Proof.Says.LoadName ∧ Sys2Proof.Says.NameExpired ∧ Sys2Proof.Says.TileHandles

/-- Writes of names. STN makes its name full or adds to an adjoint name; KILL makes a name dead; an on-chip slot answers
from near or accumulator memory. (R140, R147, R163, R254) -/
def Obligations.NameWrites : Prop :=
  Sys2Proof.Says.StoreName ∧ Sys2Proof.Says.KillName ∧ Sys2Proof.Says.OnChipSlot

/-- FOLD, REFOLD, PROBE and FOLDQ. FOLD and REFOLD declare the fold of a sound record, FOLD again takes the next generation
or traps; PROBE and FOLDQ answer what the fold holds. PROBE and FOLDQ emit 2 cycles after issue, which is log entry 3's
choice. (R144, R145, R165, R166) -/
def Obligations.Folds : Prop :=
  Sys2Proof.Says.FoldForms ∧ Sys2Proof.Says.FoldAgain ∧ Sys2Proof.Says.Probe ∧ Sys2Proof.Says.FoldQuery

/-- The escape forms and the smithy. An escape form joins its smithy's queue or waits; the smithy delivers the form's result
and rests 16 cycles. (R67, R69, R70) -/
def Obligations.Smithy : Prop :=
  Sys2Proof.Says.Smithy

/-- The matrix forms. A tile form whose checks pass enters the array with the result of its operation; when it is done its
destination is written and its handle delivered. That the result is computed at issue, and the destination and readers
written at completion, is log entry 31's deduction. (R214, R215, R216, R217, R218, R220) -/
def Obligations.Tiles : Prop :=
  Sys2Proof.Says.TileIssue ∧ Sys2Proof.Says.TileCompletes

/-- Recording, LOGQ, LOGEXT and REVERSE. The REC forms take effect four cycles after issue on the log registers; LOGQ and
LOGEXT answer; REVERSE begins a reversal or ends an empty segment. That a REC acts and emits in its fourth cycle is log
entry 32's deduction, the 2 cycles of LOGQ and LOGEXT are log entry 3's choice. (R234, R237, R240, R248, R249, R251) -/
def Obligations.Recording : Prop :=
  Sys2Proof.Says.RecordForms ∧ Sys2Proof.Says.LogForms

/-- ADJSEED and the reversal of records. ADJSEED writes an adjoint through the array; a record's reversal starts on a free
array and takes effect whole; a far header to which a write was reported is read again. That ADJSEED keeps the array for
its largest extent, and that a record is reversed only while its plot is live and the array free, are log entry 32's
deductions. (R156, R241, R242, R243, R250) -/
def Obligations.Reversal : Prop :=
  Sys2Proof.Says.AdjointSeed ∧ Sys2Proof.Says.Reversing

/-- LD, ST, PREF, SLICEOF and the atomics. An access that is granted and translated is sent to its home, merged into the
coalescer, or answered by the line its cell holds. PREF of a cell without a home port traps (log entry 17); the 2 cycles
of SLICEOF and of an LD that its cell's line answers are log entry 3's choice. (R258, R261, R262, R281, R282, R297) -/
def Obligations.LoadsAndStores : Prop :=
  Sys2Proof.Says.LoadStore ∧ Sys2Proof.Says.PrefetchAndSlice ∧ Sys2Proof.Says.AtomicIssue

/-- The queues of the slices. A request enters its home slice's queue, is refused when its partition has changed, or waits;
a coalescer line becomes a write. (R262, R292, R301, R307) -/
def Obligations.SliceQueues : Prop :=
  Sys2Proof.Says.SliceQueue ∧ Sys2Proof.Says.Coalescer

/-- What a slice answers. Reads, prefetches, writes and atomics, and the reads and writes of streams, are served in order,
and replies resolve their elements. (R271, R278, R281, R282, R292, R430) -/
def Obligations.SliceServes : Prop :=
  Sys2Proof.Says.SliceServes ∧ Sys2Proof.Says.ReplyDelivers

/-- COPY and COPY.MM. A copy is accepted with its translated addresses and moves 64 bytes at a time. COPY's 2 cycles are log
entry 3's choice, and the units of 64 bytes log entry 69's. (R283, R284) -/
def Obligations.Copies : Prop :=
  Sys2Proof.Says.CopyIssue ∧ Sys2Proof.Says.CopyMoves

/-- Fences, DRAIN, QFENCE, TLBINV and OWN. A fence waits for and drops what its rule names; TLBINV drops entries; OWN hands
a region over by a token. That DRAIN far writes back every dirty line of the VI, what system scope writes back and what
a fence waits for are log entry 18's deductions, STG of QFENCE log entry 7's, the 2 cycles log entry 3's choice. (R263,
R285, R286, R287, R290) -/
def Obligations.Fences : Prop :=
  Sys2Proof.Says.Fences ∧ Sys2Proof.Says.DrainAndQfence ∧ Sys2Proof.Says.Tlbinv ∧ Sys2Proof.Says.OwnHandsOver ∧
  Sys2Proof.Says.TokenOfHandOver

/-- AG.OPEN, WAITQ and AG.CLOSE. AG.OPEN takes a context and emits its handle; WAITQ and AG.CLOSE wait for the accepted
stores and emit the count. The 2 cycles to an emission are log entry 3's choice. (R257, R287, R288, R289) -/
def Obligations.StreamEnds : Prop :=
  Sys2Proof.Says.StreamOpens ∧ Sys2Proof.Says.StreamEnds

/-- SRD, SWR, M.ACCEPT and M.PUSH. A run is read from a stream's queue, a store is accepted, ring bytes are handed over, or
the firing waits. The 2 cycles to an emission are log entry 3's choice. (R289) -/
def Obligations.StreamAccess : Prop :=
  Sys2Proof.Says.StreamReads ∧ Sys2Proof.Says.StreamWrites ∧ Sys2Proof.Says.StreamRings

/-- What a stream does by itself. A stream's next element goes to its route, queue or ring; its next store is performed; a
fault freezes it. (R273, R274, R276, R278, R279, R292, R304, R320, R430) -/
def Obligations.StreamEngine : Prop :=
  Sys2Proof.Says.StreamGenerates ∧ Sys2Proof.Says.StreamAsks ∧ Sys2Proof.Says.StreamBackPressure ∧
  Sys2Proof.Says.StreamFaults ∧ Sys2Proof.Says.StreamStores

/-- Partitions, ways and quotas. The PART forms are the Reeve's and act on a partition's lines and hash; WAYMASK.SET and
WQUOTA.SET are VI 0's. The 2 cycles to an emission are log entry 3's choice. (R298, R299, R305, R308, R309, R310, R311,
R312) -/
def Obligations.Partitions : Prop :=
  Sys2Proof.Says.PartitionPrivilege ∧ Sys2Proof.Says.PartitionForms ∧ Sys2Proof.Says.SetHash ∧ Sys2Proof.Says.WaysAndQuotas ∧
  Sys2Proof.Says.WaysDrained

/-- The home slice of an address. For a VI of a partition and an address of this module, index bit k is the parity of the
address and HMASKk for k below LG, the home slice is BASE plus the sum of bit k times 2^k, a request carries the
partition and its HGEN, and SLICEOF emits this value. That SLICEOF emits it 2 cycles after issue is log entry 3's
choice. (R295) -/
def Obligations.HomeSlice : Prop :=
  Sys2Proof.Says.HomeSlice

/-- An arrival at a barrier. With an EXPECT that is not 0, an arrival of n adds n to COUNT, subtracts EXPECT from it while
it is at least EXPECT, and adds 1 to PHASE modulo 2^16 for each; the home applies arrivals one at a time in their order.
An arrival of 0 changes nothing (R135). (R122) -/
def Obligations.Arriving : Prop :=
  Sys2Proof.Says.Arriving

/-- BAR, BARW and SIG. BAR arrives and emits the phase, BARW waits for it to pass, SIG sends arrivals to the barrier's home
or to memory. An EXPECT of 0 is taken as 1. (R120, R121, R123, R124, R135) -/
def Obligations.Barriers : Prop :=
  Sys2Proof.Says.BarrierForms ∧ Sys2Proof.Says.Signals ∧ Sys2Proof.Says.NothingExpected

/-- The group forms. Handles are checked; groups are made and freed, counted, joined, left and advertised. The 2 cycles to
an emission are log entry 3's choice. (R347, R348, R349, R359, R363, R367, R369, R371, R372, R375) -/
def Obligations.GroupForms : Prop :=
  Sys2Proof.Says.GroupHandles ∧ Sys2Proof.Says.GroupForms ∧ Sys2Proof.Says.GroupMembers

/-- Group messages. A send climbs to a positive count, steers down, or waits in the pound; counts and outcomes travel; GTAKE
delivers. That SSEQ counts the send itself and toll 7 the bytes rounded up are log entry 24's deductions, the 2 cycles
log entry 3's choice; the order in which the hub counts and returns is log entry 66's. (R352, R354, R355, R356, R357,
R358, R359, R373, R374) -/
def Obligations.GroupMessages : Prop :=
  Sys2Proof.Says.GroupSend ∧ Sys2Proof.Says.GroupTake ∧ Sys2Proof.Says.GroupSteering ∧ Sys2Proof.Says.GroupBounces ∧
  Sys2Proof.Says.PoundFills ∧ Sys2Proof.Says.GroupCounts ∧ Sys2Proof.Says.DeliveryCounted ∧ Sys2Proof.Says.PoundDrains

/-- The task forms. SPAWN, SPAWNR and JOIN place records; WSDECL declares; YIELD, CANCEL, JOBDONE and TASKQ act on records
and jobs. What a form of a handler without a job and CANCEL of a split record do are log entry 38's deductions, the 2
cycles log entry 3's choice. (R377, R388, R392, R399, R400) -/
def Obligations.Spawning : Prop :=
  Sys2Proof.Says.Spawning ∧ Sys2Proof.Says.Declares ∧ Sys2Proof.Says.TaskForms

/-- Dispatch, splitting, rounds and configuration. A plot is configured for a record, takes it, starts and ends its round;
wide records split. How the parts of a split record are staged is log entry 39's deduction. (R103, R385, R386, R387,
R388, R401) -/
def Obligations.Scheduling : Prop :=
  Sys2Proof.Says.Dispatches ∧ Sys2Proof.Says.Splitting ∧ Sys2Proof.Says.Rounds ∧ Sys2Proof.Says.Configuring

/-- Jobs. A queue's record becomes a job, and a job with nothing live completes in its ring. (R380, R382, R384, R388, R469) -/
def Obligations.Jobs : Prop :=
  Sys2Proof.Says.JobQueues ∧ Sys2Proof.Says.JobEnds

/-- Staging. A declaration is admitted while SQUOTA has room; its lines are read in order. That declarations that cannot be
read are passed over and admitted in dispatch order is log entry 39's deduction. (R392, R393, R394) -/
def Obligations.Staging : Prop :=
  Sys2Proof.Says.Staging

/-- Fair shares and tolls. FSDEF, pre-emption by QUANTUM, toll 6, TOLLRD and TOLLSIG. That one plot is pre-empted at a time
and FSDEF saturates is log entry 41's deduction, the operand and the checks of TOLLRD and TOLLSIG log entry 45's, the 2
cycles log entry 3's choice. (R396, R397, R398, R432, R434, R442) -/
def Obligations.Accounting : Prop :=
  Sys2Proof.Says.FairShare ∧ Sys2Proof.Says.TollTick ∧ Sys2Proof.Says.TollForms

/-- Page walks, migration and NOVICTIM. A walk fills the TLBs or leaves its fault; a page is moved; an access that waits too
long is given up. That a page may be found gone is the model's free choice (log entry 33). (R268, R271, R272, R273) -/
def Obligations.Paging : Prop :=
  Sys2Proof.Says.PageWalks ∧ Sys2Proof.Says.Migration ∧ Sys2Proof.Says.NoVictim

/-- Freezes, waves and images. A plot is frozen, resumed, saved by a marker wave, written and restored. What is free of an
image and where it is placed is log entry 40's choice, the ALIGN of IMGSAVE and IMGLOAD log entry 42's deduction, the
images that IMGLOAD restores and the trap of a failed configuration log entry 46's, the 2 cycles log entry 3's choice.
(R413, R423, R424, R426, R427, R444) -/
def Obligations.Preemption : Prop :=
  Sys2Proof.Says.FreezesAndWaves ∧ Sys2Proof.Says.PlotForms ∧ Sys2Proof.Says.ImageForms

/-- The system registers. SYSRD and SYSWR act on the register that a selector names, or trap with the WHY of the first rule
broken; a register reads what was written. The 2 cycles to an emission are log entry 3's choice. (R411, R412, R413,
R441) -/
def Obligations.SystemRegisters : Prop :=
  Sys2Proof.Says.SystemRegisters ∧ Sys2Proof.Says.RegisterChecks ∧ Sys2Proof.Says.RegistersHold

/-- SYNC.CODE, HALT, VIRQ, TIMER and the journal forms. Each completes as its entry says, SYNC.CODE once the VI's writes are
performed. What SYNC.CODE waits for and HALT in a handler are log entry 42's deductions, the 2 cycles log entry 3's
choice. (R322, R443, R445) -/
def Obligations.SystemForms : Prop :=
  Sys2Proof.Says.SystemForms

/-- Taking a trap. A trap freezes its plot, writes its trap registers and waits for the hub, which numbers its record; TRAP
raises SOFTWARE. That the hub numbers the record when the cycle is over is log entry 53's deduction. (R125, R126, R127,
R440) -/
def Obligations.TakingTraps : Prop :=
  Sys2Proof.Says.TakingTraps ∧ Sys2Proof.Says.SoftwareTrap ∧ Sys2Proof.Says.HubTakesTraps

/-- The delivery, handling and end of traps. Records go to the ring and the handler; TRAPRET resumes, nulls or abandons; the
watchdog traps a plot without progress. What NOPROG lists and a null resolution delivers are log entry 37's deductions,
the RSVFLD of TRAPRET log entry 42's, the 2 cycles log entry 3's choice. (R130, R417, R418, R419, R440) -/
def Obligations.TrapHandling : Prop :=
  Sys2Proof.Says.TrapDelivery ∧ Sys2Proof.Says.HandlerRounds ∧ Sys2Proof.Says.TrapReturn ∧ Sys2Proof.Says.Watchdog

/-- Doorbells and the register window. A write of the host acts on its register when the function is there, and else does
nothing. (R381, R384, R458, R459) -/
def Obligations.HostRegisters : Prop :=
  Sys2Proof.Says.HostWrites ∧ Sys2Proof.Says.Doorbells ∧ Sys2Proof.Says.DoorbellPage ∧ Sys2Proof.Says.RegisterWindow ∧
  Sys2Proof.Says.WindowReads

/-- BAR4 accesses and interrupts. A host access reads or writes as its VI or is recorded; a vector becomes pending and is
sent once unless masked. (R414, R415, R416, R460, R461) -/
def Obligations.HostMemory : Prop :=
  Sys2Proof.Says.HostMemory ∧ Sys2Proof.Says.Interrupts

/-- Resets, bring-up and the Reeve. What PERST, function-level resets, VIRESET and bring-up leave; the Reeve starts its
round. What a reset keeps beyond what R428 and R465 name is log entry 48's choice, the Reeve's record log entry 51's
deduction. (R428, R452, R465) -/
def Obligations.Resets : Prop :=
  Sys2Proof.Says.Resets ∧ Sys2Proof.Says.BringUp ∧ Sys2Proof.Says.ReeveRounds

/-- Soft errors, the bell and heat. Errors are counted, poison, or abandon a round; the bell takes pending writes; heat
halves the clock or takes the power. What CONFIG_SCRUB and UNCORRECTABLE_ERROR name is log entry 50's choice, what a raw
operand finds log entry 64's. (R12, R395, R429, R430, R464) -/
def Obligations.Errors : Prop :=
  Sys2Proof.Says.SoftErrors ∧ Sys2Proof.Says.BellAndHeat

/-- SRD, SWR, M.ACCEPT, M.PUSH, the generators and the arrivals complete. Under conditions on the state and the operands
alone, exec of each of SRD, SWR, M.ACCEPT, M.PUSH, INSTANCE_GENERATE, TOKEN_ARRIVAL, EOS_ARRIVAL, MARKER_ARRIVAL and
HEDGE_DROP is a next state, with the form's own effect. The 2 cycles to an emission are log entry 3's choice. (R98,
R100, R106, R107, R114, R116, R279, R289, R421, R423) -/
def Obligations.FormsAndArrivalsComplete : Prop :=
  Sys2Proof.Says.StreamFormsComplete ∧ Sys2Proof.Says.GenerationCompletes ∧ Sys2Proof.Says.ArrivalsComplete
end

