-- ==== Sys2Proof/Laws/Decode.lean ====
section
/-!
SUPPORT. Sys2Proof/Laws/Decode.lean: the fields of a word that is made of fields, and what is read from it.
-/
namespace Sys2Proof

/-- The high half of the opcode. -/
theorem mkWord_high (op : BitVec 8) (x : BitVec 6) (c1 c0 : Cons) : (mkWord op x c1 c0).extractLsb' 28 4 = op.extractLsb' 4 4 := by
  apply BitVec.eq_of_getLsbD_eq; intro i hi
  simp only [mkWord, BitVec.getLsbD_extractLsb', BitVec.getLsbD_append]
  rw [if_neg (by omega), if_neg (by omega), if_neg (by omega)]; congr 2; omega

/-- The low half of the opcode. -/
theorem mkWord_low (op : BitVec 8) (x : BitVec 6) (c1 c0 : Cons) : (mkWord op x c1 c0).extractLsb' 24 4 = op.extractLsb' 0 4 := by
  apply BitVec.eq_of_getLsbD_eq; intro i hi
  simp only [mkWord, BitVec.getLsbD_extractLsb', BitVec.getLsbD_append]
  rw [if_neg (by omega), if_neg (by omega), if_neg (by omega)]; congr 2; omega

/-- The field X. -/
theorem mkWord_x (op : BitVec 8) (x : BitVec 6) (c1 c0 : Cons) : (mkWord op x c1 c0).extractLsb' 18 6 = x := by
  apply BitVec.eq_of_getLsbD_eq; intro i hi
  simp only [mkWord, BitVec.getLsbD_extractLsb', BitVec.getLsbD_append]
  rw [if_neg (by omega), if_neg (by omega), if_pos (by omega)]; simp only [hi, decide_true, Bool.true_and]; congr 1; omega

/-- The second consumer. -/
theorem mkWord_c1 (op : BitVec 8) (x : BitVec 6) (c1 c0 : Cons) : (mkWord op x c1 c0).extractLsb' 9 9 = c1 := by
  apply BitVec.eq_of_getLsbD_eq; intro i hi
  simp only [mkWord, BitVec.getLsbD_extractLsb', BitVec.getLsbD_append]
  rw [if_neg (by omega), if_pos (by omega)]; simp only [hi, decide_true, Bool.true_and]; congr 1; omega

/-- The first consumer. -/
theorem mkWord_c0 (op : BitVec 8) (x : BitVec 6) (c1 c0 : Cons) : (mkWord op x c1 c0).extractLsb' 0 9 = c0 := by
  apply BitVec.eq_of_getLsbD_eq; intro i hi
  simp only [mkWord, BitVec.getLsbD_extractLsb', BitVec.getLsbD_append]
  rw [if_pos (by omega)]; simp only [hi, decide_true, Bool.true_and]; congr 1; omega

/-- The fields of a word made of them. -/
theorem parse_mkWord (op : BitVec 8) (x : BitVec 6) (c1 c0 : Cons) :
    parse (mkWord op x c1 c0) = decodeOp (op.extractLsb' 4 4).toNat (op.extractLsb' 0 4).toNat x c1 c0 := by
  simp only [parse, mkWord_high, mkWord_low, mkWord_x, mkWord_c1, mkWord_c0]

end Sys2Proof
end

