-- ==== Sys2Proof/Laws/Tab.lean ====
section
/-!
SUPPORT. Sys2Proof/Laws/Tab.lean: what a table answers after an entry is set, changed or removed.
-/
namespace Sys2Proof.Machine

variable {α : Type}

theorem Tab.at?_cons (k' k : Nat) (v : α) (t : Tab α) : Tab.at? ((k', v) :: t) k = if k = k' then some v else Tab.at? t k := by
  simp [Tab.at?, Bool.cond_eq_ite]

theorem Tab.set_cons (k' k : Nat) (v' v : α) (t : Tab α) :
    Tab.set ((k', v') :: t) k v =
      if k < k' then (k, v) :: (k', v') :: t else if k = k' then (k, v) :: t else (k', v') :: Tab.set t k v := by
  simp [Tab.set, Bool.cond_eq_ite]

theorem Tab.at?_set (t : Tab α) (k j : Nat) (v : α) : Tab.at? (Tab.set t k v) j = if j = k then some v else Tab.at? t j := by
  induction t with
  | nil => simp [Tab.set, Tab.at?, Bool.cond_eq_ite]
  | cons x t ih =>
    obtain ⟨k', v'⟩ := x
    rw [Tab.set_cons]
    split
    · rw [Tab.at?_cons]
    · split
      · next h => subst h; simp only [Tab.at?_cons]; split <;> rfl
      · next h => simp only [Tab.at?_cons, ih]; split <;> split <;> simp_all

@[simp] theorem Tab.at?_set_same (t : Tab α) (k : Nat) (v : α) : Tab.at? (Tab.set t k v) k = some v := by simp [Tab.at?_set]

theorem Tab.at?_set_ne (t : Tab α) {k j : Nat} (v : α) (h : j ≠ k) : Tab.at? (Tab.set t k v) j = Tab.at? t j := by
  simp [Tab.at?_set, h]

@[simp] theorem Tab.at?_upd_same (t : Tab α) (k : Nat) (f : α → α) : Tab.at? (Tab.upd t k f) k = (Tab.at? t k).map f := by
  unfold Tab.upd
  split
  · next h => simp [h]
  · next v h => simp [h]

theorem Tab.at?_upd_ne (t : Tab α) {k j : Nat} (f : α → α) (h : j ≠ k) : Tab.at? (Tab.upd t k f) j = Tab.at? t j := by
  unfold Tab.upd
  split
  · rfl
  · exact Tab.at?_set_ne t _ h

@[simp] theorem Tab.at?_updD_same (t : Tab α) (k : Nat) (d : α) (f : α → α) :
    Tab.at? (Tab.updD t k d f) k = some (f (Tab.atD t k d)) := Tab.at?_set_same t k _

theorem Tab.at?_updD_ne (t : Tab α) {k j : Nat} (d : α) (f : α → α) (h : j ≠ k) :
    Tab.at? (Tab.updD t k d f) j = Tab.at? t j := Tab.at?_set_ne t _ h

@[simp] theorem Tab.atD_updD_same (t : Tab α) (k : Nat) (d : α) (f : α → α) : Tab.atD (Tab.updD t k d f) k d = f (Tab.atD t k d) := by
  simp [Tab.atD]

theorem Tab.atD_updD_ne (t : Tab α) {k j : Nat} (d d' : α) (f : α → α) (h : j ≠ k) :
    Tab.atD (Tab.updD t k d f) j d' = Tab.atD t j d' := by simp [Tab.atD, Tab.at?_updD_ne t d f h]

/-- A change of every entry by a function of its key and itself. -/
theorem Tab.at?_map {β : Type} (t : Tab α) (g : Nat → α → β) (k : Nat) :
    Tab.at? (t.map (fun (j, v) => (j, g j v))) k = (Tab.at? t k).map (g k) := by
  induction t with
  | nil => rfl
  | cons x t ih =>
    obtain ⟨k', v'⟩ := x
    simp only [List.map_cons, Tab.at?_cons, ih]
    split
    · next h => subst h; rfl
    · rfl

/-- An entry that a table answers is listed under its key. -/
theorem Tab.mem_of_at? {t : Tab α} {k : Nat} {v : α} (h : Tab.at? t k = some v) : (k, v) ∈ t := by
  induction t with
  | nil => simp [Tab.at?] at h
  | cons x t ih =>
    obtain ⟨k', v'⟩ := x
    rw [Tab.at?_cons] at h
    split at h
    · next hk => subst hk; cases h; exact List.mem_cons_self ..
    · exact List.mem_cons_of_mem _ (ih h)

end Sys2Proof.Machine
end

