-- ==== Sys2Proof/Laws/Firing.lean ====
section
/-!
SUPPORT. Sys2Proof/Laws/Firing.lean: what the combinators of Machine/Ops.lean answer, once each, and what a step makes of it.
-/
namespace Sys2Proof.Machine

/-! ### Element-wise forms -/

theorem fireLanes_next {s : State} {c : Ctx} {u : Lat} {lim : Nat} {es : List Nat} {body : Ctx → List Nat → List Emit}
    (hc : ctxOf? s s.cur = some c) (he : (readyElems c.blk c.inst c.f.slot).take lim = es) (hn : es ≠ []) :
    fireLanes s u lim body = .next (takeUnit (complete s c (u.cycles es.length) es (body c es)) c u es.length) := by
  cases es with
  | nil => exact absurd rfl hn
  | cons e es => unfold fireLanes; simp only [hc, he]

theorem fireMap_next {s : State} {c : Ctx} {u : Lat} {lim : Nat} {es : List Nat} {c1 c0 : Cons} {wide : Bool} {f : Ctx → Nat → Dword}
    (hc : ctxOf? s s.cur = some c) (he : (readyElems c.blk c.inst c.f.slot).take lim = es) (hn : es ≠ []) :
    fireMap s u lim c1 c0 wide f =
      .next (takeUnit (complete s c (u.cycles es.length) es (both c1 c0 (runKind wide) (mapElems c es (f c)))) c u es.length) :=
  fireLanes_next hc he hn

/-! ### Forms that fire once -/

section
variable {s s' : State} {c : Ctx} {c1 c0 : Cons} {kind : Kind} {body : Ctx → Nat → Res} {es : List Nat} {e lat : Nat} {out : List Emit}

/-- Where a form that fires once has an element that is not null, its outcome is what its body answers for the lowest. -/
theorem fireOnce_body (hc : ctxOf? s s.cur = some c) (he : todoWhole s.again c.blk c.inst c.f.slot = es)
    (hf : es.find? (fun e => !c.null e) = some e) :
    fireOnce s c1 c0 kind body = match body c e with
      | .done s' out => .next (complete s' c 2 es out)
      | .doneIn lat s' out => .next (complete s' c lat es out)
      | .issued s' => .next (onPlot s' c.f.plot (fun p => markIssued p c.f es))
      | .hold s' => .next (onPlot s' c.f.plot (fun p => markHeld p c.f es))
      | .stall s' => .next (stallFiring s')
      | .trap cause _ info => .next (trapFiring s c.f cause c.inst.first info)
      | .counted s' cause _ info => .next (trapFiring s' c.f cause c.inst.first info)
      | .loadFailed s' cause info cell => .next (onPlot s' c.f.plot (fun p => takeTrap p cause 0 info cell [])) := by
  unfold fireOnce
  simp only [hc, he]
  cases es with
  | nil => simp at hf
  | cons x xs => simp only [hf] <;> cases body c e <;> rfl

theorem fireOnce_done (hc : ctxOf? s s.cur = some c) (he : todoWhole s.again c.blk c.inst c.f.slot = es)
    (hf : es.find? (fun e => !c.null e) = some e) (hb : body c e = .done s' out) :
    fireOnce s c1 c0 kind body = .next (complete s' c 2 es out) := by rw [fireOnce_body hc he hf, hb]

theorem fireOnce_doneIn (hc : ctxOf? s s.cur = some c) (he : todoWhole s.again c.blk c.inst c.f.slot = es)
    (hf : es.find? (fun e => !c.null e) = some e) (hb : body c e = .doneIn lat s' out) :
    fireOnce s c1 c0 kind body = .next (complete s' c lat es out) := by rw [fireOnce_body hc he hf, hb]

theorem fireOnce_issued (hc : ctxOf? s s.cur = some c) (he : todoWhole s.again c.blk c.inst c.f.slot = es)
    (hf : es.find? (fun e => !c.null e) = some e) (hb : body c e = .issued s') :
    fireOnce s c1 c0 kind body = .next (onPlot s' c.f.plot (fun p => markIssued p c.f es)) := by rw [fireOnce_body hc he hf, hb]

theorem fireOnce_hold (hc : ctxOf? s s.cur = some c) (he : todoWhole s.again c.blk c.inst c.f.slot = es)
    (hf : es.find? (fun e => !c.null e) = some e) (hb : body c e = .hold s') :
    fireOnce s c1 c0 kind body = .next (onPlot s' c.f.plot (fun p => markHeld p c.f es)) := by rw [fireOnce_body hc he hf, hb]

theorem fireOnce_stall (hc : ctxOf? s s.cur = some c) (he : todoWhole s.again c.blk c.inst c.f.slot = es)
    (hf : es.find? (fun e => !c.null e) = some e) (hb : body c e = .stall s') :
    fireOnce s c1 c0 kind body = .next (stallFiring s') := by rw [fireOnce_body hc he hf, hb]

theorem fireOnce_trap {cause : Cause} {tag : Nat} {info : Dword} (hc : ctxOf? s s.cur = some c)
    (he : todoWhole s.again c.blk c.inst c.f.slot = es) (hf : es.find? (fun e => !c.null e) = some e)
    (hb : body c e = .trap cause tag info) : fireOnce s c1 c0 kind body = .next (trapFiring s c.f cause c.inst.first info) := by
  rw [fireOnce_body hc he hf, hb]

theorem fireOnce_counted {cause : Cause} {tag : Nat} {info : Dword} (hc : ctxOf? s s.cur = some c)
    (he : todoWhole s.again c.blk c.inst c.f.slot = es) (hf : es.find? (fun e => !c.null e) = some e)
    (hb : body c e = .counted s' cause tag info) : fireOnce s c1 c0 kind body = .next (trapFiring s' c.f cause c.inst.first info) := by
  rw [fireOnce_body hc he hf, hb]

/-- All elements null: null is delivered, and nothing else happens. -/
theorem fireOnce_null (hc : ctxOf? s s.cur = some c) (he : todoWhole s.again c.blk c.inst c.f.slot = es) (hn : es ≠ [])
    (hf : es.find? (fun e => !c.null e) = none) : fireOnce s c1 c0 kind body = .next (complete s c 2 es (nullOut c1 c0 kind es)) := by
  unfold fireOnce
  simp only [hc, he]
  cases es with
  | nil => exact absurd rfl hn
  | cons x xs => simp only [hf]

/-- Nothing to fire on: nothing happens. -/
theorem fireOnce_idle (hc : ctxOf? s s.cur = some c) (he : todoWhole s.again c.blk c.inst c.f.slot = []) :
    fireOnce s c1 c0 kind body = .next s := by
  unfold fireOnce
  simp only [hc, he]

end

/-! ### Element-wise forms that act on the machine -/

section
variable {own : Bool} {s s' : State} {c : Ctx} {c1 c0 : Cons} {kind : Kind} {body : State → Ctx → Nat → ElemRes} {es : List Nat} {e lat : Nat}

/-- Everything the firing of an element-wise form that acts on the machine can do: the trap of its lowest trapping element, which undoes the
elements before it but for a form on names (R35, R125, R148); a stall, where no element is resolved, issued or held; its effect. -/
theorem fireElems_next (hc : ctxOf? s s.cur = some c) (he : offered own s (todoElems s.again c.blk c.inst c.f.slot) = es) (hn : es ≠ []) :
    fireElems own s lat c1 c0 kind body =
      match (eachOf s c body es).trap with
      | some (cause, tag, info) =>
        .next (trapFiring (bif own then eachDone c lat c1 c0 kind (eachOf s c body es) else s) c.f cause tag info)
      | none => .next (bif (eachOf s c body es).done.isEmpty && (eachOf s c body es).sent.isEmpty && (eachOf s c body es).held.isEmpty
          then stallFiring (eachDone c lat c1 c0 kind (eachOf s c body es)) else eachDone c lat c1 c0 kind (eachOf s c body es)) := by
  unfold fireElems
  simp only [hc, he]
  all_goals first | rfl | (cases es with | nil => exact absurd rfl hn | cons e es => rfl)

/-- One element, with a result. -/
theorem fireElems_done {v : Option Dword} (hc : ctxOf? s s.cur = some c) (he : offered own s (todoElems s.again c.blk c.inst c.f.slot) = [e])
    (hn : c.null e = false) (hb : body s c e = .done s' v) :
    fireElems own s lat c1 c0 kind body =
      .next (complete s' c lat [e] (both c1 c0 kind (match v with
        | some v => [(e, .val v)]
        | none => []))) := by
  rw [fireElems_next hc he (by simp)]
  cases v <;> simp [eachOf, eachElem, hn, hb, eachDone]

/-- One element, issued. -/
theorem fireElems_issued (hc : ctxOf? s s.cur = some c) (he : offered own s (todoElems s.again c.blk c.inst c.f.slot) = [e])
    (hn : c.null e = false) (hb : body s c e = .issued s') :
    fireElems own s lat c1 c0 kind body = .next (onPlot s' c.f.plot (fun p => markIssued p c.f [e])) := by
  rw [fireElems_next hc he (by simp)]
  simp [eachOf, eachElem, hn, hb, eachDone]

/-- One element that traps: no other effect. -/
theorem fireElems_trap {cause : Cause} {tag : Nat} {info : Dword} (hc : ctxOf? s s.cur = some c)
    (he : offered own s (todoElems s.again c.blk c.inst c.f.slot) = [e]) (hn : c.null e = false) (hb : body s c e = .trap cause tag info) :
    fireElems own s lat c1 c0 kind body = .next (trapFiring s c.f cause tag info) := by
  rw [fireElems_next hc he (by simp)]
  cases own <;> simp [eachOf, eachElem, hn, hb, eachDone]

end

/-! ### Traps -/

/-- A plot without a trap takes one: a REVERSE in progress is abandoned (R245), the trap registers are written and the plot is frozen (R125). -/
theorem takeTrap_of_none {p : Plot} {cause : Cause} {tag : Nat} {info tcell : Dword} {entries : List Dword} (h : p.trap = none) :
    takeTrap p cause tag info tcell entries =
      { abandonReverse p with
        frozen := true, trapNow := true, tcause := dw (causeCode cause), ttag := dw (tag % 2 ^ 40), tinfo := info, tcell := tcell,
        trap := some { cause := dw (causeCode cause), tag := dw (tag % 2 ^ 40), info := info, cell := tcell, entries := entries, seq := none } } := by
  unfold takeTrap; simp only [h]

/-- A plot that has a trap keeps it, but for one of the same cycle from a site that comes before (R125). -/
theorem takeTrap_of_some {p : Plot} {r : TrapRec} {cause : Cause} {tag : Nat} {info tcell : Dword} {entries : List Dword}
    (h : p.trap = some r) (hn : (p.trapNow && r.seq.isNone && siteBefore tcell r.cell) = false) :
    takeTrap p cause tag info tcell entries = p := by
  unfold takeTrap; simp [h, hn]

/-! ### A step -/

theorem fire_next {old s s' : State} {f : Firing} {w : Word} {i : Instr} (hw : fetch? s f = some w) (hd : decode w = .ok i)
    (he : exec i { s with cur := f } = .next s') : fire old f s = .next (afterFiring old f (onLanes i) s') := by
  unfold fire
  simp only [hw, hd, he]
  rfl

theorem step_of_fire {s u : State} {f : Firing} (h : choose s = .fire f u) : step s = fire s f u := by
  unfold step; rw [h]

theorem step_of_occur {s u : State} {i : Instr} (h : choose s = .occur i u) : step s = Outcome.map (exec i u) (after s) := by
  unfold step; rw [h]

theorem step_of_cycle {s u : State} (h : choose s = .cycle u) : step s = .next (cycle u) := by
  unfold step; rw [h]

/-- Whatever a step answers as its next state was left by a cycle, by an occurrence, or by a firing. -/
theorem step_cases {s t : State} (h : step s = .next t) :
    (∃ u, choose s = .cycle u ∧ t = cycle u) ∨
    (∃ i u v, choose s = .occur i u ∧ exec i u = .next v ∧ t = after s v) ∨
    (∃ f u w i v, choose s = .fire f u ∧ fetch? u f = some w ∧ decode w = .ok i ∧ exec i { u with cur := f } = .next v ∧
      t = afterFiring s f (onLanes i) v) := by
  unfold step at h
  split at h
  · next u hc => exact .inl ⟨u, hc, by cases h; rfl⟩
  · next i u hc =>
    cases he : exec i u with
    | next v => rw [he] at h; exact .inr (.inl ⟨i, u, v, hc, he, by cases h; rfl⟩)
    | fault r => rw [he] at h; cases h
    | refused r => rw [he] at h; cases h
  · next f u hc =>
    unfold fire at h
    split at h
    · cases h
    · next w hw =>
      split at h
      · cases h
      · next i hd =>
        cases he : exec i { u with cur := f } with
        | next v => rw [he] at h; exact .inr (.inr ⟨f, u, w, i, v, hc, hw, hd, he, by cases h; rfl⟩)
        | fault r => rw [he] at h; cases h
        | refused r => rw [he] at h; cases h

/-- The plot of a firing's context is the plot of the state. -/
theorem at?_ctx {s : State} {c : Ctx} (h : ctxOf? s s.cur = some c) : Tab.at? s.plots c.f.plot = some c.plot := by
  unfold ctxOf? at h
  split at h
  · cases h
  · next p hp =>
    unfold ctxIn? at h
    split at h <;> [cases h; skip]
    split at h <;> [cases h; skip]
    simp only [Option.some.injEq] at h
    subst h; exact hp

/-- At its firing, the plot of a context is as it now stands. -/
theorem plotNow_eq {s : State} {c : Ctx} (h : ctxOf? s s.cur = some c) : plotNow s c = c.plot := by simp [plotNow, at?_ctx h]

/-! ### Firings that wait -/

section
variable {s : State} (c : Ctx) (ok : Ctx → Bool) (va : Nat)

/-- Where nothing has issued and waits, nothing has issued before a firing, and no access of it is held up. -/
@[simp] theorem earlier_of_waiting_nil (h : s.waiting = []) : earlier s c = [] := by simp [earlier, h]

@[simp] theorem anyEarlier_of_waiting_nil (h : s.waiting = []) : anyEarlier s c ok = false := by simp [anyEarlier, h]

@[simp] theorem ownEarlier_of_waiting_nil (h : s.waiting = []) : ownEarlier s c ok = false := by simp [ownEarlier, h]

@[simp] theorem lineBlocked_of_waiting_nil (h : s.waiting = []) : lineBlocked s c va = false := by simp [lineBlocked, h]

/-- A firing that has a place keeps it, and the places of others stand. -/
theorem noteWait_keeps (f : Firing) (run note : Nat) (w : Waiting) (h : w ∈ s.waiting) : w ∈ (noteWait s f run note).waiting := by
  unfold noteWait
  cases s.waiting.any (fun w => w.firing == f && w.run == run) <;> simp [h]

end

end Sys2Proof.Machine
end

