-- ==== Sys2Proof/Laws/Memory.lean ====
section
/-!
SUPPORT. Sys2Proof/Laws/Memory.lean: reading what was written, and the canonical form, which every write keeps.
-/
namespace Sys2Proof.Machine

/-- Every address listed is above `k`. -/
def Memory.above (k : Nat) (m : Memory) : Prop := ∀ x ∈ m, k < x.1

theorem Memory.wf_cons (a : Nat) (b : Byte) (t : Memory) :
    Memory.wf ((a, b) :: t) = true ↔ b ≠ 0 ∧ Memory.above a t ∧ Memory.wf t = true := by
  induction t generalizing a b with
  | nil => simp [Memory.wf, Memory.above]
  | cons x t ih =>
    obtain ⟨a', b'⟩ := x
    have h := ih a' b'
    simp only [Memory.wf, Bool.and_eq_true, bne_iff_ne, ne_eq, Nat.blt_eq] at *
    constructor
    · rintro ⟨⟨h1, h2⟩, h3⟩
      refine ⟨h1, ?_, h3⟩
      intro y hy
      rcases List.mem_cons.mp hy with rfl | hy
      · exact h2
      · exact lt_trans h2 ((h.mp h3).2.1 y hy)
    · rintro ⟨h1, h2, h3⟩
      exact ⟨⟨h1, h2 _ (List.mem_cons_self ..)⟩, h3⟩

theorem readByte_cons (a k : Nat) (b : Byte) (t : Memory) : readByte ((a, b) :: t) k = if k = a then b else readByte t k := by
  simp [readByte, Bool.cond_eq_ite]

theorem writeByte_nil (k : Nat) (v : Byte) : writeByte [] k v = if v = 0 then [] else [(k, v)] := by
  simp [writeByte, Bool.cond_eq_ite]

theorem writeByte_cons (a k : Nat) (b v : Byte) (t : Memory) :
    writeByte ((a, b) :: t) k v =
      if k < a then (if v = 0 then (a, b) :: t else (k, v) :: (a, b) :: t)
      else if k = a then (if v = 0 then t else (k, v) :: t) else (a, b) :: writeByte t k v := by
  simp [writeByte, Bool.cond_eq_ite]

theorem Memory.above_cons {k a : Nat} {b : Byte} {t : Memory} : Memory.above k ((a, b) :: t) ↔ k < a ∧ Memory.above k t := by
  simp [Memory.above]

theorem Memory.above_lt {k j : Nat} {m : Memory} (h : Memory.above k m) (hj : j < k) : Memory.above j m :=
  fun x hx => lt_trans hj (h x hx)

theorem readByte_of_above {m : Memory} {k j : Nat} (h : Memory.above k m) (hj : j ≤ k) : readByte m j = 0 := by
  induction m with
  | nil => rfl
  | cons x t ih =>
    obtain ⟨a, b⟩ := x
    obtain ⟨ha, ht⟩ := Memory.above_cons.mp h
    rw [readByte_cons, if_neg (by omega), ih ht]

theorem writeByte_above {m : Memory} {k a : Nat} (v : Byte) (h : Memory.above k m) (ha : k < a) : Memory.above k (writeByte m a v) := by
  induction m with
  | nil => rw [writeByte_nil]; split <;> simp [Memory.above, ha]
  | cons x t ih =>
    obtain ⟨a', b'⟩ := x
    obtain ⟨ha', ht⟩ := Memory.above_cons.mp h
    rw [writeByte_cons]
    split
    · split
      · exact h
      · exact Memory.above_cons.mpr ⟨ha, h⟩
    · split
      · split
        · exact ht
        · exact Memory.above_cons.mpr ⟨ha, ht⟩
      · exact Memory.above_cons.mpr ⟨ha', ih ht⟩

/-- A write keeps the canonical form. -/
theorem writeByte_wf {m : Memory} (h : Memory.wf m = true) (a : Nat) (v : Byte) : Memory.wf (writeByte m a v) = true := by
  induction m with
  | nil => rw [writeByte_nil]; split <;> simp_all [Memory.wf]
  | cons x t ih =>
    obtain ⟨a', b'⟩ := x
    obtain ⟨hb, hab, ht⟩ := (Memory.wf_cons a' b' t).mp h
    rw [writeByte_cons]
    split
    · next h1 =>
      split
      · exact h
      · next hv => exact (Memory.wf_cons _ _ _).mpr ⟨hv, Memory.above_cons.mpr ⟨h1, Memory.above_lt hab h1⟩, h⟩
    · next h1 =>
      split
      · next h2 =>
        split
        · exact ht
        · next hv => subst h2; exact (Memory.wf_cons _ _ _).mpr ⟨hv, hab, ht⟩
      · next h2 => exact (Memory.wf_cons _ _ _).mpr ⟨hb, writeByte_above v hab (by omega), ih ht⟩

/-- What a read finds after a write: the byte written there, every other byte as before. -/
theorem readByte_writeByte {m : Memory} (h : Memory.wf m = true) (a j : Nat) (v : Byte) :
    readByte (writeByte m a v) j = if j = a then v else readByte m j := by
  induction m with
  | nil => rw [writeByte_nil]; split <;> simp_all [readByte, Bool.cond_eq_ite]
  | cons x t ih =>
    obtain ⟨a', b'⟩ := x
    obtain ⟨hb, hab, ht⟩ := (Memory.wf_cons a' b' t).mp h
    rw [writeByte_cons]
    split
    · next h1 =>
      split
      · next hv =>
        split
        · next hj => subst hj; rw [readByte_cons, if_neg (by omega), readByte_of_above hab (by omega), hv]
        · rfl
      · rw [readByte_cons]
    · next h1 =>
      split
      · next h2 =>
        subst h2
        split
        · next hv =>
          rw [readByte_cons]
          split
          · next hj => subst hj; rw [readByte_of_above hab (le_refl _), hv]
          · rfl
        · rw [readByte_cons, readByte_cons]; split <;> rfl
      · next h2 => rw [readByte_cons, readByte_cons, ih ht]; split <;> split <;> simp_all

theorem writeN_wf (n : Nat) {m : Memory} (h : Memory.wf m = true) (a v : Nat) : Memory.wf (writeN m n a v) = true := by
  induction n generalizing m a v with
  | zero => exact h
  | succ n ih => exact ih (writeByte_wf h a _) (a + 1) (v / 256)

theorem setMemLine_wf {m : Memory} (h : Memory.wf m = true) (line : Nat) (d : Line) (mask : BitVec 128) :
    Memory.wf (setMemLine m line d mask) = true := by
  unfold setMemLine
  generalize List.range 128 = l
  induction l generalizing m with
  | nil => exact h
  | cons o l ih =>
    simp only [List.foldl_cons]
    refine ih ?_
    cases mask.getLsbD o
    · exact h
    · exact writeByte_wf h _ _

theorem sideStore_wf {s : State} (h : Memory.wf s.mem = true) (line : Nat) (side : Word) : Memory.wf (sideStore s line side) = true := by
  unfold sideStore
  split
  · exact h
  · next be hd _ => cases be <;> exact writeN_wf _ h _ _

theorem storeMem_wf {s : State} (h : Memory.wf s.mem = true) (line : Nat) (d : Line) (mask : BitVec 128) (side : Option Word) :
    Memory.wf (storeMem s line d mask side).mem = true := by
  have h1 := setMemLine_wf h line d mask
  generalize hm : setMemLine s.mem line d mask = m at h1
  unfold storeMem
  rw [hm]
  generalize (bif mask == BitVec.allOnes 128 then s.poison.filter (· != line) else s.poison) = q
  cases side with
  | none => exact h1
  | some w =>
    have h2 : Memory.wf ({ s with mem := m, poison := q } : State).mem = true := h1
    generalize ({ s with mem := m, poison := q } : State) = u at h2 ⊢
    dsimp only
    exact sideStore_wf h2 line w

theorem writeAll_wf {s : State} (h : Memory.wf s.mem = true) (pa : Nat) (v : Dword) : Memory.wf (writeAll s pa v).mem = true := by

  unfold writeAll
  dsimp only
  exact setMemLine_wf h (pa / 128) _ _

/-- Reset memory, which lists nothing, has the canonical form. -/
theorem reset_mem_wf : Memory.wf State.reset.mem = true := rfl

end Sys2Proof.Machine
end

