-- ==== Sys2Proof/Laws/State.lean ====
section
/-!
SUPPORT. Sys2Proof/Laws/State.lean: one lemma for each field and each update of the state, so that no proof unfolds a record.
-/
namespace Sys2Proof.Machine

/-! onPlot changes `plots` alone. -/

section
variable (s : State) (key : Nat) (g : Plot → Plot)

@[simp] theorem onPlot_cur : (onPlot s key g).cur = s.cur := rfl
@[simp] theorem onPlot_issue : (onPlot s key g).issue = s.issue := rfl
@[simp] theorem onPlot_again : (onPlot s key g).again = s.again := rfl
@[simp] theorem onPlot_among : (onPlot s key g).among = s.among := rfl
@[simp] theorem onPlot_retry : (onPlot s key g).retry = s.retry := rfl
@[simp] theorem onPlot_parked : (onPlot s key g).parked = s.parked := rfl
@[simp] theorem onPlot_waiting : (onPlot s key g).waiting = s.waiting := rfl
@[simp] theorem onPlot_agenda : (onPlot s key g).agenda = s.agenda := rfl
@[simp] theorem onPlot_stalled : (onPlot s key g).stalled = s.stalled := rfl
@[simp] theorem onPlot_served : (onPlot s key g).served = s.served := rfl
@[simp] theorem onPlot_recent : (onPlot s key g).recent = s.recent := rfl
@[simp] theorem onPlot_owed : (onPlot s key g).owed = s.owed := rfl
@[simp] theorem onPlot_ctr : (onPlot s key g).ctr = s.ctr := rfl
@[simp] theorem onPlot_time : (onPlot s key g).time = s.time := rfl
@[simp] theorem onPlot_ready : (onPlot s key g).ready = s.ready := rfl
@[simp] theorem onPlot_booterr : (onPlot s key g).booterr = s.booterr := rfl
@[simp] theorem onPlot_thr : (onPlot s key g).thr = s.thr := rfl
@[simp] theorem onPlot_thrNext : (onPlot s key g).thrNext = s.thrNext := rfl
@[simp] theorem onPlot_power : (onPlot s key g).power = s.power := rfl
@[simp] theorem onPlot_spanid : (onPlot s key g).spanid = s.spanid := rfl
@[simp] theorem onPlot_cxl0 : (onPlot s key g).cxl0 = s.cxl0 := rfl
@[simp] theorem onPlot_cxl1 : (onPlot s key g).cxl1 = s.cxl1 := rfl
@[simp] theorem onPlot_quantum : (onPlot s key g).quantum = s.quantum := rfl
@[simp] theorem onPlot_wavebud : (onPlot s key g).wavebud = s.wavebud := rfl
@[simp] theorem onPlot_cfgcorr : (onPlot s key g).cfgcorr = s.cfgcorr := rfl
@[simp] theorem onPlot_visel : (onPlot s key g).visel = s.visel := rfl
@[simp] theorem onPlot_bell : (onPlot s key g).bell = s.bell := rfl
@[simp] theorem onPlot_bellNext : (onPlot s key g).bellNext = s.bellNext := rfl
@[simp] theorem onPlot_bellAt : (onPlot s key g).bellAt = s.bellAt := rfl
@[simp] theorem onPlot_usShare : (onPlot s key g).usShare = s.usShare := rfl
@[simp] theorem onPlot_usToll : (onPlot s key g).usToll = s.usToll := rfl
@[simp] theorem onPlot_hedgeSeq : (onPlot s key g).hedgeSeq = s.hedgeSeq := rfl
@[simp] theorem onPlot_partcfg : (onPlot s key g).partcfg = s.partcfg := rfl
@[simp] theorem onPlot_hmask : (onPlot s key g).hmask = s.hmask := rfl
@[simp] theorem onPlot_smap : (onPlot s key g).smap = s.smap := rfl
@[simp] theorem onPlot_vis : (onPlot s key g).vis = s.vis := rfl
@[simp] theorem onPlot_nextPlot : (onPlot s key g).nextPlot = s.nextPlot := rfl
@[simp] theorem onPlot_images : (onPlot s key g).images = s.images := rfl
@[simp] theorem onPlot_nextImage : (onPlot s key g).nextImage = s.nextImage := rfl
@[simp] theorem onPlot_pcells : (onPlot s key g).pcells = s.pcells := rfl
@[simp] theorem onPlot_slices : (onPlot s key g).slices = s.slices := rfl
@[simp] theorem onPlot_tlb2 : (onPlot s key g).tlb2 = s.tlb2 := rfl
@[simp] theorem onPlot_smithy : (onPlot s key g).smithy = s.smithy := rfl
@[simp] theorem onPlot_smithyRest : (onPlot s key g).smithyRest = s.smithyRest := rfl
@[simp] theorem onPlot_sigs : (onPlot s key g).sigs = s.sigs := rfl
@[simp] theorem onPlot_groups : (onPlot s key g).groups = s.groups := rfl
@[simp] theorem onPlot_groupGens : (onPlot s key g).groupGens = s.groupGens := rfl
@[simp] theorem onPlot_flights : (onPlot s key g).flights = s.flights := rfl
@[simp] theorem onPlot_nextFlight : (onPlot s key g).nextFlight = s.nextFlight := rfl
@[simp] theorem onPlot_deltas : (onPlot s key g).deltas = s.deltas := rfl
@[simp] theorem onPlot_nextDelta : (onPlot s key g).nextDelta = s.nextDelta := rfl
@[simp] theorem onPlot_jobs : (onPlot s key g).jobs = s.jobs := rfl
@[simp] theorem onPlot_nextJob : (onPlot s key g).nextJob = s.nextJob := rfl
@[simp] theorem onPlot_recs : (onPlot s key g).recs = s.recs := rfl
@[simp] theorem onPlot_recGens : (onPlot s key g).recGens = s.recGens := rfl
@[simp] theorem onPlot_placed : (onPlot s key g).placed = s.placed := rfl
@[simp] theorem onPlot_msi : (onPlot s key g).msi = s.msi := rfl
@[simp] theorem onPlot_hostReads : (onPlot s key g).hostReads = s.hostReads := rfl
@[simp] theorem onPlot_hostQ : (onPlot s key g).hostQ = s.hostQ := rfl
@[simp] theorem onPlot_mem : (onPlot s key g).mem = s.mem := rfl
@[simp] theorem onPlot_poison : (onPlot s key g).poison = s.poison := rfl
@[simp] theorem onPlot_pins : (onPlot s key g).pins = s.pins := rfl
@[simp] theorem onPlot_nets : (onPlot s key g).nets = s.nets := rfl

end

/-! onVi changes `vis` alone. -/

section
variable (s : State) (v : Nat) (g : Vi → Vi)

@[simp] theorem onVi_cur : (onVi s v g).cur = s.cur := rfl
@[simp] theorem onVi_issue : (onVi s v g).issue = s.issue := rfl
@[simp] theorem onVi_again : (onVi s v g).again = s.again := rfl
@[simp] theorem onVi_among : (onVi s v g).among = s.among := rfl
@[simp] theorem onVi_retry : (onVi s v g).retry = s.retry := rfl
@[simp] theorem onVi_parked : (onVi s v g).parked = s.parked := rfl
@[simp] theorem onVi_waiting : (onVi s v g).waiting = s.waiting := rfl
@[simp] theorem onVi_agenda : (onVi s v g).agenda = s.agenda := rfl
@[simp] theorem onVi_stalled : (onVi s v g).stalled = s.stalled := rfl
@[simp] theorem onVi_served : (onVi s v g).served = s.served := rfl
@[simp] theorem onVi_recent : (onVi s v g).recent = s.recent := rfl
@[simp] theorem onVi_owed : (onVi s v g).owed = s.owed := rfl
@[simp] theorem onVi_ctr : (onVi s v g).ctr = s.ctr := rfl
@[simp] theorem onVi_time : (onVi s v g).time = s.time := rfl
@[simp] theorem onVi_ready : (onVi s v g).ready = s.ready := rfl
@[simp] theorem onVi_booterr : (onVi s v g).booterr = s.booterr := rfl
@[simp] theorem onVi_thr : (onVi s v g).thr = s.thr := rfl
@[simp] theorem onVi_thrNext : (onVi s v g).thrNext = s.thrNext := rfl
@[simp] theorem onVi_power : (onVi s v g).power = s.power := rfl
@[simp] theorem onVi_spanid : (onVi s v g).spanid = s.spanid := rfl
@[simp] theorem onVi_cxl0 : (onVi s v g).cxl0 = s.cxl0 := rfl
@[simp] theorem onVi_cxl1 : (onVi s v g).cxl1 = s.cxl1 := rfl
@[simp] theorem onVi_quantum : (onVi s v g).quantum = s.quantum := rfl
@[simp] theorem onVi_wavebud : (onVi s v g).wavebud = s.wavebud := rfl
@[simp] theorem onVi_cfgcorr : (onVi s v g).cfgcorr = s.cfgcorr := rfl
@[simp] theorem onVi_visel : (onVi s v g).visel = s.visel := rfl
@[simp] theorem onVi_bell : (onVi s v g).bell = s.bell := rfl
@[simp] theorem onVi_bellNext : (onVi s v g).bellNext = s.bellNext := rfl
@[simp] theorem onVi_bellAt : (onVi s v g).bellAt = s.bellAt := rfl
@[simp] theorem onVi_usShare : (onVi s v g).usShare = s.usShare := rfl
@[simp] theorem onVi_usToll : (onVi s v g).usToll = s.usToll := rfl
@[simp] theorem onVi_hedgeSeq : (onVi s v g).hedgeSeq = s.hedgeSeq := rfl
@[simp] theorem onVi_partcfg : (onVi s v g).partcfg = s.partcfg := rfl
@[simp] theorem onVi_hmask : (onVi s v g).hmask = s.hmask := rfl
@[simp] theorem onVi_smap : (onVi s v g).smap = s.smap := rfl
@[simp] theorem onVi_plots : (onVi s v g).plots = s.plots := rfl
@[simp] theorem onVi_nextPlot : (onVi s v g).nextPlot = s.nextPlot := rfl
@[simp] theorem onVi_images : (onVi s v g).images = s.images := rfl
@[simp] theorem onVi_nextImage : (onVi s v g).nextImage = s.nextImage := rfl
@[simp] theorem onVi_pcells : (onVi s v g).pcells = s.pcells := rfl
@[simp] theorem onVi_slices : (onVi s v g).slices = s.slices := rfl
@[simp] theorem onVi_tlb2 : (onVi s v g).tlb2 = s.tlb2 := rfl
@[simp] theorem onVi_smithy : (onVi s v g).smithy = s.smithy := rfl
@[simp] theorem onVi_smithyRest : (onVi s v g).smithyRest = s.smithyRest := rfl
@[simp] theorem onVi_sigs : (onVi s v g).sigs = s.sigs := rfl
@[simp] theorem onVi_groups : (onVi s v g).groups = s.groups := rfl
@[simp] theorem onVi_groupGens : (onVi s v g).groupGens = s.groupGens := rfl
@[simp] theorem onVi_flights : (onVi s v g).flights = s.flights := rfl
@[simp] theorem onVi_nextFlight : (onVi s v g).nextFlight = s.nextFlight := rfl
@[simp] theorem onVi_deltas : (onVi s v g).deltas = s.deltas := rfl
@[simp] theorem onVi_nextDelta : (onVi s v g).nextDelta = s.nextDelta := rfl
@[simp] theorem onVi_jobs : (onVi s v g).jobs = s.jobs := rfl
@[simp] theorem onVi_nextJob : (onVi s v g).nextJob = s.nextJob := rfl
@[simp] theorem onVi_recs : (onVi s v g).recs = s.recs := rfl
@[simp] theorem onVi_recGens : (onVi s v g).recGens = s.recGens := rfl
@[simp] theorem onVi_placed : (onVi s v g).placed = s.placed := rfl
@[simp] theorem onVi_msi : (onVi s v g).msi = s.msi := rfl
@[simp] theorem onVi_hostReads : (onVi s v g).hostReads = s.hostReads := rfl
@[simp] theorem onVi_hostQ : (onVi s v g).hostQ = s.hostQ := rfl
@[simp] theorem onVi_mem : (onVi s v g).mem = s.mem := rfl
@[simp] theorem onVi_poison : (onVi s v g).poison = s.poison := rfl
@[simp] theorem onVi_pins : (onVi s v g).pins = s.pins := rfl
@[simp] theorem onVi_nets : (onVi s v g).nets = s.nets := rfl

end

/-! onPort changes `pcells` alone. -/

section
variable (s : State) (p : Nat) (g : PCell → PCell)

@[simp] theorem onPort_cur : (onPort s p g).cur = s.cur := rfl
@[simp] theorem onPort_issue : (onPort s p g).issue = s.issue := rfl
@[simp] theorem onPort_again : (onPort s p g).again = s.again := rfl
@[simp] theorem onPort_among : (onPort s p g).among = s.among := rfl
@[simp] theorem onPort_retry : (onPort s p g).retry = s.retry := rfl
@[simp] theorem onPort_parked : (onPort s p g).parked = s.parked := rfl
@[simp] theorem onPort_waiting : (onPort s p g).waiting = s.waiting := rfl
@[simp] theorem onPort_agenda : (onPort s p g).agenda = s.agenda := rfl
@[simp] theorem onPort_stalled : (onPort s p g).stalled = s.stalled := rfl
@[simp] theorem onPort_served : (onPort s p g).served = s.served := rfl
@[simp] theorem onPort_recent : (onPort s p g).recent = s.recent := rfl
@[simp] theorem onPort_owed : (onPort s p g).owed = s.owed := rfl
@[simp] theorem onPort_ctr : (onPort s p g).ctr = s.ctr := rfl
@[simp] theorem onPort_time : (onPort s p g).time = s.time := rfl
@[simp] theorem onPort_ready : (onPort s p g).ready = s.ready := rfl
@[simp] theorem onPort_booterr : (onPort s p g).booterr = s.booterr := rfl
@[simp] theorem onPort_thr : (onPort s p g).thr = s.thr := rfl
@[simp] theorem onPort_thrNext : (onPort s p g).thrNext = s.thrNext := rfl
@[simp] theorem onPort_power : (onPort s p g).power = s.power := rfl
@[simp] theorem onPort_spanid : (onPort s p g).spanid = s.spanid := rfl
@[simp] theorem onPort_cxl0 : (onPort s p g).cxl0 = s.cxl0 := rfl
@[simp] theorem onPort_cxl1 : (onPort s p g).cxl1 = s.cxl1 := rfl
@[simp] theorem onPort_quantum : (onPort s p g).quantum = s.quantum := rfl
@[simp] theorem onPort_wavebud : (onPort s p g).wavebud = s.wavebud := rfl
@[simp] theorem onPort_cfgcorr : (onPort s p g).cfgcorr = s.cfgcorr := rfl
@[simp] theorem onPort_visel : (onPort s p g).visel = s.visel := rfl
@[simp] theorem onPort_bell : (onPort s p g).bell = s.bell := rfl
@[simp] theorem onPort_bellNext : (onPort s p g).bellNext = s.bellNext := rfl
@[simp] theorem onPort_bellAt : (onPort s p g).bellAt = s.bellAt := rfl
@[simp] theorem onPort_usShare : (onPort s p g).usShare = s.usShare := rfl
@[simp] theorem onPort_usToll : (onPort s p g).usToll = s.usToll := rfl
@[simp] theorem onPort_hedgeSeq : (onPort s p g).hedgeSeq = s.hedgeSeq := rfl
@[simp] theorem onPort_partcfg : (onPort s p g).partcfg = s.partcfg := rfl
@[simp] theorem onPort_hmask : (onPort s p g).hmask = s.hmask := rfl
@[simp] theorem onPort_smap : (onPort s p g).smap = s.smap := rfl
@[simp] theorem onPort_vis : (onPort s p g).vis = s.vis := rfl
@[simp] theorem onPort_plots : (onPort s p g).plots = s.plots := rfl
@[simp] theorem onPort_nextPlot : (onPort s p g).nextPlot = s.nextPlot := rfl
@[simp] theorem onPort_images : (onPort s p g).images = s.images := rfl
@[simp] theorem onPort_nextImage : (onPort s p g).nextImage = s.nextImage := rfl
@[simp] theorem onPort_slices : (onPort s p g).slices = s.slices := rfl
@[simp] theorem onPort_tlb2 : (onPort s p g).tlb2 = s.tlb2 := rfl
@[simp] theorem onPort_smithy : (onPort s p g).smithy = s.smithy := rfl
@[simp] theorem onPort_smithyRest : (onPort s p g).smithyRest = s.smithyRest := rfl
@[simp] theorem onPort_sigs : (onPort s p g).sigs = s.sigs := rfl
@[simp] theorem onPort_groups : (onPort s p g).groups = s.groups := rfl
@[simp] theorem onPort_groupGens : (onPort s p g).groupGens = s.groupGens := rfl
@[simp] theorem onPort_flights : (onPort s p g).flights = s.flights := rfl
@[simp] theorem onPort_nextFlight : (onPort s p g).nextFlight = s.nextFlight := rfl
@[simp] theorem onPort_deltas : (onPort s p g).deltas = s.deltas := rfl
@[simp] theorem onPort_nextDelta : (onPort s p g).nextDelta = s.nextDelta := rfl
@[simp] theorem onPort_jobs : (onPort s p g).jobs = s.jobs := rfl
@[simp] theorem onPort_nextJob : (onPort s p g).nextJob = s.nextJob := rfl
@[simp] theorem onPort_recs : (onPort s p g).recs = s.recs := rfl
@[simp] theorem onPort_recGens : (onPort s p g).recGens = s.recGens := rfl
@[simp] theorem onPort_placed : (onPort s p g).placed = s.placed := rfl
@[simp] theorem onPort_msi : (onPort s p g).msi = s.msi := rfl
@[simp] theorem onPort_hostReads : (onPort s p g).hostReads = s.hostReads := rfl
@[simp] theorem onPort_hostQ : (onPort s p g).hostQ = s.hostQ := rfl
@[simp] theorem onPort_mem : (onPort s p g).mem = s.mem := rfl
@[simp] theorem onPort_poison : (onPort s p g).poison = s.poison := rfl
@[simp] theorem onPort_pins : (onPort s p g).pins = s.pins := rfl
@[simp] theorem onPort_nets : (onPort s p g).nets = s.nets := rfl

end

/-! onSlice changes `slices` alone. -/

section
variable (s : State) (n : Nat) (g : Slice → Slice)

@[simp] theorem onSlice_cur : (onSlice s n g).cur = s.cur := rfl
@[simp] theorem onSlice_issue : (onSlice s n g).issue = s.issue := rfl
@[simp] theorem onSlice_again : (onSlice s n g).again = s.again := rfl
@[simp] theorem onSlice_among : (onSlice s n g).among = s.among := rfl
@[simp] theorem onSlice_retry : (onSlice s n g).retry = s.retry := rfl
@[simp] theorem onSlice_parked : (onSlice s n g).parked = s.parked := rfl
@[simp] theorem onSlice_waiting : (onSlice s n g).waiting = s.waiting := rfl
@[simp] theorem onSlice_agenda : (onSlice s n g).agenda = s.agenda := rfl
@[simp] theorem onSlice_stalled : (onSlice s n g).stalled = s.stalled := rfl
@[simp] theorem onSlice_served : (onSlice s n g).served = s.served := rfl
@[simp] theorem onSlice_recent : (onSlice s n g).recent = s.recent := rfl
@[simp] theorem onSlice_owed : (onSlice s n g).owed = s.owed := rfl
@[simp] theorem onSlice_ctr : (onSlice s n g).ctr = s.ctr := rfl
@[simp] theorem onSlice_time : (onSlice s n g).time = s.time := rfl
@[simp] theorem onSlice_ready : (onSlice s n g).ready = s.ready := rfl
@[simp] theorem onSlice_booterr : (onSlice s n g).booterr = s.booterr := rfl
@[simp] theorem onSlice_thr : (onSlice s n g).thr = s.thr := rfl
@[simp] theorem onSlice_thrNext : (onSlice s n g).thrNext = s.thrNext := rfl
@[simp] theorem onSlice_power : (onSlice s n g).power = s.power := rfl
@[simp] theorem onSlice_spanid : (onSlice s n g).spanid = s.spanid := rfl
@[simp] theorem onSlice_cxl0 : (onSlice s n g).cxl0 = s.cxl0 := rfl
@[simp] theorem onSlice_cxl1 : (onSlice s n g).cxl1 = s.cxl1 := rfl
@[simp] theorem onSlice_quantum : (onSlice s n g).quantum = s.quantum := rfl
@[simp] theorem onSlice_wavebud : (onSlice s n g).wavebud = s.wavebud := rfl
@[simp] theorem onSlice_cfgcorr : (onSlice s n g).cfgcorr = s.cfgcorr := rfl
@[simp] theorem onSlice_visel : (onSlice s n g).visel = s.visel := rfl
@[simp] theorem onSlice_bell : (onSlice s n g).bell = s.bell := rfl
@[simp] theorem onSlice_bellNext : (onSlice s n g).bellNext = s.bellNext := rfl
@[simp] theorem onSlice_bellAt : (onSlice s n g).bellAt = s.bellAt := rfl
@[simp] theorem onSlice_usShare : (onSlice s n g).usShare = s.usShare := rfl
@[simp] theorem onSlice_usToll : (onSlice s n g).usToll = s.usToll := rfl
@[simp] theorem onSlice_hedgeSeq : (onSlice s n g).hedgeSeq = s.hedgeSeq := rfl
@[simp] theorem onSlice_partcfg : (onSlice s n g).partcfg = s.partcfg := rfl
@[simp] theorem onSlice_hmask : (onSlice s n g).hmask = s.hmask := rfl
@[simp] theorem onSlice_smap : (onSlice s n g).smap = s.smap := rfl
@[simp] theorem onSlice_vis : (onSlice s n g).vis = s.vis := rfl
@[simp] theorem onSlice_plots : (onSlice s n g).plots = s.plots := rfl
@[simp] theorem onSlice_nextPlot : (onSlice s n g).nextPlot = s.nextPlot := rfl
@[simp] theorem onSlice_images : (onSlice s n g).images = s.images := rfl
@[simp] theorem onSlice_nextImage : (onSlice s n g).nextImage = s.nextImage := rfl
@[simp] theorem onSlice_pcells : (onSlice s n g).pcells = s.pcells := rfl
@[simp] theorem onSlice_tlb2 : (onSlice s n g).tlb2 = s.tlb2 := rfl
@[simp] theorem onSlice_smithy : (onSlice s n g).smithy = s.smithy := rfl
@[simp] theorem onSlice_smithyRest : (onSlice s n g).smithyRest = s.smithyRest := rfl
@[simp] theorem onSlice_sigs : (onSlice s n g).sigs = s.sigs := rfl
@[simp] theorem onSlice_groups : (onSlice s n g).groups = s.groups := rfl
@[simp] theorem onSlice_groupGens : (onSlice s n g).groupGens = s.groupGens := rfl
@[simp] theorem onSlice_flights : (onSlice s n g).flights = s.flights := rfl
@[simp] theorem onSlice_nextFlight : (onSlice s n g).nextFlight = s.nextFlight := rfl
@[simp] theorem onSlice_deltas : (onSlice s n g).deltas = s.deltas := rfl
@[simp] theorem onSlice_nextDelta : (onSlice s n g).nextDelta = s.nextDelta := rfl
@[simp] theorem onSlice_jobs : (onSlice s n g).jobs = s.jobs := rfl
@[simp] theorem onSlice_nextJob : (onSlice s n g).nextJob = s.nextJob := rfl
@[simp] theorem onSlice_recs : (onSlice s n g).recs = s.recs := rfl
@[simp] theorem onSlice_recGens : (onSlice s n g).recGens = s.recGens := rfl
@[simp] theorem onSlice_placed : (onSlice s n g).placed = s.placed := rfl
@[simp] theorem onSlice_msi : (onSlice s n g).msi = s.msi := rfl
@[simp] theorem onSlice_hostReads : (onSlice s n g).hostReads = s.hostReads := rfl
@[simp] theorem onSlice_hostQ : (onSlice s n g).hostQ = s.hostQ := rfl
@[simp] theorem onSlice_mem : (onSlice s n g).mem = s.mem := rfl
@[simp] theorem onSlice_poison : (onSlice s n g).poison = s.poison := rfl
@[simp] theorem onSlice_pins : (onSlice s n g).pins = s.pins := rfl
@[simp] theorem onSlice_nets : (onSlice s n g).nets = s.nets := rfl

end

/-! onJob changes `jobs` alone. -/

section
variable (s : State) (j : Nat) (g : Job → Job)

@[simp] theorem onJob_cur : (onJob s j g).cur = s.cur := rfl
@[simp] theorem onJob_issue : (onJob s j g).issue = s.issue := rfl
@[simp] theorem onJob_again : (onJob s j g).again = s.again := rfl
@[simp] theorem onJob_among : (onJob s j g).among = s.among := rfl
@[simp] theorem onJob_retry : (onJob s j g).retry = s.retry := rfl
@[simp] theorem onJob_parked : (onJob s j g).parked = s.parked := rfl
@[simp] theorem onJob_waiting : (onJob s j g).waiting = s.waiting := rfl
@[simp] theorem onJob_agenda : (onJob s j g).agenda = s.agenda := rfl
@[simp] theorem onJob_stalled : (onJob s j g).stalled = s.stalled := rfl
@[simp] theorem onJob_served : (onJob s j g).served = s.served := rfl
@[simp] theorem onJob_recent : (onJob s j g).recent = s.recent := rfl
@[simp] theorem onJob_owed : (onJob s j g).owed = s.owed := rfl
@[simp] theorem onJob_ctr : (onJob s j g).ctr = s.ctr := rfl
@[simp] theorem onJob_time : (onJob s j g).time = s.time := rfl
@[simp] theorem onJob_ready : (onJob s j g).ready = s.ready := rfl
@[simp] theorem onJob_booterr : (onJob s j g).booterr = s.booterr := rfl
@[simp] theorem onJob_thr : (onJob s j g).thr = s.thr := rfl
@[simp] theorem onJob_thrNext : (onJob s j g).thrNext = s.thrNext := rfl
@[simp] theorem onJob_power : (onJob s j g).power = s.power := rfl
@[simp] theorem onJob_spanid : (onJob s j g).spanid = s.spanid := rfl
@[simp] theorem onJob_cxl0 : (onJob s j g).cxl0 = s.cxl0 := rfl
@[simp] theorem onJob_cxl1 : (onJob s j g).cxl1 = s.cxl1 := rfl
@[simp] theorem onJob_quantum : (onJob s j g).quantum = s.quantum := rfl
@[simp] theorem onJob_wavebud : (onJob s j g).wavebud = s.wavebud := rfl
@[simp] theorem onJob_cfgcorr : (onJob s j g).cfgcorr = s.cfgcorr := rfl
@[simp] theorem onJob_visel : (onJob s j g).visel = s.visel := rfl
@[simp] theorem onJob_bell : (onJob s j g).bell = s.bell := rfl
@[simp] theorem onJob_bellNext : (onJob s j g).bellNext = s.bellNext := rfl
@[simp] theorem onJob_bellAt : (onJob s j g).bellAt = s.bellAt := rfl
@[simp] theorem onJob_usShare : (onJob s j g).usShare = s.usShare := rfl
@[simp] theorem onJob_usToll : (onJob s j g).usToll = s.usToll := rfl
@[simp] theorem onJob_hedgeSeq : (onJob s j g).hedgeSeq = s.hedgeSeq := rfl
@[simp] theorem onJob_partcfg : (onJob s j g).partcfg = s.partcfg := rfl
@[simp] theorem onJob_hmask : (onJob s j g).hmask = s.hmask := rfl
@[simp] theorem onJob_smap : (onJob s j g).smap = s.smap := rfl
@[simp] theorem onJob_vis : (onJob s j g).vis = s.vis := rfl
@[simp] theorem onJob_plots : (onJob s j g).plots = s.plots := rfl
@[simp] theorem onJob_nextPlot : (onJob s j g).nextPlot = s.nextPlot := rfl
@[simp] theorem onJob_images : (onJob s j g).images = s.images := rfl
@[simp] theorem onJob_nextImage : (onJob s j g).nextImage = s.nextImage := rfl
@[simp] theorem onJob_pcells : (onJob s j g).pcells = s.pcells := rfl
@[simp] theorem onJob_slices : (onJob s j g).slices = s.slices := rfl
@[simp] theorem onJob_tlb2 : (onJob s j g).tlb2 = s.tlb2 := rfl
@[simp] theorem onJob_smithy : (onJob s j g).smithy = s.smithy := rfl
@[simp] theorem onJob_smithyRest : (onJob s j g).smithyRest = s.smithyRest := rfl
@[simp] theorem onJob_sigs : (onJob s j g).sigs = s.sigs := rfl
@[simp] theorem onJob_groups : (onJob s j g).groups = s.groups := rfl
@[simp] theorem onJob_groupGens : (onJob s j g).groupGens = s.groupGens := rfl
@[simp] theorem onJob_flights : (onJob s j g).flights = s.flights := rfl
@[simp] theorem onJob_nextFlight : (onJob s j g).nextFlight = s.nextFlight := rfl
@[simp] theorem onJob_deltas : (onJob s j g).deltas = s.deltas := rfl
@[simp] theorem onJob_nextDelta : (onJob s j g).nextDelta = s.nextDelta := rfl
@[simp] theorem onJob_nextJob : (onJob s j g).nextJob = s.nextJob := rfl
@[simp] theorem onJob_recs : (onJob s j g).recs = s.recs := rfl
@[simp] theorem onJob_recGens : (onJob s j g).recGens = s.recGens := rfl
@[simp] theorem onJob_placed : (onJob s j g).placed = s.placed := rfl
@[simp] theorem onJob_msi : (onJob s j g).msi = s.msi := rfl
@[simp] theorem onJob_hostReads : (onJob s j g).hostReads = s.hostReads := rfl
@[simp] theorem onJob_hostQ : (onJob s j g).hostQ = s.hostQ := rfl
@[simp] theorem onJob_mem : (onJob s j g).mem = s.mem := rfl
@[simp] theorem onJob_poison : (onJob s j g).poison = s.poison := rfl
@[simp] theorem onJob_pins : (onJob s j g).pins = s.pins := rfl
@[simp] theorem onJob_nets : (onJob s j g).nets = s.nets := rfl

end

/-! onGroup changes `groups` alone. -/

section
variable (s : State) (k : Nat) (g : Group → Group)

@[simp] theorem onGroup_cur : (onGroup s k g).cur = s.cur := rfl
@[simp] theorem onGroup_issue : (onGroup s k g).issue = s.issue := rfl
@[simp] theorem onGroup_again : (onGroup s k g).again = s.again := rfl
@[simp] theorem onGroup_among : (onGroup s k g).among = s.among := rfl
@[simp] theorem onGroup_retry : (onGroup s k g).retry = s.retry := rfl
@[simp] theorem onGroup_parked : (onGroup s k g).parked = s.parked := rfl
@[simp] theorem onGroup_waiting : (onGroup s k g).waiting = s.waiting := rfl
@[simp] theorem onGroup_agenda : (onGroup s k g).agenda = s.agenda := rfl
@[simp] theorem onGroup_stalled : (onGroup s k g).stalled = s.stalled := rfl
@[simp] theorem onGroup_served : (onGroup s k g).served = s.served := rfl
@[simp] theorem onGroup_recent : (onGroup s k g).recent = s.recent := rfl
@[simp] theorem onGroup_owed : (onGroup s k g).owed = s.owed := rfl
@[simp] theorem onGroup_ctr : (onGroup s k g).ctr = s.ctr := rfl
@[simp] theorem onGroup_time : (onGroup s k g).time = s.time := rfl
@[simp] theorem onGroup_ready : (onGroup s k g).ready = s.ready := rfl
@[simp] theorem onGroup_booterr : (onGroup s k g).booterr = s.booterr := rfl
@[simp] theorem onGroup_thr : (onGroup s k g).thr = s.thr := rfl
@[simp] theorem onGroup_thrNext : (onGroup s k g).thrNext = s.thrNext := rfl
@[simp] theorem onGroup_power : (onGroup s k g).power = s.power := rfl
@[simp] theorem onGroup_spanid : (onGroup s k g).spanid = s.spanid := rfl
@[simp] theorem onGroup_cxl0 : (onGroup s k g).cxl0 = s.cxl0 := rfl
@[simp] theorem onGroup_cxl1 : (onGroup s k g).cxl1 = s.cxl1 := rfl
@[simp] theorem onGroup_quantum : (onGroup s k g).quantum = s.quantum := rfl
@[simp] theorem onGroup_wavebud : (onGroup s k g).wavebud = s.wavebud := rfl
@[simp] theorem onGroup_cfgcorr : (onGroup s k g).cfgcorr = s.cfgcorr := rfl
@[simp] theorem onGroup_visel : (onGroup s k g).visel = s.visel := rfl
@[simp] theorem onGroup_bell : (onGroup s k g).bell = s.bell := rfl
@[simp] theorem onGroup_bellNext : (onGroup s k g).bellNext = s.bellNext := rfl
@[simp] theorem onGroup_bellAt : (onGroup s k g).bellAt = s.bellAt := rfl
@[simp] theorem onGroup_usShare : (onGroup s k g).usShare = s.usShare := rfl
@[simp] theorem onGroup_usToll : (onGroup s k g).usToll = s.usToll := rfl
@[simp] theorem onGroup_hedgeSeq : (onGroup s k g).hedgeSeq = s.hedgeSeq := rfl
@[simp] theorem onGroup_partcfg : (onGroup s k g).partcfg = s.partcfg := rfl
@[simp] theorem onGroup_hmask : (onGroup s k g).hmask = s.hmask := rfl
@[simp] theorem onGroup_smap : (onGroup s k g).smap = s.smap := rfl
@[simp] theorem onGroup_vis : (onGroup s k g).vis = s.vis := rfl
@[simp] theorem onGroup_plots : (onGroup s k g).plots = s.plots := rfl
@[simp] theorem onGroup_nextPlot : (onGroup s k g).nextPlot = s.nextPlot := rfl
@[simp] theorem onGroup_images : (onGroup s k g).images = s.images := rfl
@[simp] theorem onGroup_nextImage : (onGroup s k g).nextImage = s.nextImage := rfl
@[simp] theorem onGroup_pcells : (onGroup s k g).pcells = s.pcells := rfl
@[simp] theorem onGroup_slices : (onGroup s k g).slices = s.slices := rfl
@[simp] theorem onGroup_tlb2 : (onGroup s k g).tlb2 = s.tlb2 := rfl
@[simp] theorem onGroup_smithy : (onGroup s k g).smithy = s.smithy := rfl
@[simp] theorem onGroup_smithyRest : (onGroup s k g).smithyRest = s.smithyRest := rfl
@[simp] theorem onGroup_sigs : (onGroup s k g).sigs = s.sigs := rfl
@[simp] theorem onGroup_groupGens : (onGroup s k g).groupGens = s.groupGens := rfl
@[simp] theorem onGroup_flights : (onGroup s k g).flights = s.flights := rfl
@[simp] theorem onGroup_nextFlight : (onGroup s k g).nextFlight = s.nextFlight := rfl
@[simp] theorem onGroup_deltas : (onGroup s k g).deltas = s.deltas := rfl
@[simp] theorem onGroup_nextDelta : (onGroup s k g).nextDelta = s.nextDelta := rfl
@[simp] theorem onGroup_jobs : (onGroup s k g).jobs = s.jobs := rfl
@[simp] theorem onGroup_nextJob : (onGroup s k g).nextJob = s.nextJob := rfl
@[simp] theorem onGroup_recs : (onGroup s k g).recs = s.recs := rfl
@[simp] theorem onGroup_recGens : (onGroup s k g).recGens = s.recGens := rfl
@[simp] theorem onGroup_placed : (onGroup s k g).placed = s.placed := rfl
@[simp] theorem onGroup_msi : (onGroup s k g).msi = s.msi := rfl
@[simp] theorem onGroup_hostReads : (onGroup s k g).hostReads = s.hostReads := rfl
@[simp] theorem onGroup_hostQ : (onGroup s k g).hostQ = s.hostQ := rfl
@[simp] theorem onGroup_mem : (onGroup s k g).mem = s.mem := rfl
@[simp] theorem onGroup_poison : (onGroup s k g).poison = s.poison := rfl
@[simp] theorem onGroup_pins : (onGroup s k g).pins = s.pins := rfl
@[simp] theorem onGroup_nets : (onGroup s k g).nets = s.nets := rfl

end

/-! A cell, a block and an instance changed: a plot keeps every other field. -/

section
variable (p : Plot) (cell : Nat) (g : Cell → Cell)

@[simp] theorem onCell_die : (onCell p cell g).die = p.die := rfl
@[simp] theorem onCell_x : (onCell p cell g).x = p.x := rfl
@[simp] theorem onCell_y : (onCell p cell g).y = p.y := rfl
@[simp] theorem onCell_w : (onCell p cell g).w = p.w := rfl
@[simp] theorem onCell_h : (onCell p cell g).h = p.h := rfl
@[simp] theorem onCell_vi : (onCell p cell g).vi = p.vi := rfl
@[simp] theorem onCell_code : (onCell p cell g).code = p.code := rfl
@[simp] theorem onCell_role : (onCell p cell g).role = p.role := rfl
@[simp] theorem onCell_running : (onCell p cell g).running = p.running := rfl
@[simp] theorem onCell_round : (onCell p cell g).round = p.round := rfl
@[simp] theorem onCell_frozen : (onCell p cell g).frozen = p.frozen := rfl
@[simp] theorem onCell_stop : (onCell p cell g).stop = p.stop := rfl
@[simp] theorem onCell_withdrawn : (onCell p cell g).withdrawn = p.withdrawn := rfl
@[simp] theorem onCell_wave : (onCell p cell g).wave = p.wave := rfl
@[simp] theorem onCell_ports : (onCell p cell g).ports = p.ports := rfl
@[simp] theorem onCell_near : (onCell p cell g).near = p.near := rfl
@[simp] theorem onCell_folds : (onCell p cell g).folds = p.folds := rfl
@[simp] theorem onCell_routes : (onCell p cell g).routes = p.routes := rfl
@[simp] theorem onCell_tokens : (onCell p cell g).tokens = p.tokens := rfl
@[simp] theorem onCell_eosQ : (onCell p cell g).eosQ = p.eosQ := rfl
@[simp] theorem onCell_links : (onCell p cell g).links = p.links := rfl
@[simp] theorem onCell_logs : (onCell p cell g).logs = p.logs := rfl
@[simp] theorem onCell_groups : (onCell p cell g).groups = p.groups := rfl
@[simp] theorem onCell_fixups : (onCell p cell g).fixups = p.fixups := rfl
@[simp] theorem onCell_items : (onCell p cell g).items = p.items := rfl
@[simp] theorem onCell_stale : (onCell p cell g).stale = p.stale := rfl
@[simp] theorem onCell_scrub : (onCell p cell g).scrub = p.scrub := rfl
@[simp] theorem onCell_trap : (onCell p cell g).trap = p.trap := rfl
@[simp] theorem onCell_tcause : (onCell p cell g).tcause = p.tcause := rfl
@[simp] theorem onCell_ttag : (onCell p cell g).ttag = p.ttag := rfl
@[simp] theorem onCell_tinfo : (onCell p cell g).tinfo = p.tinfo := rfl
@[simp] theorem onCell_tcell : (onCell p cell g).tcell = p.tcell := rfl
@[simp] theorem onCell_numst : (onCell p cell g).numst = p.numst := rfl
@[simp] theorem onCell_srseed : (onCell p cell g).srseed = p.srseed := rfl
@[simp] theorem onCell_wdt : (onCell p cell g).wdt = p.wdt := rfl
@[simp] theorem onCell_ratetrap : (onCell p cell g).ratetrap = p.ratetrap := rfl
@[simp] theorem onCell_exitc : (onCell p cell g).exitc = p.exitc := rfl
@[simp] theorem onCell_logst : (onCell p cell g).logst = p.logst := rfl
@[simp] theorem onCell_logpos : (onCell p cell g).logpos = p.logpos := rfl
@[simp] theorem onCell_logseg : (onCell p cell g).logseg = p.logseg := rfl
@[simp] theorem onCell_rev : (onCell p cell g).rev = p.rev := rfl
@[simp] theorem onCell_recQ : (onCell p cell g).recQ = p.recQ := rfl
@[simp] theorem onCell_idle : (onCell p cell g).idle = p.idle := rfl
@[simp] theorem onCell_fired : (onCell p cell g).fired = p.fired := rfl
@[simp] theorem onCell_trapNow : (onCell p cell g).trapNow = p.trapNow := rfl
@[simp] theorem onCell_barriers : (onCell p cell g).barriers = p.barriers := rfl
@[simp] theorem onCell_arrivals : (onCell p cell g).arrivals = p.arrivals := rfl
@[simp] theorem onCell_bgen : (onCell p cell g).bgen = p.bgen := rfl
@[simp] theorem onCell_endpoints : (onCell p cell g).endpoints = p.endpoints := rfl
@[simp] theorem onCell_task : (onCell p cell g).task = p.task := rfl
@[simp] theorem onCell_inh : (onCell p cell g).inh = p.inh := rfl
@[simp] theorem onCell_failed : (onCell p cell g).failed = p.failed := rfl
@[simp] theorem onCell_yield : (onCell p cell g).yield = p.yield := rfl
@[simp] theorem onCell_used : (onCell p cell g).used = p.used := rfl
@[simp] theorem onCell_subject : (onCell p cell g).subject = p.subject := rfl

end

/-! A firing that waits changes `stalled` alone. -/

section
variable (s : State)

@[simp] theorem stallFiring_cur : (stallFiring s).cur = s.cur := rfl
@[simp] theorem stallFiring_issue : (stallFiring s).issue = s.issue := rfl
@[simp] theorem stallFiring_again : (stallFiring s).again = s.again := rfl
@[simp] theorem stallFiring_among : (stallFiring s).among = s.among := rfl
@[simp] theorem stallFiring_retry : (stallFiring s).retry = s.retry := rfl
@[simp] theorem stallFiring_parked : (stallFiring s).parked = s.parked := rfl
@[simp] theorem stallFiring_waiting : (stallFiring s).waiting = s.waiting := rfl
@[simp] theorem stallFiring_agenda : (stallFiring s).agenda = s.agenda := rfl
@[simp] theorem stallFiring_served : (stallFiring s).served = s.served := rfl
@[simp] theorem stallFiring_recent : (stallFiring s).recent = s.recent := rfl
@[simp] theorem stallFiring_owed : (stallFiring s).owed = s.owed := rfl
@[simp] theorem stallFiring_ctr : (stallFiring s).ctr = s.ctr := rfl
@[simp] theorem stallFiring_time : (stallFiring s).time = s.time := rfl
@[simp] theorem stallFiring_ready : (stallFiring s).ready = s.ready := rfl
@[simp] theorem stallFiring_booterr : (stallFiring s).booterr = s.booterr := rfl
@[simp] theorem stallFiring_thr : (stallFiring s).thr = s.thr := rfl
@[simp] theorem stallFiring_thrNext : (stallFiring s).thrNext = s.thrNext := rfl
@[simp] theorem stallFiring_power : (stallFiring s).power = s.power := rfl
@[simp] theorem stallFiring_spanid : (stallFiring s).spanid = s.spanid := rfl
@[simp] theorem stallFiring_cxl0 : (stallFiring s).cxl0 = s.cxl0 := rfl
@[simp] theorem stallFiring_cxl1 : (stallFiring s).cxl1 = s.cxl1 := rfl
@[simp] theorem stallFiring_quantum : (stallFiring s).quantum = s.quantum := rfl
@[simp] theorem stallFiring_wavebud : (stallFiring s).wavebud = s.wavebud := rfl
@[simp] theorem stallFiring_cfgcorr : (stallFiring s).cfgcorr = s.cfgcorr := rfl
@[simp] theorem stallFiring_visel : (stallFiring s).visel = s.visel := rfl
@[simp] theorem stallFiring_bell : (stallFiring s).bell = s.bell := rfl
@[simp] theorem stallFiring_bellNext : (stallFiring s).bellNext = s.bellNext := rfl
@[simp] theorem stallFiring_bellAt : (stallFiring s).bellAt = s.bellAt := rfl
@[simp] theorem stallFiring_usShare : (stallFiring s).usShare = s.usShare := rfl
@[simp] theorem stallFiring_usToll : (stallFiring s).usToll = s.usToll := rfl
@[simp] theorem stallFiring_hedgeSeq : (stallFiring s).hedgeSeq = s.hedgeSeq := rfl
@[simp] theorem stallFiring_partcfg : (stallFiring s).partcfg = s.partcfg := rfl
@[simp] theorem stallFiring_hmask : (stallFiring s).hmask = s.hmask := rfl
@[simp] theorem stallFiring_smap : (stallFiring s).smap = s.smap := rfl
@[simp] theorem stallFiring_vis : (stallFiring s).vis = s.vis := rfl
@[simp] theorem stallFiring_plots : (stallFiring s).plots = s.plots := rfl
@[simp] theorem stallFiring_nextPlot : (stallFiring s).nextPlot = s.nextPlot := rfl
@[simp] theorem stallFiring_images : (stallFiring s).images = s.images := rfl
@[simp] theorem stallFiring_nextImage : (stallFiring s).nextImage = s.nextImage := rfl
@[simp] theorem stallFiring_pcells : (stallFiring s).pcells = s.pcells := rfl
@[simp] theorem stallFiring_slices : (stallFiring s).slices = s.slices := rfl
@[simp] theorem stallFiring_tlb2 : (stallFiring s).tlb2 = s.tlb2 := rfl
@[simp] theorem stallFiring_smithy : (stallFiring s).smithy = s.smithy := rfl
@[simp] theorem stallFiring_smithyRest : (stallFiring s).smithyRest = s.smithyRest := rfl
@[simp] theorem stallFiring_sigs : (stallFiring s).sigs = s.sigs := rfl
@[simp] theorem stallFiring_groups : (stallFiring s).groups = s.groups := rfl
@[simp] theorem stallFiring_groupGens : (stallFiring s).groupGens = s.groupGens := rfl
@[simp] theorem stallFiring_flights : (stallFiring s).flights = s.flights := rfl
@[simp] theorem stallFiring_nextFlight : (stallFiring s).nextFlight = s.nextFlight := rfl
@[simp] theorem stallFiring_deltas : (stallFiring s).deltas = s.deltas := rfl
@[simp] theorem stallFiring_nextDelta : (stallFiring s).nextDelta = s.nextDelta := rfl
@[simp] theorem stallFiring_jobs : (stallFiring s).jobs = s.jobs := rfl
@[simp] theorem stallFiring_nextJob : (stallFiring s).nextJob = s.nextJob := rfl
@[simp] theorem stallFiring_recs : (stallFiring s).recs = s.recs := rfl
@[simp] theorem stallFiring_recGens : (stallFiring s).recGens = s.recGens := rfl
@[simp] theorem stallFiring_placed : (stallFiring s).placed = s.placed := rfl
@[simp] theorem stallFiring_msi : (stallFiring s).msi = s.msi := rfl
@[simp] theorem stallFiring_hostReads : (stallFiring s).hostReads = s.hostReads := rfl
@[simp] theorem stallFiring_hostQ : (stallFiring s).hostQ = s.hostQ := rfl
@[simp] theorem stallFiring_mem : (stallFiring s).mem = s.mem := rfl
@[simp] theorem stallFiring_poison : (stallFiring s).poison = s.poison := rfl
@[simp] theorem stallFiring_pins : (stallFiring s).pins = s.pins := rfl
@[simp] theorem stallFiring_nets : (stallFiring s).nets = s.nets := rfl

end

end Sys2Proof.Machine
end

