-- ==== Sys2Proof/Safety.lean ====
section
/-!
DEFINITION. Sys2Proof/Safety.lean: what a safe run of the machine is, in the terms of the statements: it never stops with a fault or
a refusal, and what holds at reset and is kept by every step holds all along.
-/
namespace Sys2Proof

/-- A state reached from another in some number of steps. -/
inductive Reaches : Machine.State → Machine.State → Prop where
  | refl (s : Machine.State) : Reaches s s
  | step {s t u : Machine.State} (h : Reaches s t) (n : Machine.step t = .next u) : Reaches s u

/-- A state from which no run stops with a fault or a refusal. -/
def Safe (s : Machine.State) : Prop := ∀ t, Reaches s t → ∃ u, Machine.step t = .next u

/-- A property that every step keeps. -/
def Kept (inv : Machine.State → Prop) : Prop := ∀ s t, inv s → Machine.step s = .next t → inv t

end Sys2Proof
end

