-- ==== Sys2Proof/Tests/Slice0.lean ====
section
/-!
SUPPORT. Sys2Proof/Tests/Slice0.lean: words of the spec and their decoding, ill-formed terms, results that the spec's tables
give, first steps, and for each statement with hypotheses a state and operands that meet all of them (`wit_<statement>`).
-/
namespace Sys2Proof.Tests
open Sys2Proof Sys2Proof.Machine Sys2Proof.Claim

set_option Elab.async false

/-! ### Small states -/

/-- An instance of `len` elements, with its operands by 4 × slot + port. -/
def inst (len : Nat) (ops : Tab Operand) : Inst :=
  { run := 0, first := 0, len := len, ops := ops, done := [], issued := [], held := [], stalled := [], nulls := [] }

/-- A block of one form, which reads the ports of `reads`, with one live instance. -/
def blk (w : Word) (reads : Nat) (k : Tab Word) (i : Inst) : Block :=
  { gblk := 0, frames := 1, base := 0, seq := false, dom := [i.len], exits := 0, step := 2, feat := 0xFF, words := [w], k := k,
    names := [], reads := [(0, reads)], flags := [], bounds := [i.len], next := 1, insts := [(0, i)], early := [], eos := [],
    eosSent := [], pendK := [], succ := none, mism := [], reds := [] }

/-- A cell of one block. -/
def cell1 (b : Block) : Cell :=
  { blocks := [(0, b)], thread := { bidx := none, exited := false }, frame := [], acc := [], array := [], sseq := 0, sf := 0, hold := 0,
    pend := [] }

/-- A 4 × 4 plot of VI 0 on die 0, its cell (0, 0) with a home port on P-cell 0, which it is granted with 4 contexts and 8 lines;
areas of 16 KiB for pushes, logs and inboxes in the S-cell east of that cell. -/
def plot1 (c : Cell) : Plot :=
  { die := 0, x := 0, y := 0, w := 4, h := 4, vi := 0, code := 0, role := .graph, running := true, round := 0, frozen := false, stop := .none,
    withdrawn := false, wave := none, ports := [0x0018380000000000, 0x4000000000000000, 0x8103001C00000000, 0x8100101C80000000, 0x8103201D00000000], cells := [(0, c)], near := [], folds := [],
    routes := [], tokens := [], eosQ := [], links := [], logs := [], groups := [], fixups := [], items := [], stale := 0, trap := none,
    tcause := 0, ttag := 0, tinfo := 0, tcell := 0, numst := 0, srseed := 0, wdt := 0, ratetrap := 0, exitc := 0, logst := 0,
    logpos := 0, logseg := 0, rev := none, recQ := [], idle := 0, fired := false, trapNow := false, barriers := [], arrivals := [], bgen := 0, endpoints := [],
    task := none, inh := false, failed := none, yield := false, used := 0, subject := none, scrub := false }

/-- A state with one plot. -/
def st (p : Plot) : State := { State.reset with plots := [(0, p)], nextPlot := 1, ready := true }

/-- A run of 32-bit elements, of the elements 0, 1, … -/
def run (vs : List Nat) : Operand :=
  { kind := .r32, elems := (List.range vs.length).map (fun i => (i, Elem.val (dw ((vs[i]?).getD 0)))) }

/-- A run of 64-bit elements. -/
def run64 (vs : List Nat) : Operand :=
  { kind := .r64, elems := (List.range vs.length).map (fun i => (i, Elem.val (dw ((vs[i]?).getD 0)))) }

/-- A scalar, which fills the one element of its instance. -/
def scal (v : Nat) : Operand := { kind := .s64, elems := [(0, .val (dw v))] }

/-- A state at whose firing a form stands, with operands on the ports a, b, c, p. -/
def at1 (w : Word) (len : Nat) (ops : Tab Operand) : State :=
  st (plot1 (cell1 (blk w ((ops.map (fun x => 2 ^ x.1)).sum) [] (inst len ops))))

/-- The context of the firing at issue. -/
def cx (s : State) : Ctx :=
  (ctxOf? s s.cur).getD { f := Firing.zero, plot := plot1 (cell1 (blk 0 0 [] (inst 0 []))), blk := blk 0 0 [] (inst 0 []), inst := inst 0 [] }

/-- The state that a read of words leaves, and the words. -/
def gotS : Got → State
  | .ok s _ => s
  | .stop _ => State.reset
def gotV : Got → List Dword
  | .ok _ ws => ws
  | .stop _ => []

/-- The state that an access leaves. -/
def okS {α : Type} : Except Halt (State × α) → State
  | .ok (s, _) => s
  | .error _ => State.reset

/-- The value that an access answers. -/
def okV {α : Type} [Inhabited α] : Except Halt (State × α) → α
  | .ok (_, v) => v
  | .error _ => default

/-- The state that a change leaves. -/
def okT : Except Halt State → State
  | .ok s => s
  | .error _ => State.reset

/-- The fold of statement 5: frame class, 4-byte slots, 4 of them, 2 readers; its headers. -/
def fold5 (hdrs : Tab Dword) : Fold :=
  { w0 := 0x0050000020200000, w1 := 0x0000004000000000, w2 := 0x0000004000000000, w3 := 0, w4 := 0, gen := 0, hdrs := hdrs, pstall := 0 }

/-- A state at a form on the name of statement 5 at index i, of type n32, in a block of four tags that also stores it. -/
def named1 (w : Word) (len : Nat) (f : Fold) (ops : Tab Operand) : State :=
  let b := blk w ((ops.map (fun x => 2 ^ x.1)).sum) [] (inst len ops)
  let b := { b with words := [w, 0x2203FFFF], names := [0x0051000000000000] }
  st { plot1 { cell1 b with frame := [(4, 7)] } with folds := [(5, f)] }

/-- One element of a run. -/
def elem1 (e v : Nat) : Operand := { kind := .r32, elems := [(e, .val (dw v))] }

/-- The bytes of words from an address. -/
def words (a : Nat) (ws : List Dword) : Memory :=
  ((List.range (8 * ws.length)).map (fun i => (a + i, ((ws[i / 8]?).getD (0 : Dword)).extractLsb' (8 * (i % 8)) 8))).filter (fun x => x.2 != 0#8)

/-- A state at a form, in a plot with a near log of 1 KiB that holds the words, of which `tail` bytes are used. -/
def logged (w : Word) (ops : Tab Operand) (tail last : Nat) (st : Dword) (ws : List Dword) : State :=
  let s := named1 w 1 (fold5 []) ops
  onPlot s 0 (fun p => { p with logs := [(0x8000000000004000, 0x400)], logst := st + 0x400, logpos := mkPos tail last,
                                logseg := mkSeg noOff 0, near := [(1, words 0x4000 ws)] })

/-- A record of TZERO, whose result is the name of statement 5 with an ordinal. -/
def zeroRec (prev ord : Nat) : List Dword := [dw (0xAF * 2 ^ 56 + 0xF * 2 ^ 24 + prev * 2 ^ 12 + 5), 0x0080000000000000, dw (ord * 2 ^ 24), 0]

/-- A line of words. -/
def lineOf (ws : List Dword) : Line := BitVec.ofNat 1024 (ws.reverse.foldl (fun n w => n * 2 ^ 64 + w.toNat) 0)

/-- A dirty line of VI 0 in a slice. -/
def dirtyLine (line : Nat) (ws : List Dword) : Nat × L2Line :=
  (16 * line, { line := line, vi := 0, dirty := true, side := 0, data := lineOf ws, poison := false, used := 0 })

/-- The entry of P-cell 0 for the first 2 MiB of memory, for VI 0 at 0x8080000000. -/
def tlb0 : TlbEntry :=
  { vi := 0, va := 0x8080000000, lg := 21, pa := 0, gpa := 0, lg2 := 21, r1 := true, w1 := true, r2 := true, w2 := true, dirty := true }

/-- VI 0, its stage-1 tables at 0x10000, its one region owned by P-cell 0. -/
def vi0 : Vi :=
  { Vi.reset with s1root := 0x10001, regions := [(0, (0x8080000000, 0x200000))], owners := [(0, { port := 0, here := true, plot := 0 })] }

/-- A state whose VI 0 maps 0x8080000000 to the first GiB of memory, through a table at 0x10000 that is its own next level, with the
words at 0x1000. -/
def mapped (s : State) (ws : List Dword) : State :=
  { s with vis := [(0, vi0)], hmask := [], pcells := [(0, { PCell.reset with tlb := [tlb0] })],
           slices := [(0, { Slice.reset with lines := [dirtyLine 32 ws, dirtyLine 512 [0x10001, 0x10001, 0x18F]] })] }

/-- A line of a read stream that holds its first elements, with the bytes of words. -/
def sline (n : Nat) (ws : List Dword) (bad : Bool) : SLine :=
  { ord := 0, count := n, line := 32, win := none, data := some (lineOf ws, bad), left := n }

/-- A stream of four 4-byte elements from 0x8080001000, by its direction and word 5 of its descriptor. -/
def strm (dir w5 : Dword) : Stream :=
  { plot := 0, vi := 0, desc := [dir + 0x2000008080001000, 0x0000030000000004, 0, 0, 0, w5, 0, 0], addr := 0, gen := 0, handle := 0, route := 2 ^ 20,
    asked := 0, slines := [], next := 0, queue := [], accepted := 0, sent := 0, performed := 0, prod := 0, cons := 0, granted := 0, waiter := none, windowed := false,
    givers := [], share := 0, head := 0, tail := 0, wlines := [], frozen := false, closing := false, feat6 := true, ended := false }

/-- A state with that stream open in context 0 of P-cell 0. -/
def open1 (s : State) (t : Stream) : State := onPort s 0 (fun p => { p with ctxs := [(0, t)] })

/-- A change of the one plot of a state. -/
def withPlot (s : State) (g : Plot → Plot) : State := onPlot s 0 g

/-- The constants of the one block of a state. -/
def withK (s : State) (k : Tab Word) : State :=
  onPlot s 0 (fun p => onBlock p 0 0 (fun b => { b with k := k }))

/-- An endpoint of cell (0, 0), its ring in the S-cell east of it. -/
def ep0 (ms : List InMsg) (mb : Tab Membership) : Endpoint :=
  { cell := 0, scell := 1, off := 0x3000, size := 0x1000, tail := 0, reserved := 0, msgs := ms, members := mb }

/-- Group 0 of VI 0, of generation 1. -/
def grp0 (pound : List GMsg) (nodes : Tab NodeEntry) (members : Tab Member) : Group :=
  { gen := 1, va := 0x8080004000, units := 64, head := 0, pound := pound, nodes := nodes, members := members, nmem := members.length,
    gdel := 0, snaps := 0 }

/-- A node's entry of one child. -/
def node1 (child : Nat) (k : Int) : NodeEntry := { counts := [(child, k)], park := false, made := 0 }

/-- Endpoint 0 of plot 0 as a member. -/
def mem0 : Member := { state := 1, die := 0, x := 0, y := 0, ep := 0, plot := 0, del := 0 }

/-- A message of one word to that group. -/
def msg0 : GMsg :=
  { id := 9, group := 0, gen := 1, words := [7], sseq := 1, sender := 0, bounces := 0, firing := none, try1 := false, src := none }

/-- That group, in a state whose plot has that endpoint. -/
def grouped (s : State) (g : Group) (x : Endpoint) : State :=
  { onPlot s 0 (fun p => { p with endpoints := [(0, x)] }) with groups := [(0, g)] }

/-- A message in flight at a place. -/
def flight1 (s : State) (t : Transit) (m : GMsg) : State :=
  { s with flights := [(0, { msg := m, at_ := t, parked := false, tries := 0 })], nextFlight := 1 }

/-- A key that a table lists has an entry. -/
theorem has_of_mem {α : Type} (t : Tab α) (k : Nat) (a : α) (h : (k, a) ∈ t) : Tab.has t k = true := by
  induction t with
  | nil => simp at h
  | cons x t ih =>
    obtain ⟨k', v⟩ := x
    by_cases e : k = k'
    · simp [Tab.has, Tab.at?, e]
    · have h' : (k, a) ∈ t := by
        rcases List.mem_cons.mp h with h | h
        · exact absurd (congrArg Prod.fst h) e
        · exact h
      have := ih h'
      simpa [Tab.has, Tab.at?, beq_eq_false_iff_ne.mpr e] using this

/-- Every number below a bound has an entry in the table of all of them. -/
theorem has_range {α : Type} (n : Nat) (a : α) : ∀ i < n, Tab.has ((List.range n).map (fun i => (i, a))) i = true :=
  fun i hi => has_of_mem _ i a (List.mem_map.mpr ⟨i, List.mem_range.mpr hi, rfl⟩)

/-- The same, of a table of one VI's groups. -/
theorem has_shift {α : Type} (t : Tab α) (n v i : Nat) (a : α) (ht : t = (List.range n).map (fun i => (i, a))) (hv : v = 0)
    (h : i < n) : Tab.has t (1024 * v + i) = true := by
  subst ht hv
  rw [Nat.mul_zero, Nat.zero_add]
  exact has_range n a i h

/-- A job of queue 0 of VI 0, whose image at 0x8080003000 is placed. -/
def job0 : Job :=
  { vi := 0, queue := 0, index := 0, tag := 0x77, live := 1, cause := none, bad := false, code := 0, jd := false,
    images := [(0x8080003000, { pin := false, pdie := 0, handles := [] })], jmode := 0, jbase := 0, jsize := 0, jcount := 0, jtotal := 0,
    nr := false, diverged := false, used := [], tickets := [] }

/-- A record of that job over a range. -/
def rec0 (lo hi : Nat) (running : Bool) : Rec :=
  { code := 0x8080003000, args := 0, lo := lo, hi := hi, join := 0, prio := 0, grain := 0, root := false, anydie := false, wsn := 0,
    parent := 0, wsd := 0, tag := 0, key := 0, born := 0, job := 0, image := none, running := running, bound := none, decl := 0, line := 0,
    open_ := false, charged := 0, areas := [], src := [], turn := 0 }

/-- A state whose VI 0 has a pool of 64 slots on die 0 and that job, with records in its slots; slot 0's runs on plot 0. -/
def tasked (s : State) (ws : List Dword) (rs : Tab Rec) : State :=
  let s := mapped s ws
  onVi { onPlot s 0 (fun p => { p with code := 0x8080003000, task := some 0 }) with jobs := [(0, job0)], nextJob := 1, recs := rs } 0
    (fun v => { v with poolmem := [(0, 0x8080008000)], owners := [] })

/-- The words of a record of that image over 0 to 8. -/
def template : List Dword := [0x8080003000, 0, 0, 0x8000000, 0, 0, 0, 0x55]

/-- What holds of the one value holds of every value. -/
theorem of_some {α : Type} {P : α → Prop} {o : Option α} (a : α) (h : o = some a) (ha : P a) : ∀ j, o = some j → P j :=
  fun _ hj => Option.some.inj (h.symm.trans hj) ▸ ha

/-- A value that is there. -/
theorem is_some {α : Type} {o : Option α} {d : α} (h : o.isSome = true) : o = some (o.getD d) := by
  cases o with
  | none => cases h
  | some _ => rfl

/-- The same with a page at 0x8040003000 that has been evicted: its entry at 0x10018 names the frame 0x200. -/
def evicted (s : State) : State :=
  onSlice (mapped s []) 0 (fun sl => { sl with lines := [dirtyLine 512 [0x10001, 0x10001, 0x18F, 0x200202]] })

/-- A miss of the firing of plot 0 at an address. -/
def miss1 (va : Nat) (fail : Option WalkFail) (victim : Bool) : Miss :=
  { who := { port := 0, vi := 0, plot := some 0, src := 0, firing := some Firing.zero, stream := none, need := [] }, va := va, write := false,
    walking := fail.isNone, fail := fail, victim := victim, also := [] }

/-- Whether a read or write of words is done. -/
def isGot : Got → Bool
  | .ok _ _ => true
  | .stop _ => false

/-- One that is done is what it leaves and answers. -/
theorem got_ok {g : Got} (h : isGot g = true) : g = .ok (gotS g) (gotV g) := by
  cases g with
  | ok _ _ => rfl
  | stop _ => cases h

/-- Whether a change is done. -/
def isOk : Except Halt State → Bool
  | .ok _ => true
  | .error _ => false

/-- One that is done is what it leaves. -/
theorem ok_ok {r : Except Halt State} (h : isOk r = true) : r = .ok (okT r) := by
  cases r with
  | ok _ => rfl
  | error _ => cases h

/-- The same with a second line of words after the first. -/
def mapped2 (s : State) (ws vs : List Dword) : State :=
  onSlice (mapped s ws) 0 (fun sl => { sl with lines := [dirtyLine 32 ws, dirtyLine 33 vs, dirtyLine 512 [0x10001, 0x10001, 0x18F]] })

/-- A graph image of a 4 × 4 plot: one block of cell (0, 0), of one NOP. -/
def image0 : List Dword := [0x0410400000000000, 0x0001000000000000, 80, 0x0000004000000000, 0, 0, 0, 0, 0, 0x0003FFFF00040040]

/-- A firing whose job, if it has one, keeps no journal. -/
theorem unj {s : State} {c : Ctx} (h : (match recOf? s c.plot with
    | none => true
    | some x => match Tab.at? s.jobs x.2.job with
      | none => true
      | some j => j.jmode != 1 && j.jmode != 2) = true) : Sys2Proof.Claim.unjournalled s c := by
  intro k r j hr hj
  rw [hr] at h
  dsimp only at h
  rw [hj] at h
  simpa using h

/-- A token of one element for port a of slot 0 of block 0 of cell (1, 0), on the route 0 of cell (0, 0). -/
def token0 (eos mark : Bool) : Token :=
  { route := 0, sender := 0, bidx := 0, slot := 0, port := 0, tag := 2, eos := eos, mark := mark, kind := .r32, elems := [(0, .val 9)],
    left := 0 }

/-- A state whose plot has that route, by way of a hop, and a token on it. -/
def routed (s : State) (hop : Nat) (t : Token) (wave : Option Wave) : State :=
  let cells : Tab Cell := [(1, cell1 (blk 0x0003FE28 1 [] (inst 4 [])))]
  onPlot s 0 (fun p => { p with cells := p.cells ++ cells, routes := [(0, { dst := 1, hops := [hop] })], tokens := [t], wave := wave })

/-- What a table says of all its entries it says of any. -/
theorem of_all {α : Type} {g : α → Bool} {t : Tab α} (h : t.all (fun x => g x.2) = true) : ∀ k a, Tab.at? t k = some a → g a = true := by
  intro k a ha
  induction t with
  | nil => cases ha
  | cons x t ih =>
    simp only [List.all_cons, Bool.and_eq_true] at h
    by_cases e : k = x.1
    · simp only [Tab.at?, e, beq_self_eq_true, cond_true, Option.some.injEq] at ha
      exact ha ▸ h.1
    · simp only [Tab.at?, beq_eq_false_iff_ne.mpr e, cond_false] at ha
      exact ih h.2 ha

/-- Every trap of a state's plots is at the hub. -/
theorem hub {s : State} (h : s.plots.all (fun x => match x.2.trap with
    | none => true
    | some r => r.seq.isSome) = true) : ∀ k p r, Tab.at? s.plots k = some p → p.trapNow = false → p.trap = some r → r.seq.isSome = true := by
  intro k p r hp _ hr
  have := of_all (g := fun p : Plot => match p.trap with
    | none => true
    | some r => r.seq.isSome) h k p hp
  simpa [hr] using this

/-- The state that an outcome leaves. -/
def outS (s : State) : Outcome → State
  | .next t => t
  | _ => s

/-- Whether an outcome is a next state. -/
def isNext : Outcome → Bool
  | .next _ => true
  | _ => false

/-- An outcome that is a next state. -/
theorem next_ok {o : Outcome} {s : State} (h : isNext o = true) : o = .next (outS s o) := by
  cases o <;> first | rfl | cases h

/-- The state and the address of a stream's way that goes. -/
def wayS : StreamWay → State
  | .go s _ => s
  | _ => State.reset
def wayP : StreamWay → Nat
  | .go _ p => p
  | _ => 0
def isWay : StreamWay → Bool
  | .go _ _ => true
  | _ => false

/-- One that goes is its state and address. -/
theorem way_ok {w : StreamWay} (h : isWay w = true) : w = .go (wayS w) (wayP w) := by
  cases w <;> first | rfl | cases h

/-- The state that a stream's fault is found in. -/
def wayF : StreamWay → State
  | .fault s _ => s
  | _ => State.reset

/-- The state that a window leaves. -/
def winS : Windowed → State
  | .at_ s _ | .wait s => s
  | .past => State.reset

/-- What an image's configuration leaves, and what its failure names. -/
def loadS : Loaded → State
  | .ok s _ | .failed s _ _ _ _ => s
  | .wait => State.reset
def loadC : Loaded → Cause
  | .failed _ c _ _ _ => c
  | _ => .priv
def loadW (i : Nat) : Loaded → Dword
  | .failed _ _ a b c => ([a, b, c][i]?).getD 0
  | _ => 0

/-- A P-cell whose list of requests is full. -/
theorem no_room {s : State} {port : Nat} {r : Req} (h : (portOf s port).out = List.replicate (Config.portRoom + 1) r) :
    portRoom s port = false := by
  rw [portRoom, h, List.length_replicate]
  exact Bool.eq_false_iff.mpr (fun h => absurd (Nat.le_of_ble_eq_true h) (Nat.not_succ_le_self _))

/-- The same behind a firing of another block of the cell, which has issued and waits. -/
def behind (s : State) (w : Word) (ops : Tab Operand) : State :=
  let b := blk w ((ops.map (fun x => 2 ^ x.1)).sum) [] (inst 1 ops)
  { onPlot s 0 (fun p => { p with cells := Tab.upd p.cells 0 (fun c => { c with blocks := c.blocks ++ [(1, b)] }) }) with
    waiting := [{ firing := { s.cur with bidx := 1 }, run := 0, note := 0 }] }

/-- What holds a window's lines back but for the room of its P-cell: every line that is to leave the window holds stores. -/
def holdsBack (s : State) (port ctx va : Nat) (t : Stream) : Bool :=
  let o := va / 128 * 128 - field (t.w 0) 56 0 / 128 * 128
  let size := 2 ^ field (t.w 7) 55 48
  let tail := bif (t.tail + size).blt (o + 128) then o + 128 - size else t.tail
  t.windowed && !va.blt (field (t.w 0) 56 0 / 128 * 128) && !o.blt t.tail && !o.blt t.head && t.wlines.all (fun x => x.2.mask != 0) &&
    (Tab.at? (portOf s port).ctxs ctx).any (fun t => t.wlines.any (fun x => x.1.blt tail))

/-- Without room no line of stores leaves a window. -/
theorem keeps_lines {s : State} {port ctx : Nat} {t : Stream} (h : portRoom s port = false) (l : List (Nat × WLine))
    (hl : l.all (fun x => x.2.mask != 0) = true) : l.foldl (retireLine port ctx t) s = s := by
  induction l with
  | nil => rfl
  | cons x l ih =>
    simp only [List.all_cons, Bool.and_eq_true] at hl
    rw [List.foldl_cons, show retireLine port ctx t s x = s by simp only [retireLine, hl.1, h, Bool.not_false, Bool.and_self, cond_true],
      ih hl.2]

/-- A window whose lines are held back waits. -/
theorem window_wait {s : State} {port ctx va : Nat} {t : Stream} (h : portRoom s port = false) (hk : holdsBack s port ctx va t = true) :
    windowAt s port ctx va t = .wait s := by
  simp only [holdsBack, Bool.and_eq_true, Bool.not_eq_true'] at hk
  obtain ⟨⟨⟨⟨⟨h1, h2⟩, h3⟩, h4⟩, h5⟩, h6⟩ := hk
  have hf := fun b => keeps_lines (ctx := ctx) (t := t) h (t.wlines.filter (fun (o, _) => o.blt b)) (by
    simp only [List.all_eq_true] at h5 ⊢
    exact fun x hx => h5 x (List.mem_of_mem_filter hx))
  simp only [windowAt, h1, h2, h3, h4, retireLines, hf, Bool.not_true, Bool.or_self, cond_false]
  simp only [h6, cond_true]

/-- Any image fits in an empty IMGMEM of 2 GiB. -/
theorem space {s : State} {v key : Nat} (h : 32768 ≤ field (viOf s v).imgmem 15 0) (h2 : s.images = []) :
    (imageSpace? s v (imageBytes key)).isSome = true := by
  have hu := (Config.imageUnits key).isLt
  have hf : (field (viOf s v).imgmem 56 16 * 65536 + imageBytes key).ble
      (field (viOf s v).imgmem 56 16 * 65536 + field (viOf s v).imgmem 15 0 * 65536) = true := by
    simp only [Nat.ble_eq, imageBytes]
    omega
  simp [imageSpace?, h2, hf]

/-- The one plot, of another VI, that frees a place for a shape. -/
theorem victim_one {s : State} {v key : Nat} {p : Plot} {shape : Plot} {pin : Option (Nat × Nat)} (h : s.plots = [(key, p)])
    (hv : (p.vi != v && (p.role == .graph && p.running && !p.frozen && p.stop == .none) && freesPlace s key shape pin) = true)
    (h1 : 32768 ≤ field (viOf s p.vi).imgmem 15 0) (h2 : s.images = []) : victimFor? s v shape pin = some key := by
  simp only [Bool.and_eq_true] at hv
  obtain ⟨⟨a, ⟨⟨⟨b, c⟩, d⟩, e⟩⟩, f⟩ := hv
  simp [victimFor?, preemptible, h, a, b, c, d, e, f, space h1 h2]

/-! ### Words (the "Compact" lines of the spec's encoding tables) -/

/-- Words that spec/03_encoding, 05_blocks, 06_names gives. -/
theorem test_spec_words_1 :
    ([(0xFE087013, .lgcAvg 0x038 0x013),
      (0xFE03FE18, .lgcDp4 0x1FF 0x018),
      (0x0903FE28, .sel 0x1FF 0x028),
      (0x07004218, .steerT 0x021 0x018),
      (0x2103FE13, .ldn false 0 0x1FF 0x013),
      (0x2187FE18, .ldn true 1 0x1FF 0x018),
      (0x220BFFFF, .stn 2)] : List (Word × Instr)).all (fun x => decide ((decode x.1).toOption = some x.2 ∧ encode x.2 = some x.1)) = true := by
  decide +kernel

/-- Words that spec/07_lanes, 09_matrix gives. -/
theorem test_spec_words_2 :
    ([(0x3023FE10, .add 1 .i32 0x1FF 0x010),
      (0x4A43FE2E, .cmp .lt .i32 0x1FF 0x02E),
      (0x4E045020, .addc 0 .n32 0x028 0x020),
      (0x73E06821, .fma .sr .f32 0x034 0x021),
      (0x7027FE18, .fadd .rne .bf16 0x1FF 0x018),
      (0x84C7FE08, .cvt .sr 1 0x1FF 0x008),
      (0xA053FE20, .tmma .save .save 0 0x1FF 0x020),
      (0xA037FE20, .tmma .keep .none 1 0x1FF 0x020),
      (0xA3F7FE30, .tadd .none .none 1 0x1FF 0x030),
      (0xAD4BFE10, .tcvt .save 2 0x1FF 0x010),
      (0xAF03FFFF, .tzero 0 0x1FF 0x1FF)] : List (Word × Instr)).all (fun x => decide ((decode x.1).toOption = some x.2 ∧ encode x.2 = some x.1)) = true := by
  decide +kernel

/-- Words that spec/10_furrow, 12_ports, 13_slices gives. -/
theorem test_spec_words_3 :
    ([(0xC023FFFF, .recordOn true 0 0x1FF 0x1FF),
      (0xC303FE18, .reverse 0x1FF 0x018),
      (0xC407FFFF, .adjseed 1),
      (0xC507FE10, .logq 1 0x1FF 0x010),
      (0xCC23FE18, .ld .f32 0x1FF 0x018),
      (0xD607FE20, .atomCas .n32 0x1FF 0x020),
      (0xD78FFE10, .fenceRel 3 0x1FF 0x010),
      (0xD00BFE18, .copyMm 2 0x018),
      (0xFC03FE10, .partQuiesce 0x1FF 0x010),
      (0xFC23FE28, .partWb 0x1FF 0x028),
      (0xFC63FE20, .partSethash 0x1FF 0x020),
      (0xFD03FE18, .waymaskSet 0x1FF 0x018),
      (0xFD83FFFF, .wquotaSet 0x1FF 0x1FF)] : List (Word × Instr)).all (fun x => decide ((decode x.1).toOption = some x.2 ∧ encode x.2 = some x.1)) = true := by
  decide +kernel

/-- Words that spec/16_groups, 17_tasks, 19_tenancy gives. -/
theorem test_spec_words_4 :
    ([(0xE403FE20, .gsend false false 0 0x1FF 0x020),
      (0xE4C3FE18, .gsend true true 0 0x1FF 0x018),
      (0xE303FE10, .ready false 0 0x1FF 0x010),
      (0xE3DBFFFF, .unready true 6 0x1FF 0x1FF),
      (0xE5006028, .gtake 0x030 0x028),
      (0xE613FE10, .gcountSnapclr 4 0x1FF 0x010),
      (0xE00BFE08, .gmake 2 0x1FF 0x008),
      (0xE80BFE18, .spawn false 2 0x1FF 0x018),
      (0xE95BFFFF, .spawnr true 6 0x1FF 0x1FF),
      (0xEA53FE12, .join true 4 0x1FF 0x012),
      (0xEE03FFFF, .jobdone),
      (0xEF0BFE20, .taskq 2 0x1FF 0x020),
      (0xF017FFFF, .trap 5),
      (0xF203FE10, .sysrd 0x1FF 0x010),
      (0xF283FFFF, .syswr 0x1FF 0x1FF),
      (0xF393FE18, .tollsig 4 0x1FF 0x018),
      (0xF703FE08, .markwave 0x1FF 0x008),
      (0xF987FFFF, .virq 33)] : List (Word × Instr)).all (fun x => decide ((decode x.1).toOption = some x.2 ∧ encode x.2 = some x.1)) = true := by
  decide +kernel

/-! ### A word of every encoded row, laid out by the fields of spec/opcode_table.json, no two fields of a word alike -/

/-- Decoding of the control forms. -/
theorem test_decode_control_forms :
    ([(0x0003FFFF, .nop),
      (0x0102B8B6, .mov 0x15C 0xB6),
      (0x02DEC6C1, .imm 0x37 0x163 0xC1),
      (0x0366D4CC, .kread true 9 0x16A 0xCC),
      (0x046BFFFF, .setk true 0xA),
      (0x050EF0E2, .tag 3 0x178 0xE2),
      (0x062C16ED, .out 0xB 0xB 0xED),
      (0x07030CF8, .steerT 0x186 0xF8),
      (0x08031B03, .steerF 0x18D 0x103),
      (0x0903290E, .sel 0x194 0x10E),
      (0x0A033719, .merge 0x19B 0x119),
      (0x0B034524, .eos 0x1A2 0x124),
      (0x0C03532F, .iseos 0x1A9 0x12F),
      (0x0D1BFFFF, .exit 6),
      (0x0E0FFFFF, .next 3),
      (0x0F1B7D50, .bar 6 0x1BE 0x150),
      (0x101F8B5B, .barw 7 0x1C5 0x15B),
      (0x1123FFFF, .sig 8),
      (0x1203A771, .pmask 0x1D3 0x171)] : List (Word × Instr)).all (fun x => decide ((decode x.1).toOption = some x.2)) = true := by
  decide +kernel

/-- Decoding of the names. -/
theorem test_decode_names :
    ([(0x202BFFFF, .fold 0xA),
      (0x21C7C387, .ldn true 0x11 0x1E1 0x187),
      (0x225BFFFF, .stn 0x16),
      (0x23EFDF9D, .ldnT true 0x1B 0x1EF 0x19D),
      (0x2403EDA8, .stnT 0 0x1F6 0x1A8),
      (0x256BFBB3, .probe 1 0xA 0x1FD 0x1B3),
      (0x262BFFFF, .kill 0xA),
      (0x271FFFFF, .refold 7),
      (0x282025D4, .foldq 8 0x12 0x1D4)] : List (Word × Instr)).all (fun x => decide ((decode x.1).toOption = some x.2)) = true := by
  decide +kernel

/-- Decoding of the integer forms. -/
theorem test_decode_integer_forms :
    ([(0x303433DF, .add 1 .n16 0x19 0x1DF),
      (0x31D441EA, .sub 6 .n16 0x20 0x1EA),
      (0x32744FF5, .mul 3 .n16 0x27 0x1F5),
      (0x33145C00, .mulh 0 .n16 0x2E 0),
      (0x34B46A0B, .mad 5 .n16 0x35 0xB),
      (0x35547816, .div 2 .n16 0x3C 0x16),
      (0x36F48621, .rem 7 .n16 0x43 0x21),
      (0x3794942C, .and 4 .n16 0x4A 0x2C),
      (0x3834A237, .or 1 .n16 0x51 0x37),
      (0x39D4B042, .xor 6 .n16 0x58 0x42),
      (0x3A74BE4D, .andn 3 .n16 0x5F 0x4D),
      (0x3B14CC58, .shl 0 .n16 0x66 0x58),
      (0x3CB4DA63, .shr 5 .n16 0x6D 0x63),
      (0x3D54E86E, .sar 2 .n16 0x74 0x6E),
      (0x3EF4F679, .rot 7 .n16 0x7B 0x79),
      (0x3F950484, .min 4 .n16 0x82 0x84),
      (0x4035128F, .max 1 .n16 0x89 0x8F),
      (0x4115209A, .abs .n16 0x90 0x9A),
      (0x42152EA5, .neg .n16 0x97 0xA5),
      (0x43153CB0, .clz .n16 0x9E 0xB0),
      (0x44154ABB, .popc .n16 0xA5 0xBB),
      (0x451558C6, .brev .n16 0xAC 0xC6),
      (0x46F566D1, .ext 7 .n16 0xB3 0xD1),
      (0x479574DC, .ins 4 .n16 0xBA 0xDC),
      (0x483582E7, .addsat 1 .n16 0xC1 0xE7),
      (0x49D590F2, .subsat 6 .n16 0xC8 0xF2),
      (0x4A959EFD, .cmp .gt .n16 0xCF 0xFD),
      (0x4B41AD08, .sext 2 .i32 0xD6 0x108),
      (0x4C35BB13, .zext 1 .n16 0xDD 0x113),
      (0x4D49C91E, .addr 2 2 0xE4 0x11E),
      (0x4EEDD729, .addc 7 .n64 0xEB 0x129)] : List (Word × Instr)).all (fun x => decide ((decode x.1).toOption = some x.2)) = true := by
  decide +kernel

/-- Decoding of the floating point. -/
theorem test_decode_floating_point :
    ([(0x70E5E534, .fadd .sr .bf16 0xF2 0x134),
      (0x7165F33F, .fsub .rz .bf16 0xF9 0x13F),
      (0x72A6014A, .fmul .rup .bf16 0x100 0x14A),
      (0x73E60F55, .fma .sr .bf16 0x107 0x155),
      (0x74661D60, .fmin true .bf16 0x10E 0x160),
      (0x75662B6B, .fmax true .bf16 0x115 0x16B),
      (0x76263976, .fabs .bf16 0x11C 0x176),
      (0x77264781, .fneg .bf16 0x123 0x181),
      (0x78C6558C, .fcmp .un .bf16 0x12A 0x18C),
      (0x792E6397, .fclass .e5m2 0x131 0x197),
      (0x7A6671A2, .frnd .rz .bf16 0x138 0x1A2),
      (0x7BA67FAD, .exp2 .rup .bf16 0x13F 0x1AD),
      (0x7CE68DB8, .log2 .sr .bf16 0x146 0x1B8),
      (0x7D669BC3, .rcp .rz .bf16 0x14D 0x1C3),
      (0x7EA6A9CE, .rsqrt .rup .bf16 0x154 0x1CE),
      (0x7FE6B7D9, .sqrt .sr .bf16 0x15B 0x1D9),
      (0x8066C5E4, .sin .rz .bf16 0x162 0x1E4),
      (0x81A6D3EF, .cos .rup .bf16 0x169 0x1EF),
      (0x82E6E1FA, .tanh .sr .bf16 0x170 0x1FA),
      (0x8366EE05, .sigm .rz .bf16 0x177 5)] : List (Word × Instr)).all (fun x => decide ((decode x.1).toOption = some x.2)) = true := by
  decide +kernel

/-- Decoding of the conversions, reductions, shuffles. -/
theorem test_decode_conversions_reductions_shuffles :
    ([(0x84A6FC10, .cvt .rup 9 0x17E 0x10),
      (0x85EB0A1B, .qnt .sr .e4m3 0x185 0x1B),
      (0x862B1826, .dqnt .e4m3 0x18C 0x26),
      (0x87A72631, .redAdd true false .bf16 0x193 0x31),
      (0x88E3343C, .redMax true true .f32 0x19A 0x3C),
      (0x89934247, .redMin true false .i16 0x1A1 0x47),
      (0x8AD75052, .scanAdd true true .n16 0x1A8 0x52),
      (0x8B075E5D, .perm 0 true 0x1AF 0x5D),
      (0x8C076C68, .lrot 0 true 0x1B6 0x68),
      (0x8D2F7A73, .bcast 5 true 0x1BD 0x73),
      (0x8E07887E, .compress 0 true 0x1C4 0x7E),
      (0x8F079689, .expand 0 true 0x1CB 0x89),
      (0x900FA494, .rand .n64 0x1D2 0x94),
      (0x9123B29F, .rcpa .f32 0x1D9 0x9F)] : List (Word × Instr)).all (fun x => decide ((decode x.1).toOption = some x.2)) = true := by
  decide +kernel

/-- Decoding of the matrix forms. -/
theorem test_decode_matrix_forms :
    ([(0xA0DBC0AA, .tmma .none .save 2 0x1E0 0xAA),
      (0xA12BCEB5, .tmmaT .keep .recompute 2 0x1E7 0xB5),
      (0xA24BDCC0, .ttrans .save 2 0x1EE 0xC0),
      (0xA38BEACB, .tadd .recompute .keep 2 0x1F5 0xCB),
      (0xA4DBF8D6, .tsub .none .save 2 0x1FC 0xD6),
      (0xA52806E1, .tmul .keep .recompute 2 3 0xE1),
      (0xA67814EC, .tscaleR .save .none 2 0xA 0xEC),
      (0xA78822F7, .tscaleC .recompute .keep 2 0x11 0xF7),
      (0xA8C83102, .tmaxz .none 2 0x18 0x102),
      (0xA9083F0D, .texp2 .keep 2 0x1F 0x10D),
      (0xAA484D18, .trsum .save 2 0x26 0x118),
      (0xAB885B23, .tcsum .recompute 2 0x2D 0x123),
      (0xACC8692E, .trmax .none 2 0x34 0x12E),
      (0xAD087739, .tcvt .keep 2 0x3B 0x139),
      (0xAE788544, .tqnt .save .none 2 0x42 0x144),
      (0xAF08934F, .tzero 2 0x49 0x14F),
      (0xB0C8A15A, .tcopy .none 2 0x50 0x15A),
      (0xBE28AF65, .tmmaSp .keep .recompute 2 0x57 0x165)] : List (Word × Instr)).all (fun x => decide ((decode x.1).toOption = some x.2)) = true := by
  decide +kernel

/-- Decoding of the recording and streams. -/
theorem test_decode_recording_and_streams :
    ([(0xC020BD70, .recordOn true 0 0x5E 0x170),
      (0xC100CB7B, .recordOff 0x65 0x17B),
      (0xC200D986, .recordMark 0x6C 0x186),
      (0xC300E791, .reverse 0x73 0x191),
      (0xC40BFFFF, .adjseed 2),
      (0xC50D03A7, .logq 3 0x81 0x1A7),
      (0xC60111B2, .logext 0x88 0x1B2),
      (0xC8251FBD, .agOpen 9 0x8F 0x1BD),
      (0xC9012DC8, .agClose 0x96 0x1C8),
      (0xCA013BD3, .srd 0x9D 0x1D3),
      (0xCB03FFFF, .swr)] : List (Word × Instr)).all (fun x => decide ((decode x.1).toOption = some x.2)) = true := by
  decide +kernel

/-- Decoding of the memory. -/
theorem test_decode_memory :
    ([(0xCC1557E9, .ld .n16 0xAB 0x1E9),
      (0xCD2FFFFF, .st .e5m2),
      (0xCE03FFFF, .pref),
      (0xCFAD800A, .copy 2 0xB 0xC0 0xA),
      (0xD033FE15, .copyMm 0xC 0x15),
      (0xD1059C20, .atomAdd .n32 0xCE 0x20),
      (0xD225AA2B, .atomFadd .bf16 0xD5 0x2B),
      (0xD309B836, .atomMin .i64 0xDC 0x36),
      (0xD38DC641, .atomMax .n64 0xE3 0x41),
      (0xD48DD44C, .atomBit 2 .n64 0xEA 0x4C),
      (0xD521E257, .atomSwap .f32 0xF1 0x57),
      (0xD609F062, .atomCas .i64 0xF8 0x62),
      (0xD755FE6D, .fenceAcq 5 0xFF 0x6D),
      (0xD7960C78, .fenceRel 5 0x106 0x78),
      (0xD7D61A83, .fenceAr 5 0x10D 0x83)] : List (Word × Instr)).all (fun x => decide ((decode x.1).toOption = some x.2)) = true := by
  decide +kernel

/-- Decoding of the fences and copies. -/
theorem test_decode_fences_and_copies :
    ([(0xD822288E, .qfence 8 0x114 0x8E),
      (0xD90A3699, .drain 2 0x11B 0x99),
      (0xDA1644A4, .waitq 5 0x122 0xA4),
      (0xDB1A52AF, .own 6 0x129 0xAF),
      (0xDC0260BA, .mPush 0x130 0xBA),
      (0xDD026EC5, .mAccept 0x137 0xC5),
      (0xDE027CD0, .sliceof 0x13E 0xD0),
      (0xDF1A8ADB, .tlbinv true 2 0x145 0xDB)] : List (Word × Instr)).all (fun x => decide ((decode x.1).toOption = some x.2)) = true := by
  decide +kernel

/-- Decoding of the groups. -/
theorem test_decode_groups :
    ([(0xE01A98E6, .gmake 6 0x14C 0xE6),
      (0xE15EA6F1, .gfree true 7 0x153 0xF1),
      (0xE262B4FC, .gjoin true 8 0x15A 0xFC),
      (0xE2E6C307, .gleave true 9 0x161 0x107),
      (0xE36AD112, .ready true 0xA 0x168 0x112),
      (0xE3DADF1D, .unready true 6 0x16F 0x11D),
      (0xE4DEED28, .gsend true true 7 0x176 0x128),
      (0xE502FB33, .gtake 0x17D 0x133),
      (0xE627093E, .gcountSnapclr 9 0x184 0x13E),
      (0xE76B1749, .gpound true 0xA 0x18B 0x149)] : List (Word × Instr)).all (fun x => decide ((decode x.1).toOption = some x.2)) = true := by
  decide +kernel

/-- Decoding of the tasks. -/
theorem test_decode_tasks :
    ([(0xE85B2554, .spawn true 6 0x192 0x154),
      (0xE95F335F, .spawnr true 7 0x199 0x15F),
      (0xEA63416A, .join true 8 0x1A0 0x16A),
      (0xEB274F75, .wsdecl 9 0x1A7 0x175),
      (0xEC035D80, .yield 0x1AE 0x180),
      (0xED036B8B, .cancel 0x1B5 0x18B),
      (0xEE03FFFF, .jobdone),
      (0xEF1787A1, .taskq 5 0x1C3 0x1A1)] : List (Word × Instr)).all (fun x => decide ((decode x.1).toOption = some x.2)) = true := by
  decide +kernel

/-- Decoding of the system forms. -/
theorem test_decode_system_forms :
    ([(0xF073FFFF, .trap 0x1C),
      (0xF103A3B7, .trapret 0x1D1 0x1B7),
      (0xF203B1C2, .sysrd 0x1D8 0x1C2),
      (0xF283BFCD, .syswr 0x1DF 0x1CD),
      (0xF303CDD8, .tollrd 0x1E6 0x1D8),
      (0xF3A7DBE3, .tollsig 9 0x1ED 0x1E3),
      (0xF403E9EE, .syncCode 0x1F4 0x1EE),
      (0xF503FFFF, .halt),
      (0xF6000404, .freeze 2 4),
      (0xF680120F, .thaw 9 0xF),
      (0xF700201A, .markwave 0x10 0x1A),
      (0xF8282E25, .imgsave 0xA 0x17 0x25),
      (0xF8983C30, .imgload 6 0x1E 0x30),
      (0xF997FFFF, .virq 0x25),
      (0xFA005846, .timer 0x2C 0x46),
      (0xFB006651, .jnlQ 0x33 0x51),
      (0xFB04745C, .jnlNote 0x3A 0x5C)] : List (Word × Instr)).all (fun x => decide ((decode x.1).toOption = some x.2)) = true := by
  decide +kernel

/-- Decoding of the partitions and smithies. -/
theorem test_decode_partitions_and_smithies :
    ([(0xFC008267, .partQuiesce 0x41 0x67),
      (0xFC209072, .partWb 0x48 0x72),
      (0xFC409E7D, .partInv 0x4F 0x7D),
      (0xFC60AC88, .partSethash 0x56 0x88),
      (0xFC80BA93, .partResume 0x5D 0x93),
      (0xFD00C89E, .waymaskSet 0x64 0x9E),
      (0xFD80D6A9, .wquotaSet 0x6B 0xA9),
      (0xFE00E4B4, .lgcDp4 0x72 0xB4),
      (0xFE04F2BF, .lgcSad 0x79 0xBF),
      (0xFE0900CA, .lgcAvg 0x80 0xCA),
      (0xFE0D0ED5, .lgcClamp 0x87 0xD5),
      (0xFE111CE0, .lgcSwz 0x8E 0xE0),
      (0xFE152AEB, .lgcCvt8 0x95 0xEB)] : List (Word × Instr)).all (fun x => decide ((decode x.1).toOption = some x.2)) = true := by
  decide +kernel

/-! ### Ill-formed terms, one for each check of `Instr.wf`, and words that decoding refuses -/

theorem test_ill_formed_control :
    ([.kread true 15 0 0, .setk true 15, .tag 4 0 0, .bar 15 0 0, .barw 15 0 0, .sig 15, .fold 15, .refold 15] : List Instr).all
      (fun i => !i.wf) = true := by decide +kernel

theorem test_ill_formed_lanes :
    ([.cmp .un .i32 0 0, .cmp .ord .i32 0 0, .sext 4 .i64 0 0, .sext 3 .n16 0 0, .zext 2 .i8 0 0, .addc 0 .i32 0 0, .fadd .rne .i32 0 0,
      .fclass .i8 0 0, .frnd .rne .e4m3 0 0, .exp2 .rne .n32 0 0, .cvt .rne 15 0 0, .cvt .rz 5 0 0, .qnt .rne .e5m2 0 0, .dqnt .f32 0 0,
      .redAdd false false .e4m3 0 0, .redAdd false true .f32 0 0, .redMax false true .i32 0 0, .scanAdd false true .bf16 0 0, .perm 1 false 0 0,
      .compress 1 false 0 0, .expand 1 false 0 0, .rand .i32 0 0, .rcpa .bf16 0 0] : List Instr).all (fun i => !i.wf) = true := by
  decide +kernel

theorem test_ill_formed_memory :
    ([.logq 4 0 0, .agOpen 15 0 0, .ld .i4x 0 0, .st .b4x, .copy 3 0 0 0, .copy 0 13 0 0, .copyMm 13 0, .atomAdd .i16 0 0, .atomFadd .i32 0 0,
      .atomMin .f32 0 0, .atomBit 3 .n32 0 0, .atomBit 0 .i32 0 0, .atomSwap .bf16 0 0, .atomCas .n8 0 0, .fenceAcq 6 0 0, .fenceRel 7 0 0,
      .fenceAr 6 0 0, .drain 3 0 0, .waitq 6 0 0, .tlbinv false 3 0 0] : List Instr).all (fun i => !i.wf) = true := by decide +kernel

theorem test_ill_formed_system :
    ([.gmake 15 0 0, .gfree false 1 0 0, .gjoin false 1 0 0, .gleave false 1 0 0, .ready false 1 0 0, .unready false 1 0 0,
      .gsend false false 1 0 0, .gcountSnapclr 15 0 0, .gpound false 1 0 0, .spawn false 15 0 0, .spawnr false 15 0 0, .join false 15 0 0,
      .wsdecl 15 0 0, .taskq 6 0 0, .tollsig 15 0 0, .imgsave 15 0 0, .imgload 15 0 0, .virq 31] : List Instr).all
      (fun i => !i.wf) = true := by decide +kernel

/-- Why a word is refused: ILLOP as 99, RSVFLD as its BITPOS. -/
def refusal (w : Word) : Option Nat :=
  match decode w with
  | .ok _ => none
  | .error .illop => some 99
  | .error (.rsvfld b) => some b

/-- Unassigned opcodes, a smithy selector that is unassigned, reserved bits and unassigned values (R53, R63). -/
theorem test_refused :
    ([0x15000000, 0xFFFFFFFF, 0x0103FFFF ||| 0x00040000, 0x0003FFFE, 0x4AC3FE10, 0x4E03FE10, 0xF97FFFFF, 0x91A3FE10] : List Word).map refusal =
      [some 99, some 99, some 18, some 0, some 21, some 18, some 18, some 22] := by decide +kernel

/-! ### Results at the limits (the tables of R180 and R188) -/

/-- What an instruction sends to port a of slot 2 from the operands a and b. -/
def results (i : Instr) (a b : Nat) : List Elem :=
  match encode i with
  | none => []
  | some w => match exec i (at1 w 1 [(0, elem1 0 a), (1, elem1 0 b)]) with
    | .next t => match (Tab.at? t.plots 0).bind (fun p => Tab.at? p.cells 0) with
      | some k => k.pend.flatMap (fun d => d.out.flatMap (fun o => bif o.cons == 0x010 then o.elems.map (·.2) else []))
      | none => []
    | _ => []

theorem test_div_zero : results (.div 0 .i32 0x1FF 0x010) 7 0 = [.val 0] := by decide +kernel
theorem test_rem_zero : results (.rem 0 .i32 0x1FF 0x010) 7 0 = [.val 7] := by decide +kernel
theorem test_div_overflow : results (.div 0 .i32 0x1FF 0x010) 0x80000000 0xFFFFFFFF = [.val 0x80000000] := by decide +kernel
theorem test_div_truncates : results (.div 0 .i32 0x1FF 0x010) 0xFFFFFFF9 2 = [.val 0xFFFFFFFD] := by decide +kernel
theorem test_rem_sign : results (.rem 0 .i32 0x1FF 0x010) 0xFFFFFFF9 2 = [.val 0xFFFFFFFF] := by decide +kernel
theorem test_abs_min : results (.abs .i32 0x1FF 0x010) 0x80000000 0 = [.val 0x80000000] := by decide +kernel
theorem test_add_narrow : results (.add 0 .i8 0x1FF 0x010) 0x7F 1 = [.val 0xFFFFFF80] := by decide +kernel
theorem test_addsat : results (.addsat 0 .i8 0x1FF 0x010) 0x7F 1 = [.val 0x7F] := by decide +kernel
theorem test_subsat : results (.subsat 0 .n16 0x1FF 0x010) 3 5 = [.val 0] := by decide +kernel
theorem test_mulh_unsigned : results (.mulh 0 .n32 0x1FF 0x010) 0xFFFFFFFF 0xFFFFFFFF = [.val 0xFFFFFFFE] := by decide +kernel
theorem test_mulh_signed : results (.mulh 0 .i32 0x1FF 0x010) 0xFFFFFFFF 0xFFFFFFFF = [.val 0] := by decide +kernel
theorem test_shl_width : results (.shl 0 .n32 0x1FF 0x010) 1 32 = [.val 0] := by decide +kernel
theorem test_sar_over : results (.sar 0 .i32 0x1FF 0x010) 0x80000000 40 = [.val 0xFFFFFFFF] := by decide +kernel
theorem test_rot_over : results (.rot 0 .n32 0x1FF 0x010) 0x80000001 33 = [.val 3] := by decide +kernel
theorem test_clz_narrow : results (.clz .i8 0x1FF 0x010) 1 0 = [.val 7] := by decide +kernel
theorem test_ext_sign : results (.ext 0 .i32 0x1FF 0x010) 0xF0 0x404 = [.val 0xFFFFFFFF] := by decide +kernel

theorem test_fadd_zeros : results (.fadd .rup .f32 0x1FF 0x010) 0 0x80000000 = [.val 0] := by decide +kernel
theorem test_fmul_zero : results (.fmul .rne .f32 0x1FF 0x010) 0x80000000 0x40A00000 = [.val 0x80000000] := by decide +kernel
theorem test_fmin_number : results (.fmin false .f32 0x1FF 0x010) 0x7FC00000 0x40000000 = [.val 0x40000000] := by decide +kernel
theorem test_fmin_nan : results (.fmin true .f32 0x1FF 0x010) 0x7FC00000 0x40000000 = [.val 0x7FC00000] := by decide +kernel
theorem test_fcmp_nan : results (.fcmp .ne .f32 0x1FF 0x010) 0x7FC00000 0x7FC00000 = [.val 1] := by decide +kernel
theorem test_frnd_even : results (.frnd .rne .f32 0x1FF 0x010) 0x40200000 0 = [.val 0x40000000] := by decide +kernel
theorem test_frnd_up : results (.frnd .rup .f32 0x1FF 0x010) 0xC0200000 0 = [.val 0xC0000000] := by decide +kernel
theorem test_rcp_zero : results (.rcp .rne .f32 0x1FF 0x010) 0x80000000 0 = [.val 0xFF800000] := by decide +kernel
theorem test_sqrt_negative : results (.sqrt .rne .f32 0x1FF 0x010) 0xBF800000 0 = [.val 0x7FC00000] := by decide +kernel
theorem test_exp2_over : results (.exp2 .rne .f32 0x1FF 0x010) 0x43000000 0 = [.val 0x7F800000] := by decide +kernel
theorem test_exp2_over_rz : results (.exp2 .rz .f32 0x1FF 0x010) 0x43000000 0 = [.val 0x7F7FFFFF] := by decide +kernel
theorem test_fadd_tie : results (.fadd .rne .bf16 0x1FF 0x010) 0x3F80 0x3B80 = [.val 0x3F80] := by decide +kernel
theorem test_rcpa_third : results (.rcpa .f32 0x1FF 0x010) 0x40400000 0 = [.val 0x3EAAA800] := by decide +kernel

/-! ### Homes of lines (the strided program of spec/15_program_stride.md) -/

/-- Line 11 of the 2,176-byte stride is homed in slice 0, as is every line from 0 to 15. -/
theorem test_home_camping : ((List.range 16).all (fun i => homeSlice? State.reset 0 (0x100100000 + 2176 * i) == some 0)) = true := by
  decide +kernel

/-- Line 63 of the 4-KiB stride is homed in slice 9. -/
theorem test_home_spread : homeSlice? State.reset 0 (0x100100000 + 4096 * 63) = some 9 := by decide +kernel

/-! ### First steps -/

/-- Whether the first step after reset issues a word's firing: the lane path of the plot's cell has then issued in this cycle. -/
def firstRuns (w : Nat) : Bool :=
  match step (State.reset.withFetchWord 32 w) with
  | .next t => t.served == [(State.reset.nextPlot, 0, true)] && t.stalled.isEmpty
  | _ => false

theorem test_first_step : ([0x0003FFFF, 0x3023FE10, 0x73E06821, 0x0903FE28] : List Nat).all firstRuns = true := by decide +kernel

/-! ### Witnesses -/

theorem wit_ControlForms :
  let s : State := at1 0x3023FE10 2 [(0, run [5, 7]), (1, run [3, 9]), (3, run [1, 0])]
  let c : Ctx := cx s
  let es : List Nat := [0, 1]
  let i : Instr := .sel 0x1FF 0x028
  let out : List Emit := (controlOut c es i).getD []
  Fires s c 32 es ∧
  controlOut c es i = some out := by decide +kernel

theorem wit_IntegerArithmetic :
  let s : State := at1 0x3023FE10 2 [(0, run [5, 7]), (1, run [3, 9]), (3, run [1, 0])]
  let c : Ctx := cx s
  let es : List Nat := [0, 1]
  let i : Instr := .add 0 .i32 0x1FF 0x010
  let f : Nat → Dword := fun e => (arith c e (.add 0 .i32 0x1FF 0x010)).getD 0
  let ty : IntTy := .i32
  let lat : Nat := 2
  let c1 : Cons := 0x1FF
  let c0 : Cons := 0x010
  (intForm es.length i = some (ty, lat, c1, c0) ∧
  Fires s c (lanes (itWidth ty == 64)) es) ∧
  (∀ e, arith c e i = some (f e)) := ⟨by decide +kernel, fun _ => rfl⟩

theorem wit_IntegerLogic :
  let s : State := at1 0x3023FE10 2 [(0, run [5, 7]), (1, run [3, 9]), (3, run [1, 0])]
  let c : Ctx := cx s
  let es : List Nat := [0, 1]
  let i : Instr := .shl 0 .n16 0x1FF 0x010
  let f : Nat → Dword := fun e => (logic c e (.shl 0 .n16 0x1FF 0x010)).getD 0
  let ty : IntTy := .n16
  let lat : Nat := 2
  let c1 : Cons := 0x1FF
  let c0 : Cons := 0x010
  (intForm es.length i = some (ty, lat, c1, c0) ∧
  Fires s c (lanes (itWidth ty == 64)) es) ∧
  (∀ e, logic c e i = some (f e)) := ⟨by decide +kernel, fun _ => rfl⟩

theorem wit_IntegerFields :
  let s : State := at1 0x3023FE10 2 [(0, run [5, 7]), (1, run [3, 9]), (3, run [1, 0])]
  let c : Ctx := cx s
  let es : List Nat := [0, 1]
  let i : Instr := .ext 0 .i32 0x1FF 0x010
  let f : Nat → Dword := fun e => (fields c e (.ext 0 .i32 0x1FF 0x010)).getD 0
  let ty : IntTy := .i32
  let lat : Nat := 2
  let c1 : Cons := 0x1FF
  let c0 : Cons := 0x010
  (intForm es.length i = some (ty, lat, c1, c0) ∧
  Fires s c (lanes (itWidth ty == 64)) es) ∧
  (∀ e, fields c e i = some (f e)) := ⟨by decide +kernel, fun _ => rfl⟩

theorem wit_IntegerLimits :
  let s : State := at1 0x3023FE10 2 [(0, run [5, 7]), (1, run [3, 9]), (3, run [1, 0])]
  let c : Ctx := cx s
  let es : List Nat := [0, 1]
  let i : Instr := .subsat 0 .n16 0x1FF 0x010
  let f : Nat → Dword := fun e => (minmaxForm c e (.subsat 0 .n16 0x1FF 0x010)).getD 0
  let ty : IntTy := .n16
  let lat : Nat := 2
  let c1 : Cons := 0x1FF
  let c0 : Cons := 0x010
  (intForm es.length i = some (ty, lat, c1, c0) ∧
  Fires s c (lanes (itWidth ty == 64)) es) ∧
  (∀ e, minmaxForm c e i = some (f e)) := ⟨by decide +kernel, fun _ => rfl⟩

theorem wit_Compare :
  let s : State := at1 0x3023FE10 2 [(0, run [5, 7]), (1, run [3, 9]), (3, run [1, 0])]
  let c : Ctx := cx s
  let es : List Nat := [0, 1]
  let f : Nat → Dword := fun e => (comparing c e (.cmp .le .i32 0x1FF 0x2E)).getD 0
  let cond : Cmp := .le
  let ty : IntTy := .i32
  let c1 : Cons := 0x1FF
  let c0 : Cons := 0x02E
  Fires s c (lanes (itWidth ty == 64)) es ∧
  (∀ e, comparing c e (.cmp cond ty c1 c0) = some (f e)) := ⟨by decide +kernel, fun _ => rfl⟩

theorem wit_AddWithCarry_1 :
  let s : State := at1 0x4E045020 2 [(0, run [0xFFFFFFFF, 7]), (1, run [0, 9]), (2, run [1, 0])]
  let c : Ctx := cx s
  let es : List Nat := [0, 1]
  let ty : IntTy := .n32
  itSigned ty = false ∧
  Fires s c (lanes (itWidth ty == 64)) es := by decide +kernel

theorem wit_FloatArithmetic :
  let s : State := at1 0x7027FE18 2 [(0, run [0x3F800000, 0x7FC00000]), (1, run [0x40000000, 0x80000000]), (2, run [0x3F800000, 0])]
  let c : Ctx := cx s
  let es : List Nat := [0, 1]
  let i : Instr := .fma .rne .f32 0x1FF 0x018
  let f : Nat → Dword := fun e => (floatArith c e (.fma .rne .f32 0x1FF 0x018)).getD 0
  let ty : Ty := .f32
  let lat : Nat := 4
  let wide : Bool := false
  let c1 : Cons := 0x1FF
  let c0 : Cons := 0x018
  (floatForm es.length i = some (lat, wide, c1, c0) ∧
  floatTy i = some ty ∧
  isFloat ty = true ∧
  Fires s c 32 es) ∧
  (∀ e, floatArith c e i = some (f e)) := ⟨by decide +kernel, fun _ => rfl⟩

theorem wit_FloatPatterns :
  let s : State := at1 0x7027FE18 2 [(0, run [0x3F800000, 0x7FC00000]), (1, run [0x40000000, 0x80000000]), (2, run [0x3F800000, 0])]
  let c : Ctx := cx s
  let es : List Nat := [0, 1]
  let i : Instr := .fmin true .f32 0x1FF 0x018
  let f : Nat → Dword := fun e => (floatPick c e (.fmin true .f32 0x1FF 0x018)).getD 0
  let ty : Ty := .f32
  let lat : Nat := 4
  let wide : Bool := false
  let c1 : Cons := 0x1FF
  let c0 : Cons := 0x018
  (floatForm es.length i = some (lat, wide, c1, c0) ∧
  floatTy i = some ty ∧
  isFloat ty = true ∧
  Fires s c 32 es) ∧
  (∀ e, floatPick c e i = some (f e)) := ⟨by decide +kernel, fun _ => rfl⟩

theorem wit_FloatConversions :
  let s : State := at1 0x7027FE18 2 [(0, run [0x3F800000, 0x7FC00000]), (1, run [0x40000000, 0x80000000]), (2, run [0x3F800000, 0])]
  let c : Ctx := cx s
  let es : List Nat := [0, 1]
  let i : Instr := .cvt .rne 0x9 0x1FF 0x018
  let f : Nat → Dword := fun e => (convert c e (.cvt .rne 0x9 0x1FF 0x018)).getD 0
  let ty : Ty := .f32
  let lat : Nat := 4
  let wide : Bool := true
  let c1 : Cons := 0x1FF
  let c0 : Cons := 0x018
  (floatForm es.length i = some (lat, wide, c1, c0) ∧
  floatTy i = some ty ∧
  isFloat ty = true ∧
  Fires s c (lanes (longForm i)) es) ∧
  (∀ e, convert c e i = some (f e)) := ⟨by decide +kernel, fun _ => rfl⟩

theorem wit_FloatFunctions :
  let s : State := at1 0x7027FE18 2 [(0, run [0x3F800000, 0x7FC00000]), (1, run [0x40000000, 0x80000000]), (2, run [0x3F800000, 0])]
  let c : Ctx := cx s
  let es : List Nat := [0, 1]
  let i : Instr := .sqrt .rne .f32 0x1FF 0x018
  let f : Nat → Dword := fun e => (floatFunc c e (.sqrt .rne .f32 0x1FF 0x018)).getD 0
  let ty : Ty := .f32
  let lat : Nat := 12
  let wide : Bool := false
  let c1 : Cons := 0x1FF
  let c0 : Cons := 0x018
  (floatForm es.length i = some (lat, wide, c1, c0) ∧
  floatTy i = some ty ∧
  isFloat ty = true ∧
  Fires s c 32 es) ∧
  (∀ e, floatFunc c e i = some (f e)) := ⟨by decide +kernel, fun _ => rfl⟩

theorem wit_ScalarForms :
  let s : State := at1 0x05000001 1 [(0, scal 9)]
  let c : Ctx := cx s
  let es : List Nat := [0]
  let e : Nat := 0
  let i : Instr := .setk true 2
  let t : State := ((scalarForm s c e i).map (·.1)).getD s
  let out : List Emit := []
  FiresOnce s c es e ∧
  scalarForm s c e i = some (t, out) := by decide +kernel

theorem wit_NextTraps :
  let s : State := at1 0x05000001 1 [(0, scal 9)]
  let c : Ctx := cx s
  let es : List Nat := [0]
  let e : Nat := 0
  let code : BitVec 3 := 3
  FiresOnce s c es e ∧
  scalarForm s c e (.next code) = none := by decide +kernel

theorem wit_Merge :
  let s : State := at1 0x0A03FE18 2 [(0, { kind := .r32, elems := [(0, .null), (1, .val 5)] }), (1, run [3, 9])]
  let c : Ctx := cx s
  let es : List Nat := [0, 1]
  FiresAll s c es := by decide +kernel

theorem wit_Out :
  let s : State := at1 0x06000212 32 [(0, run64 (List.range 32))]
  let c : Ctx := cx s
  let es : List Nat := List.range 32
  FiresAll s c es := by decide +kernel

theorem wit_Shuffles :
  let s : State := at1 0x3023FE10 2 [(0, run [5, 7]), (1, run [3, 9]), (3, run [1, 0])]
  let c : Ctx := cx s
  let es : List Nat := [0, 1]
  let i : Instr := .compress 0 false 0x1FF 0x018
  let w64 : Bool := false
  let c1 : Cons := 0x1FF
  let c0 : Cons := 0x018
  let f : Nat → Elem := fun e => (shuffleElem c false e (.compress 0 false 0x1FF 0x018)).getD .null
  (shuffleForm i = some (w64, c1, c0) ∧
  ctxOf? s s.cur = some c ∧
  readyWhole c.blk c.inst c.f.slot = es ∧
  es ≠ []) ∧
  (∀ e, shuffleElem c w64 e i = some (f e)) := ⟨by decide +kernel, fun _ => rfl⟩

theorem wit_ReductionWindow :
  let s : State := at1 0x3023FE10 2 [(0, run [5, 7]), (1, run [3, 9]), (3, run [1, 0])]
  let c : Ctx := cx s
  let es : List Nat := [0, 1]
  let i : Instr := .redAdd false false .i32 0x1FF 0x018
  let ty : Ty := .i32
  let r := Tab.atD c.blk.reds c.f.slot Red.zero
  redTy i = some ty ∧
  Fires s c (lanes (decide (ty = .i64 ∨ ty = .n64))) es ∧
  c.inst.run < runOf c.blk.bounds r.next + 32 := by decide +kernel

theorem wit_Dequantise :
  let s : State := at1 0x7027FE18 2 [(0, run [0x3F800000, 0x7FC00000]), (1, run [0x40000000, 0x80000000]), (2, run [0x3F800000, 0])]
  let c : Ctx := cx s
  let es : List Nat := [0, 1]
  FiresAll s c es := by decide +kernel

theorem wit_LoadName_1 :
  let s : State := named1 0x2003FE18 4 (fold5 [(1, mkHdr 1 1 2 0)]) [(0, elem1 1 9)]
  let c : Ctx := cx s
  let e : Nat := 1
  let nidx : BitVec 5 := 0
  let x : Named := { f := fold5 [(1, mkHdr 1 1 2 0)], ord := 1, slot := 1 }
  let s1 : State := okS (getHdr s c x.f x.slot)
  let h : Dword := okV (getHdr s c x.f x.slot)
  let s2 : State := okS (getData s1 c x.f x.slot 4)
  let v : Nat := (okV (getData s1 c x.f x.slot 4)).getD 0
  let keep : Bool := true
  let ty := nameTy (c.name nidx.toNat)
  FiresName s c e ∧
  named? s c e nidx.toNat = some x ∧
  Ok (getHdr s c x.f x.slot) (s1, h) ∧
  delivers h x.ord ∧
  Ok (getData s1 c x.f x.slot (tyWidth ty / 8)) (s2, some v) ∧
  (keep = true ∨ hdrState h = 2 ∨ readOnly s2 c.plot x.f = true) := by decide +kernel

theorem wit_LoadName_2 :
  let s : State := named1 0x2003FE18 4 (fold5 [(1, mkHdr 1 1 2 0)]) [(0, elem1 1 9)]
  let c : Ctx := cx s
  let e : Nat := 1
  let nidx : BitVec 5 := 0
  let x : Named := { f := fold5 [(1, mkHdr 1 1 2 0)], ord := 1, slot := 1 }
  let s1 : State := okS (getHdr s c x.f x.slot)
  let h : Dword := okV (getHdr s c x.f x.slot)
  let s2 : State := okS (getData s1 c x.f x.slot 4)
  let v : Nat := (okV (getData s1 c x.f x.slot 4)).getD 0
  let s3 : State := okT (writeTurn s2 c e x.f)
  let s4 : State := okT (putHdr s3 c x.f x.slot (oneReaderFewer h))
  let keep : Bool := false
  let ty := nameTy (c.name nidx.toNat)
  FiresName s c e ∧
  named? s c e nidx.toNat = some x ∧
  Ok (getHdr s c x.f x.slot) (s1, h) ∧
  delivers h x.ord ∧
  Ok (getData s1 c x.f x.slot (tyWidth ty / 8)) (s2, some v) ∧
  keep = false ∧
  hdrState h = 1 ∧
  readOnly s2 c.plot x.f = false ∧
  Ok (writeTurn s2 c e x.f) s3 ∧
  Ok (putHdr s3 c x.f x.slot (oneReaderFewer h)) s4 := by decide +kernel

theorem wit_StoreName_1 :
  let s : State := named1 0x2203FFFF 4 (fold5 [(1, mkHdr 1 2 0 0)]) [(0, elem1 1 9)]
  let c : Ctx := cx s
  let e : Nat := 1
  let nidx : BitVec 5 := 0
  let x : Named := { f := fold5 [(1, mkHdr 1 2 0 0)], ord := 1, slot := 1 }
  let s1 : State := okS (getHdr s c x.f x.slot)
  let h : Dword := okV (getHdr s c x.f x.slot)
  let s2 : State := okT (writeTurn s1 c e x.f)
  let s3 : State := okT (putSlot s2 c x.f x.slot 4 9 (mkHdr x.ord 1 x.f.readers x.f.gen))
  let bytes := tyWidth (nameTy (c.name nidx.toNat)) / 8
  let v := (c.wide 0 e).toNat % 2 ^ (8 * bytes)
  let all := if x.f.adj = true then max bytes x.f.slotBytes else bytes
  FiresName s c e ∧
  named? s c e nidx.toNat = some x ∧
  readOnly s c.plot x.f = false ∧
  Ok (getHdr s c x.f x.slot) (s1, h) ∧
  Ok (writeTurn s1 c e x.f) s2 ∧
  overwrites h x.ord ∧
  Ok (putSlot s2 c x.f x.slot all v (mkHdr x.ord 1 x.f.readers x.f.gen)) s3 := by decide +kernel

theorem wit_StoreName_2 :
  let s : State := named1 0x2203FFFF 4 { fold5 [(1, mkHdr 1 1 2 0)] with w0 := 0x0050000030200000 } [(0, elem1 1 0x3F800000)]
  let c : Ctx := cx s
  let e : Nat := 1
  let nidx : BitVec 5 := 0
  let x : Named := { f := { fold5 [(1, mkHdr 1 1 2 0)] with w0 := 0x0050000030200000 }, ord := 1, slot := 1 }
  let s1 : State := okS (getHdr s c x.f x.slot)
  let h : Dword := okV (getHdr s c x.f x.slot)
  let s2 : State := okT (writeTurn s1 c e x.f)
  let s3 : State := okS (getData s2 c x.f x.slot 4)
  let old := (okV (getData s2 c x.f x.slot 4)).getD 0
  let s4 : State := okT (putSlot s3 c x.f x.slot 4 (roundF fmtF32 rne false (addF (Machine.decodeF fmtF32 old) (Machine.decodeF fmtF32 0x3F800000))) h)
  let bytes := tyWidth (nameTy (c.name nidx.toNat)) / 8
  let v := (c.wide 0 e).toNat % 2 ^ (8 * bytes)
  FiresName s c e ∧
  named? s c e nidx.toNat = some x ∧
  readOnly s c.plot x.f = false ∧
  Ok (getHdr s c x.f x.slot) (s1, h) ∧
  Ok (writeTurn s1 c e x.f) s2 ∧
  hdrOcc h = x.ord ∧
  hdrState h = 1 ∧
  x.f.adj = true ∧
  Ok (getData s2 c x.f x.slot 4) (s3, some old) ∧
  Ok (putSlot s3 c x.f x.slot 4
    (roundF fmtF32 rne false (addF (Machine.decodeF fmtF32 old) (Machine.decodeF fmtF32 (v % 2 ^ 32)))) h) s4 := by decide +kernel

theorem wit_KillName_1 :
  let s : State := named1 0x2503FFFF 4 (fold5 [(1, mkHdr 1 1 2 0)]) [(0, elem1 1 9)]
  let c : Ctx := cx s
  let e : Nat := 1
  let nidx : BitVec 5 := 0
  let x : Named := { f := fold5 [(1, mkHdr 1 1 2 0)], ord := 1, slot := 1 }
  let s1 : State := okS (getHdr s c x.f x.slot)
  let h : Dword := okV (getHdr s c x.f x.slot)
  let s2 : State := okT (writeTurn s1 c e x.f)
  let s3 : State := okT (putHdr s2 c x.f x.slot (mkHdr x.ord 2 0 (h.extractLsb' 6 8)))
  FiresName s c e ∧
  named? s c e nidx.toNat = some x ∧
  readOnly s c.plot x.f = false ∧
  Ok (getHdr s c x.f x.slot) (s1, h) ∧
  hdrOcc h = x.ord ∧
  (hdrState h = 1 ∨ hdrState h = 3) ∧
  Ok (writeTurn s1 c e x.f) s2 ∧
  Ok (putHdr s2 c x.f x.slot (mkHdr x.ord 2 0 (h.extractLsb' 6 8))) s3 := by decide +kernel

theorem wit_KillName_2 :
  let s : State := named1 0x2503FFFF 4 (fold5 []) [(0, elem1 1 9)]
  let c : Ctx := cx s
  let e : Nat := 1
  let nidx : BitVec 5 := 0
  let x : Named := { f := fold5 [], ord := 1, slot := 1 }
  let s1 : State := okS (getHdr s c x.f x.slot)
  let h : Dword := okV (getHdr s c x.f x.slot)
  FiresName s c e ∧
  named? s c e nidx.toNat = some x ∧
  readOnly s c.plot x.f = false ∧
  Ok (getHdr s c x.f x.slot) (s1, h) ∧
  (hdrOcc h ≠ x.ord ∨ hdrState h = 0 ∨ hdrState h = 2) := by decide +kernel

theorem wit_TileHandles_1 :
  let s : State := named1 0x2303FE18 1 (fold5 [(0, mkHdr 0 1 2 0)]) [(0, elem1 0 9)]
  let c : Ctx := cx s
  let es : List Nat := [0]
  let e : Nat := 0
  let nidx : BitVec 5 := 0
  let x : Named := { f := fold5 [(0, mkHdr 0 1 2 0)], ord := 0, slot := 0 }
  let s1 : State := okS (getHdr s c x.f x.slot)
  let h : Dword := okV (getHdr s c x.f x.slot)
  FiresOnce s c es e ∧
  named? s c e nidx.toNat = some x ∧
  Ok (getHdr s c x.f x.slot) (s1, h) ∧
  delivers h x.ord := by decide +kernel

theorem wit_TileHandles_2 :
  let s : State := named1 0x2303FE18 1 (fold5 []) [(0, elem1 0 9)]
  let c : Ctx := cx s
  let es : List Nat := [0]
  let e : Nat := 0
  let nidx : BitVec 5 := 0
  let x : Named := { f := fold5 [], ord := 0, slot := 0 }
  let s1 : State := okS (getHdr s c x.f x.slot)
  let h : Dword := okV (getHdr s c x.f x.slot)
  let s2 : State := okT (writeTurn s1 c e x.f)
  let s3 : State := okT (putHdr s2 c x.f x.slot (mkHdr x.ord 0 x.f.readers x.f.gen))
  FiresOnce s c es e ∧
  named? s c e nidx.toNat = some x ∧
  Ok (getHdr s c x.f x.slot) (s1, h) ∧
  overwrites h x.ord ∧
  readOnly s c.plot x.f = false ∧
  Ok (writeTurn s1 c e x.f) s2 ∧
  Ok (putHdr s2 c x.f x.slot (mkHdr x.ord 0 x.f.readers x.f.gen)) s3 := by decide +kernel

theorem wit_NameExpired_1 :
  let s : State := named1 0x2003FE18 4 (fold5 [(1, mkHdr 5 1 2 0)]) [(0, elem1 1 9)]
  let c : Ctx := cx s
  let e : Nat := 1
  let nidx : BitVec 5 := 0
  let x : Named := { f := fold5 [(1, mkHdr 5 1 2 0)], ord := 1, slot := 1 }
  let s1 : State := okS (getHdr s c x.f x.slot)
  let h : Dword := okV (getHdr s c x.f x.slot)
  FiresName s c e ∧
  named? s c e nidx.toNat = some x ∧
  Ok (getHdr s c x.f x.slot) (s1, h) ∧
  x.ord < hdrOcc h ∧
  ¬(hdrState h = 0 ∧ hdrReaders h = 0) := by decide +kernel

theorem wit_NameExpired_2 :
  let s : State := named1 0x2003FE18 4 (fold5 [(1, mkHdr 5 1 2 0)]) [(0, elem1 1 9)]
  let c : Ctx := cx s
  let e : Nat := 1
  let nidx : BitVec 5 := 0
  let x : Named := { f := fold5 [(1, mkHdr 5 1 2 0)], ord := 1, slot := 1 }
  let s1 : State := okS (getHdr s c x.f x.slot)
  let h : Dword := okV (getHdr s c x.f x.slot)
  FiresName s c e ∧
  named? s c e nidx.toNat = some x ∧
  Ok (getHdr s c x.f x.slot) (s1, h) ∧
  x.ord < hdrOcc h ∧
  ¬(hdrState h = 0 ∧ hdrReaders h = 0) ∧
  readOnly s c.plot x.f = false := by decide +kernel

theorem wit_OnChipSlot :
  let s : State := named1 0x2003FE18 4 (fold5 [(1, mkHdr 1 1 2 0)]) [(0, elem1 1 9)]
  let c : Ctx := cx s
  let f : Fold := fold5 [(1, mkHdr 1 1 2 0)]
  ctxOf? s c.f = some c ∧
  f.far = false ∧
  Tab.at? c.plot.folds f.sid = some f := by decide +kernel

theorem wit_FoldForms_1 :
  let s : State := mapped (withPlot (withK (named1 0x20000000 1 (fold5 []) []) [(0, 0x80001000), (1, 0x80)]) (fun p => { p with folds := [] })) [0x0050000020200000, 0x0000004000000000, 0x0000004000000000]
  let c : Ctx := cx s
  let es : List Nat := [0]
  let e : Nat := 0
  let n : BitVec 4 := 0
  let s1 : State := gotS (foldRecord s c e 0)
  let ws : List Dword := gotV (foldRecord s c e 0)
  let i : Instr := .refold 0
  let f := foldOf ws 0 0
  (i = .fold n ∨ i = .refold n) ∧
  FiresOnce s c es e ∧
  goodRecord s s1 c e n.toNat ws ∧
  checkFold? s1 (plotNow s1 c) f = none ∧
  Tab.at? (plotNow s1 c).folds f.sid = none ∧
  (f.far = false ∨ f.adopt = true) := by decide +kernel

theorem wit_FoldForms_2 :
  let s : State := mapped (withPlot (withK (named1 0x20000000 1 (fold5 []) []) [(0, 0x80001000), (1, 0x80)]) (fun p => { p with folds := [] })) [0x005C000020200000, 0x0000004000000000, 0x0000004000000000, 0, 0x8080002000]
  let c : Ctx := cx s
  let es : List Nat := [0]
  let e : Nat := 0
  let n : BitVec 4 := 0
  let s1 : State := gotS (foldRecord s c e 0)
  let ws : List Dword := gotV (foldRecord s c e 0)
  let i : Instr := .fold 0
  let s2 : State := okT (farPutHdrs s1 c (foldOf ws 0 0) [])
  let f := foldOf ws 0 0
  ((i = .fold n ∨ i = .refold n) ∧
  FiresOnce s c es e ∧
  goodRecord s s1 c e n.toNat ws ∧
  checkFold? s1 (plotNow s1 c) f = none ∧
  Tab.at? (plotNow s1 c).folds f.sid = none ∧
  f.far = true ∧
  f.adopt = false) ∧
  Ok (farPutHdrs s1 c f []) s2 := ⟨by decide +kernel, ok_ok (by decide +kernel)⟩

theorem wit_FoldAgain_1 :
  let s : State := mapped (withPlot (withK (named1 0x20000000 1 (fold5 []) []) [(0, 0x80001000), (1, 0x80)]) (fun p => { p with folds := [(5, fold5 [])] })) [0x0050000020200000, 0x0000004000000000, 0x0000004000000000]
  let c : Ctx := cx s
  let es : List Nat := [0]
  let e : Nat := 0
  let n : BitVec 4 := 0
  let s1 : State := gotS (foldRecord s c e 0)
  let ws : List Dword := gotV (foldRecord s c e 0)
  let old : Fold := fold5 []
  let s2 : State := s1
  let t : Tab Dword := []
  let f := foldOf ws 0 0
  FiresOnce s c es e ∧
  goodRecord s s1 c e n.toNat ws ∧
  checkFold? s1 (plotNow s1 c) f = none ∧
  Tab.at? (plotNow s1 c).folds f.sid = some old ∧
  Ok (if old.far = true then allHdrs s1 c old else .ok (s1, old.hdrs)) (s2, t) ∧
  (∀ x ∈ t, hdrKept x.2 = false) ∧
  (f.far = false ∨ f.adopt = true) := by decide +kernel

theorem wit_FoldAgain_3 :
  let s : State := mapped (withPlot (withK (named1 0x20000000 1 (fold5 []) []) [(0, 0x80001000), (1, 0x80)]) (fun p => { p with folds := [(5, fold5 [(1, mkHdr 1 1 2 0)])] })) [0x0050000020200000, 0x0000004000000000, 0x0000004000000000]
  let c : Ctx := cx s
  let es : List Nat := [0]
  let e : Nat := 0
  let n : BitVec 4 := 0
  let s1 : State := gotS (foldRecord s c e 0)
  let ws : List Dword := gotV (foldRecord s c e 0)
  let old : Fold := fold5 [(1, mkHdr 1 1 2 0)]
  let s2 : State := s1
  let t : Tab Dword := old.hdrs
  let f := foldOf ws 0 0
  FiresOnce s c es e ∧
  goodRecord s s1 c e n.toNat ws ∧
  checkFold? s1 (plotNow s1 c) f = none ∧
  Tab.at? (plotNow s1 c).folds f.sid = some old ∧
  Ok (if old.far = true then allHdrs s1 c old else .ok (s1, old.hdrs)) (s2, t) ∧
  (∃ x ∈ t, hdrKept x.2 = true) := by decide +kernel

theorem wit_Probe_1 :
  let s : State := withK (named1 0x26000000 1 (fold5 []) [(0, scal 1)]) [(0, 6)]
  let c : Ctx := cx s
  let es : List Nat := [0]
  let e : Nat := 0
  let n : BitVec 4 := 0
  FiresOnce s c es e ∧
  (c.k n.toNat).toNat < 2 ^ 12 ∧
  Tab.at? c.plot.folds (c.k n.toNat).toNat = none := by decide +kernel

theorem wit_Probe_2 :
  let s : State := withK (named1 0x26000000 1 (fold5 []) [(0, scal 4)]) [(0, 5)]
  let c : Ctx := cx s
  let es : List Nat := [0]
  let e : Nat := 0
  let n : BitVec 4 := 0
  let f : Fold := fold5 []
  FiresOnce s c es e ∧
  (c.k n.toNat).toNat < 2 ^ 12 ∧
  Tab.at? c.plot.folds (c.k n.toNat).toNat = some f ∧
  f.slots ≤ (c.low 0 e).toNat := by decide +kernel

theorem wit_Probe_3 :
  let s : State := withK (named1 0x26000000 1 (fold5 [(1, mkHdr 1 1 2 0)]) [(0, scal 1)]) [(0, 5)]
  let c : Ctx := cx s
  let es : List Nat := [0]
  let e : Nat := 0
  let n : BitVec 4 := 0
  let f : Fold := fold5 [(1, mkHdr 1 1 2 0)]
  let h : Dword := okV (getHdr s c f 1)
  let s1 : State := okS (getHdr s c f 1)
  FiresOnce s c es e ∧
  (c.k n.toNat).toNat < 2 ^ 12 ∧
  Tab.at? c.plot.folds (c.k n.toNat).toNat = some f ∧
  (c.low 0 e).toNat < f.slots ∧
  Ok (getHdr s c f (c.low 0 e).toNat) (s1, h) := by decide +kernel

theorem wit_Probe_4 :
  let s : State := withK (named1 0x26000000 1 (fold5 []) [(0, scal 1)]) [(0, 5)]
  let c : Ctx := cx s
  let es : List Nat := [0]
  let e : Nat := 0
  let n : BitVec 4 := 0
  let f : Fold := fold5 []
  FiresOnce s c es e ∧
  (c.k n.toNat).toNat < 2 ^ 12 ∧
  Tab.at? c.plot.folds (c.k n.toNat).toNat = some f := by decide +kernel

theorem wit_Probe_5 :
  let s : State := withK (named1 0x26000000 1 (fold5 [(1, mkHdr 1 1 2 0)]) [(0, scal 1)]) [(0, 5)]
  let c : Ctx := cx s
  let es : List Nat := [0]
  let e : Nat := 0
  let n : BitVec 4 := 0
  let f : Fold := fold5 [(1, mkHdr 1 1 2 0)]
  let t : Tab Dword := okV (allHdrs s c f)
  let s1 : State := okS (allHdrs s c f)
  FiresOnce s c es e ∧
  (c.k n.toNat).toNat < 2 ^ 12 ∧
  Tab.at? c.plot.folds (c.k n.toNat).toNat = some f ∧
  Ok (allHdrs s c f) (s1, t) := by decide +kernel

theorem wit_FoldQuery :
  let s : State := withK (named1 0x28000000 1 (fold5 []) []) [(0, 0x5005)]
  let c : Ctx := cx s
  let es : List Nat := [0]
  let e : Nat := 0
  let n : BitVec 4 := 0
  FiresOnce s c es e ∧
  (c.k n.toNat).toNat < 2 ^ 15 := by decide +kernel

theorem wit_TileIssue :
  let s : State := withK (at1 0xAF000000 1 [(2, scal 0x100000)]) [(8, 0x00802000)]
  let i : Instr := .tzero 0 0x1FF 0x018
  let c : Ctx := cx s
  let es : List Nat := [0]
  let e : Nat := 0
  let op : TOp := .zero
  let sa : Save := .keep
  let sb : Save := .keep
  let ks : BitVec 2 := 0
  let t : Staged := { s := s, logged := none, kept := [] }
  let tc := c.k (8 + ks.toNat)
  let refs := tileRefs op tc c e
  FiresOnce s c es e ∧
  tileForm i = some (op, sa, sb, ks) ∧
  arrayFree c.plot c.f.cell = true ∧
  tileChecks op tc c c.plot refs = none ∧
  sourceStops c c.plot op tc refs = [] ∧
  refs.filterMap (fun o => if o.role = 2 then destStop? c.plot o else none) = [] ∧
  recordFiring s c op tc refs sa sb = .ok t := by decide +kernel

theorem wit_TileCompletes :
  let j : TileJob := { firing := Firing.zero, reads := [], raws := [], logged := none, kept := [], seed := 0, fault := none, raw := true, dst := 0x100000, bytes := 2048, data := 5, fx := true, toll := 1, macs := 0, occ := 0, left := 0 }
  let s : State := onPlot (at1 0xAF000000 1 [(2, scal 0x100000)]) 0 (fun p => onCell p 0 (fun k => { k with array := [j] }))
  let p : Plot := (cx s).plot
  let k : Cell := Tab.atD p.cells 0 Cell.empty
  let plot : Nat := 0
  let cell : Nat := 0
  Tab.at? s.plots plot = some p ∧
  Tab.at? p.cells cell = some k ∧
  k.array.find? (fun j => j.left == 0) = some j ∧
  j.fault = none ∧
  lostClaim? p j = none := by decide +kernel

theorem wit_RecordForms_1 :
  let s : State := logged 0xC0000000 [] 0 noOff 0 []
  let c : Ctx := cx s
  let es : List Nat := [0]
  let e : Nat := 0
  FiresOnce s c es e := by decide +kernel

theorem wit_RecordForms_2 :
  let s : State := { onPlot (logged 0xC0000000 [] 0 noOff 0 []) 0 (fun p => onInst p 0 0 0 (fun i => { i with held := [(0, 1)] })) with again := true }
  let c : Ctx := cx s
  let es : List Nat := [0]
  let e : Nat := 0
  let fresh : Bool := true
  let log : BitVec 3 := 0
  let owned := fun (size : Nat) => descFar (logDesc c.plot log.toNat) = true → (logOwner? s c.plot (logDesc c.plot log.toNat) size).isSome = true
  RecTakesEffect s c es e ∧
  logRev c.plot = false ∧
  (fresh = true ∨ logOpen c.plot = false ∨ (log.toNat ≠ logIdx c.plot ∧ logTail c.plot = 0)) ∧
  owned (descSize (logDesc c.plot log.toNat)) := by decide +kernel

theorem wit_RecordForms_3 :
  let s : State := { onPlot (logged 0xC0000000 [] 0 noOff 0x1000000000000000 []) 0 (fun p => onInst p 0 0 0 (fun i => { i with held := [(0, 1)] })) with again := true }
  let c : Ctx := cx s
  let es : List Nat := [0]
  let e : Nat := 0
  let fresh : Bool := false
  let log : BitVec 3 := 0
  let owned := fun (size : Nat) => descFar (logDesc c.plot log.toNat) = true → (logOwner? s c.plot (logDesc c.plot log.toNat) size).isSome = true
  RecTakesEffect s c es e ∧
  logRev c.plot = false ∧
  fresh = false ∧
  logOpen c.plot = true ∧
  log.toNat = logIdx c.plot ∧
  owned (logSize c.plot) := by decide +kernel

theorem wit_RecordForms_4 :
  let s : State := { onPlot (logged 0xC0000000 [] 0 noOff 0x9000000000000000 []) 0 (fun p => onInst p 0 0 0 (fun i => { i with held := [(0, 1)] })) with again := true }
  let c : Ctx := cx s
  let es : List Nat := [0]
  let e : Nat := 0
  RecTakesEffect s c es e := by decide +kernel

theorem wit_RecordForms_5 :
  let s : State := { onPlot (logged 0xC0000000 [] 0 noOff 0x9000000000000000 []) 0 (fun p => onInst p 0 0 0 (fun i => { i with held := [(0, 1)] })) with again := true }
  let c : Ctx := cx s
  let es : List Nat := [0]
  let e : Nat := 0
  let s1 : State := match appendRecord s c (fun prev => [dw (0xC2 * 2 ^ 56 + prev % 2 ^ 12 * 2 ^ 12), dw (logMark c.plot), 0, 0]) with | .ok x => x | _ => s
  RecTakesEffect s c es e ∧
  logOpen c.plot = true ∧
  appendRecord s c (fun prev => [dw (0xC2 * 2 ^ 56 + prev % 2 ^ 12 * 2 ^ 12), dw (logMark c.plot), 0, 0]) = .ok s1 := by decide +kernel

theorem wit_LogForms_1 :
  let s : State := logged 0xC5000000 [] 0 noOff 0 []
  let c : Ctx := cx s
  let es : List Nat := [0]
  let e : Nat := 0
  FiresOnce s c es e := by decide +kernel

theorem wit_LogForms_2 :
  let s : State := logged 0xC6000000 [(0, scal 32)] 0 noOff 0x1000000000000000 []
  let c : Ctx := cx s
  let es : List Nat := [0]
  let e : Nat := 0
  let size := logSize c.plot + (c.low 0 e).toNat
  let base := descBase (logDesc c.plot (logIdx c.plot))
  (FiresOnce s c es e ∧
  c.plot.role = .graph ∧
  logOpen c.plot = true ∧
  (c.low 0 e).toNat % 32 = 0 ∧
  size < 2 ^ 32 ∧
  (descFar (logDesc c.plot (logIdx c.plot)) = false → inLogSpace c.plot base (base + size) = true)) ∧
  (descFar (logDesc c.plot (logIdx c.plot)) = true → ∃ r b n, regionOf? (viOf s c.plot.vi) base = some r ∧
    Tab.at? (viOf s c.plot.vi).regions r = some (b, n) ∧ base + size ≤ b + n) := ⟨by decide +kernel, fun h => absurd h (by decide +kernel)⟩

theorem wit_LogForms_3 :
  let s : State := logged 0xC3000000 [] 0 noOff 0x1000000000000000 []
  let c : Ctx := cx s
  let es : List Nat := [0]
  let e : Nat := 0
  let seg : List LogRec := []
  let s1 : State := okS (openSegment s c c.plot)
  let s2 : State := okT (endReversal s1 c c.f.plot c.plot)
  FiresOnce s c es e ∧
  logOpen c.plot = true ∧
  c.plot.rev = none ∧
  logRev c.plot = false ∧
  logOn c.plot = false ∧
  logTrunc c.plot = false ∧
  openSegment s c c.plot = .ok (s1, seg) ∧
  scanFault? c.plot seg [] seg = none ∧
  logTail c.plot + 16 * seg.length ≤ logSize c.plot ∧
  seg = [] ∧
  endReversal s1 c c.f.plot c.plot = .ok s2 := by decide +kernel

theorem wit_LogForms_4 :
  let s : State := logged 0xC3000000 [] 32 0 0x1000000000000000 (zeroRec 0 1)
  let c : Ctx := cx s
  let es : List Nat := [0]
  let e : Nat := 0
  let seg : List LogRec := okV (openSegment s c c.plot)
  let s1 : State := okS (openSegment s c c.plot)
  let s3 : State := okT (logWrite { s1 with ctr := s1.ctr + 2 * seg.length } c c.f.plot c.plot (logTail c.plot) ((List.range (2 * seg.length)).map (fun i => Config.freeWord (s1.ctr + i))))
  (FiresOnce s c es e ∧
  logOpen c.plot = true ∧
  c.plot.rev = none ∧
  logRev c.plot = false ∧
  logOn c.plot = false ∧
  logTrunc c.plot = false ∧
  openSegment s c c.plot = .ok (s1, seg) ∧
  scanFault? c.plot seg [] seg = none ∧
  logTail c.plot + 16 * seg.length ≤ logSize c.plot ∧
  seg ≠ []) ∧
  logWrite { s1 with ctr := s1.ctr + 2 * seg.length } c c.f.plot c.plot (logTail c.plot)
    ((List.range (2 * seg.length)).map (fun i => Config.freeWord (s1.ctr + i))) = .ok s3 := ⟨by decide +kernel, rfl⟩

theorem wit_AdjointSeed :
  let f : Fold := { fold5 [] with w0 := 0x8054000B30100000, hdrs := [(0, mkHdr 0 0 1 0)] }
  let s : State := withK (withPlot (named1 0xC4000000 1 (fold5 []) [(0, { kind := .s32, elems := [(0, .val 7)] }), (2, { kind := .tile, elems := [(0, .val 0x8050000000000000)] })]) (fun p => { p with folds := [(5, fold5 []), (2053, f)] })) [(8, 0x80810000)]
  let c : Ctx := cx s
  let es : List Nat := [0]
  let e : Nat := 0
  let ks : BitVec 2 := 0
  let tc := c.k (8 + ks.toNat)
  let ta := tcTA tc
  let n := 32 * tileCols ta (tcSH tc)
  let ext := n * tileWidth ta / 8
  let scalar := decide (c.kind 0 = .s32)
  let a := seedRef c tc e ext
  let dsid := field (c.val 2 e) 63 52
  let d : TRef := { role := 2, raw := false, v := c.val 2 e, kind := .tile, ext := 4 * n, step := 0, tbit := 20, rbit := 13 }
  let srcs : List Source := if scalar = false ∧ a.raw = false then [(a.sid, a.ord, a.keep)] else []
  (FiresOnce s c es e ∧
  arrayFree c.plot c.f.cell = true ∧
  badSeed? tc = none ∧
  c.kind 2 = .tile ∧
  foldOf? c.plot dsid = some f ∧
  f.adj = true ∧
  (f.cls = 1 ∨ f.cls = 2) ∧
  4 * n ≤ f.slotBytes ∧
  (scalar = false → a.kindOk = true) ∧
  (scalar = false → a.raw = true → rawBad? c.plot c.f.cell a 0 = none) ∧
  srcs.filterMap (sourceStop? c c.plot true) = [] ∧
  seedStop? c.plot d = none) ∧
  (scalar = false → a.raw = false → ∃ g, foldOf? c.plot a.sid = some g ∧ (g.cls = 1 ∨ g.cls = 2) ∧ ext ≤ g.slotBytes) := ⟨by decide +kernel, fun h => absurd h (by decide +kernel)⟩

theorem wit_Smithy_1 :
  let s : State := at1 0xE2000000 2 [(0, run [5, 7]), (1, run [3, 9])]
  let c : Ctx := cx s
  let es : List Nat := [0, 1]
  let i : Instr := .lgcAvg 0x1FF 0x018
  let f : Nat → Word := fun e => (legacyElem c e (.lgcAvg 0x1FF 0x018)).getD 0
  let q := Tab.atD s.smithy c.plot.die []
  (FiresAll s c es ∧
  q.length < 64) ∧
  (∀ e, legacyElem c e i = some (f e)) := ⟨by decide +kernel, fun _ => rfl⟩

theorem wit_Smithy_2 :
  let s : State := { at1 0xE2000000 2 [(0, run [5, 7]), (1, run [3, 9])] with smithy := [(0, List.replicate 64 { firing := Firing.zero, first := 0, vi := 0, out := [(0, .val 4)], left := 0 })] }
  let c : Ctx := cx s
  let es : List Nat := [0, 1]
  let i : Instr := .lgcAvg 0x1FF 0x018
  let f : Nat → Word := fun e => (legacyElem c e (.lgcAvg 0x1FF 0x018)).getD 0
  let q := Tab.atD s.smithy c.plot.die []
  (FiresAll s c es ∧
  64 ≤ q.length) ∧
  (∀ e, legacyElem c e i = some (f e)) := ⟨by decide +kernel, fun _ => rfl⟩

theorem wit_Smithy_3 :
  let r : SmithyReq := { firing := Firing.zero, first := 0, vi := 0, out := [(0, .val 4)], left := 0 }
  let rest : List SmithyReq := []
  let s : State := { at1 0xE2000000 2 [(0, run [5, 7]), (1, run [3, 9])] with smithy := [(0, [r])] }
  let c : Ctx := cx s
  let die : Nat := 0
  Tab.atD s.smithy die [] = r :: rest ∧
  ctxOf? s r.firing = some c ∧
  c.inst.first = r.first := by decide +kernel

theorem wit_Reversing_1 :
  let r : Reversal := { firing := Firing.zero, run := 0, recs := [0, 32], done := [], next := none, left := 0, srseed := 0 }
  let s : State := onPlot (logged 0xC3000000 [] 64 32 0x5000000000000000 (zeroRec 0 1 ++ zeroRec 1 2)) 0 (fun p => { onInst p 0 0 0 (fun i => { i with issued := [(0, 1)] }) with rev := some r })
  let plot : Nat := 0
  let p : Plot := (cx s).plot
  let c : Ctx := cx s
  let seg : List LogRec := (match readRecs s c p r.recs with | .ok l => l | .error _ => [])
  let q : LogRec := (nextRecord? p (seg.filter (fun q => !r.done.contains q.off))).getD { off := 0, w0 := 0, w1 := 0, w2 := 0, w3 := 0 }
  Tab.at? s.plots plot = some p ∧
  p.rev = some r ∧
  ctxIn? p r.firing = some c ∧
  c.inst.run = r.run ∧
  Tab.atD c.inst.issued c.f.slot 0 ≠ 0 ∧
  readRecs s c p r.recs = .ok seg ∧
  nextRecord? p (seg.filter (fun q => !r.done.contains q.off)) = some q ∧
  r.next ≠ some q.off ∧
  p.live = true ∧
  arrayFree p q.cell = true := by decide +kernel

theorem wit_Reversing_2 :
  let r : Reversal := { firing := Firing.zero, run := 0, recs := [0, 32], done := [], next := some 32, left := 0, srseed := 0 }
  let s : State := onPlot (logged 0xC3000000 [] 64 32 0x5000000000000000 (zeroRec 0 1 ++ zeroRec 1 2)) 0 (fun p => { onInst p 0 0 0 (fun i => { i with issued := [(0, 1)] }) with rev := some r })
  let plot : Nat := 0
  let p : Plot := (cx s).plot
  let c : Ctx := cx s
  let seg : List LogRec := (match readRecs s c p r.recs with | .ok l => l | .error _ => [])
  let q : LogRec := (nextRecord? p (seg.filter (fun q => !r.done.contains q.off))).getD { off := 0, w0 := 0, w1 := 0, w2 := 0, w3 := 0 }
  let p1 := (match reverseRecord s c p seg q with | .ok (p, _) => p | .error _ => p)
  let tolls := (match reverseRecord s c p seg q with | .ok (_, t) => t | .error _ => [])
  Tab.at? s.plots plot = some p ∧
  p.rev = some r ∧
  ctxIn? p r.firing = some c ∧
  c.inst.run = r.run ∧
  Tab.atD c.inst.issued c.f.slot 0 ≠ 0 ∧
  readRecs s c p r.recs = .ok seg ∧
  nextRecord? p (seg.filter (fun q => !r.done.contains q.off)) = some q ∧
  r.next = some q.off ∧
  r.left = 0 ∧
  reverseRecord s c p seg q = .ok (p1, tolls) ∧
  r.done.length + 1 < r.recs.length := by decide +kernel

theorem wit_Reversing_3 :
  let r : Reversal := { firing := Firing.zero, run := 0, recs := [0, 32], done := [], next := some 32, left := 0, srseed := 0 }
  let s : State := onPlot (logged 0xC3000000 [] 64 32 0x5000000000000000 (zeroRec 0 1 ++ [dw (0xB0 * 2 ^ 56 + 3 * 2 ^ 24 + 2 ^ 12 + 9), dw (5 * 2 ^ 20), dw (2 * 2 ^ 24), 0])) 0 (fun p => { onInst p 0 0 0 (fun i => { i with issued := [(0, 1)] }) with rev := some r , folds := [(5, fold5 [(0, mkHdr 6 1 2 0)])] })
  let plot : Nat := 0
  let p : Plot := (cx s).plot
  let c : Ctx := cx s
  let seg : List LogRec := (match readRecs s c p r.recs with | .ok l => l | .error _ => [])
  let q : LogRec := (nextRecord? p (seg.filter (fun q => !r.done.contains q.off))).getD { off := 0, w0 := 0, w1 := 0, w2 := 0, w3 := 0 }
  let cause := .expired
  let info := (match reverseRecord s c p seg q with | .error (.halt (.trap _ x)) => x | _ => 0)
  Tab.at? s.plots plot = some p ∧
  p.rev = some r ∧
  ctxIn? p r.firing = some c ∧
  c.inst.run = r.run ∧
  Tab.atD c.inst.issued c.f.slot 0 ≠ 0 ∧
  readRecs s c p r.recs = .ok seg ∧
  nextRecord? p (seg.filter (fun q => !r.done.contains q.off)) = some q ∧
  r.next = some q.off ∧
  r.left = 0 ∧
  reverseRecord s c p seg q = .error (.halt (.trap cause info)) := by decide +kernel

theorem wit_Reversing_4 :
  let r : Reversal := { firing := Firing.zero, run := 0, recs := [0, 32], done := [], next := none, left := 0, srseed := 0 }
  let s : State := onPlot (logged 0xC3000000 [] 64 32 0x5000000000000000 (zeroRec 0 1 ++ zeroRec 1 2)) 0 (fun p => { onInst p 0 0 0 (fun i => { i with issued := [(0, 1)] }) with rev := some r })
  let plot : Nat := 0
  let p : Plot := (cx s).plot
  let c : Ctx := cx s
  let seg : List LogRec := (match readRecs s c p r.recs with | .ok l => l | .error _ => [])
  let q : LogRec := (nextRecord? p (seg.filter (fun q => !r.done.contains q.off))).getD { off := 0, w0 := 0, w1 := 0, w2 := 0, w3 := 0 }
  let due := fun (w : Watch) => w.plot == plot && w.hit;
  (Tab.at? s.plots plot = some p ∧
  p.rev = some r ∧
  ctxIn? p r.firing = some c ∧
  c.inst.run = r.run ∧
  Tab.atD c.inst.issued c.f.slot 0 ≠ 0 ∧
  readRecs s c p r.recs = .ok seg ∧
  nextRecord? p (seg.filter (fun q => !r.done.contains q.off)) = some q) ∧
  (∀ k pc, (k, pc) ∈ s.pcells → pc.watches.all (fun w => !due w) = true) := ⟨by decide +kernel, fun _ _ h => by cases h⟩

theorem wit_LoadStore_1 :
  let s : State := mapped (at1 0xCC043010 1 [(0, run64 [0x8080001000])]) [7, 9]
  let c : Ctx := cx s
  let e : Nat := 0
  let ty : Ty := .n32
  let s1 : State := (match accessWay s c 0 (vaOf (c.wide 0 e)) 4 .read with | .go x _ => x | _ => s)
  let pa : Nat := (match accessWay s c 0 (vaOf (c.wide 0 e)) 4 .read with | .go _ p => p | _ => 0)
  let va := vaOf (c.wide 0 e)
  let bytes := tyWidth ty / 8
  FiresOn s c e ∧
  accessWay s c 0 va bytes .read = .go s1 pa ∧
  Tab.at? (portOf s1 c.port).held (pa / 128) = none := by decide +kernel

theorem wit_LoadStore_2 :
  let s : State := onPort (mapped (at1 0xCC043010 1 [(0, run64 [0x8080001000])]) [7, 9]) 0 (fun p => { p with held := [(32, { vi := 0, plot := 0, cell := 0, data := 5 })] })
  let c : Ctx := cx s
  let e : Nat := 0
  let ty : Ty := .n32
  let s1 : State := (match accessWay s c 0 (vaOf (c.wide 0 e)) 4 .read with | .go x _ => x | _ => s)
  let pa : Nat := (match accessWay s c 0 (vaOf (c.wide 0 e)) 4 .read with | .go _ p => p | _ => 0)
  let h : HeldLine := { vi := 0, plot := 0, cell := 0, data := 5 }
  let va := vaOf (c.wide 0 e)
  let bytes := tyWidth ty / 8
  FiresOn s c e ∧
  accessWay s c 0 va bytes .read = .go s1 pa ∧
  Tab.at? (portOf s1 c.port).held (pa / 128) = some h := by decide +kernel

theorem wit_LoadStore_3 :
  let s : State := mapped (at1 0xCD040000 1 [(0, run64 [0x8080001000]), (1, run [0x12345])]) [7, 9]
  let c : Ctx := cx s
  let e : Nat := 0
  let ty : Ty := .n32
  let s1 : State := (match accessWay s c 0 (vaOf (c.wide 0 e)) 4 .write with | .go x _ => x | _ => s)
  let pa : Nat := (match accessWay s c 0 (vaOf (c.wide 0 e)) 4 .write with | .go _ p => p | _ => 0)
  let va := vaOf (c.wide 0 e)
  let bytes := tyWidth ty / 8
  FiresOn s c e ∧
  accessWay s c 0 va bytes .write = .go s1 pa := by decide +kernel

theorem wit_AtomicIssue :
  let s : State := mapped (at1 0xCF040000 1 [(0, run64 [0x8080001000]), (1, run [3])]) [7, 9]
  let c : Ctx := cx s
  let e : Nat := 0
  let i : Instr := .atomAdd .n32 0x1FF 0x010
  let ty : Ty := .n32
  let op : AtomOp := .add
  let s1 : State := (match accessWay s c 0 (vaOf (c.wide 0 e)) 4 .write with | .go x _ => x | _ => s)
  let pa' : Nat := (match accessWay s c 0 (vaOf (c.wide 0 e)) 4 .write with | .go _ p => p | _ => 0)
  let s2 : State := (match accessWay s1 c 0 (vaOf (c.wide 0 e)) 4 .read with | .go x _ => x | _ => s)
  let pa : Nat := (match accessWay s1 c 0 (vaOf (c.wide 0 e)) 4 .read with | .go _ p => p | _ => 0)
  let va := vaOf (c.wide 0 e)
  FiresOn s c e ∧
  atomForm i = some (ty, op) ∧
  accessWay s c 0 va (tyWidth ty / 8) .write = .go s1 pa' ∧
  accessWay s1 c 0 va (tyWidth ty / 8) .read = .go s2 pa := by decide +kernel

theorem wit_SliceQueue_2 :
  let r : Req := { port := 0, vi := 0, line := 32, part := 0, hgen := 3, owned := false, sent := true, kind := .prefetch }
  let rest : List Req := []
  let port : Nat := 0
  let s : State := { State.reset with hmask := [], pcells := [(0, { PCell.reset with out := [r] })], nets := [(0, { credit := [], turn := .demand 0 })], slices := []  }
  let x := leaving s r
  (portOf s port).out = r :: rest ∧
  free s port r.line ∧
  slotServes s port r = true ∧
  reqCurrent s x = false := by decide +kernel

theorem wit_SliceQueue_3 :
  let r : Req := { port := 0, vi := 0, line := 32, part := 0, hgen := 0, owned := false, sent := false, kind := .prefetch }
  let rest : List Req := []
  let port : Nat := 0
  let s : State := { State.reset with hmask := [], pcells := [(0, { PCell.reset with out := [r] })], nets := [(0, { credit := [], turn := .demand 0 })], slices := []  }
  let x := leaving s r
  let q := (sliceOf s (reqQueue s x)).queue
  (portOf s port).out = r :: rest ∧
  free s port r.line ∧
  slotServes s port r = true ∧
  reqCurrent s x = true ∧
  reqQueue s x ≠ 64 ∧
  (q.filter (fun r => !r.owned)).length < 48 := by decide +kernel

theorem wit_SliceQueue_4 :
  let r : Req := { port := 0, vi := 0, line := 32, part := 0, hgen := 0, owned := false, sent := false, kind := .prefetch }
  let rest : List Req := []
  let port : Nat := 0
  let s : State := { State.reset with hmask := [], pcells := [(0, { PCell.reset with out := [r] })], nets := [(0, { credit := [], turn := .demand 0 })], slices := [(0, { Slice.reset with queue := List.replicate 48 { port := 0, vi := 0, line := 1, part := 0, hgen := 0, owned := false, sent := false, kind := .prefetch } })] , bell := (List.range 256).map (fun i => (i, 0x8000)) }
  let x := leaving s r
  let q := (sliceOf s (reqQueue s x)).queue
  (portOf s port).out = r :: rest ∧
  free s port r.line ∧
  slotServes s port r = true ∧
  reqCurrent s x = true ∧
  reqQueue s x ≠ 64 ∧
  48 ≤ (q.filter (fun r => !r.owned)).length ∧
  ownsSlot s x.vi = true ∧
  (q.filter (fun r => r.owned)).length < 16 := by decide +kernel

theorem wit_SliceQueue_5 :
  let r : Req := { port := 0, vi := 0, line := 32, part := 0, hgen := 0, owned := false, sent := false, kind := .prefetch }
  let rest : List Req := []
  let port : Nat := 0
  let s : State := { State.reset with hmask := [], pcells := [(0, { PCell.reset with out := [r] })], nets := [(0, { credit := [], turn := .demand 0 })], slices := [(0, { Slice.reset with queue := List.replicate 48 { port := 0, vi := 0, line := 1, part := 0, hgen := 0, owned := false, sent := false, kind := .prefetch } })]  }
  let x := leaving s r
  let q := (sliceOf s (reqQueue s x)).queue
  (portOf s port).out = r :: rest ∧
  free s port r.line ∧
  slotServes s port r = true ∧
  reqCurrent s x = true ∧
  reqQueue s x ≠ 64 ∧
  48 ≤ (q.filter (fun r => !r.owned)).length ∧
  (ownsSlot s x.vi = false ∨ 16 ≤ (q.filter (fun r => r.owned)).length) := by decide +kernel

theorem wit_SliceQueue_6 :
  let r : Req := { port := 0, vi := 0, line := 32, part := 64, hgen := 0, owned := false, sent := true, kind := .prefetch }
  let rest : List Req := []
  let port : Nat := 0
  let s : State := { State.reset with hmask := [], pcells := [(0, { PCell.reset with out := [r] })], nets := [(0, { credit := [], turn := .demand 0 })], slices := []  }
  let x := leaving s r
  (portOf s port).out = r :: rest ∧
  free s port r.line ∧
  slotServes s port r = true ∧
  x.part = 64 := by decide +kernel

theorem wit_SliceQueue_7 :
  let r : Req := { port := 0, vi := 0, line := 32, part := 0, hgen := 3, owned := false, sent := false, kind := .prefetch }
  let rest : List Req := []
  let port : Nat := 0
  let s : State := { State.reset with hmask := [], pcells := [(0, { PCell.reset with nacked := [r] })], slices := []  }
  (portOf s port).nacked = r :: rest ∧
  isStore r.kind = false := by decide +kernel

theorem wit_SliceServes_1 :
  let r : Req := { port := 0, vi := 0, line := 32, part := 0, hgen := 0, owned := false, sent := false, kind := .read { firing := Firing.zero, first := 0, elem := 0, va := 0x8080001000 } 0 .n32 }
  let rest : List Req := []
  let slice : Nat := 0
  let s : State := onSlice (mapped (at1 0xCC043010 1 [(0, run64 [0x8080001000])]) [7, 9]) 0 (fun sl => { sl with queue := [r], lines := sl.lines.map (fun x => (x.1, { x.2 with poison := true })) })
  let rpl := { firing := Firing.zero, first := 0, elem := 0, va := 0x8080001000 }
  let off := 0
  let ty := .n32
  let t := onSlice s slice (fun sl => { sl with queue := rest })
  let g := fun (n : Nat) => fetchAt (servedAt slice) t (dieOf? r.port) r.vi r.line n
  let g := g (tyWidth ty / 8)
  (sliceOf s slice).queue = r :: rest ∧
  r.kind = .read rpl off ty ∧
  g.poison = true := by decide +kernel

theorem wit_SliceServes_2 :
  let r : Req := { port := 0, vi := 0, line := 32, part := 0, hgen := 0, owned := false, sent := false, kind := .read { firing := Firing.zero, first := 0, elem := 0, va := 0x8080001000 } 0 .n32 }
  let rest : List Req := []
  let slice : Nat := 0
  let s : State := onSlice (mapped (at1 0xCC043010 1 [(0, run64 [0x8080001000])]) [7, 9]) 0 (fun sl => { sl with queue := [r], lines := sl.lines.map (fun x => (x.1, { x.2 with poison := false })) })
  let rpl := { firing := Firing.zero, first := 0, elem := 0, va := 0x8080001000 }
  let off := 0
  let ty := .n32
  let t := onSlice s slice (fun sl => { sl with queue := rest })
  let g := fun (n : Nat) => fetchAt (servedAt slice) t (dieOf? r.port) r.vi r.line n
  let g := g (tyWidth ty / 8)
  (sliceOf s slice).queue = r :: rest ∧
  r.kind = .read rpl off ty ∧
  g.poison = false := by decide +kernel

theorem wit_SliceServes_3 :
  let r : Req := { port := 0, vi := 0, line := 32, part := 0, hgen := 0, owned := false, sent := false, kind := .prefetch }
  let rest : List Req := []
  let slice : Nat := 0
  let s : State := onSlice (mapped (at1 0xCC043010 1 [(0, run64 [0x8080001000])]) [7, 9]) 0 (fun sl => { sl with queue := [r], lines := sl.lines.map (fun x => (x.1, { x.2 with poison := false })) })
  (sliceOf s slice).queue = r :: rest ∧
  r.kind = .prefetch := by decide +kernel

theorem wit_SliceServes_4 :
  let r : Req := { port := 0, vi := 0, line := 32, part := 0, hgen := 0, owned := false, sent := false, kind := .write 5 1 none [] }
  let rest : List Req := []
  let slice : Nat := 0
  let s : State := onSlice (mapped (at1 0xCC043010 1 [(0, run64 [0x8080001000])]) [7, 9]) 0 (fun sl => { sl with queue := [r], lines := sl.lines.map (fun x => (x.1, { x.2 with poison := false })) })
  let data := (5 : Line)
  let mask := (1 : BitVec 128)
  let side := (none : Option Word)
  let by_ := ([] : List (Nat × Nat))
  (sliceOf s slice).queue = r :: rest ∧
  r.kind = .write data mask side by_ := by decide +kernel

theorem wit_SliceServes_8 :
  let r : Req := { port := 0, vi := 0, line := 32, part := 0, hgen := 0, owned := false, sent := false, kind := .atomic { firing := Firing.zero, first := 0, elem := 0, va := 0x8080001000 } 0 .n32 .add 3 0 }
  let rest : List Req := []
  let slice : Nat := 0
  let s : State := onSlice (mapped (at1 0xCC043010 1 [(0, run64 [0x8080001000])]) [7, 9]) 0 (fun sl => { sl with queue := [r], lines := sl.lines.map (fun x => (x.1, { x.2 with poison := false })) })
  let rpl := { firing := Firing.zero, first := 0, elem := 0, va := 0x8080001000 }
  let off := 0
  let ty := .n32
  let op := AtomOp.add
  let b := (3 : Dword)
  let c := (0 : Dword)
  let t := onSlice s slice (fun sl => { sl with queue := rest })
  let g := fun (n : Nat) => fetchAt (servedAt slice) t (dieOf? r.port) r.vi r.line n
  let g := g 0
  (sliceOf s slice).queue = r :: rest ∧
  r.kind = .atomic rpl off ty op b c ∧
  atomJob? s rpl = none ∧
  atomType op ty = true ∧
  g.poison = false := by decide +kernel

theorem wit_ReplyDelivers_1 :
  let s : State := at1 0xCC043010 1 [(0, run64 [0x8080001000])]
  let rpl : Reply := { firing := Firing.zero, first := 0, elem := 0, va := 0x8080001000 }
  let c := cx s
  ctxOf? s rpl.firing = some c ∧
  c.inst.first = rpl.first := by decide +kernel

theorem wit_ReplyDelivers_2 :
  let s : State := State.reset
  let rpl : Reply := { firing := Firing.zero, first := 0, elem := 0, va := 0x8080001000 }
  ctxOf? s rpl.firing = none := by decide +kernel

theorem wit_Coalescer_1 :
  let b := { data := 5, mask := 1, vi := 0, by_ := [(0, 0)], age := 3, side := none }
  let s : State := { State.reset with pcells := [(0, { PCell.reset with lines := [(32, b)] })] }
  let port : Nat := 0
  let line : Nat := 32
  Tab.at? (portOf s port).lines line = some b := by decide +kernel

theorem wit_CopyMoves_1 :
  let j : CopyJob := { plot := 0, cell := 0, vi := 0, dir := 0, scell := 1, off := 0, len := 64, src := [0x1000], dst := [], bf := 0, awaits := [], done := 0, mm := none }
  let rest : List CopyJob := []
  let port : Nat := 0
  let s : State := onPort (mapped (at1 0xC9000000 1 []) [7, 9]) 0 (fun p => { p with copies := [j] })
  let pa := 0x1000
  let u := j.done
  (portOf s port).copies = j :: rest ∧
  64 * u < j.len ∧
  j ∉ rest ∧
  j.bf = 0 ∧
  unitReady s port j = true ∧
  j.src[u]? = some pa ∧
  j.dst[u]? = none := by decide +kernel

theorem wit_CopyMoves_2 :
  let j : CopyJob := { plot := 0, cell := 0, vi := 0, dir := 0, scell := 1, off := 0, len := 64, src := [], dst := [0x1000], bf := 0, awaits := [], done := 0, mm := none }
  let rest : List CopyJob := []
  let port : Nat := 0
  let s : State := onPort (mapped (at1 0xC9000000 1 []) [7, 9]) 0 (fun p => { p with copies := [j] })
  let pa := 0x1000
  let p := (cx s).plot
  let u := j.done
  (portOf s port).copies = j :: rest ∧
  64 * u < j.len ∧
  j ∉ rest ∧
  j.bf = 0 ∧
  unitReady s port j = true ∧
  j.src[u]? = none ∧
  j.dst[u]? = some pa ∧
  Tab.at? s.plots j.plot = some p := by decide +kernel

theorem wit_CopyMoves_3 :
  let j : CopyJob := { plot := 0, cell := 0, vi := 0, dir := 0, scell := 1, off := 0, len := 64, src := [0x1000], dst := [0x1040], bf := 0, awaits := [], done := 0, mm := none }
  let rest : List CopyJob := []
  let port : Nat := 0
  let s : State := onPort (mapped (at1 0xC9000000 1 []) [7, 9]) 0 (fun p => { p with copies := [j] })
  let pa := 0x1000
  let pb := 0x1040
  let u := j.done
  (portOf s port).copies = j :: rest ∧
  64 * u < j.len ∧
  j ∉ rest ∧
  j.bf = 0 ∧
  unitReady s port j = true ∧
  j.src[u]? = some pa ∧
  j.dst[u]? = some pb := by decide +kernel

theorem wit_CopyMoves_4 :
  let j : CopyJob := { plot := 0, cell := 0, vi := 0, dir := 0, scell := 1, off := 0, len := 64, src := [0x1000], dst := [], bf := 0, awaits := [], done := 1, mm := some (Firing.zero, 0x40000) }
  let rest : List CopyJob := []
  let port : Nat := 0
  let s : State := onPort (mapped (at1 0xC9000000 1 []) [7, 9]) 0 (fun p => { p with copies := [j] })
  let f := Firing.zero
  let v := (0x40000 : Dword)
  let u := j.done
  (portOf s port).copies = j :: rest ∧
  j.len ≤ 64 * u ∧
  j.mm = some (f, v) := by decide +kernel

theorem wit_Fences_1 :
  let i : Instr := .fenceAr 0 0x1FF 0x010
  let rel : Bool := true
  let acq : Bool := true
  let scope : BitVec 3 := 0
  let c1 : Cons := 0x1FF
  let c0 : Cons := 0x010
  let es : List Nat := [0]
  let e : Nat := 0
  let port : Nat := 0
  let s : State := mapped (at1 0xD3000000 1 []) [7, 9]
  let c : Ctx := cx s
  let s1 := if rel = true then flushAll s port else s
  FiresOnce s c es e ∧
  fenceForm i = some (rel, acq, scope, c1, c0) ∧
  homePort? c.plot c.f.cell = some port ∧
  ¬(rel = true ∧ writesBefore s1 c) ∧
  ¬(acq = true ∧ readsBefore s1 c) := by decide +kernel

theorem wit_Fences_2 :
  let i : Instr := .fenceAr 0 0x1FF 0x010
  let rel : Bool := true
  let acq : Bool := true
  let scope : BitVec 3 := 0
  let c1 : Cons := 0x1FF
  let c0 : Cons := 0x010
  let es : List Nat := [0]
  let e : Nat := 0
  let port : Nat := 0
  let s : State := onPort (mapped (at1 0xD3000000 1 []) [7, 9]) 0 (fun p => { p with lines := [(32, { data := 5, mask := 1, vi := 0, by_ := [(0, 0)], age := 3, side := none })] })
  let c : Ctx := cx s
  let s1 := if rel = true then flushAll s port else s
  FiresOnce s c es e ∧
  fenceForm i = some (rel, acq, scope, c1, c0) ∧
  homePort? c.plot c.f.cell = some port ∧
  (rel = true ∧ writesBefore s1 c ∨ acq = true ∧ readsBefore s1 c) := by decide +kernel

theorem wit_DrainAndQfence_1 :
  let mem : BitVec 2 := 2
  let es : List Nat := [0]
  let e : Nat := 0
  let port : Nat := 0
  let s : State := mapped (at1 0xD5000000 1 []) [7, 9]
  let c : Ctx := cx s
  let waits := ownEarlier s c (fun d => d.copies && (d.copiesOut == (mem != 0)))
  FiresOnce s c es e ∧
  homePort? c.plot c.f.cell = some port ∧
  waits = false ∧
  (∀ j ∈ (portOf s port).copies, j.plot = c.f.plot → j.cell = c.f.cell → (j.dir = 0 ↔ mem = 0) → j.len ≤ 64 * j.done) := by decide +kernel

theorem wit_DrainAndQfence_2 :
  let mem : BitVec 2 := 0
  let es : List Nat := [0]
  let e : Nat := 0
  let port : Nat := 0
  let s : State := onPort (mapped (at1 0xD5000000 1 []) [7, 9]) 0 (fun p => { p with copies := [{ plot := 0, cell := 0, vi := 0, dir := 0, scell := 1, off := 0, len := 64, src := [0x1000], dst := [], bf := 0, awaits := [], done := 0, mm := none }] })
  let c : Ctx := cx s
  let waits := ownEarlier s c (fun d => d.copies && (d.copiesOut == (mem != 0)))
  FiresOnce s c es e ∧
  homePort? c.plot c.f.cell = some port ∧
  (waits = true ∨ (∃ j ∈ (portOf s port).copies, j.plot = c.f.plot ∧ j.cell = c.f.cell ∧ (j.dir = 0 ↔ mem = 0) ∧ 64 * j.done < j.len)) := by decide +kernel

theorem wit_DrainAndQfence_3 :
  let n : BitVec 4 := 0
  let es : List Nat := [0]
  let e : Nat := 0
  let port : Nat := 0
  let s : State := withK (mapped (at1 0xD4000000 1 []) [7, 9]) [(0, 0x02000001)]
  let c : Ctx := cx s
  let w := c.k n.toNat
  let reeve := c.plot.role == .reeve
  let target := if reeve = true then 384
      else 96 * (w.extractLsb' 23 2).toNat + 24 * (w.extractLsb' 21 2).toNat + (w.extractLsb' 16 5).toNat
  let joins := fun (k : Nat) (t : Stream) => w.getLsbD k && t.plot == c.f.plot
  let s1 := flushWindows (if w.getLsbD 25 = true then flushAll s port else s) target joins
  FiresOnce s c es e ∧
  homePort? c.plot c.f.cell = some port ∧
  w.extractLsb' 27 5 = 0 ∧
  (reeve = true ∨ ((w.extractLsb' 23 2).toNat = c.plot.die ∧ (w.extractLsb' 16 5).toNat < 24)) ∧
  granted c.plot target = true ∧
  ¬(w.getLsbD 25 = true ∧ (writesBefore s1 c ∨ readsBefore s1 c)) ∧
  (∀ x ∈ (portOf s1 target).ctxs, joins x.1 x.2 = true →
    if x.2.writes = true then x.2.accepted ≤ x.2.performed else ∀ l ∈ x.2.slines, l.data ≠ none) := by decide +kernel

theorem wit_OwnHandsOver_2 :
  let n : BitVec 4 := 0
  let es : List Nat := [0]
  let e : Nat := 0
  let port : Nat := 0
  let s : State := withPlot (withK (mapped (at1 0xD6000000 1 []) [7, 9]) [(0, 0x100)]) (fun p => { p with ports := 0x0098380000000000 :: p.ports })
  let c : Ctx := cx s
  let q := 0
  let w := c.k n.toNat
  let region := w.toNat % 256
  let dest := 96 * (w.extractLsb' 15 2).toNat + 24 * (w.extractLsb' 13 2).toNat + (w.extractLsb' 8 5).toNat
  let before := anyEarlier s c (fun d => d.writesMem && d.plot.vi == c.plot.vi && homePort? d.plot d.f.cell == some port)
  FiresOnce s c es e ∧
  homePort? c.plot c.f.cell = some port ∧
  (c.k n.toNat).toNat < 2 ^ 17 ∧
  (∀ h ∈ (portOf s port).tokens, h.firing = c.f → h.sent = true) ∧
  (w.extractLsb' 8 5).toNat < 24 ∧
  Tab.at? (viOf s c.plot.vi).owners region = some { port := port, here := true, plot := c.f.plot } ∧
  grantee? s c.plot.vi dest = some q ∧
  before = false := by decide +kernel

theorem wit_OwnHandsOver_3 :
  let n : BitVec 4 := 0
  let es : List Nat := [0]
  let e : Nat := 0
  let port : Nat := 0
  let h : HandOver := { vi := 0, region := 0, dest := 1, firing := Firing.zero, sent := false }
  let s : State := onPort (withPlot (withK (mapped (at1 0xD6000000 1 []) [7, 9]) [(0, 0x100)]) (fun p => { p with ports := 0x0098380000000000 :: p.ports })) 0 (fun p => { p with tokens := [h], out := [{ port := 0, vi := 0, line := 32, part := 0, hgen := 0, owned := false, sent := false, kind := .write 5 1 none [] }] })
  let c : Ctx := cx s
  let s1 := flushWindows (flushAll s port) port (fun _ t => t.vi == c.plot.vi)
  FiresOnce s c es e ∧
  homePort? c.plot c.f.cell = some port ∧
  (c.k n.toNat).toNat < 2 ^ 17 ∧
  (portOf s port).tokens = [h] ∧
  h.firing = c.f ∧
  h.sent = false ∧
  portWrites s1 port c.plot.vi = true := by decide +kernel

theorem wit_OwnHandsOver_4 :
  let n : BitVec 4 := 0
  let es : List Nat := [0]
  let e : Nat := 0
  let port : Nat := 0
  let h : HandOver := { vi := 0, region := 0, dest := 1, firing := Firing.zero, sent := false }
  let s : State := onPort (withPlot (withK (mapped (at1 0xD6000000 1 []) [7, 9]) [(0, 0x100)]) (fun p => { p with ports := 0x0098380000000000 :: p.ports })) 0 (fun p => { p with tokens := [h] })
  let c : Ctx := cx s
  let s1 := flushWindows (flushAll s port) port (fun _ t => t.vi == c.plot.vi)
  FiresOnce s c es e ∧
  homePort? c.plot c.f.cell = some port ∧
  (c.k n.toNat).toNat < 2 ^ 17 ∧
  (portOf s port).tokens = [h] ∧
  h.firing = c.f ∧
  h.sent = false ∧
  portWrites s1 port c.plot.vi = false := by decide +kernel

theorem wit_OwnHandsOver_5 :
  let n : BitVec 4 := 0
  let es : List Nat := [0]
  let e : Nat := 0
  let port : Nat := 0
  let o : Owner := { port := 1, here := true, plot := 0 }
  let s : State := onVi (withPlot (withK (mapped (at1 0xD6000000 1 []) [7, 9]) [(0, 0x100)]) (fun p => { p with ports := 0x0098380000000000 :: p.ports })) 0 (fun v => { v with owners := [(0, o)] })
  let c : Ctx := cx s
  let w := c.k n.toNat
  let region := w.toNat % 256
  FiresOnce s c es e ∧
  homePort? c.plot c.f.cell = some port ∧
  (c.k n.toNat).toNat < 2 ^ 17 ∧
  Tab.at? (viOf s c.plot.vi).owners region = some o ∧
  o.port ≠ port ∧
  (∀ h ∈ (portOf s port).tokens, h.firing = c.f → h.sent = true) := by decide +kernel

theorem wit_TokenOfHandOver :
  let h : HandOver := { vi := 0, region := 0, dest := 1, firing := Firing.zero, sent := true }
  let rest : List HandOver := []
  let port : Nat := 0
  let s : State := onVi (onPort State.reset 0 (fun p => { p with tokens := [h] })) 0 (fun v => { v with owners := [(0, { port := 1, here := false, plot := 0 })] })
  let s1 := onVi (onPort s port (fun p => { p with tokens := rest })) h.vi (fun vi => { vi with owners := Tab.upd vi.owners h.region (fun o => if o.port = h.dest then { o with here := true } else o) })
  let mine := fun (w : EarlyWrite) => w.vi == h.vi && w.region == h.region
  (portOf s port).tokens = h :: rest ∧
  h.sent = true ∧
  tokenHere s1 h.dest h.vi h.region = true ∧
  (∀ w ∈ (portOf s1 h.dest).early, w.who = none ∧ (mine w = false → tokenHere s1 h.dest w.vi w.region = false)) := by decide +kernel

theorem wit_Tlbinv_1 :
  let ks : BitVec 2 := 0
  let es : List Nat := [0]
  let e : Nat := 0
  let s : State := withPlot (mapped (at1 0xDE000000 1 [(0, scal 0x8080000000)]) [7, 9]) (fun p => { p with role := .handler })
  let c : Ctx := cx s
  let all : Bool := true
  let a := c.wide 0 e
  FiresOnce s c es e ∧
  c.plot.role ≠ .graph ∧
  (ks = 0 ∨ a.toNat < 512) ∧
  (ks = 2 → isVi0 c.plot = true) ∧
  (ks = 1 → a.toNat % 512 ≠ c.plot.vi → isVi0 c.plot = true) ∧
  all = true := by decide +kernel

theorem wit_Tlbinv_2 :
  let ks : BitVec 2 := 0
  let es : List Nat := [0]
  let e : Nat := 0
  let s : State := withPlot (mapped (at1 0xDE000000 1 [(0, scal 0x8080000000)]) [7, 9]) (fun p => { p with role := .handler })
  let c : Ctx := cx s
  let all : Bool := false
  let port := 0
  let a := c.wide 0 e
  FiresOnce s c es e ∧
  c.plot.role ≠ .graph ∧
  (ks = 0 ∨ a.toNat < 512) ∧
  (ks = 2 → isVi0 c.plot = true) ∧
  (ks = 1 → a.toNat % 512 ≠ c.plot.vi → isVi0 c.plot = true) ∧
  all = false ∧
  homePort? c.plot c.f.cell = some port := by decide +kernel

theorem wit_HomeSlice_1 :
  let s : State := State.reset
  let v : Nat := 0
  let p : Nat := 0
  let pa : Nat := 0x1080
  viPart? s v = some p ∧
  paRemote s pa = false := by decide +kernel

theorem wit_HomeSlice_2 :
  let s : State := State.reset
  let v : Nat := 0
  let p : Nat := 0
  let pa : Nat := 0x1080
  let line := 33
  viPart? s v = some p ∧
  paRemote s pa = false ∧
  paRemote s (128 * line) = false := by decide +kernel

theorem wit_HomeSlice_3 :
  let s0 := { mapped (at1 0xDF000000 1 [(0, run64 [0x8080001080])]) [7, 9] with hmask := hmaskReset }
  let s : State := s0
  let c := cx s0
  let e := 0
  let port := 0
  let v : Nat := 0
  let p : Nat := 0
  let pa : Nat := 0x1080
  viPart? s v = some p ∧
  paRemote s pa = false ∧
  FiresOn s0 c e ∧
  c.plot.vi = v ∧
  homePort? c.plot c.f.cell = some port ∧
  paReserved s pa = false ∧
  Machine.translate s0 (c.via port 0) (vaOf (c.wide 0 e)) .none = .ok s pa := by decide +kernel

theorem wit_MemoryStores_1 :
  let s : State := { State.reset with mem := words 0x1000 [7] }
  Memory.wf s.mem = true := by decide +kernel

theorem wit_MemoryStores_2 :
  let s : State := { State.reset with mem := words 0x1000 [7] }
  let line : Nat := 32
  let mask : BitVec 128 := 3
  let a := 0x1001
  Memory.wf s.mem = true ∧
  a / 128 = line ∧
  mask.getLsbD (a % 128) = true := by decide +kernel

theorem wit_MemoryStores_3 :
  let s : State := { State.reset with mem := words 0x1000 [7] }
  let line : Nat := 32
  let mask : BitVec 128 := 3
  let a := 0x1002
  Memory.wf s.mem = true ∧
  (a / 128 ≠ line ∨ mask.getLsbD (a % 128) = false) := by decide +kernel

theorem wit_MemoryStores_4 :
  let s : State := { State.reset with mem := words 0x1000 [7] }
  Memory.wf s.mem = true := by decide +kernel

theorem wit_StreamOpens :
  let s : State := mapped (withK (at1 0xC8000000 1 []) [(0, 0x80001000), (1, 0x80)]) [0x2000008080001000, 0x0000030000000004, 0, 0, 0, 0x4000000000000000, 0, 0]
  let c : Ctx := cx s
  let es : List Nat := [0]
  let e : Nat := 0
  let n : BitVec 4 := 0
  let ctx : Nat := 0
  let s1 : State := gotS (cellRead s c e 3 (vaOf (c.k2 n.toNat)) 8)
  let d : List Dword := gotV (cellRead s c e 3 (vaOf (c.k2 n.toNat)) 8)
  let va := vaOf (c.k2 n.toNat)
  let port := descPort c.plot d
  FiresOnce s c es e ∧
  cellRead s c e 3 va 8 = .ok s1 d ∧
  va % 64 = 0 ∧
  descFault? c.plot d = none ∧
  port < 384 ∧
  (((d[6]?).getD 0).getLsbD 8 = true → patternInRegion (viOf s1 c.plot.vi) d = true) ∧
  freeContext? s1 c.f.plot c.plot d = some ctx := by decide +kernel

theorem wit_StreamReads_1 :
  let t : Stream := { strm 0 0x4000000000000000 with next := 4, queue := [(0, (0, .val 7)), (1, (1, .val 8)), (2, (2, .val 9)), (3, (3, .val 10))] }
  let s : State := open1 (mapped (at1 0xCA000000 4 [(0, run [0, 0, 0, 0])]) [7, 9]) t
  let c : Ctx := cx s
  let port : Nat := 0
  let ctx : Nat := 0
  let es : List Nat := [0, 1, 2, 3]
  let e : Nat := 0
  FiresOnce s c es e ∧
  streamOf? s c (c.low 0 e).toNat = some (port, ctx, t) ∧
  t.writes = false ∧
  t.mode = 1 ∧
  (∀ i < c.inst.len, (ordinal? t (c.tag i)).all (fun o => Tab.has t.queue o) = true) := by decide +kernel

theorem wit_StreamReads_2 :
  let t : Stream := { strm 0 0x4000000000000000 with next := 3, queue := [(0, (0, .val 7))] }
  let s : State := open1 (mapped (at1 0xCA000000 4 [(0, run [0, 0, 0, 0])]) [7, 9]) t
  let c : Ctx := cx s
  let port : Nat := 0
  let ctx : Nat := 0
  let es : List Nat := [0, 1, 2, 3]
  let e : Nat := 0
  let i := 1
  let o := 1
  FiresOnce s c es e ∧
  streamOf? s c (c.low 0 e).toNat = some (port, ctx, t) ∧
  t.writes = false ∧
  t.mode = 1 ∧
  i < c.inst.len ∧
  ordinal? t (c.tag i) = some o ∧
  Tab.has t.queue o = false := by decide +kernel

theorem wit_StreamEnds_1 :
  let t : Stream := strm 0x8000000000000000 0x4000000000000000
  let s : State := open1 (mapped (at1 0xD7000000 1 [(0, scal 0)]) [7, 9]) t
  let c : Ctx := cx s
  let port : Nat := 0
  let ctx : Nat := 0
  let es : List Nat := [0]
  let e : Nat := 0
  let s1 : State := (settleStream s port ctx t.accepted t).1
  let n := (noted? s c).getD t.accepted
  FiresOnce s c es e ∧
  streamOf? s c (c.low 0 e).toNat = some (port, ctx, t) ∧
  t.writes = true ∧
  settleStream s port ctx n t = (s1, true) := by decide +kernel

theorem wit_StreamEnds_2 :
  let t : Stream := { strm 0x8000000000000000 0x4000000000000000 with accepted := 1, queue := [(0, (0, .val 7))] }
  let s : State := open1 (mapped (at1 0xD7000000 1 [(0, scal 0)]) [7, 9]) t
  let c : Ctx := cx s
  let port : Nat := 0
  let ctx : Nat := 0
  let es : List Nat := [0]
  let e : Nat := 0
  let s1 : State := (settleStream s port ctx t.accepted t).1
  let n := (noted? s c).getD t.accepted
  FiresOnce s c es e ∧
  streamOf? s c (c.low 0 e).toNat = some (port, ctx, t) ∧
  t.writes = true ∧
  settleStream s port ctx n t = (s1, false) := by decide +kernel

theorem wit_StreamEnds_3 :
  let t : Stream := strm 0x8000000000000000 0x4000000000000000
  let s : State := open1 (mapped (at1 0xD7000000 1 [(0, scal 0)]) [7, 9]) t
  let c : Ctx := cx s
  let port : Nat := 0
  let ctx : Nat := 0
  let es : List Nat := [0]
  let e : Nat := 0
  let s1 : State := (settleStream (onStream s port ctx (fun t => { t with closing := true })) port ctx t.accepted t).1
  let closing := onStream s port ctx (fun t => { t with closing := true })
  FiresOnce s c es e ∧
  streamOf? s c (c.low 0 e).toNat = some (port, ctx, t) ∧
  t.writes = true ∧
  settleStream closing port ctx t.accepted t = (s1, true) := by decide +kernel

theorem wit_StreamEnds_4 :
  let t : Stream := { strm 0x8000000000000000 0x4000000000000000 with accepted := 1, queue := [(0, (0, .val 7))] }
  let s : State := open1 (mapped (at1 0xD7000000 1 [(0, scal 0)]) [7, 9]) t
  let c : Ctx := cx s
  let port : Nat := 0
  let ctx : Nat := 0
  let es : List Nat := [0]
  let e : Nat := 0
  let s1 : State := (settleStream (onStream s port ctx (fun t => { t with closing := true })) port ctx t.accepted t).1
  let closing := onStream s port ctx (fun t => { t with closing := true })
  FiresOnce s c es e ∧
  streamOf? s c (c.low 0 e).toNat = some (port, ctx, t) ∧
  t.writes = true ∧
  settleStream closing port ctx t.accepted t = (s1, false) := by decide +kernel

theorem wit_StreamEnds_5 :
  let t : Stream := strm 0 0x4000000000000000
  let s : State := open1 (mapped (at1 0xD7000000 1 [(0, scal 0)]) [7, 9]) t
  let c : Ctx := cx s
  let port : Nat := 0
  let ctx : Nat := 0
  let es : List Nat := [0]
  let e : Nat := 0
  FiresOnce s c es e ∧
  streamOf? s c (c.low 0 e).toNat = some (port, ctx, t) ∧
  t.writes = false := by decide +kernel

theorem wit_StreamRings_1 :
  let t : Stream := { strm 0 0x8040000000100000 with prod := 64 }
  let s : State := open1 (mapped (at1 0xDA000000 1 [(0, scal 0), (1, scal 64)]) [7, 9]) t
  let c : Ctx := cx s
  let port : Nat := 0
  let ctx : Nat := 0
  let es : List Nat := [0]
  let e : Nat := 0
  let n := (c.low 1 e).toNat
  FiresOnce s c es e ∧
  streamOf? s c (c.low 0 e).toNat = some (port, ctx, t) ∧
  t.mode = 2 ∧
  0 < t.ring ∧
  n ≠ 0 ∧
  n % 64 = 0 ∧
  t.writes = false ∧
  (t.cons + t.granted) % t.ring + n ≤ t.ring ∧
  t.cons + t.granted + n ≤ t.prod := by decide +kernel

theorem wit_StreamRings_2 :
  let t : Stream := strm 0 0x8040000000100000
  let s : State := open1 (mapped (at1 0xDA000000 1 [(0, scal 0), (1, scal 64)]) [7, 9]) t
  let c : Ctx := cx s
  let port : Nat := 0
  let ctx : Nat := 0
  let es : List Nat := [0]
  let e : Nat := 0
  let n := (c.low 1 e).toNat
  FiresOnce s c es e ∧
  streamOf? s c (c.low 0 e).toNat = some (port, ctx, t) ∧
  t.mode = 2 ∧
  0 < t.ring ∧
  n ≠ 0 ∧
  n % 64 = 0 ∧
  t.writes = false ∧
  (t.cons + t.granted) % t.ring + n ≤ t.ring ∧
  t.prod < t.cons + t.granted + n := by decide +kernel

theorem wit_StreamRings_3 :
  let t : Stream := strm 0x8000000000000000 0x8040000000100000
  let s : State := open1 (mapped (at1 0xDA000000 1 [(0, scal 0), (1, scal 64)]) [7, 9]) t
  let c : Ctx := cx s
  let port : Nat := 0
  let ctx : Nat := 0
  let es : List Nat := [0]
  let e : Nat := 0
  let n := (c.low 1 e).toNat
  FiresOnce s c es e ∧
  streamOf? s c (c.low 0 e).toNat = some (port, ctx, t) ∧
  t.mode = 2 ∧
  0 < t.ring ∧
  n ≠ 0 ∧
  n % 64 = 0 ∧
  t.writes = true ∧
  t.closing = false ∧
  t.waiter = none ∧
  (t.prod + n) % t.ring + n ≤ t.ring ∧
  t.prod + n + n ≤ t.cons + t.ring := by decide +kernel

theorem wit_StreamRings_4 :
  let t : Stream := { strm 0x8000000000000000 0x8040000000100000 with prod := 192 }
  let s : State := open1 (mapped (at1 0xDA000000 1 [(0, scal 0), (1, scal 64)]) [7, 9]) t
  let c : Ctx := cx s
  let port : Nat := 0
  let ctx : Nat := 0
  let es : List Nat := [0]
  let e : Nat := 0
  let n := (c.low 1 e).toNat
  FiresOnce s c es e ∧
  streamOf? s c (c.low 0 e).toNat = some (port, ctx, t) ∧
  t.mode = 2 ∧
  0 < t.ring ∧
  n ≠ 0 ∧
  n % 64 = 0 ∧
  t.writes = true ∧
  t.closing = false ∧
  t.waiter = none ∧
  (t.prod + n) % t.ring + n ≤ t.ring ∧
  t.cons + t.ring < t.prod + n + n := by decide +kernel

theorem wit_GroupHandles_1 :
  let s : State := grouped (mapped (at1 0xE2000000 1 [(0, scal 0x00800001)]) []) (grp0 [] [] []) (ep0 [] [])
  let c : Ctx := cx s
  let es : List Nat := [0]
  let e : Nat := 0
  let hk : Bool := false
  let n : BitVec 4 := 0
  let c1 : Cons := 0x1FF
  let c0 : Cons := 0x008
  let i : Instr := .gjoin false 0 0x1FF 0x008
  let h := groupOperand c e hk n
  FiresOnce s c es e ∧
  (i = .gfree hk n c1 c0 ∨ i = .gjoin hk n c1 c0 ∨ i = .gleave hk n c1 c0 ∨ i = .ready hk n c1 c0 ∨ i = .unready hk n c1 c0 ∨
    i = .gpound hk n c1 c0) ∧
  h.toNat / 2 ^ 23 ≠ c.plot.vi := by decide +kernel

theorem wit_GroupHandles_2 :
  let s : State := grouped (mapped (at1 0xE2000000 1 [(0, scal 0x00200001)]) []) (grp0 [] [] []) (ep0 [] [])
  let c : Ctx := cx s
  let es : List Nat := [0]
  let e : Nat := 0
  let hk : Bool := false
  let n : BitVec 4 := 0
  let c1 : Cons := 0x1FF
  let c0 : Cons := 0x008
  let i : Instr := .gjoin false 0 0x1FF 0x008
  let h := groupOperand c e hk n
  FiresOnce s c es e ∧
  (i = .gfree hk n c1 c0 ∨ i = .gjoin hk n c1 c0 ∨ i = .gleave hk n c1 c0 ∨ i = .ready hk n c1 c0 ∨ i = .unready hk n c1 c0 ∨
    i = .gpound hk n c1 c0) ∧
  h.toNat / 2 ^ 23 = c.plot.vi ∧
  1024 ≤ h.toNat / 2 ^ 11 % 2 ^ 12 := by decide +kernel

theorem wit_GroupHandles_3 :
  let s : State := grouped (mapped (at1 0xE2000000 1 [(0, scal 0x801)]) []) (grp0 [] [] []) (ep0 [] [])
  let c : Ctx := cx s
  let es : List Nat := [0]
  let e : Nat := 0
  let hk : Bool := false
  let n : BitVec 4 := 0
  let c1 : Cons := 0x1FF
  let c0 : Cons := 0x008
  let i : Instr := .gjoin false 0 0x1FF 0x008
  let h := groupOperand c e hk n
  FiresOnce s c es e ∧
  (i = .gfree hk n c1 c0 ∨ i = .gjoin hk n c1 c0 ∨ i = .gleave hk n c1 c0 ∨ i = .ready hk n c1 c0 ∨ i = .unready hk n c1 c0 ∨
    i = .gpound hk n c1 c0) ∧
  h.toNat / 2 ^ 23 = c.plot.vi ∧
  Tab.at? s.groups (1024 * c.plot.vi + h.toNat / 2 ^ 11 % 2 ^ 12) = none := by decide +kernel

theorem wit_GroupHandles_4 :
  let s : State := grouped (mapped (at1 0xE2000000 1 [(0, scal 2)]) []) (grp0 [] [] []) (ep0 [] [])
  let c : Ctx := cx s
  let es : List Nat := [0]
  let e : Nat := 0
  let hk : Bool := false
  let n : BitVec 4 := 0
  let c1 : Cons := 0x1FF
  let c0 : Cons := 0x008
  let i : Instr := .gjoin false 0 0x1FF 0x008
  let g := grp0 [] [] []
  let h := groupOperand c e hk n
  FiresOnce s c es e ∧
  (i = .gfree hk n c1 c0 ∨ i = .gjoin hk n c1 c0 ∨ i = .gleave hk n c1 c0 ∨ i = .ready hk n c1 c0 ∨ i = .unready hk n c1 c0 ∨
    i = .gpound hk n c1 c0) ∧
  h.toNat / 2 ^ 23 = c.plot.vi ∧
  h.toNat / 2 ^ 11 % 2 ^ 12 < 1024 ∧
  Tab.at? s.groups (1024 * c.plot.vi + h.toNat / 2 ^ 11 % 2 ^ 12) = some g ∧
  g.gen ≠ h.toNat % 2 ^ 11 := by decide +kernel

theorem wit_GroupForms_1 :
  let s : State := withK (grouped (mapped (at1 0xE2000000 1 [(0, scal 0x1000)]) []) (grp0 [] [] []) (ep0 [] [])) [(0, 0x80004000), (1, 0x80)]
  let c : Ctx := cx s
  let es : List Nat := [0]
  let e : Nat := 0
  let n : BitVec 4 := 0
  let i := 1
  let bytes := (c.low 0 e).toNat
  let va := vaOf (c.k2 n.toNat)
  FiresOnce s c es e ∧
  poundOk s c.plot.vi va bytes = true ∧
  (List.range 1024).find? (fun i => !Tab.has s.groups (1024 * c.plot.vi + i)) = some i ∧
  s.groups.length < 4096 := by decide +kernel

set_option maxRecDepth 100000 in
theorem wit_GroupForms_2 :
  let s : State := { withK (grouped (mapped (at1 0xE2000000 1 [(0, scal 0x1000)]) []) (grp0 [] [] []) (ep0 [] [])) [(0, 0x80004000), (1, 0x80)] with groups := (List.range 1024).map (fun i => (i, grp0 [] [] [])) }
  let c : Ctx := cx s
  let es : List Nat := [0]
  let e : Nat := 0
  let n : BitVec 4 := 0
  let bytes := (c.low 0 e).toNat
  let va := vaOf (c.k2 n.toNat)
  (FiresOnce s c es e ∧
  poundOk s c.plot.vi va bytes = true) ∧
  (4096 ≤ s.groups.length ∨ ∀ i < 1024, Tab.has s.groups (1024 * c.plot.vi + i) = true) := ⟨by decide +kernel, .inr (fun i hi => has_shift _ 1024 _ i (grp0 [] [] []) rfl (by decide +kernel) hi)⟩

theorem wit_GroupForms_3 :
  let s : State := grouped (mapped (at1 0xE2000000 1 [(0, scal 0x1001)]) []) (grp0 [] [] []) (ep0 [] [])
  let c : Ctx := cx s
  let es : List Nat := [0]
  let e : Nat := 0
  let n : BitVec 4 := 0
  let bytes := (c.low 0 e).toNat
  let va := vaOf (c.k2 n.toNat)
  FiresOnce s c es e ∧
  poundOk s c.plot.vi va bytes = false := by decide +kernel

theorem wit_GroupForms_4 :
  let s : State := grouped (mapped (at1 0xE2000000 1 [(0, scal 1)]) []) (grp0 [msg0] [] []) (ep0 [] [])
  let c : Ctx := cx s
  let es : List Nat := [0]
  let e : Nat := 0
  let hk : Bool := false
  let n : BitVec 4 := 0
  let key := 0
  let g := grp0 [msg0] [] []
  FiresOnce s c es e ∧
  namesGroup s c (groupOperand c e hk n) key g := by decide +kernel

theorem wit_GroupForms_5 :
  let s : State := grouped (mapped (at1 0xE2000000 1 [(0, scal 1)]) []) (grp0 [msg0] [(0, node1 0 3)] []) (ep0 [] [])
  let c : Ctx := cx s
  let es : List Nat := [0]
  let e : Nat := 0
  let hk : Bool := false
  let n : BitVec 4 := 0
  let key := 0
  let g := grp0 [msg0] [(0, node1 0 3)] []
  let t := node1 0 3
  FiresOnce s c es e ∧
  namesGroup s c (groupOperand c e hk n) key g ∧
  Tab.at? g.nodes 0 = some t ∧
  0 ≤ t.counts.foldl (fun (a : Int) (x : Nat × Int) => a + x.2) 0 := by decide +kernel

theorem wit_GroupForms_6 :
  let s : State := grouped (mapped (at1 0xE2000000 1 [(0, scal 1)]) []) (grp0 [msg0] [] []) (ep0 [] [])
  let c : Ctx := cx s
  let es : List Nat := [0]
  let e : Nat := 0
  let hk : Bool := false
  let n : BitVec 4 := 0
  let key := 0
  let g := grp0 [msg0] [] []
  FiresOnce s c es e ∧
  namesGroup s c (groupOperand c e hk n) key g ∧
  Tab.at? g.nodes 0 = none := by decide +kernel

theorem wit_GroupForms_7 :
  let s : State := withK (grouped (mapped (at1 0xE2000000 1 [(0, scal 1)]) []) (grp0 [msg0] [] [(0, mem0)]) (ep0 [] [])) [(0, 0x80001000), (1, 0x80)]
  let c : Ctx := cx s
  let es : List Nat := [0]
  let e : Nat := 0
  let n : BitVec 4 := 0
  let s1 : State := gotS (cellWrite s c e 4 (vaOf (c.k2 n.toNat)) (snapWords 0 (grp0 [msg0] [] [(0, mem0)])))
  let key := 0
  let g := grp0 [msg0] [] [(0, mem0)]
  let va := vaOf (c.k2 n.toNat)
  FiresOnce s c es e ∧
  namesGroup s c (c.low 0 e) key g ∧
  va % 64 = 0 ∧
  hubWritable s c.plot.vi (snapWords key g).length va = true ∧
  cellWrite s c e 4 va (snapWords key g) = .ok s1 [] := by decide +kernel

theorem wit_GroupMembers_1 :
  let s : State := grouped (mapped (at1 0xE2000000 1 [(0, scal 1), (1, scal 3)]) []) (grp0 [] [(1024, node1 0 2)] [(0, mem0)]) (ep0 [] [(0, { gen := 1, midx := 0, ready := 2 })])
  let c : Ctx := cx s
  let es : List Nat := [0]
  let e : Nat := 0
  let hk : Bool := false
  let n : BitVec 4 := 0
  let key : Nat := 0
  let ep : Nat := 0
  let g : Group := grp0 [] [(1024, node1 0 2)] [(0, mem0)]
  let x : Endpoint := ep0 [] [(0, { gen := 1, midx := 0, ready := 2 })]
  let m : Membership := { gen := 1, midx := 0, ready := 2 }
  FiresOnce s c es e ∧
  namesGroup s c (groupOperand c e hk n) key g ∧
  endpointOf? c.plot c.f.cell = some (ep, x) ∧
  Tab.at? x.members key = some m := by decide +kernel

theorem wit_GroupMembers_2 :
  let s : State := grouped (mapped (at1 0xE2000000 1 [(0, scal 1), (1, scal 3)]) []) (grp0 [] [(1024, node1 0 2)] [(0, mem0)]) (ep0 [] [(0, { gen := 1, midx := 0, ready := 2 })])
  let c : Ctx := cx s
  let es : List Nat := [0]
  let e : Nat := 0
  let hk : Bool := false
  let n : BitVec 4 := 0
  let key : Nat := 0
  let ep : Nat := 0
  let g : Group := grp0 [] [(1024, node1 0 2)] [(0, mem0)]
  let x : Endpoint := ep0 [] [(0, { gen := 1, midx := 0, ready := 2 })]
  let m : Membership := { gen := 1, midx := 0, ready := 2 }
  let b := c.low 1 e
  FiresOnce s c es e ∧
  namesGroup s c (groupOperand c e hk n) key g ∧
  endpointOf? c.plot c.f.cell = some (ep, x) ∧
  Tab.at? x.members key = some m ∧
  b.toNat ≠ 0 ∧
  b.toNat < 256 ∧
  m.ready + b.toNat < 256 ∧
  320 * b.toNat ≤ x.size ∧
  x.used + x.reserved + 320 * b.toNat ≤ x.size := by decide +kernel

theorem wit_GroupMembers_3 :
  let s : State := grouped (mapped (at1 0xE2000000 1 [(0, scal 1), (1, scal 3)]) []) (grp0 [] [(1024, node1 0 2)] [(0, mem0)]) ({ ep0 [] [(0, { gen := 1, midx := 0, ready := 2 })] with reserved := 0xF00 })
  let c : Ctx := cx s
  let es : List Nat := [0]
  let e : Nat := 0
  let hk : Bool := false
  let n : BitVec 4 := 0
  let key : Nat := 0
  let ep : Nat := 0
  let g : Group := grp0 [] [(1024, node1 0 2)] [(0, mem0)]
  let x : Endpoint := { ep0 [] [(0, { gen := 1, midx := 0, ready := 2 })] with reserved := 0xF00 }
  let m : Membership := { gen := 1, midx := 0, ready := 2 }
  let b := c.low 1 e
  FiresOnce s c es e ∧
  namesGroup s c (groupOperand c e hk n) key g ∧
  endpointOf? c.plot c.f.cell = some (ep, x) ∧
  Tab.at? x.members key = some m ∧
  b.toNat ≠ 0 ∧
  b.toNat < 256 ∧
  m.ready + b.toNat < 256 ∧
  320 * b.toNat ≤ x.size ∧
  x.size < x.used + x.reserved + 320 * b.toNat := by decide +kernel

theorem wit_GroupMembers_4 :
  let s : State := grouped (mapped (at1 0xE2000000 1 [(0, scal 1), (1, scal 0)]) []) (grp0 [] [(1024, node1 0 2)] [(0, mem0)]) (ep0 [] [(0, { gen := 1, midx := 0, ready := 2 })])
  let c : Ctx := cx s
  let es : List Nat := [0]
  let e : Nat := 0
  let hk : Bool := false
  let n : BitVec 4 := 0
  let key : Nat := 0
  let ep : Nat := 0
  let g : Group := grp0 [] [(1024, node1 0 2)] [(0, mem0)]
  let x : Endpoint := ep0 [] [(0, { gen := 1, midx := 0, ready := 2 })]
  let m : Membership := { gen := 1, midx := 0, ready := 2 }
  let b := c.low 1 e
  FiresOnce s c es e ∧
  namesGroup s c (groupOperand c e hk n) key g ∧
  endpointOf? c.plot c.f.cell = some (ep, x) ∧
  Tab.at? x.members key = some m ∧
  b.toNat = 0 := by decide +kernel

theorem wit_GroupMembers_5 :
  let s : State := grouped (mapped (at1 0xE2000000 1 [(0, scal 1), (1, scal 3)]) []) (grp0 [] [(1024, node1 0 2)] [(0, mem0)]) (ep0 [] [])
  let c : Ctx := cx s
  let es : List Nat := [0]
  let e : Nat := 0
  let hk : Bool := false
  let n : BitVec 4 := 0
  let key : Nat := 0
  let ep : Nat := 0
  let g : Group := grp0 [] [(1024, node1 0 2)] [(0, mem0)]
  let x : Endpoint := ep0 [] []
  FiresOnce s c es e ∧
  namesGroup s c (groupOperand c e hk n) key g ∧
  endpointOf? c.plot c.f.cell = some (ep, x) ∧
  Tab.at? x.members key = none := by decide +kernel

theorem wit_GroupMembers_6 :
  let s : State := grouped (mapped (at1 0xE2000000 1 [(0, scal 1), (1, scal 3)]) []) (grp0 [] [] []) (ep0 [] [])
  let c : Ctx := cx s
  let es : List Nat := [0]
  let e : Nat := 0
  let hk : Bool := false
  let n : BitVec 4 := 0
  let key : Nat := 0
  let ep : Nat := 0
  let g : Group := grp0 [] [] []
  let x : Endpoint := ep0 [] []
  let midx := 0
  FiresOnce s c es e ∧
  namesGroup s c (groupOperand c e hk n) key g ∧
  endpointOf? c.plot c.f.cell = some (ep, x) ∧
  Tab.at? x.members key = none ∧
  (List.range 4096).find? (fun i => !Tab.has g.members i) = some midx ∧
  (∀ nd ∈ pathOf c.plot c.f.plot, Tab.has g.nodes nd = true ∨ nodeLoad s nd < 4096) := by decide +kernel

set_option maxRecDepth 100000 in
theorem wit_GroupMembers_7 :
  let s : State := grouped (mapped (at1 0xE2000000 1 [(0, scal 1), (1, scal 3)]) []) (grp0 [] [] ((List.range 4096).map (fun i => (i, mem0)))) (ep0 [] [])
  let c : Ctx := cx s
  let es : List Nat := [0]
  let e : Nat := 0
  let hk : Bool := false
  let n : BitVec 4 := 0
  let key : Nat := 0
  let ep : Nat := 0
  let g : Group := grp0 [] [] ((List.range 4096).map (fun i => (i, mem0)))
  let x : Endpoint := ep0 [] []
  (FiresOnce s c es e ∧
  namesGroup s c (groupOperand c e hk n) key g ∧
  endpointOf? c.plot c.f.cell = some (ep, x) ∧
  Tab.at? x.members key = none) ∧
  (∀ i < 4096, Tab.has g.members i = true) := ⟨by decide +kernel, (fun (t : Tab Member) (h : t = (List.range 4096).map (fun i => (i, mem0))) i hi => h ▸ has_range 4096 mem0 i hi) _ rfl⟩

theorem wit_GroupSend :
  let s : State := grouped (mapped (at1 0xE2000000 1 [(0, scal 7), (2, scal 1)]) []) (grp0 [] [] []) (ep0 [] [])
  let c : Ctx := cx s
  let es : List Nat := []
  let e : Nat := 0
  let key : Nat := 0
  let n : Nat := 1
  let hk : Bool := false
  let kn : BitVec 4 := 0
  let h : Word := 1
  let g : Group := grp0 [] [] []
  let ws : List Word := [7]
  let k : Cell := Tab.atD c.plot.cells 0 Cell.empty
  let s1 := flushAll s c.port
  ctxOf? s s.cur = some c ∧
  s.again = false ∧
  readyWhole c.blk c.inst c.f.slot = e :: es ∧
  sendHandle? c hk kn.toNat = some h ∧
  payload c n ws ∧
  Tab.atD c.inst.nulls c.f.slot 0 = 0 ∧
  namesGroup s c h key g ∧
  recOf? s c.plot = none ∧
  Tab.at? c.plot.cells c.f.cell = some k ∧
  (∀ x ∈ s.flights, x.2.msg.group = key → ∀ f, x.2.msg.firing = some f → ¬(f.plot = c.f.plot ∧ f.cell = c.f.cell)) ∧
  ¬writesBefore s1 c := by decide +kernel

theorem wit_GroupTake_1 :
  let s : State := grouped (mapped (at1 0xE2000000 1 [(0, scal 0)]) []) (grp0 [] [] []) (ep0 [{ off := 0, bytes := 128, id := 0, counted := false }] [])
  let c : Ctx := cx s
  let es : List Nat := [0]
  let e : Nat := 0
  let ep : Nat := 0
  let x : Endpoint := ep0 [{ off := 0, bytes := 128, id := 0, counted := false }] []
  let m : InMsg := { off := 0, bytes := 128, id := 0, counted := false }
  let rest : List InMsg := []
  FiresOnce s c es e ∧
  endpointOf? c.plot c.f.cell = some (ep, x) ∧
  x.msgs = m :: rest ∧
  m.counted = false := by decide +kernel

theorem wit_GroupTake_2 :
  let s : State := grouped (mapped (at1 0xE2000000 1 [(0, scal 0)]) []) (grp0 [] [] []) (ep0 [{ off := 0, bytes := 128, id := 0, counted := true }] [])
  let c : Ctx := cx s
  let es : List Nat := [0]
  let e : Nat := 0
  let ep : Nat := 0
  let x : Endpoint := ep0 [{ off := 0, bytes := 128, id := 0, counted := true }] []
  let m : InMsg := { off := 0, bytes := 128, id := 0, counted := true }
  let rest : List InMsg := []
  FiresOnce s c es e ∧
  endpointOf? c.plot c.f.cell = some (ep, x) ∧
  x.msgs = m :: rest ∧
  m.counted = true := by decide +kernel

theorem wit_Spawning :
  let s : State := tasked (withK (at1 0xEB000000 1 [(0, scal 0)]) [(0, 0x80001000), (1, 0x80)]) template [(0, rec0 0 8 true)]
  let c : Ctx := cx s
  let es : List Nat := [0]
  let e : Nat := 0
  let n : BitVec 4 := 0
  let c1 : Cons := 0x1FF
  let c0 : Cons := 0x008
  let i : Instr := .spawn false 0 0x1FF 0x008
  let s1 : State := gotS (readTemplate s c e n.toNat)
  let ws : List Dword := gotV (readTemplate s c e n.toNat)
  let s2 : State := (releaseFirst s1 c).1
  let rk : Nat := 0
  let run : Rec := rec0 0 8 true
  let r : Rec := ((placedBy c e ws run.job 0 i).map (fun x => x.1)).getD run
  let s3 : State := match jobImage s2 run.job r.code with | .ok x _ => x | _ => s2
  let im : JobImage := { pin := false, pdie := 0, handles := [] }
  let k : Nat := 1
  (FiresOnce s c es e ∧
  recOf? s1 c.plot = some (rk, run) ∧
  placedBy c e ws run.job (((recOf? s1 c.plot).map (·.2.parent)).getD 0) i = some (r, n, c1, c0) ∧
  placeable c e i = true ∧
  readTemplate s c e n.toNat = .ok s1 ws ∧
  releaseFirst s1 c = (s2, false) ∧
  jobImage s2 run.job r.code = .ok s3 im ∧
  slotFor? s3 c.plot.vi im c.plot.die r.anydie = some k) ∧
  (∀ j, Tab.at? s2.jobs run.job = some j → j.cause = none) := ⟨by decide +kernel, of_some job0 (by decide +kernel) (by decide +kernel)⟩

theorem wit_TaskForms_1 :
  let s : State := tasked (withK (at1 0xEE000000 1 [(0, run64 [0])]) [(0, 0x80001000), (1, 0x80)]) [] [(0, rec0 0 8 true)]
  let c : Ctx := cx s
  let es : List Nat := [0]
  let e : Nat := 0
  FiresOnce s c es e := by decide +kernel

theorem wit_TaskForms_2 :
  let s : State := tasked (withK (at1 0xEE000000 1 [(0, run64 [0x0200000000000001])]) [(0, 0x80001000), (1, 0x80)]) [] [(0, rec0 0 8 true), (1, rec0 8 16 false)]
  let c : Ctx := cx s
  let es : List Nat := [0]
  let e : Nat := 0
  FiresOnce s c es e ∧
  liveRec? s c.plot.vi (c.wide 0 e) = none := by decide +kernel

theorem wit_TaskForms_3 :
  let s : State := tasked (withK (at1 0xEE000000 1 [(0, run64 [0x0100000000000000])]) [(0, 0x80001000), (1, 0x80)]) [] [(0, rec0 0 8 true), (1, rec0 8 16 false)]
  let c : Ctx := cx s
  let es : List Nat := [0]
  let e : Nat := 0
  let k := 0
  let r := rec0 0 8 true
  FiresOnce s c es e ∧
  liveRec? s c.plot.vi (c.wide 0 e) = some (k, r) ∧
  r.running = true := by decide +kernel

theorem wit_TaskForms_4 :
  let s : State := tasked (withK (at1 0xEE000000 1 [(0, run64 [0x0100000000000001])]) [(0, 0x80001000), (1, 0x80)]) [] [(0, rec0 0 8 true), (1, rec0 8 16 false)]
  let c : Ctx := cx s
  let es : List Nat := [0]
  let e : Nat := 0
  let k := 1
  let r := rec0 8 16 false
  FiresOnce s c es e ∧
  liveRec? s c.plot.vi (c.wide 0 e) = some (k, r) ∧
  r.running = false := by decide +kernel

theorem wit_TaskForms_5 :
  let s : State := tasked (withK (at1 0xEE000000 1 [(0, run64 [5])]) [(0, 0x80001000), (1, 0x80)]) [] [(0, rec0 0 8 true)]
  let c : Ctx := cx s
  let es : List Nat := [0]
  let e : Nat := 0
  let s1 : State := (releaseFirst s c).1
  let k := 0
  let r := rec0 0 8 true
  FiresOnce s c es e ∧
  releaseFirst s c = (s1, false) ∧
  recOf? (reachScope s1 c.plot.vi 5) c.plot = some (k, r) := by decide +kernel

theorem wit_TaskForms_6 :
  let s : State := tasked (withK (at1 0xEE000000 1 [(0, run64 [5])]) [(0, 0x80001000), (1, 0x80)]) [] [(0, rec0 0 8 true)]
  let c : Ctx := cx s
  let es : List Nat := [0]
  let e : Nat := 0
  let k := 0
  let r := rec0 0 8 true
  FiresOnce s c es e ∧
  recOf? s c.plot = some (k, r) := by decide +kernel

theorem wit_Declares :
  let s : State := onVi (tasked (withK (at1 0xF1000000 1 [(0, scal 0), (1, run64 [0x8080001040])]) [(0, 0x80001000), (1, 0x80)]) [0x8080003000, 0, 0, 0x8000000, 0, 0, 0x8080001080, 0x55, 0x8000008080002000, 0x1000] [(0, rec0 0 8 true)]) 0 (fun v => { v with owners := [(0, { port := 0, here := true, plot := 0 })] })
  let c : Ctx := cx s
  let es : List Nat := [0]
  let e : Nat := 0
  let n : BitVec 4 := 0
  let s1 : State := gotS (cellRead s c e 4 0x8080001000 8)
  let t : List Dword := gotV (cellRead s c e 4 0x8080001000 8)
  let s2 : State := gotS (cellRead s1 c e 4 0x8080001040 2)
  let d0 : Dword := ((gotV (cellRead s1 c e 4 0x8080001040 2))[0]?).getD 0
  let d1 : Dword := ((gotV (cellRead s1 c e 4 0x8080001040 2))[1]?).getD 0
  let s3 : State := gotS (cellStores s2 c e 4 [(0x8080001080, d0), (0x8080001088, d1), (0x8080001020, 1)])
  let ps : List Dword := gotV (cellStores s2 c e 4 [(0x8080001080, d0), (0x8080001088, d1), (0x8080001020, 1)])
  let va := vaOf (c.k2 n.toNat)
  let a := (c.low 0 e).toNat
  let wsd := vaOf ((t[6]?).getD 0)
  let w4 := (t[4]?).getD 0
  FiresOnce s c es e ∧
  cellRead s c e 4 va 8 = .ok s1 t ∧
  cellRead s1 c e 4 (vaOf (c.wide 1 e)) 2 = .ok s2 [d0, d1] ∧
  va % 64 = 0 ∧
  vaOf (c.wide 1 e) % 16 = 0 ∧
  wsd ≠ 0 ∧
  a < 4 ∧
  d0.extractLsb' 57 5 = 0 ∧
  (d0.getLsbD 62 = true → d0.getLsbD 63 = true) ∧
  d1.toNat % 256 = 0 ∧
  cellStores s2 c e 4 [(wsd + 16 * a, d0), (wsd + 16 * a + 8, d1),
    (va + 32, dw (w4.toNat / 8 * 8 + max (w4.toNat % 8) (a + 1)))] = .ok s3 ps := by decide +kernel

theorem wit_Dispatches_1 :
  let s : State := onPlot (tasked (at1 0 1 []) [] [(1, rec0 8 16 false)]) 0 (fun p => { p with running := false, task := none })
  let plot : Nat := 0
  let p : Plot := (cx s).plot
  let k : Nat := 1
  let r : Rec := (s.recs.map (fun x => x.2)).getLastD (rec0 0 0 false)
  let entries : List Dword := []
  let seed : Dword := 0
  let s1 : State := s
  let stale := ((Tab.at? s.jobs r.job).map (fun j => p.stale.testBit j.queue)).getD false
  Tab.at? s.plots plot = some p ∧
  choose? s plot p = some (k, r) ∧
  Tab.at? s.recs k = some r ∧
  r.grain = 0 ∧
  p.frozen = false ∧
  yielded s p r = false ∧
  stale = false ∧
  r.image = none ∧
  readArgs s p.vi p r.args = .ok s1 entries seed := by decide +kernel

theorem wit_Splitting_1 :
  let s : State := tasked (at1 0 1 []) [] [(1, rec0 8 16 false)]
  let k : Nat := 1
  let q : Rec := rec0 8 16 false
  Tab.at? s.recs k = some q ∧
  q.image = none ∧
  (q.grain = 0 ∨ q.hi - q.lo ≤ 2 * q.grain) := by decide +kernel

theorem wit_Splitting_2 :
  let s : State := tasked (at1 0 1 []) [] [(1, { rec0 8 16 false with grain := 2 })]
  let k : Nat := 1
  let slot : Nat := 0
  let q : Rec := { rec0 8 16 false with grain := 2 }
  Tab.at? s.recs k = some q ∧
  q.image = none ∧
  q.grain ≠ 0 ∧
  2 * q.grain < q.hi - q.lo ∧
  freeSlot? s (recDie k) (recVi k) = some slot ∧
  parentOf? s k q = none := by decide +kernel

theorem wit_Splitting_3 :
  let s : State := onVi (tasked (at1 0 1 []) [] [(1, { rec0 8 16 false with grain := 2 })]) 0 (fun v => { v with poolmem := [] })
  let k : Nat := 1
  let q : Rec := { rec0 8 16 false with grain := 2 }
  Tab.at? s.recs k = some q ∧
  q.image = none ∧
  q.grain ≠ 0 ∧
  2 * q.grain < q.hi - q.lo ∧
  freeSlot? s (recDie k) (recVi k) = none := by decide +kernel

theorem wit_Rounds_1 :
  let s : State := onPlot (tasked (st (plot1 (cell1 { blk 0 0 [] (inst 1 []) with insts := [] }))) [] []) 0 (fun p => { p with task := none })
  let plot : Nat := 0
  let p : Plot := Tab.atD s.plots 0 (plot1 Cell.empty)
  let s1 := flushPlot (closeRound s plot) plot
  Tab.at? s.plots plot = some p ∧
  roundOver p = true ∧
  streamsOf s1 plot = [] ∧
  plotWrites s1 plot p = false ∧
  p.role = .graph ∧
  p.task = none := by decide +kernel

theorem wit_Rounds_2 :
  let s : State := onPlot (tasked (st (plot1 (cell1 { blk 0 0 [] (inst 1 []) with insts := [] }))) [] [(0, rec0 0 8 true)]) 0 (fun p => { p with task := some 0 })
  let plot : Nat := 0
  let p : Plot := Tab.atD s.plots 0 (plot1 Cell.empty)
  let k := 0
  let s1 := flushPlot (closeRound s plot) plot
  Tab.at? s.plots plot = some p ∧
  roundOver p = true ∧
  streamsOf s1 plot = [] ∧
  plotWrites s1 plot p = false ∧
  p.role = .graph ∧
  p.task = some k ∧
  p.failed = none := by decide +kernel

theorem wit_Rounds_3 :
  let s : State := tasked (at1 0 1 []) [] []
  let plot : Nat := 0
  let p : Plot := (cx s).plot
  Tab.at? s.plots plot = some p ∧
  roundOver p = false := by decide +kernel

theorem wit_JobQueues_1 :
  let s : State := onVi (tasked (at1 0 1 []) [0x8080003000, 0, 0x10000000, 0x8000000, 0, 0, 0, 0x55] []) 0 (fun v => { v with queues := [(0, { JobQueue.reset with base := 0x8080001010, tail := 1 })] })
  let v : Nat := 0
  let q : Nat := 0
  let s1 : State := match readSlot s v q with | .ok x _ => x | _ => s
  let ws : List Dword := match readSlot s v q with | .ok _ l => l | _ => []
  queueTakes s v q = true ∧
  ¬(v = 0 ∧ q = 15) ∧
  readSlot s v q = .ok s1 ws ∧
  badRoot ws = true := by decide +kernel

theorem wit_JobQueues_2 :
  let s : State := onVi (tasked (at1 0 1 []) (0x8080001040 :: template.drop 1) []) 0 (fun v => { v with queues := [(0, { JobQueue.reset with base := 0x8080001010, tail := 1 })] })
  let v : Nat := 0
  let q : Nat := 0
  let s1 : State := match readSlot s v q with | .ok x _ => x | _ => s
  let ws : List Dword := match readSlot s v q with | .ok _ l => l | _ => []
  let s2 := (takeJob s1 v q (newJob v q 0 0x55 0)).1
  let key := 1
  let s3 := match jobImage s2 key 0x8080001040 with | .ok x _ => x | _ => s2
  let im := { pin := false, pdie := 0, handles := [] }
  let k := 0
  let tag := (ws[7]?).getD 0
  queueTakes s v q = true ∧
  ¬(v = 0 ∧ q = 15) ∧
  readSlot s v q = .ok s1 ws ∧
  badRoot ws = false ∧
  takeJob s1 v q (newJob v q (Tab.atD (viOf s1 v).queues q JobQueue.reset).head tag (Tab.atD (viOf s1 v).queues q JobQueue.reset).jnl) =
    (s2, key) ∧
  jobImage s2 key (vaOf ((ws[0]?).getD 0)) = .ok s3 im ∧
  slotFor? s3 v im (((Tab.atD (viOf s1 v).queues q JobQueue.reset).base.extractLsb' 5 2).toNat)
    ((Tab.atD (viOf s1 v).queues q JobQueue.reset).base.getLsbD 7 || (recOf ws key).anydie) = some k := by decide +kernel

theorem wit_JobQueues_3 :
  let s : State := onVi (onVi (tasked (at1 0 1 []) (0x8080001040 :: template.drop 1) []) 0 (fun v => { v with poolmem := [] })) 0 (fun v => { v with queues := [(0, { JobQueue.reset with base := 0x8080001010, tail := 1 })] })
  let v : Nat := 0
  let q : Nat := 0
  let s1 : State := match readSlot s v q with | .ok x _ => x | _ => s
  let ws : List Dword := match readSlot s v q with | .ok _ l => l | _ => []
  let s2 := (takeJob s1 v q (newJob v q 0 0x55 0)).1
  let key := 1
  let s3 := match jobImage s2 key 0x8080001040 with | .ok x _ => x | _ => s2
  let im := { pin := false, pdie := 0, handles := [] }
  let tag := (ws[7]?).getD 0
  queueTakes s v q = true ∧
  ¬(v = 0 ∧ q = 15) ∧
  readSlot s v q = .ok s1 ws ∧
  badRoot ws = false ∧
  takeJob s1 v q (newJob v q (Tab.atD (viOf s1 v).queues q JobQueue.reset).head tag (Tab.atD (viOf s1 v).queues q JobQueue.reset).jnl) =
    (s2, key) ∧
  jobImage s2 key (vaOf ((ws[0]?).getD 0)) = .ok s3 im ∧
  slotFor? s3 v im (((Tab.atD (viOf s1 v).queues q JobQueue.reset).base.extractLsb' 5 2).toNat)
    ((Tab.atD (viOf s1 v).queues q JobQueue.reset).base.getLsbD 7 || (recOf ws key).anydie) = none := by decide +kernel

theorem wit_JobEnds_1 :
  let s : State := onVi { tasked (at1 0 1 []) [] [] with jobs := [(0, job0)] } 0 (fun v => { v with queues := [(0, { JobQueue.reset with cring := 0x8080008000 })] })
  let job : Nat := 0
  let j : Job := job0
  Tab.at? s.jobs job = some j ∧
  j.jmode = 0 ∧
  j.live ≠ 0 := by decide +kernel

theorem wit_JobEnds_2 :
  let s : State := onVi { tasked (at1 0 1 []) [] [] with jobs := [(0, { job0 with live := 0 })] } 0 (fun v => { v with queues := [(0, { JobQueue.reset with cring := 0x8080008000 })] })
  let job : Nat := 0
  let j : Job := { job0 with live := 0 }
  let s1 : State := freeJobGroups (flushVi s j.vi) job j
  let s2 := (ringPut? s1 0 (ringBase 0x8080008000) 128 32 0 0 [0x77, 0, 0, 0]).getD s1
  let q := Tab.atD (viOf s1 j.vi).queues j.queue JobQueue.reset
  let status := if j.bad = true then 2 else if j.cause.isSome = true then 1 else 0
  let entry := [j.tag, dw (status * 2 ^ 56 + j.cause.getD 0 * 2 ^ 48 + j.queue * 2 ^ 44 + j.code.toNat), j.index.setWidth 64,
      if j.jd = true then 1 else 0]
  (Tab.at? s.jobs job = some j ∧
  j.jmode = 0 ∧
  j.live = 0 ∧
  viWrites (flushVi s j.vi) j.vi = false ∧
  s1 = freeJobGroups (reachScope (flushVi s j.vi) j.vi 5) job j) ∧
  ringPut? s1 j.vi (ringBase q.cring) (2 ^ (q.cring.toNat % 16 + 7)) 32 q.cprod q.ccons entry = some s2 := ⟨by decide +kernel, is_some (by decide +kernel)⟩

theorem wit_JobEnds_3 :
  let s : State := onVi { tasked (at1 0 1 []) [] [] with jobs := [(0, { job0 with live := 0 })] } 0 (fun v => { v with queues := [(0, { JobQueue.reset with cring := 0 })] })
  let job : Nat := 0
  let j : Job := { job0 with live := 0 }
  let s1 : State := freeJobGroups (flushVi s j.vi) job j
  let q := Tab.atD (viOf s1 j.vi).queues j.queue JobQueue.reset
  let status := if j.bad = true then 2 else if j.cause.isSome = true then 1 else 0
  let entry := [j.tag, dw (status * 2 ^ 56 + j.cause.getD 0 * 2 ^ 48 + j.queue * 2 ^ 44 + j.code.toNat), j.index.setWidth 64,
      if j.jd = true then 1 else 0]
  Tab.at? s.jobs job = some j ∧
  j.jmode = 0 ∧
  j.live = 0 ∧
  viWrites (flushVi s j.vi) j.vi = false ∧
  s1 = freeJobGroups (reachScope (flushVi s j.vi) j.vi 5) job j ∧
  ringPut? s1 j.vi (ringBase q.cring) (2 ^ (q.cring.toNat % 16 + 7)) 32 q.cprod q.ccons entry = none := by decide +kernel

theorem wit_PartitionPrivilege_1 :
  let s : State := withPlot (mapped (at1 0xD8000000 1 [(0, scal 0), (1, run64 [0x8080001000]), (2, scal 0)]) []) (fun plt => { plt with role := .graph, vi := 0 })
  let c : Ctx := cx s
  let es : List Nat := [0]
  let e : Nat := 0
  let c1 : Cons := 0x1FF
  let c0 : Cons := 0x010
  let i : Instr := .partWb 0x1FF 0x010
  FiresOnce s c es e ∧
  partForm i = some (c1, c0) ∧
  c.plot.role ≠ .reeve := by decide +kernel

theorem wit_PartitionPrivilege_2 :
  let s : State := withPlot (mapped (at1 0xD8000000 1 [(0, scal 64), (1, run64 [0x8080001000]), (2, scal 0)]) []) (fun plt => { plt with role := .reeve, vi := 0 })
  let c : Ctx := cx s
  let es : List Nat := [0]
  let e : Nat := 0
  let c1 : Cons := 0x1FF
  let c0 : Cons := 0x010
  let i : Instr := .partWb 0x1FF 0x010
  FiresOnce s c es e ∧
  partForm i = some (c1, c0) ∧
  c.plot.role = .reeve ∧
  64 ≤ (c.low 0 e).toNat := by decide +kernel

theorem wit_PartitionPrivilege_3 :
  let s : State := withPlot (mapped (at1 0xD8000000 1 [(0, scal 5), (1, run64 [0x8080001000]), (2, scal 0)]) []) (fun plt => { plt with role := .reeve, vi := 0 })
  let c : Ctx := cx s
  let es : List Nat := [0]
  let e : Nat := 0
  let c1 : Cons := 0x1FF
  let c0 : Cons := 0x010
  let i : Instr := .partWb 0x1FF 0x010
  (FiresOnce s c es e ∧
  partForm i = some (c1, c0) ∧
  c.plot.role = .reeve ∧
  (c.low 0 e).toNat < 64 ∧
  partValid s (c.low 0 e).toNat = false ∧
  sethashBefore s c (c.low 0 e).toNat = false) ∧
  (∀ c1 c0, i ≠ .partSethash c1 c0) := ⟨by decide +kernel, fun _ _ h => by cases h⟩

theorem wit_PartitionPrivilege_5 :
  let s : State := withPlot (mapped (at1 0xD8000000 1 [(0, scal 0), (1, run64 [0x8080001000]), (2, scal 0)]) []) (fun plt => { plt with role := .graph, vi := 1 })
  let c : Ctx := cx s
  let es : List Nat := [0]
  let e : Nat := 0
  let c1 : Cons := 0x1FF
  let c0 : Cons := 0x010
  let i : Instr := .partWb 0x1FF 0x010
  FiresOnce s c es e ∧
  partForm i = some (c1, c0) ∧
  isVi0 c.plot = false := by decide +kernel

theorem wit_PartitionForms_1 :
  let s : State := withPlot (mapped (at1 0xD8000000 1 [(0, scal 0), (1, run64 [0x8080001000]), (2, scal 0)]) []) (fun plt => { plt with role := .reeve, vi := 0 })
  let c : Ctx := cx s
  let es : List Nat := [0]
  let e : Nat := 0
  let p := (c.low 0 e).toNat
  FiresOnce s c es e ∧
  c.plot.role = .reeve ∧
  (c.low 0 e).toNat < 64 ∧
  partValid s p = true ∧
  sethashBefore s c p = false := by decide +kernel

theorem wit_PartitionForms_2 :
  let s : State := withPlot (mapped (at1 0xD8000000 1 [(0, scal 0), (1, run64 [0x8080001000]), (2, scal 0)]) []) (fun plt => { plt with role := .reeve, vi := 0 })
  let c : Ctx := cx s
  let es : List Nat := [0]
  let e : Nat := 0
  let p := (c.low 0 e).toNat
  FiresOnce s c es e ∧
  c.plot.role = .reeve ∧
  (c.low 0 e).toNat < 64 ∧
  partValid s p = true ∧
  sethashBefore s c p = false ∧
  partQui s p = false := by decide +kernel

theorem wit_PartitionForms_3 :
  let s : State := { withPlot (mapped (at1 0xD8000000 1 [(0, scal 0), (1, run64 [0x8080001000]), (2, scal 0)]) []) (fun plt => { plt with role := .reeve, vi := 0 }) with partcfg := [(0, 0xC020000000000000)] }
  let c : Ctx := cx s
  let es : List Nat := [0]
  let e : Nat := 0
  let p := (c.low 0 e).toNat
  FiresOnce s c es e ∧
  c.plot.role = .reeve ∧
  (c.low 0 e).toNat < 64 ∧
  partValid s p = true ∧
  sethashBefore s c p = false ∧
  partQui s p = true := by decide +kernel

theorem wit_WaysAndQuotas_1 :
  let s : State := (fun x : State => x) (at1 0xD8000000 1 [(0, scal 3), (1, run64 [5])])
  let c : Ctx := cx s
  let es : List Nat := [0]
  let e : Nat := 0
  FiresOnce s c es e ∧
  isVi0 c.plot = true ∧
  (c.low 0 e).toNat < 512 ∧
  (c.wide 1 e).toNat < 2 ^ 16 := by decide +kernel

theorem wit_WaysAndQuotas_2 :
  let s : State := (fun x : State => x) (at1 0xD8000000 1 [(0, scal 3), (1, run64 [0xFFFF])])
  let c : Ctx := cx s
  let es : List Nat := [0]
  let e : Nat := 0
  let v := (c.low 0 e).toNat
  let new : BitVec 16 := (c.wide 1 e).setWidth 16
  let old : BitVec 16 := (viOf s v).waym.extractLsb' 0 16
  FiresOnce s c es e ∧
  isVi0 c.plot = true ∧
  (c.low 0 e).toNat < 512 ∧
  (c.wide 1 e).toNat < 2 ^ 16 ∧
  (viOf s v).wayset = none ∧
  waymaskBefore s c v = false ∧
  (∀ x ∈ s.vis, x.1 ≠ v → x.2.waym.extractLsb' 16 16 &&& new &&& ~~~old = 0) ∧
  old &&& ~~~new = 0 := by decide +kernel

theorem wit_WaysAndQuotas_3 :
  let s : State := (fun x : State => x) (at1 0xD8000000 1 [(0, scal 3), (1, run64 [5])])
  let c : Ctx := cx s
  let es : List Nat := [0]
  let e : Nat := 0
  let v := (c.low 0 e).toNat
  let new : BitVec 16 := (c.wide 1 e).setWidth 16
  let old : BitVec 16 := (viOf s v).waym.extractLsb' 0 16
  FiresOnce s c es e ∧
  isVi0 c.plot = true ∧
  (c.low 0 e).toNat < 512 ∧
  (c.wide 1 e).toNat < 2 ^ 16 ∧
  (viOf s v).wayset = none ∧
  waymaskBefore s c v = false ∧
  (∀ x ∈ s.vis, x.1 ≠ v → x.2.waym.extractLsb' 16 16 &&& new &&& ~~~old = 0) ∧
  old &&& ~~~new ≠ 0 := by decide +kernel

theorem wit_WaysDrained :
  let s : State := onVi (mapped (at1 0xD8000000 1 []) [7]) 0 (fun v => { v with waym := 0x0001FFFE, wayset := some (Firing.zero, 0xFFFE) })
  let v : Nat := 0
  let p : Nat := 0
  let f : Firing := Firing.zero
  let m : Dword := (0xFFFE : Dword)
  (viOf s v).wayset = some (f, m) ∧
  viPart? s v = some p := by decide +kernel

theorem wit_Arriving_1 :
  let b : Barrier := { expect := 3, count := 2, phase := 0xFFFF, waiters := [] }
  let n : Nat := 5
  0 < n ∧
  0 < b.expect ∧
  b.phase < 2 ^ 16 := by decide +kernel

set_option maxRecDepth 100000 in
theorem wit_FairShare_3 :
  let s : State := { onVi (withPlot (tasked (at1 0 1 []) [0x0010400000000000] [(1, { rec0 0 8 false with code := 0x8080001000 })]) (fun p => { p with vi := 1, x := 0, y := 0, w := 48, h := 48 })) 0 (fun v => { v with fsdef := 3000 }) with quantum := 2000, vis := [(0, { vi0 with poolmem := [(0, 0x8080008000)], owners := [], fsdef := 3000 }), (1, { Vi.reset with imgmem := 0x808001FFFF })] }
  let v := 0
  let k := 1
  let r := { rec0 0 8 false with code := 0x8080001000 }
  let shape := ((shapeOf? s k r).map (fun x => x.1)).getD (plot1 Cell.empty)
  let pin := ((shapeOf? s k r).map (fun x => x.2)).getD none
  let key := 0
  (s.quantum.toNat % 2 ^ 32 < (viOf s v).fsdef.toNat ∧
  preempting s = false ∧
  oldestWaiting? s v = some (k, r) ∧
  shapeOf? s k r = some (shape, pin) ∧
  makePlace s.plots.length s shape pin = none) ∧
  victimFor? s v shape pin = some key := ⟨by decide +kernel, victim_one rfl (by decide +kernel) (by decide +kernel) rfl⟩

theorem wit_FairShare_4 :
  let s : State := State.reset
  let v := 0
  (viOf s v).fsdef.toNat ≤ s.quantum.toNat % 2 ^ 32 := by decide +kernel

theorem wit_NoVictim_1 :
  let v : Nat := 0
  let start : Nat := 0
  let s : State := { onVi (onPort (withPlot (evicted (at1 0xCC043010 1 [])) (fun q => { q with idle := 0 })) 0 (fun q => { q with misses := [miss1 0x8040003000 (some (.migrate 0x10018 0x200 12)) true] })) 0 (fun x => { x with ftstart := some 0, ftimeout := 1 }) with time := 1000 }
  (viOf s v).ftstart = some start ∧
  s.time.toNat - start < (viOf s v).ftimeout.toNat * Config.cyclesPerUs := by decide +kernel

theorem wit_NoVictim_2 :
  let v : Nat := 0
  let start : Nat := 0
  let s : State := { onVi (onPort (withPlot (evicted (at1 0xCC043010 1 [])) (fun q => { q with idle := 0 })) 0 (fun q => { q with misses := [] })) 0 (fun x => { x with ftstart := some 0, ftimeout := 1 }) with time := 1300 }
  (viOf s v).ftstart = some start ∧
  (viOf s v).ftimeout.toNat * Config.cyclesPerUs ≤ s.time.toNat - start ∧
  victims s v = [] := by decide +kernel

theorem wit_FreezesAndWaves_1 :
  let s : State := { withPlot (mapped (at1 0 1 []) []) (fun q => { q with stop := .freeze }) with time := 0 }
  let plot : Nat := 0
  let p : Plot := Tab.atD s.plots 0 (plot1 Cell.empty)
  Tab.at? s.plots plot = some p ∧
  p.stop = .freeze ∧
  p.frozen = false ∧
  cellsStopped plot p true = true ∧
  p.wave = none := by decide +kernel

theorem wit_FreezesAndWaves_2 :
  let s : State := { withPlot (mapped (at1 0 1 []) []) (fun q => { q with stop := .freeze, wave := some { start := 0, sent := true, arrived := [], waiter := some Firing.zero } }) with time := 0 }
  let plot : Nat := 0
  let p : Plot := Tab.atD s.plots 0 (plot1 Cell.empty)
  let w : Wave := { start := 0, sent := true, arrived := [], waiter := some Firing.zero }
  let f := Firing.zero
  Tab.at? s.plots plot = some p ∧
  p.stop = .freeze ∧
  p.frozen = false ∧
  cellsStopped plot p true = true ∧
  p.wave = some w ∧
  w.waiter = some f := by decide +kernel

theorem wit_FreezesAndWaves_3 :
  let s : State := { withPlot (mapped (at1 0 1 []) []) (fun q => { q with stop := .freeze, wave := some { start := 0, sent := true, arrived := [], waiter := none } }) with time := 0 }
  let plot : Nat := 0
  let p : Plot := Tab.atD s.plots 0 (plot1 Cell.empty)
  let w : Wave := { start := 0, sent := true, arrived := [], waiter := none }
  Tab.at? s.plots plot = some p ∧
  p.stop = .freeze ∧
  p.frozen = false ∧
  cellsStopped plot p true = true ∧
  p.wave = some w ∧
  w.waiter = none ∧
  p.trap = none := by decide +kernel

theorem wit_FreezesAndWaves_4 :
  let s : State := { withPlot (mapped (at1 0 1 []) []) (fun q => { q with stop := .wave, wave := some { start := 0, sent := true, arrived := [], waiter := none } }) with time := 0 }
  let plot : Nat := 0
  let p : Plot := Tab.atD s.plots 0 (plot1 Cell.empty)
  let w : Wave := { start := 0, sent := true, arrived := [], waiter := none }
  Tab.at? s.plots plot = some p ∧
  p.wave = some w ∧
  p.stop = .wave ∧
  p.frozen = false ∧
  w.sent = true ∧
  (∀ x ∈ p.routes, x.1 ∈ w.arrived) ∧
  p.eosQ = [] ∧
  deliveryTo s plot = false ∧
  w.waiter = none := by decide +kernel

theorem wit_FreezesAndWaves_5 :
  let s : State := { withPlot (mapped (at1 0 1 []) []) (fun q => { q with stop := .wave, wave := some { start := 0, sent := true, arrived := [], waiter := some Firing.zero } }) with time := 0 }
  let plot : Nat := 0
  let p : Plot := Tab.atD s.plots 0 (plot1 Cell.empty)
  let w : Wave := { start := 0, sent := true, arrived := [], waiter := some Firing.zero }
  let f := Firing.zero
  Tab.at? s.plots plot = some p ∧
  p.wave = some w ∧
  p.stop = .wave ∧
  p.frozen = false ∧
  w.sent = true ∧
  (∀ x ∈ p.routes, x.1 ∈ w.arrived) ∧
  p.eosQ = [] ∧
  deliveryTo s plot = false ∧
  w.waiter = some f := by decide +kernel

theorem wit_FreezesAndWaves_6 :
  let s : State := { withPlot (mapped (at1 0 1 []) []) (fun q => { q with stop := .wave, wave := some { start := 0, sent := true, arrived := [], waiter := none } }) with time := 65000 }
  let plot : Nat := 0
  let p : Plot := Tab.atD s.plots 0 (plot1 Cell.empty)
  let w : Wave := { start := 0, sent := true, arrived := [], waiter := none }
  Tab.at? s.plots plot = some p ∧
  p.wave = some w ∧
  p.stop = .wave ∧
  (s.wavebud.toNat % 2 ^ 32) * Config.cyclesPerUs ≤ s.time.toNat - w.start := by decide +kernel

theorem wit_FreezesAndWaves_7 :
  let s : State := { withPlot (mapped (at1 0 1 []) []) (fun q => { q with stop := .wave, wave := some { start := 0, sent := true, arrived := [], waiter := none } }) with time := 64999 }
  let plot : Nat := 0
  let p : Plot := Tab.atD s.plots 0 (plot1 Cell.empty)
  let w : Wave := { start := 0, sent := true, arrived := [], waiter := none }
  Tab.at? s.plots plot = some p ∧
  p.wave = some w ∧
  p.stop = .wave ∧
  s.time.toNat - w.start < (s.wavebud.toNat % 2 ^ 32) * Config.cyclesPerUs := by decide +kernel

theorem wit_SystemRegisters_1 :
  let s : State := at1 0xF7000000 1 [(0, run64 [0x3F0000000000]), (1, run64 [5])]
  let c : Ctx := cx s
  let es : List Nat := [0]
  let e : Nat := 0
  let why := 0
  let a := c.wide 0 e
  FiresOnce s c es e ∧
  accessWhy? (isVi0 c.plot) c.plot.vi a none = some why := by decide +kernel

theorem wit_SystemRegisters_2 :
  let s : State := at1 0xF7000000 1 [(0, run64 [0x080000000000]), (1, run64 [5])]
  let c : Ctx := cx s
  let es : List Nat := [0]
  let e : Nat := 0
  let why := 3
  let a := c.wide 0 e
  let w := c.wide 1 e
  FiresOnce s c es e ∧
  accessWhy? (isVi0 c.plot) c.plot.vi a (some w) = some why ∧
  (why = 4 → a.extractLsb' 59 2 = 0#2 → plotTarget? s c ≠ none) := by decide +kernel

theorem wit_SystemRegisters_5 :
  let s : State := at1 0xF7000000 1 [(0, run64 [0x060000000000]), (1, run64 [5])]
  let c : Ctx := cx s
  let es : List Nat := [0]
  let e : Nat := 0
  let v := 0
  let a := c.wide 0 e
  let reg := (a.extractLsb' 40 10).toNat
  let index := (a.extractLsb' 0 40).toNat
  FiresOnce s c es e ∧
  accessWhy? (isVi0 c.plot) c.plot.vi a none = none ∧
  a.extractLsb' 59 2 = 0#2 ∧
  c.plot.role ≠ .handler ∧
  plotRegValue? s c.plot reg index = some v ∧
  Tab.at? s.plots c.f.plot = some c.plot := by decide +kernel

theorem wit_SystemRegisters_6 :
  let s : State := at1 0xF7000000 1 [(0, run64 [0x0800430000000000]), (1, run64 [5])]
  let c : Ctx := cx s
  let es : List Nat := [0]
  let e : Nat := 0
  let a := c.wide 0 e
  FiresOnce s c es e ∧
  accessWhy? (isVi0 c.plot) c.plot.vi a none = none ∧
  a.extractLsb' 59 2 = 1#2 := by decide +kernel

theorem wit_SystemRegisters_7 :
  let s : State := at1 0xF7000000 1 [(0, run64 [0x1001030000000000]), (1, run64 [5])]
  let c : Ctx := cx s
  let es : List Nat := [0]
  let e : Nat := 0
  let a := c.wide 0 e
  FiresOnce s c es e ∧
  accessWhy? (isVi0 c.plot) c.plot.vi a none = none ∧
  a.extractLsb' 59 2 = 2#2 := by decide +kernel

theorem wit_SystemRegisters_8 :
  let s : State := at1 0xF7000000 1 [(0, run64 [0x060000000000]), (1, run64 [5])]
  let c : Ctx := cx s
  let es : List Nat := [0]
  let e : Nat := 0
  let key := 0
  let p := c.plot
  let a := c.wide 0 e
  let w := c.wide 1 e
  FiresOnce s c es e ∧
  accessWhy? (isVi0 c.plot) c.plot.vi a (some w) = none ∧
  a.extractLsb' 59 2 = 0#2 ∧
  plotTarget? s c = some (key, p) := by decide +kernel

theorem wit_SystemRegisters_9 :
  let s : State := at1 0xF7000000 1 [(0, run64 [0x0800430000000000]), (1, run64 [5])]
  let c : Ctx := cx s
  let es : List Nat := [0]
  let e : Nat := 0
  let a := c.wide 0 e
  let w := c.wide 1 e
  FiresOnce s c es e ∧
  accessWhy? (isVi0 c.plot) c.plot.vi a (some w) = none ∧
  a.extractLsb' 59 2 = 1#2 := by decide +kernel

theorem wit_SystemRegisters_10 :
  let s : State := at1 0xF7000000 1 [(0, run64 [0x1001030000000000]), (1, run64 [5])]
  let c : Ctx := cx s
  let es : List Nat := [0]
  let e : Nat := 0
  let a := c.wide 0 e
  let w := c.wide 1 e
  FiresOnce s c es e ∧
  accessWhy? (isVi0 c.plot) c.plot.vi a (some w) = none ∧
  a.extractLsb' 59 2 = 2#2 := by decide +kernel

theorem wit_RegisterChecks_1 :
  let a : Dword := 0x0002000000000000
  let reg := (a.extractLsb' 40 10).toNat
  regInfo? reg = none := by decide +kernel

theorem wit_RegisterChecks_2 :
  let a : Dword := 0x8000060000000000
  a.extractLsb' 61 3 ≠ 0#3 := by decide +kernel

theorem wit_RegisterChecks_3 :
  let a : Dword := 0x0800060000000000
  let i : RegInfo := { scope := 0, size := 1, rd := .all, wr := .all }
  let reg := (a.extractLsb' 40 10).toNat
  let scope := (a.extractLsb' 59 2).toNat
  regInfo? reg = some i ∧
  a.extractLsb' 61 3 = 0#3 ∧
  scope ≠ i.scope := by decide +kernel

theorem wit_RegisterChecks_4 :
  let vi0 : Bool := false
  let v : Nat := 3
  let a : Dword := 0x0800430000000000
  let i : RegInfo := { scope := 1, size := 1, rd := .all, wr := .all }
  let reg := (a.extractLsb' 40 10).toNat
  let scope := (a.extractLsb' 59 2).toNat
  let vi := (a.extractLsb' 50 9).toNat
  regInfo? reg = some i ∧
  a.extractLsb' 61 3 = 0#3 ∧
  scope = i.scope ∧
  scope = 1 ∧
  vi ≠ v ∧
  vi0 = false := by decide +kernel

theorem wit_RegisterChecks_5 :
  let vi0 : Bool := false
  let v : Nat := 0
  let a : Dword := 0x0800450000000000
  let w : Option Dword := some 1
  let i : RegInfo := { scope := 1, size := 1, rd := .all, wr := .vi0 }
  let reg := (a.extractLsb' 40 10).toNat
  let scope := (a.extractLsb' 59 2).toNat
  let vi := (a.extractLsb' 50 9).toNat
  let who := if w.isSome = true then i.wr else i.rd
  regInfo? reg = some i ∧
  a.extractLsb' 61 3 = 0#3 ∧
  scope = i.scope ∧
  (scope = 1 → vi = v ∨ vi0 = true) ∧
  who = .vi0 ∧
  vi0 = false := by decide +kernel

theorem wit_RegisterChecks_6 :
  let vi0 : Bool := true
  let v : Nat := 0
  let a : Dword := 0x0800420000000000
  let w : Option Dword := some 1
  let i : RegInfo := { scope := 1, size := 1, rd := .all, wr := .none }
  let reg := (a.extractLsb' 40 10).toNat
  let scope := (a.extractLsb' 59 2).toNat
  let vi := (a.extractLsb' 50 9).toNat
  let who := if w.isSome = true then i.wr else i.rd
  regInfo? reg = some i ∧
  a.extractLsb' 61 3 = 0#3 ∧
  scope = i.scope ∧
  (scope = 1 → vi = v ∨ vi0 = true) ∧
  who = .none := by decide +kernel

theorem wit_RegisterChecks_7 :
  let vi0 : Bool := false
  let v : Nat := 0
  let a : Dword := 0x08006C0000000004
  let w : Option Dword := some 1
  let i : RegInfo := { scope := 1, size := 4, rd := .all, wr := .all }
  let reg := (a.extractLsb' 40 10).toNat
  let scope := (a.extractLsb' 59 2).toNat
  let vi := (a.extractLsb' 50 9).toNat
  let who := if w.isSome = true then i.wr else i.rd
  regInfo? reg = some i ∧
  a.extractLsb' 61 3 = 0#3 ∧
  scope = i.scope ∧
  (scope = 1 → vi = v ∨ vi0 = true) ∧
  (who = .all ∨ (who = .vi0 ∧ vi0 = true)) ∧
  i.size ≤ (a.extractLsb' 0 40).toNat := by decide +kernel

theorem wit_RegisterChecks_8 :
  let vi0 : Bool := false
  let v : Nat := 0
  let a : Dword := 0x08006C0000000003
  let w : Option Dword := none
  let i : RegInfo := { scope := 1, size := 4, rd := .all, wr := .all }
  let reg := (a.extractLsb' 40 10).toNat
  let scope := (a.extractLsb' 59 2).toNat
  let vi := (a.extractLsb' 50 9).toNat
  let who := if w.isSome = true then i.wr else i.rd
  regInfo? reg = some i ∧
  a.extractLsb' 61 3 = 0#3 ∧
  scope = i.scope ∧
  (scope = 1 → vi = v ∨ vi0 = true) ∧
  (who = .all ∨ (who = .vi0 ∧ vi0 = true)) ∧
  (a.extractLsb' 0 40).toNat < i.size ∧
  reg ≠ 0x102 ∧
  w = none := by decide +kernel

theorem wit_RegisterChecks_9 :
  let vi0 : Bool := true
  let v : Nat := 0
  let a : Dword := 0x08006C0000000003
  let w : Option Dword := some 15
  let i : RegInfo := { scope := 1, size := 4, rd := .all, wr := .all }
  let x := 15
  let reg := (a.extractLsb' 40 10).toNat
  let scope := (a.extractLsb' 59 2).toNat
  let vi := (a.extractLsb' 50 9).toNat
  let who := if w.isSome = true then i.wr else i.rd
  regInfo? reg = some i ∧
  a.extractLsb' 61 3 = 0#3 ∧
  scope = i.scope ∧
  (scope = 1 → vi = v ∨ vi0 = true) ∧
  (who = .all ∨ (who = .vi0 ∧ vi0 = true)) ∧
  (a.extractLsb' 0 40).toNat < i.size ∧
  reg ≠ 0x102 ∧
  w = some x := by decide +kernel

theorem wit_TollForms_1 :
  let s : State := withPlot (withK (mapped (at1 0xF9000000 1 [(0, scal 10), (1, run64 [0x1234])]) []) [(0, 0x80001000), (1, 0x80)]) (fun q => { q with vi := 0 })
  let c : Ctx := cx s
  let es : List Nat := [0]
  let e : Nat := 0
  let a := c.low 0 e
  let v := (a.extractLsb' 4 9).toNat
  let i := (a.extractLsb' 0 4).toNat
  FiresOnce s c es e ∧
  a.extractLsb' 13 19 = 0#19 ∧
  (v = c.plot.vi ∨ isVi0 c.plot = true) ∧
  i < 11 := by decide +kernel

theorem wit_TollForms_2 :
  let s : State := withPlot (withK (mapped (at1 0xF9000000 1 [(0, scal 16), (1, run64 [0x1234])]) []) [(0, 0x80001000), (1, 0x80)]) (fun q => { q with vi := 3 })
  let c : Ctx := cx s
  let es : List Nat := [0]
  let e : Nat := 0
  let a := c.low 0 e
  let v := (a.extractLsb' 4 9).toNat
  FiresOnce s c es e ∧
  a.extractLsb' 13 19 = 0#19 ∧
  v ≠ c.plot.vi ∧
  isVi0 c.plot = false := by decide +kernel

theorem wit_TollForms_3 :
  let s : State := withPlot (withK (mapped (at1 0xF9000000 1 [(0, scal 2), (1, run64 [0x1234])]) []) [(0, 0x80001000), (1, 0x80)]) (fun q => { q with vi := 0 })
  let c : Ctx := cx s
  let es : List Nat := [0]
  let e : Nat := 0
  let n : BitVec 4 := 0
  let s1 : State := gotS (cellWrite s c e 4 0x8080001000 (tollRecord s 0 2 0x1234 ++ digestDwords (hmac64 Config.deviceKey (tollRecord s 0 2 0x1234))))
  let l : List Dword := gotV (cellWrite s c e 4 0x8080001000 (tollRecord s 0 2 0x1234 ++ digestDwords (hmac64 Config.deviceKey (tollRecord s 0 2 0x1234))))
  let a := c.low 0 e
  let u := (a.extractLsb' 2 9).toNat
  let g := (a.extractLsb' 0 2).toNat
  let ws := tollRecord s u g (c.wide 1 e)
  (FiresOnce s c es e ∧
  a.extractLsb' 11 21 = 0#21 ∧
  (u = c.plot.vi ∨ isVi0 c.plot = true) ∧
  g < 3 ∧
  vaOf (c.k2 n.toNat) % 32 = 0) ∧
  cellWrite s c e 4 (vaOf (c.k2 n.toNat)) (ws ++ digestDwords (hmac64 Config.deviceKey ws)) = .ok s1 l := ⟨by decide +kernel, got_ok (by decide +kernel)⟩

theorem wit_PlotForms_1 :
  let s : State := withPlot (mapped (at1 0xF6000000 1 [(0, run64 [0x100000104])]) []) (fun q => { q with vi := 1 })
  let c : Ctx := cx s
  let es : List Nat := [0]
  let e : Nat := 0
  let i : Instr := .freeze 0x1FF 0x010
  FiresOnce s c es e ∧
  plotForm i = true ∧
  isPrivileged c.plot = false := by decide +kernel

theorem wit_PlotForms_2 :
  let s : State := withPlot (mapped (at1 0xF6000000 1 [(0, run64 [0x20000000104])]) []) (fun q => { q with vi := 0 })
  let c : Ctx := cx s
  let es : List Nat := [0]
  let e : Nat := 0
  let i : Instr := .freeze 0x1FF 0x010
  let w := c.wide 0 e
  FiresOnce s c es e ∧
  plotForm i = true ∧
  isPrivileged c.plot = true ∧
  plotWordRsv w = true := by decide +kernel

theorem wit_PlotForms_3 :
  let s : State := withPlot (mapped (at1 0xF6000000 1 [(0, run64 [0x200000104])]) []) (fun q => { q with vi := 1, role := .handler })
  let c : Ctx := cx s
  let es : List Nat := [0]
  let e : Nat := 0
  let i : Instr := .freeze 0x1FF 0x010
  let w := c.wide 0 e
  FiresOnce s c es e ∧
  plotForm i = true ∧
  isPrivileged c.plot = true ∧
  plotWordRsv w = false ∧
  (w.extractLsb' 32 9).toNat ≠ c.plot.vi ∧
  isVi0 c.plot = false := by decide +kernel

theorem wit_PlotForms_4 :
  let s : State := withPlot (mapped (at1 0xF6000000 1 [(0, run64 [0x105])]) []) (fun q => { q with vi := 0 })
  let c : Ctx := cx s
  let es : List Nat := [0]
  let e : Nat := 0
  let w := c.wide 0 e
  FiresOnce s c es e ∧
  mayActOn c w ∧
  plotByWord? s w = none := by decide +kernel

theorem wit_PlotForms_5 :
  let s : State := withPlot (mapped (at1 0xF6000000 1 [(0, run64 [0x104])]) []) (fun q => { q with frozen := true })
  let c : Ctx := cx s
  let es : List Nat := [0]
  let e : Nat := 0
  let key : Nat := 0
  let p : Plot := Tab.atD s.plots 0 (plot1 Cell.empty)
  let w := c.wide 0 e
  FiresOnce s c es e ∧
  mayActOn c w ∧
  plotByWord? s w = some (key, p) ∧
  p.frozen = true := by decide +kernel

theorem wit_PlotForms_6 :
  let s : State := withPlot (mapped (at1 0xF6000000 1 [(0, run64 [0x104])]) []) (fun q => { q with vi := 0 })
  let c : Ctx := cx s
  let es : List Nat := [0]
  let e : Nat := 0
  let key : Nat := 0
  let p : Plot := Tab.atD s.plots 0 (plot1 Cell.empty)
  let w := c.wide 0 e
  FiresOnce s c es e ∧
  mayActOn c w ∧
  plotByWord? s w = some (key, p) ∧
  p.frozen = false ∧
  p.stop = .none := by decide +kernel

theorem wit_PlotForms_7 :
  let s : State := withPlot (mapped (at1 0xF6000000 1 [(0, run64 [0x104])]) []) (fun q => { q with frozen := true })
  let c : Ctx := cx s
  let es : List Nat := [0]
  let e : Nat := 0
  let key : Nat := 0
  let p : Plot := Tab.atD s.plots 0 (plot1 Cell.empty)
  let w := c.wide 0 e
  FiresOnce s c es e ∧
  mayActOn c w ∧
  plotByWord? s w = some (key, p) ∧
  p.frozen = true ∧
  p.trap = none := by decide +kernel

theorem wit_PlotForms_8 :
  let s : State := withPlot (mapped (at1 0xF6000000 1 [(0, run64 [0x104])]) []) (fun q => { q with vi := 0 })
  let c : Ctx := cx s
  let es : List Nat := [0]
  let e : Nat := 0
  let key : Nat := 0
  let p : Plot := Tab.atD s.plots 0 (plot1 Cell.empty)
  let w := c.wide 0 e
  FiresOnce s c es e ∧
  mayActOn c w ∧
  plotByWord? s w = some (key, p) ∧
  (p.frozen = false ∨ p.trap.isSome = true) := by decide +kernel

theorem wit_ImageForms_1 :
  let s : State := withPlot (withK (mapped2 (at1 0xF8000000 1 [(0, run64 [0x104])]) image0 []) [(0, 0), (1, 0x80)]) (fun q => { q with frozen := true })
  let c : Ctx := cx s
  let es : List Nat := [0]
  let e : Nat := 0
  let key : Nat := 0
  let p : Plot := Tab.atD s.plots 0 (plot1 Cell.empty)
  let w := c.wide 0 e
  FiresOnce s c es e ∧
  mayActOn c w ∧
  plotByWord? s w = some (key, p) ∧
  p.frozen = true ∧
  cellsStopped key p true = true := by decide +kernel

theorem wit_ImageForms_2 :
  let s : State := { onVi (withPlot (withK (mapped2 (at1 0xF8000000 1 [(0, run64 [0x100104])]) image0 []) [(0, 0), (1, 0x80)]) (fun q => { q with idle := 0 })) 0 (fun v => { v with imgmem := 0x8080020002 }) with images := [(0, { kind := 1, key := 7, live := true, plot := { plot1 Cell.empty with x := 4, code := 0x8080001000 }, streams := [], task := none, va := none, bytes := 64, body := 0 })], nextImage := 1 }
  let c : Ctx := cx s
  let es : List Nat := [0]
  let e : Nat := 0
  let id : Nat := 0
  let w := c.wide 0 e
  FiresOnce s c es e ∧
  mayActOn c w ∧
  plotByWord? s w = none ∧
  waveImage? s w = some id := by decide +kernel

theorem wit_ImageForms_3 :
  let s : State := { onVi (withPlot (withK (mapped2 (at1 0xF8000000 1 [(0, run64 [0x100104])]) image0 []) [(0, 0), (1, 0)]) (fun q => { q with idle := 0 })) 0 (fun v => { v with imgmem := 0x8080020002 }) with images := [(0, { kind := 1, key := 7, live := true, plot := { plot1 Cell.empty with x := 4, code := 0x8080001000 }, streams := [], task := none, va := none, bytes := 64, body := 0 })], nextImage := 1 }
  let c : Ctx := cx s
  let es : List Nat := [0]
  let e : Nat := 0
  let id : Nat := 0
  let n : BitVec 4 := 0
  let s1 : State := (storeImage? s id).getD s
  let w := c.wide 0 e
  (FiresOnce s c es e ∧
  mayActOn c w ∧
  plotByWord? s w = none ∧
  waveImage? s w = some id ∧
  c.k2 n.toNat = 0) ∧
  storeImage? s id = some s1 := ⟨by decide +kernel, is_some (by decide +kernel)⟩

theorem wit_ImageForms_4 :
  let s : State := { onVi (withPlot (withK (mapped2 (at1 0xF8000000 1 [(0, run64 [0x100104])]) image0 []) [(0, 0x80001080), (1, 0x80)]) (fun q => { q with idle := 0 })) 0 (fun v => { v with imgmem := 0x8080020002 }) with images := [(0, { kind := 1, key := 7, live := true, plot := { plot1 Cell.empty with x := 4, code := 0x8080001000 }, streams := [], task := none, va := none, bytes := 64, body := 0 })], nextImage := 1 }
  let c : Ctx := cx s
  let es : List Nat := [0]
  let e : Nat := 0
  let id : Nat := 0
  let n : BitVec 4 := 0
  let s1 : State := gotS (cellWrite s c e 4 0x8080001080 (imageWords s 0))
  let l : List Dword := gotV (cellWrite s c e 4 0x8080001080 (imageWords s 0))
  let w := c.wide 0 e
  let va := vaOf (c.k2 n.toNat)
  (FiresOnce s c es e ∧
  mayActOn c w ∧
  plotByWord? s w = none ∧
  waveImage? s w = some id ∧
  c.k2 n.toNat ≠ 0 ∧
  va % 64 = 0) ∧
  cellWrite s c e 4 va (imageWords s id) = .ok s1 l := ⟨by decide +kernel, got_ok (by decide +kernel)⟩

theorem wit_ImageForms_11 :
  let s : State := { withPlot (withK (mapped2 (at1 0xF8000000 1 [(0, run64 [0x200104])]) image0 [0x0224000000000040, 0x100104, 0x8080001000, 0, 0, 0, 0, 0]) [(0, 0x80001080), (1, 0x80)]) (fun q => { q with idle := 0 }) with images := [(0, { kind := 2, key := 7, live := true, plot := { plot1 Cell.empty with x := 4, code := 0x8080001000 }, streams := [], task := none, va := none, bytes := 64, body := 0 })], nextImage := 1 }
  let c : Ctx := cx s
  let es : List Nat := [0]
  let e : Nat := 0
  let key : Nat := 1
  let id : Nat := 0
  let n : BitVec 4 := 0
  let s1 : State := gotS (cellRead s c e 4 0x8080001080 8)
  let s2 : State := gotS (cellRead s1 c e 4 0x80800010C0 0)
  let h : List Dword := gotV (cellRead s c e 4 0x8080001080 8)
  let body : List Dword := []
  let s3 := (match configure s2 0 .graph none 0x8080001000 0 false (some (8, 0)) with | .ok x _ => x | _ => s2)
  let w := c.wide 0 e
  let va := vaOf (c.k2 n.toNat)
  let saved := (h[1]?).getD 0
  FiresOnce s c es e ∧
  mayActOn c w ∧
  va % 64 = 0 ∧
  cellRead s c e 4 va 8 = .ok s1 h ∧
  rectangleOk w saved = true ∧
  (∀ x ∈ s.plots, (wordPlace w).overlaps x.2 = false) ∧
  badImageHead? h = none ∧
  cellRead s1 c e 4 (va + 64) ((((h[0]?).getD 0).extractLsb' 0 48).toNat / 8 - 8) = .ok s2 body ∧
  crc32 body = ((h[4]?).getD 0).setWidth 32 ∧
  configure s2 (w.extractLsb' 32 9).toNat .graph none (((h[2]?).getD 0).extractLsb' 0 57).toNat (w.extractLsb' 24 2).toNat false
    (some ((w.extractLsb' 18 6).toNat, (w.extractLsb' 12 6).toNat)) = .ok s3 key ∧
  imageOf? s3 h body = some id := by decide +kernel

theorem wit_ImageForms_12 :
  let s : State := { withPlot (withK (mapped2 (at1 0xF8000000 1 [(0, run64 [0x200104])]) image0 [0x0224000000000040, 0x100104, 0x8080001000, 0, 5, 0, 0, 0]) [(0, 0x80001080), (1, 0x80)]) (fun q => { q with idle := 0 }) with images := [(0, { kind := 2, key := 7, live := true, plot := { plot1 Cell.empty with x := 4, code := 0x8080001000 }, streams := [], task := none, va := none, bytes := 64, body := 0 })], nextImage := 1 }
  let c : Ctx := cx s
  let es : List Nat := [0]
  let e : Nat := 0
  let n : BitVec 4 := 0
  let s1 : State := gotS (cellRead s c e 4 0x8080001080 8)
  let s2 : State := gotS (cellRead s1 c e 4 0x80800010C0 0)
  let h : List Dword := gotV (cellRead s c e 4 0x8080001080 8)
  let body : List Dword := []
  let w := c.wide 0 e
  let va := vaOf (c.k2 n.toNat)
  let saved := (h[1]?).getD 0
  FiresOnce s c es e ∧
  mayActOn c w ∧
  va % 64 = 0 ∧
  cellRead s c e 4 va 8 = .ok s1 h ∧
  rectangleOk w saved = true ∧
  (∀ x ∈ s.plots, (wordPlace w).overlaps x.2 = false) ∧
  badImageHead? h = none ∧
  cellRead s1 c e 4 (va + 64) ((((h[0]?).getD 0).extractLsb' 0 48).toNat / 8 - 8) = .ok s2 body ∧
  crc32 body ≠ ((h[4]?).getD 0).setWidth 32 := by decide +kernel

theorem wit_SystemForms_1 :
  let s : State := tasked (at1 0xF9000000 1 [(0, run64 [0x8080001000]), (1, run64 [0])]) [] [(0, rec0 0 8 true)]
  let c : Ctx := cx s
  let es : List Nat := [0]
  let e : Nat := 0
  let b := (c.wide 1 e).toNat
  FiresOnce s c es e ∧
  b = 0 := by decide +kernel

theorem wit_SystemForms_2 :
  let s : State := onPort (tasked (at1 0xF9000000 1 [(0, run64 [0x8080001000]), (1, run64 [64])]) [] [(0, rec0 0 8 true)]) 0 (fun q => { q with lines := [(32, { data := 5, mask := 1, vi := 0, by_ := [(0, 0)], age := 3, side := none })] })
  let c : Ctx := cx s
  let es : List Nat := [0]
  let e : Nat := 0
  let b := (c.wide 1 e).toNat
  let t := flushVi s c.plot.vi
  FiresOnce s c es e ∧
  0 < b ∧
  b < 2 ^ 32 ∧
  viWrites t c.plot.vi = true := by decide +kernel

theorem wit_SystemForms_3 :
  let s : State := tasked (at1 0xF9000000 1 [(0, run64 [0x8080001000]), (1, run64 [64])]) [] [(0, rec0 0 8 true)]
  let c : Ctx := cx s
  let es : List Nat := [0]
  let e : Nat := 0
  let b := (c.wide 1 e).toNat
  let t := flushVi s c.plot.vi
  FiresOnce s c es e ∧
  0 < b ∧
  b < 2 ^ 32 ∧
  viWrites t c.plot.vi = false := by decide +kernel

theorem wit_SystemForms_4 :
  let s : State := tasked (at1 0xF9000000 1 [(0, run64 [0x8080001000]), (1, run64 [0])]) [] [(0, rec0 0 8 true)]
  let c : Ctx := cx s
  let es : List Nat := [0]
  let e : Nat := 0
  FiresOnce s c es e := by decide +kernel

theorem wit_SystemForms_5 :
  let s : State := tasked (at1 0xF9000000 1 [(0, run64 [0x8080001000]), (1, run64 [0])]) [] [(0, rec0 0 8 true)]
  let c : Ctx := cx s
  let es : List Nat := [0]
  let e : Nat := 0
  let s1 : State := (releaseFirst s c).1
  (FiresOnce s c es e ∧
  releaseFirst s c = (s1, false)) ∧
  unjournalled s1 c := ⟨by decide +kernel, unj (by decide +kernel)⟩

theorem wit_SystemForms_6 :
  let s : State := tasked (at1 0xF9000000 1 [(0, run64 [0x8080001000]), (1, run64 [0])]) [] [(0, rec0 0 8 true)]
  let c : Ctx := cx s
  let es : List Nat := [0]
  let e : Nat := 0
  FiresOnce s c es e ∧
  unjournalled s c := ⟨by decide +kernel, unj (by decide +kernel)⟩

theorem wit_Journal_1 :
  let s : State := { tasked (at1 0 1 []) [] [] with jobs := [(0, { job0 with jmode := 1, jbase := 0x8080001000, jsize := 4, jtotal := 0 })] }
  let key : Nat := 0
  let j : Job := { job0 with jmode := 1, jbase := 0x8080001000, jsize := 4, jtotal := 0 }
  let w0 : Dword := 5
  let w1 : Dword := 6
  let w2 : Dword := 7
  let value : Dword := 8
  let s1 : State := (hubStore? s 0 (0x8080001000 + 64) [5, 6, 7, 8]).getD s
  (Tab.at? s.jobs key = some j ∧
  j.jmode = 1 ∧
  j.jcount < j.jsize) ∧
  hubStore? s j.vi (j.jbase + 64 + 32 * j.jcount) [w0, w1, w2, value] = some s1 := ⟨by decide +kernel, is_some (by decide +kernel)⟩

theorem wit_Journal_2 :
  let s : State := { tasked (at1 0 1 []) [] [] with jobs := [(0, { job0 with jmode := 1, jbase := 0x8080001000, jsize := 0, jtotal := 0 })] }
  let key : Nat := 0
  let j : Job := { job0 with jmode := 1, jbase := 0x8080001000, jsize := 0, jtotal := 0 }
  Tab.at? s.jobs key = some j ∧
  j.jmode = 1 ∧
  j.jsize ≤ j.jcount := by decide +kernel

theorem wit_Journal_3 :
  let s : State := { tasked (at1 0 1 []) [0, 0, 0, 0, 0, 0, 0, 0, 5, 6, 7, 9] [] with jobs := [(0, { job0 with jmode := 2, jbase := 0x8080001000, jsize := 4, jtotal := 1 })] }
  let key : Nat := 0
  let j : Job := { job0 with jmode := 2, jbase := 0x8080001000, jsize := 4, jtotal := 1 }
  let w0 : Dword := 5
  let w1 : Dword := 6
  let w2 : Dword := 7
  let i := 0
  let v := 9
  Tab.at? s.jobs key = some j ∧
  j.jmode = 2 ∧
  journalFind s j w0 w1 w2 j.jtotal 0 = some (i, v) := by decide +kernel

theorem wit_Journal_4 :
  let s : State := { tasked (at1 0 1 []) [] [] with jobs := [(0, { job0 with jmode := 2, jbase := 0x8080001000, jsize := 4, jtotal := 1 })] }
  let key : Nat := 0
  let j : Job := { job0 with jmode := 2, jbase := 0x8080001000, jsize := 4, jtotal := 1 }
  let w0 : Dword := 5
  let w1 : Dword := 6
  let w2 : Dword := 7
  Tab.at? s.jobs key = some j ∧
  j.jmode = 2 ∧
  journalFind s j w0 w1 w2 j.jtotal 0 = none := by decide +kernel

theorem wit_RandomWords_1 :
  let s : State := at1 0x8F000000 1 [(0, run [0])]
  let c : Ctx := cx s
  let e : Nat := 0
  let ty : Ty := .n64
  (FiresOn s c e ∧
  ty = .n64) ∧
  unjournalled s c := ⟨by decide +kernel, unj (by decide +kernel)⟩

theorem wit_RandomWords_2 :
  let s : State := at1 0x8F000000 1 [(0, run [0])]
  let c : Ctx := cx s
  let e : Nat := 0
  let ty : Ty := .n32
  (FiresOn s c e ∧
  ty = .n32) ∧
  unjournalled s c := ⟨by decide +kernel, unj (by decide +kernel)⟩

theorem wit_RandomWords_3 :
  let s : State := at1 0x8F000000 1 [(0, run [0])]
  let c : Ctx := cx s
  let e : Nat := 0
  let ty : Ty := .f32
  (FiresOn s c e ∧
  ty = .f32) ∧
  unjournalled s c := ⟨by decide +kernel, unj (by decide +kernel)⟩

theorem wit_SoftwareTrap :
  let s : State := at1 0xF0000000 1 [(0, scal 5)]
  let c : Ctx := cx s
  let es : List Nat := [0]
  let e : Nat := 0
  FiresOnce s c es e := by decide +kernel

theorem wit_HubTakesTraps_1 :
  let s : State := withPlot (at1 0xF0000000 1 [(0, scal 5)]) (fun q => { q with trap := some { cause := 0x60, tag := 0, info := 5, cell := 0, entries := [], seq := some 1 } })
  let key : Nat := 0
  let p : Plot := Tab.atD s.plots 0 (plot1 Cell.empty)
  let r : TrapRec := { cause := 0x60, tag := 0, info := 5, cell := 0, entries := [], seq := some 1 }
  Tab.at? s.plots key = some p ∧
  p.trap = some r ∧
  (r.seq.isSome = true ∨ p.trapNow = true) := by decide +kernel

theorem wit_HubTakesTraps_2 :
  let s : State := withPlot (at1 0xF0000000 1 [(0, scal 5)]) (fun q => { q with trap := some { cause := 0x60, tag := 0, info := 5, cell := 0, entries := [], seq := none } })
  let key : Nat := 0
  let p : Plot := Tab.atD s.plots 0 (plot1 Cell.empty)
  let r : TrapRec := { cause := 0x60, tag := 0, info := 5, cell := 0, entries := [], seq := none }
  Tab.at? s.plots key = some p ∧
  p.trap = some r ∧
  r.seq = none ∧
  p.trapNow = false := by decide +kernel

theorem wit_TrapDelivery_1 :
  let s : State := onVi (mapped (at1 0 1 []) []) 0 (fun v => { v with traps := [{ seq := 1, words := List.replicate 16 0, subject := none, written := true, index := 0 }], tvec := 0, tring := 0  })
  let v : Nat := 0
  (∀ t ∈ (viOf s v).traps, t.written = true) := by decide +kernel

theorem wit_TrapDelivery_2 :
  let s : State := onVi (mapped (at1 0 1 []) []) 0 (fun v => { v with traps := [{ seq := 1, words := List.replicate 16 0, subject := none, written := false, index := 0 }], tvec := 0x8000000000000000, tring := 0  })
  let v : Nat := 0
  let t : TrapWait := { seq := 1, words := List.replicate 16 0, subject := none, written := false, index := 0 }
  let base := ((viOf s v).tring.extractLsb' 12 45).toNat * 4096
  (viOf s v).traps.find? (fun t => !t.written) = some t ∧
  base = 0 ∧
  (viOf s v).tvec.getLsbD 63 = true := by decide +kernel

theorem wit_TrapDelivery_3 :
  let s : State := onVi (mapped (at1 0 1 []) []) 0 (fun v => { v with traps := [{ seq := 1, words := List.replicate 16 0, subject := none, written := false, index := 0 }], tvec := 0, tring := 0  })
  let v : Nat := 0
  let t : TrapWait := { seq := 1, words := List.replicate 16 0, subject := none, written := false, index := 0 }
  let base := ((viOf s v).tring.extractLsb' 12 45).toNat * 4096
  (viOf s v).traps.find? (fun t => !t.written) = some t ∧
  base = 0 ∧
  (viOf s v).tvec.getLsbD 63 = false := by decide +kernel

theorem wit_TrapDelivery_4 :
  let s : State := onVi (mapped (at1 0 1 []) []) 0 (fun v => { v with traps := [{ seq := 1, words := List.replicate 16 0, subject := none, written := false, index := 0 }], tvec := 0, tring := 0x8080001000 , trprod := 16 })
  let v : Nat := 0
  let t : TrapWait := { seq := 1, words := List.replicate 16 0, subject := none, written := false, index := 0 }
  let base := ((viOf s v).tring.extractLsb' 12 45).toNat * 4096
  let size := 2 ^ (((viOf s v).tring.extractLsb' 0 4).toNat + 4)
  (viOf s v).traps.find? (fun t => !t.written) = some t ∧
  base ≠ 0 ∧
  size ≤ ((viOf s v).trprod - (viOf s v).trcons).toNat := by decide +kernel

theorem wit_TrapDelivery_5 :
  let s : State := onVi (mapped (at1 0 1 []) []) 0 (fun v => { v with traps := [{ seq := 1, words := List.replicate 16 0, subject := none, written := false, index := 0 }], tvec := 0x8000000000000000, tring := 0x8080001000  })
  let v : Nat := 0
  let t : TrapWait := { seq := 1, words := List.replicate 16 0, subject := none, written := false, index := 0 }
  let s1 := (hubStore? s 0 0x8080001000 (List.replicate 16 0)).getD s
  let base := ((viOf s v).tring.extractLsb' 12 45).toNat * 4096
  let size := 2 ^ (((viOf s v).tring.extractLsb' 0 4).toNat + 4)
  ((viOf s v).traps.find? (fun t => !t.written) = some t ∧
  base ≠ 0 ∧
  ((viOf s v).trprod - (viOf s v).trcons).toNat < size ∧
  (viOf s1 v).tvec = (viOf s v).tvec ∧
  (viOf s v).tvec.getLsbD 63 = true) ∧
  hubStore? s v (base + 128 * ((viOf s v).trprod.toNat % size)) t.words = some s1 := ⟨by decide +kernel, is_some (by decide +kernel)⟩

theorem wit_TrapDelivery_6 :
  let s : State := onVi (mapped (at1 0 1 []) []) 0 (fun v => { v with traps := [{ seq := 1, words := List.replicate 16 0, subject := none, written := false, index := 0 }], tvec := 0, tring := 0x8080001000  })
  let v : Nat := 0
  let t : TrapWait := { seq := 1, words := List.replicate 16 0, subject := none, written := false, index := 0 }
  let s1 := (hubStore? s 0 0x8080001000 (List.replicate 16 0)).getD s
  let base := ((viOf s v).tring.extractLsb' 12 45).toNat * 4096
  let size := 2 ^ (((viOf s v).tring.extractLsb' 0 4).toNat + 4)
  ((viOf s v).traps.find? (fun t => !t.written) = some t ∧
  base ≠ 0 ∧
  ((viOf s v).trprod - (viOf s v).trcons).toNat < size ∧
  (viOf s1 v).tvec = (viOf s v).tvec ∧
  (viOf s v).tvec.getLsbD 63 = false) ∧
  hubStore? s v (base + 128 * ((viOf s v).trprod.toNat % size)) t.words = some s1 := ⟨by decide +kernel, is_some (by decide +kernel)⟩

theorem wit_HandlerRounds_1 :
  let s : State := onVi (withPlot (mapped (at1 0 1 []) [0x0410400000000000, 0x0001000000000000, 80, 0x0000004000000000, 0, 0, 0, 0, 0x0000040000000000, 0x0003FFFF00040040]) (fun q => { q with idle := 0 })) 0 (fun v => { v with traps := [{ seq := 1, words := List.replicate 16 0, subject := none, written := false, index := 0 }], tvec := 0x8000008080001000, handler := none })
  let v : Nat := 0
  let t : TrapWait := { seq := 1, words := List.replicate 16 0, subject := none, written := false, index := 0 }
  let rest : List TrapWait := []
  (viOf s v).traps = t :: rest ∧
  (t.written = false ∨ (viOf s v).tvec.getLsbD 63 = false) := by decide +kernel

theorem wit_HandlerRounds_2 :
  let s : State := onVi (withPlot (mapped (at1 0 1 []) [0x0410400000000000, 0x0001000000000000, 80, 0x0000004000000000, 0, 0, 0, 0, 0x0000040000000000, 0x0003FFFF00040040]) (fun q => { q with running := false, role := .handler })) 0 (fun v => { v with traps := [{ seq := 1, words := List.replicate 16 0, subject := none, written := true, index := 0 }], tvec := 0x8000008080001000, handler := some 0 })
  let v : Nat := 0
  let key : Nat := 0
  let p : Plot := Tab.atD s.plots 0 (plot1 Cell.empty)
  let t : TrapWait := { seq := 1, words := List.replicate 16 0, subject := none, written := true, index := 0 }
  let rest : List TrapWait := []
  (viOf s v).traps = t :: rest ∧
  t.written = true ∧
  (viOf s v).tvec.getLsbD 63 = true ∧
  (viOf s v).hfail = false ∧
  (viOf s v).handler = some key ∧
  Tab.at? s.plots key = some p ∧
  p.running = false ∧
  p.frozen = false := by decide +kernel

theorem wit_HandlerRounds_3 :
  let s : State := onVi (withPlot (mapped (at1 0 1 []) [0x0410400000000000, 0x0001000000000000, 80, 0x0000004000000000, 0, 0, 0, 0, 0x0000040000000000, 0x0003FFFF00040040]) (fun q => { q with role := .handler })) 0 (fun v => { v with traps := [{ seq := 1, words := List.replicate 16 0, subject := none, written := true, index := 0 }], tvec := 0x8000008080001000, handler := some 0 })
  let v : Nat := 0
  let key : Nat := 0
  let p : Plot := Tab.atD s.plots 0 (plot1 Cell.empty)
  let t : TrapWait := { seq := 1, words := List.replicate 16 0, subject := none, written := true, index := 0 }
  let rest : List TrapWait := []
  (viOf s v).traps = t :: rest ∧
  t.written = true ∧
  (viOf s v).tvec.getLsbD 63 = true ∧
  (viOf s v).hfail = false ∧
  (viOf s v).handler = some key ∧
  Tab.at? s.plots key = some p ∧
  (p.running = true ∨ p.frozen = true) := by decide +kernel

theorem wit_HandlerRounds_4 :
  let s : State := onVi (withPlot (mapped (at1 0 1 []) [0x0410400000000000, 0x0001000000000000, 80, 0x0000004000000000, 0, 0, 0, 0, 0x0000040000000000, 0x0003FFFF00040040]) (fun q => { q with idle := 0 })) 0 (fun v => { v with traps := [{ seq := 1, words := List.replicate 16 0, subject := none, written := true, index := 0 }], tvec := 0x8000008080001000, handler := none })
  let v : Nat := 0
  let key : Nat := 1
  let t : TrapWait := { seq := 1, words := List.replicate 16 0, subject := none, written := true, index := 0 }
  let rest : List TrapWait := []
  let s1 : State := (match configure s 0 .handler none 0x8080001000 0 true none with | .ok x _ => x | _ => s)
  (viOf s v).traps = t :: rest ∧
  t.written = true ∧
  (viOf s v).tvec.getLsbD 63 = true ∧
  (viOf s v).hfail = false ∧
  (viOf s v).handler = none ∧
  configure s v .handler none ((viOf s v).tvec.extractLsb' 0 57).toNat 0 true none = .ok s1 key := by decide +kernel

theorem wit_HandlerRounds_5 :
  let s : State := onVi (withPlot (mapped (at1 0 1 []) [0x0410400000000000, 0x0001000000000000, 80, 0x0000004000000000, 0, 0, 0, 0, 0x0000040000000000, 0x0003FFFF00040040]) (fun q => { q with idle := 0 })) 0 (fun v => { v with traps := [{ seq := 1, words := List.replicate 16 0, subject := none, written := true, index := 0 }], tvec := 0x8000000000001000, handler := none })
  let v : Nat := 0
  let t : TrapWait := { seq := 1, words := List.replicate 16 0, subject := none, written := true, index := 0 }
  let rest : List TrapWait := []
  let s1 : State := (match configure s 0 .handler none 0x1000 0 true none with | .failed x _ _ _ _ => x | _ => s)
  let cause := (match configure s 0 .handler none 0x1000 0 true none with | .failed _ a _ _ _ => a | _ => .priv)
  let info := (match configure s 0 .handler none 0x1000 0 true none with | .failed _ _ a _ _ => a | _ => 0)
  let cell := (match configure s 0 .handler none 0x1000 0 true none with | .failed _ _ _ a _ => a | _ => 0)
  let pw := (match configure s 0 .handler none 0x1000 0 true none with | .failed _ _ _ _ a => a | _ => 0)
  (viOf s v).traps = t :: rest ∧
  t.written = true ∧
  (viOf s v).tvec.getLsbD 63 = true ∧
  (viOf s v).hfail = false ∧
  (viOf s v).handler = none ∧
  configure s v .handler none ((viOf s v).tvec.extractLsb' 0 57).toNat 0 true none = .failed s1 cause info cell pw := by decide +kernel

theorem wit_TrapReturn_1 :
  let s : State := { withPlot (at1 0xF5000000 1 [(0, scal 0)]) (fun q => { q with role := .graph, subject := some { seq := 1, words := [], plot := some 1, answered := false } }) with plots := [(0, { plot1 (cell1 (blk 0xF5000000 1 [] (inst 1 [(0, scal 0)]))) with role := .graph, subject := some { seq := 1, words := [], plot := some 1, answered := false } }), (1, { plot1 (cell1 (blk 0x0003FFFF 1 [] (inst 1 [(0, scal 0)]))) with x := 4, frozen := true, trap := some { cause := 0x60, tag := 0, info := 5, cell := 0, entries := [], seq := some 1 } })] }
  let c : Ctx := cx s
  let es : List Nat := [0]
  let e : Nat := 0
  FiresOnce s c es e ∧
  c.plot.role ≠ .handler := by decide +kernel

theorem wit_TrapReturn_2 :
  let s : State := { withPlot (at1 0xF5000000 1 [(0, scal 0)]) (fun q => { q with role := .handler, subject := some { seq := 1, words := [], plot := some 1, answered := true } }) with plots := [(0, { plot1 (cell1 (blk 0xF5000000 1 [] (inst 1 [(0, scal 0)]))) with role := .handler, subject := some { seq := 1, words := [], plot := some 1, answered := true } }), (1, { plot1 (cell1 (blk 0x0003FFFF 1 [] (inst 1 [(0, scal 0)]))) with x := 4, frozen := true, trap := some { cause := 0x60, tag := 0, info := 5, cell := 0, entries := [], seq := some 1 } })] }
  let c : Ctx := cx s
  let es : List Nat := [0]
  let e : Nat := 0
  let u : Subject := { seq := 1, words := [], plot := some 1, answered := true }
  FiresOnce s c es e ∧
  c.plot.role = .handler ∧
  c.plot.subject = some u ∧
  (c.low 0 e).toNat < 3 ∧
  u.answered = true := by decide +kernel

theorem wit_TrapReturn_3 :
  let s : State := { withPlot (at1 0xF5000000 1 [(0, scal 0)]) (fun q => { q with role := .handler, subject := some { seq := 1, words := [], plot := some 1, answered := false } }) with plots := [(0, { plot1 (cell1 (blk 0xF5000000 1 [] (inst 1 [(0, scal 0)]))) with role := .handler, subject := some { seq := 1, words := [], plot := some 1, answered := false } }), (1, { plot1 (cell1 (blk 0x0003FFFF 1 [] (inst 1 [(0, scal 0)]))) with x := 4, frozen := true, trap := some { cause := 0x60, tag := 0, info := 5, cell := 0, entries := [], seq := some 2 } })] }
  let c : Ctx := cx s
  let es : List Nat := [0]
  let e : Nat := 0
  let u : Subject := { seq := 1, words := [], plot := some 1, answered := false }
  let s1 := onPlot s c.f.plot (fun p => { p with subject := some { u with answered := true } })
  FiresOnce s c es e ∧
  c.plot.role = .handler ∧
  c.plot.subject = some u ∧
  (c.low 0 e).toNat < 3 ∧
  u.answered = false ∧
  subjectOf? s1 c.plot.vi u.seq = none := by decide +kernel

theorem wit_TrapReturn_4 :
  let s : State := { withPlot (at1 0xF5000000 1 [(0, scal 0)]) (fun q => { q with role := .handler, subject := some { seq := 1, words := [], plot := some 1, answered := false } }) with plots := [(0, { plot1 (cell1 (blk 0xF5000000 1 [] (inst 1 [(0, scal 0)]))) with role := .handler, subject := some { seq := 1, words := [], plot := some 1, answered := false } }), (1, { plot1 (cell1 (blk 0x0003FFFF 1 [] (inst 1 [(0, scal 0)]))) with x := 4, frozen := true, trap := some { cause := 0x60, tag := 0, info := 5, cell := 0, entries := [], seq := some 1 } })] }
  let c : Ctx := cx s
  let es : List Nat := [0]
  let e : Nat := 0
  let u : Subject := { seq := 1, words := [], plot := some 1, answered := false }
  let key := 1
  let p := Tab.atD s.plots 1 (plot1 Cell.empty)
  let r : TrapRec := { cause := 0x60, tag := 0, info := 5, cell := 0, entries := [], seq := some 1 }
  let s1 := onPlot s c.f.plot (fun p => { p with subject := some { u with answered := true } })
  FiresOnce s c es e ∧
  c.plot.role = .handler ∧
  c.plot.subject = some u ∧
  (c.low 0 e).toNat < 3 ∧
  u.answered = false ∧
  subjectOf? s1 c.plot.vi u.seq = some (key, p) ∧
  p.trap = some r ∧
  Tab.at? s1.plots key = some p ∧
  c.low 0 e = 0 ∧
  p.withdrawn = false := by decide +kernel

theorem wit_TrapReturn_5 :
  let s : State := { withPlot (at1 0xF5000000 1 [(0, scal 1)]) (fun q => { q with role := .handler, subject := some { seq := 1, words := [], plot := some 1, answered := false } }) with plots := [(0, { plot1 (cell1 (blk 0xF5000000 1 [] (inst 1 [(0, scal 1)]))) with role := .handler, subject := some { seq := 1, words := [], plot := some 1, answered := false } }), (1, { plot1 (cell1 (blk 0x0003FFFF 1 [] (inst 1 [(0, scal 0)]))) with x := 4, frozen := true, trap := some { cause := 0x60, tag := 0, info := 5, cell := 0, entries := [], seq := some 1 } })] }
  let c : Ctx := cx s
  let es : List Nat := [0]
  let e : Nat := 0
  let u : Subject := { seq := 1, words := [], plot := some 1, answered := false }
  let key := 1
  let p := Tab.atD s.plots 1 (plot1 Cell.empty)
  let r : TrapRec := { cause := 0x60, tag := 0, info := 5, cell := 0, entries := [], seq := some 1 }
  let s1 := onPlot s c.f.plot (fun p => { p with subject := some { u with answered := true } })
  FiresOnce s c es e ∧
  c.plot.role = .handler ∧
  c.plot.subject = some u ∧
  (c.low 0 e).toNat < 3 ∧
  u.answered = false ∧
  subjectOf? s1 c.plot.vi u.seq = some (key, p) ∧
  p.trap = some r ∧
  Tab.at? s1.plots key = some p ∧
  c.low 0 e = 1 ∧
  p.withdrawn = false := by decide +kernel

theorem wit_TrapReturn_6 :
  let s : State := { withPlot (at1 0xF5000000 1 [(0, scal 2)]) (fun q => { q with role := .handler, subject := some { seq := 1, words := [], plot := some 1, answered := false } }) with plots := [(0, { plot1 (cell1 (blk 0xF5000000 1 [] (inst 1 [(0, scal 2)]))) with role := .handler, subject := some { seq := 1, words := [], plot := some 1, answered := false } }), (1, { plot1 (cell1 (blk 0x0003FFFF 1 [] (inst 1 [(0, scal 0)]))) with x := 4, frozen := true, trap := some { cause := 0x60, tag := 0, info := 5, cell := 0, entries := [], seq := some 1 } })] }
  let c : Ctx := cx s
  let es : List Nat := [0]
  let e : Nat := 0
  let u : Subject := { seq := 1, words := [], plot := some 1, answered := false }
  let key := 1
  let p := Tab.atD s.plots 1 (plot1 Cell.empty)
  let r : TrapRec := { cause := 0x60, tag := 0, info := 5, cell := 0, entries := [], seq := some 1 }
  let s1 := onPlot s c.f.plot (fun p => { p with subject := some { u with answered := true } })
  FiresOnce s c es e ∧
  c.plot.role = .handler ∧
  c.plot.subject = some u ∧
  (c.low 0 e).toNat < 3 ∧
  u.answered = false ∧
  subjectOf? s1 c.plot.vi u.seq = some (key, p) ∧
  p.trap = some r ∧
  Tab.at? s1.plots key = some p ∧
  c.low 0 e = 2 ∧
  p.withdrawn = false := by decide +kernel

theorem wit_TrapReturn_7 :
  let s : State := { withPlot (at1 0xF5000000 1 [(0, scal 3)]) (fun q => { q with role := .handler, subject := some { seq := 1, words := [], plot := some 1, answered := false } }) with plots := [(0, { plot1 (cell1 (blk 0xF5000000 1 [] (inst 1 [(0, scal 3)]))) with role := .handler, subject := some { seq := 1, words := [], plot := some 1, answered := false } }), (1, { plot1 (cell1 (blk 0x0003FFFF 1 [] (inst 1 [(0, scal 0)]))) with x := 4, frozen := true, trap := some { cause := 0x60, tag := 0, info := 5, cell := 0, entries := [], seq := some 1 } })] }
  let c : Ctx := cx s
  let es : List Nat := [0]
  let e : Nat := 0
  let u : Subject := { seq := 1, words := [], plot := some 1, answered := false }
  FiresOnce s c es e ∧
  c.plot.role = .handler ∧
  c.plot.subject = some u ∧
  c.low 0 e = 3 := by decide +kernel

theorem wit_Watchdog :
  let s : State := withPlot (at1 0xF5000000 1 []) (fun q => { q with wdt := 5, idle := 0x10000 })
  let plot : Nat := 0
  let p : Plot := Tab.atD s.plots 0 (plot1 Cell.empty)
  Tab.at? s.plots plot = some p := by decide +kernel

theorem wit_HubHasTraps :
  let s : State := withPlot (at1 0xF5000000 1 []) (fun q => { q with frozen := true, trap := some { cause := 0x60, tag := 0, info := 5, cell := 0, entries := [], seq := some 1 } })
  let t : State := outS s (step s)
  trapsHeld s ∧
  step s = .next t := ⟨hub (by decide +kernel), next_ok (by decide +kernel)⟩

theorem wit_RunsOfADomain_1 :
  let bounds : List Nat := [2, 40]
  let t : Nat := 79
  t < domCount bounds := by decide +kernel

theorem wit_RunsOfADomain_2 :
  let bounds : List Nat := [2, 40]
  let t : Nat := 79
  let q := 3
  t < domCount bounds ∧
  q < runCount bounds ∧
  runFirst bounds q ≤ t ∧
  t < runFirst bounds q + runLen bounds q := by decide +kernel

theorem wit_Instances_1 :
  let s : State := withPlot (at1 0 1 []) (fun q => { q with cells := [(0, { cell1 { blk 0 0 [] (inst 4 []) with seq := false, insts := [], next := 1, frames := 2, bounds := [64] } with thread := { bidx := none, exited := false } })] })
  let plot : Nat := 0
  let cell : Nat := 0
  let bidx : Nat := 0
  let p : Plot := Tab.atD s.plots 0 (plot1 Cell.empty)
  let c : Cell := Tab.atD p.cells 0 Cell.empty
  let b : Block := Tab.atD c.blocks 0 (blk 0 0 [] (inst 0 []))
  Tab.at? s.plots plot = some p ∧
  Tab.at? p.cells cell = some c ∧
  Tab.at? c.blocks bidx = some b ∧
  p.live = true ∧
  b.next < runCount b.bounds ∧
  b.seq = false ∧
  Tab.at? b.insts (b.next % b.frames) = none := by decide +kernel

theorem wit_Instances_2 :
  let s : State := withPlot (at1 0 1 []) (fun q => { q with cells := [(0, { cell1 { blk 0 0 [] (inst 4 []) with seq := true, insts := [], next := 1, frames := 2, bounds := [64] } with thread := { bidx := some 0, exited := false } })] })
  let plot : Nat := 0
  let cell : Nat := 0
  let bidx : Nat := 0
  let p : Plot := Tab.atD s.plots 0 (plot1 Cell.empty)
  let c : Cell := Tab.atD p.cells 0 Cell.empty
  let b : Block := Tab.atD c.blocks 0 (blk 0 0 [] (inst 0 []))
  Tab.at? s.plots plot = some p ∧
  Tab.at? p.cells cell = some c ∧
  Tab.at? c.blocks bidx = some b ∧
  p.live = true ∧
  b.next < runCount b.bounds ∧
  b.seq = true ∧
  c.thread.bidx = some bidx ∧
  c.thread.exited = false ∧
  b.insts = [] := by decide +kernel

theorem wit_Instances_3 :
  let s : State := withPlot (at1 0 1 []) (fun q => { q with cells := [(0, { cell1 { blk 0 0 [] (inst 4 []) with seq := false, insts := [(1, inst 32 [])], next := 1, frames := 2, bounds := [64] } with thread := { bidx := none, exited := false } })] })
  let plot : Nat := 0
  let cell : Nat := 0
  let bidx : Nat := 0
  let p : Plot := Tab.atD s.plots 0 (plot1 Cell.empty)
  let c : Cell := Tab.atD p.cells 0 Cell.empty
  let b : Block := Tab.atD c.blocks 0 (blk 0 0 [] (inst 0 []))
  Tab.at? s.plots plot = some p ∧
  Tab.at? p.cells cell = some c ∧
  Tab.at? c.blocks bidx = some b ∧
  p.live = true ∧
  b.next < runCount b.bounds ∧
  (b.seq = false ∧ (Tab.at? b.insts (b.next % b.frames)).isSome = true) ∨ (b.seq = true ∧ (c.thread.bidx ≠ some bidx ∨ b.insts ≠ [])) := by decide +kernel

theorem wit_Arrivals_1 :
  let s : State := routed (at1 0 1 []) 1 (token0 false false) (none)
  let plot : Nat := 0
  let k : Nat := 0
  let p : Plot := Tab.atD s.plots 0 (plot1 Cell.empty)
  let t : Token := token0 false false
  let r : Route := { dst := 1, hops := [1] }
  Tab.at? s.plots plot = some p ∧
  p.tokens[k]? = some t ∧
  Tab.at? p.routes t.route = some r ∧
  canArrive p k = true ∧
  t.mark = false ∧
  t.eos = false := by decide +kernel

theorem wit_Arrivals_2 :
  let s : State := routed (at1 0 1 []) 1 (token0 true false) (none)
  let plot : Nat := 0
  let k : Nat := 0
  let p : Plot := Tab.atD s.plots 0 (plot1 Cell.empty)
  let t : Token := token0 true false
  let r : Route := { dst := 1, hops := [1] }
  Tab.at? s.plots plot = some p ∧
  p.tokens[k]? = some t ∧
  Tab.at? p.routes t.route = some r ∧
  canArrive p k = true ∧
  t.mark = false ∧
  t.eos = true := by decide +kernel

theorem wit_Arrivals_3 :
  let s : State := routed (at1 0 1 []) 1 (token0 false true) (some { start := 0, sent := true, arrived := [], waiter := none })
  let plot : Nat := 0
  let k : Nat := 0
  let p : Plot := Tab.atD s.plots 0 (plot1 Cell.empty)
  let t : Token := token0 false true
  let r : Route := { dst := 1, hops := [1] }
  let w : Wave := { start := 0, sent := true, arrived := [], waiter := none }
  Tab.at? s.plots plot = some p ∧
  p.tokens[k]? = some t ∧
  Tab.at? p.routes t.route = some r ∧
  canArrive p k = true ∧
  t.mark = true ∧
  p.wave = some w := by decide +kernel

theorem wit_Matching_1 :
  let p : Plot := plot1 (cell1 (blk 0x0903FE28 3 [] (inst 4 [(1, run64 [1])])))
  let cell : Nat := 0
  let bidx : Nat := 0
  let slot : Nat := 0
  let port : Nat := 1
  let tag : Nat := 2
  let kind : Kind := .r32
  let b : Block := blk 0x0903FE28 3 [] (inst 4 [(1, run64 [1])])
  let i : Inst := inst 4 [(1, run64 [1])]
  let e : Nat := 2
  let o := run64 [1]
  let key := 4 * slot + port
  (port < 3 ∧
  kind.scalar = false ∧
  blockAt? p cell bidx = some b ∧
  tag < domCount b.bounds ∧
  b.frames ≠ 0 ∧
  Tab.at? b.insts (runOf b.bounds tag % b.frames) = some i ∧
  i.run = runOf b.bounds tag ∧
  tag = runFirst b.bounds i.run + e ∧
  e < runLen b.bounds i.run ∧
  Tab.at? i.ops key = some o ∧
  o.kind ≠ kind) ∧
  (∀ t, eosOf b slot = some t → tag < t) := ⟨by decide +kernel, (fun t h => (by cases h))⟩

theorem wit_Matching_2 :
  let p : Plot := plot1 (cell1 (blk 0x0903FE28 3 [] (inst 4 [])))
  let cell : Nat := 0
  let bidx : Nat := 0
  let slot : Nat := 0
  let port : Nat := 1
  let tag : Nat := 2
  let kind : Kind := .r32
  let b : Block := blk 0x0903FE28 3 [] (inst 4 [])
  let i : Inst := inst 4 []
  let e : Nat := 2
  let key := 4 * slot + port
  (port < 3 ∧
  kind.scalar = false ∧
  blockAt? p cell bidx = some b ∧
  tag < domCount b.bounds ∧
  b.frames ≠ 0 ∧
  Tab.at? b.insts (runOf b.bounds tag % b.frames) = some i ∧
  i.run = runOf b.bounds tag ∧
  tag = runFirst b.bounds i.run + e ∧
  e < runLen b.bounds i.run ∧
  Tab.at? i.ops key = none) ∧
  (∀ t, eosOf b slot = some t → tag < t) := ⟨by decide +kernel, (fun t h => (by cases h))⟩

theorem wit_Matching_3 :
  let p : Plot := plot1 (cell1 (blk 0x0903FE28 3 [] (inst 4 [(1, run [5])])))
  let cell : Nat := 0
  let bidx : Nat := 0
  let slot : Nat := 0
  let port : Nat := 1
  let tag : Nat := 2
  let kind : Kind := .r32
  let b : Block := blk 0x0903FE28 3 [] (inst 4 [(1, run [5])])
  let i : Inst := inst 4 [(1, run [5])]
  let e : Nat := 2
  let o := run [5]
  let key := 4 * slot + port
  (port < 3 ∧
  kind.scalar = false ∧
  blockAt? p cell bidx = some b ∧
  tag < domCount b.bounds ∧
  b.frames ≠ 0 ∧
  Tab.at? b.insts (runOf b.bounds tag % b.frames) = some i ∧
  i.run = runOf b.bounds tag ∧
  tag = runFirst b.bounds i.run + e ∧
  e < runLen b.bounds i.run ∧
  Tab.at? i.ops key = some o ∧
  o.kind = kind ∧
  Tab.at? o.elems e = none) ∧
  (∀ t, eosOf b slot = some t → tag < t) := ⟨by decide +kernel, (fun t h => (by cases h))⟩

theorem wit_Drops_1 :
  let p : Plot := { plot1 (cell1 (blk 0x0903FE28 3 [] (inst 4 []))) with ratetrap := 0 }
  let cell : Nat := 0
  let bidx : Nat := 0
  let count : Nat := 2
  let b : Block := blk 0x0903FE28 3 [] (inst 4 [])
  0 < count ∧
  blockAt? p cell bidx = some b ∧
  p.ratetrap.getLsbD 0 = false := by decide +kernel

theorem wit_Drops_2 :
  let p : Plot := { plot1 (cell1 (blk 0x0903FE28 3 [] (inst 4 []))) with ratetrap := 1 }
  let cell : Nat := 0
  let bidx : Nat := 0
  let count : Nat := 2
  let b : Block := blk 0x0903FE28 3 [] (inst 4 [])
  0 < count ∧
  blockAt? p cell bidx = some b ∧
  p.ratetrap.getLsbD 0 = true ∧
  p.trap = none := by decide +kernel

theorem wit_Drops_3 :
  let p : Plot := { plot1 (cell1 (blk 0x0903FE28 3 [] (inst 4 []))) with ratetrap := 0 }
  let cell : Nat := 0
  let bidx : Nat := 0
  let tag : Nat := 9
  let count : Nat := 2
  let b : Block := blk 0x0903FE28 3 [] (inst 4 [])
  let es : Tab Elem := [(0, .val 7)]
  0 < count ∧
  blockAt? p cell bidx = some b ∧
  es ≠ [] ∧
  domCount b.bounds ≤ tag := by decide +kernel

theorem wit_Hedges :
  let s : State := routed (at1 0 1 []) 0 (token0 false false) none
  let plot : Nat := 0
  let k : Nat := 0
  let dir : Nat := 0
  let p : Plot := Tab.atD s.plots 0 (plot1 Cell.empty)
  let t : Token := token0 false false
  let site : Int × Int := (0, 0)
  Tab.at? s.plots plot = some p ∧
  p.tokens[k]? = some t ∧
  t.hedge? p = some (site, dir) ∧
  t.meets p = true ∧
  p.frozen = false ∧
  p.stop ≠ .freeze := by decide +kernel

theorem wit_Reductions_2 :
  let s : State := withPlot (at1 0 1 []) (fun q => { q with cells := [(0, cell1 { blk 0x8703FE10 1 [] (inst 4 []) with reds := [(0, { window := [(0, .val 5)], next := 0, acc := none, scan := [], due := [], left := 0 })] })] })
  let plot : Nat := 0
  let cell : Nat := 0
  let bidx : Nat := 0
  let slot : Nat := 0
  let p : Plot := Tab.atD s.plots 0 (plot1 Cell.empty)
  let b : Block := (blockAt? p 0 0).getD (blk 0 0 [] (inst 0 []))
  let f : RedForm := (redAt? b 0).getD { op := .add, scan := false, row := false, satq := false, ty := .n32, c1 := 0, c0 := 0 }
  let x : RedIn := .val 5
  let r := Tab.atD b.reds slot Red.zero
  Tab.at? s.plots plot = some p ∧
  blockAt? p cell bidx = some b ∧
  redAt? b slot = some f ∧
  belowEos r.next (eosOfA b slot) = true ∧
  Tab.at? r.window r.next = some x ∧
  (f.slow = true ∨ (Tab.at? r.window (r.next + 1) = none ∧ eosOf b slot = none)) ∧
  f.scan = false := by decide +kernel

theorem wit_Reductions_3 :
  let s : State := withPlot (at1 0 1 []) (fun q => { q with cells := [(0, cell1 { blk 0x8703FE10 1 [] (inst 4 []) with reds := [(0, { window := [], next := 2, acc := none, scan := [], due := [(0, 0, [(0, .val 5)])], left := 0 })] })] })
  let plot : Nat := 0
  let cell : Nat := 0
  let bidx : Nat := 0
  let slot : Nat := 0
  let p : Plot := Tab.atD s.plots 0 (plot1 Cell.empty)
  let b : Block := (blockAt? p 0 0).getD (blk 0 0 [] (inst 0 []))
  let f : RedForm := (redAt? b 0).getD { op := .add, scan := false, row := false, satq := false, ty := .n32, c1 := 0, c0 := 0 }
  let first := 0
  let es := [(0, .val 5)]
  let rest := []
  let r := Tab.atD b.reds slot Red.zero
  Tab.at? s.plots plot = some p ∧
  blockAt? p cell bidx = some b ∧
  redAt? b slot = some f ∧
  r.due = (0, first, es) :: rest ∧
  (∀ d ∈ r.due, belowEos d.2.1 (eosOfA b slot) = true) ∧
  eosCloses b f slot r = false := by decide +kernel

theorem wit_Configuring_1 :
  let s : State := { tasked (at1 0 1 []) image0 [(1, { rec0 0 8 false with code := 0x8080001000 })] with plots := [] }
  let k : Nat := 1
  let r : Rec := { rec0 0 8 false with code := 0x8080001000 }
  let s1 : State := (match configure s 0 .graph (some 0) 0x8080001000 0 true none with | .ok x _ => x | _ => s)
  let key := 1
  let queue := (Tab.at? s.jobs r.job).map (·.queue)
  let result := configure s (recVi k) .graph queue r.code (recDie k) r.image.isNone none
  wantsPlot s k = true ∧
  Tab.at? s.recs k = some r ∧
  result = .ok s1 key := by decide +kernel

theorem wit_Configuring_4 :
  let s : State := { tasked (at1 0 1 []) image0 [(1, { rec0 0 8 false with code := 0x8080001000 })] with plots := [(0, { plot1 Cell.empty with w := 48, h := 48, vi := 1 })] }
  let k : Nat := 1
  let r : Rec := { rec0 0 8 false with code := 0x8080001000 }
  let queue := (Tab.at? s.jobs r.job).map (·.queue)
  let result := configure s (recVi k) .graph queue r.code (recDie k) r.image.isNone none
  wantsPlot s k = true ∧
  Tab.at? s.recs k = some r ∧
  result = .wait := by decide +kernel

theorem wit_HostWrites_1 :
  let s : State := { mapped (at1 0 1 []) [7, 9] with ready := true, visel := 3 }
  let i : Instr := .frcons 0 5
  let v := 0
  let r := 0x065
  let n := 0
  let w := 5
  hostForm i = some (v, r, n, w) ∧
  reachable s v ∧
  n < 16 := by decide +kernel

theorem wit_HostWrites_2 :
  let s : State := { mapped (at1 0 1 []) [7, 9] with ready := false, visel := 3 }
  let i : Instr := .frcons 0 5
  let v := 0
  hostFunction i = some v ∧
  ¬reachable s v := by decide +kernel

theorem wit_Doorbells :
  let s : State := { mapped (at1 0 1 []) [7, 9] with ready := true, visel := 3 }
  let v : Nat := 0
  let q : Nat := 3
  reachable s v ∧
  q < 16 := by decide +kernel

theorem wit_RegisterWindow_1 :
  let s : State := { mapped (at1 0 1 []) [7, 9] with ready := true, visel := 3 }
  let fn : Nat := 0
  let off : Dword := 0x3F00
  let w : Dword := 5
  reachable s fn ∧
  fn = 0 ∧
  off = 0x3F00 ∧
  w.toNat < 512 := by decide +kernel

theorem wit_RegisterWindow_2 :
  let s : State := { mapped (at1 0 1 []) [7, 9] with ready := true, visel := 3 }
  let fn : Nat := 0
  let off : Dword := 0x3F08
  let w : Dword := 2
  reachable s fn ∧
  fn = 0 ∧
  off = 0x3F08 ∧
  w.toNat < 16 ∧
  w.getLsbD 1 = true := by decide +kernel

theorem wit_RegisterWindow_3 :
  let s : State := { mapped (at1 0 1 []) [7, 9] with ready := true, visel := 3 }
  let fn : Nat := 0
  let w : Dword := 1
  reachable s fn ∧
  fn = 0 ∧
  w.getLsbD 1 = false := by decide +kernel

theorem wit_RegisterWindow_4 :
  let s : State := { mapped (at1 0 1 []) [7, 9] with ready := true, visel := 3 }
  let fn : Nat := 0
  let off : Dword := 0x2001
  reachable s fn ∧
  off.toNat % 8 ≠ 0 := by decide +kernel

theorem wit_RegisterWindow_6 :
  let s : State := { mapped (at1 0 1 []) [7, 9] with ready := true, visel := 3 }
  let fn : Nat := 0
  let off : Dword := 0x3888
  let w : Dword := 0x10
  let r := 0x31
  let n := 1
  let v := if fn = 0 then s.visel.toNat else fn
  let a := dw (2 ^ 59 + v * 2 ^ 50 + (0x040 + r) * 2 ^ 40 + n)
  reachable s fn ∧
  off.toNat = 0x2000 + 128 * r + 8 * n ∧
  r < 60 ∧
  n < 16 ∧
  accessWhy? (fn == 0) fn a (some w) = none := by decide +kernel

theorem wit_RegisterWindow_7 :
  let s : State := { mapped (at1 0 1 []) [7, 9] with ready := true, visel := 3 }
  let fn : Nat := 0
  let off : Dword := 0x2100
  let w : Dword := 0x10
  let r := 2
  let n := 0
  let why := 3
  let v := if fn = 0 then s.visel.toNat else fn
  let a := dw (2 ^ 59 + v * 2 ^ 50 + (0x040 + r) * 2 ^ 40 + n)
  reachable s fn ∧
  off.toNat = 0x2000 + 128 * r + 8 * n ∧
  r < 60 ∧
  n < 16 ∧
  accessWhy? (fn == 0) fn a (some w) = some why := by decide +kernel

theorem wit_Interrupts_1 :
  let s : State := onVi State.reset 2 (fun v => { v with ipend := 0x8000000000000000, iorder := [], msix := 0, imask := 0 })
  let v : Nat := 2
  let k : Nat := 63
  let vi := viOf s v
  v < 512 ∧
  k < 64 ∧
  vi.ipend.getLsbD k = true := by decide +kernel

theorem wit_Interrupts_2 :
  let s : State := onVi State.reset 2 (fun v => { v with ipend := 1, iorder := [], msix := 0, imask := 0 })
  let v : Nat := 2
  let k : Nat := 63
  let n := 63
  let vi := viOf s v
  n < 64 ∧
  v < 512 ∧
  k < 64 ∧
  vi.ipend.getLsbD k = false := by decide +kernel

theorem wit_Interrupts_5 :
  let s : State := onVi State.reset 2 (fun v => { v with ipend := 1, iorder := [], msix := 0, imask := 0 })
  let v : Nat := 2
  let k : Nat := 63
  let vi := viOf s v
  v < 512 ∧
  k < 64 ∧
  vi.ipend.getLsbD k = false ∧
  vi.iorder.Pairwise irqBefore ∧
  (∀ x ∈ vi.iorder, x.1 ≤ s.time.toNat ∧ x ≠ (s.time.toNat, k)) := by decide +kernel

theorem wit_Interrupts_4 :
  let s : State := onVi State.reset 2 (fun v => { v with ipend := 1, iorder := [], msix := 0x8000000000000000, imask := 0 })
  let v : Nat := 2
  let k : Nat := 63
  let vi := viOf s v
  v < 512 ∧
  k < 64 ∧
  vi.ipend.getLsbD k = false := by decide +kernel

theorem wit_Interrupts_7 :
  let v : Nat := 2
  let k : Nat := 63
  v < 512 ∧
  k < 64 := by decide +kernel

theorem wit_Resets_2 :
  let s : State := { mapped (at1 0 1 []) [7, 9] with ready := true, visel := 3 }
  let v : Nat := 3
  v < 512 ∧
  s.power = true ∧
  (v = 0 ∨ (viOf s v).busy = false) := by decide +kernel

theorem wit_Resets_4 :
  let s : State := { mapped (at1 0 1 []) [7, 9] with ready := true, visel := 3 }
  let v : Nat := 3
  let w : Dword := 1
  reachable s 0 ∧
  v < 512 ∧
  v ≠ 0 ∧
  (viOf s v).busy = false ∧
  w.getLsbD 0 = true ∧
  w.toNat < 4 := by decide +kernel

theorem wit_Resets_13 :
  let s : State := { mapped (at1 0 1 []) [7, 9] with ready := true, visel := 3 }
  let u := 0
  let x := vi0
  Tab.at? s.vis u = some x := by decide +kernel

theorem wit_Resets_14 :
  let v : Nat := 3
  0 < v ∧
  v < 512 := by decide +kernel

theorem wit_BringUp_1 :
  let s : State := { mapped (at1 0 1 []) [7, 9] with ready := true, visel := 3 }
  (s.ready = true ∨ s.booterr = true ∨ s.power = false) := by decide +kernel

theorem wit_BringUp_2 :
  let s : State := { mapped (at1 0 1 []) [7, 9] with ready := false, visel := 3 }
  s.ready = false ∧
  s.booterr = false ∧
  s.power = true := by decide +kernel

theorem wit_ReeveRounds_1 :
  let s : State := onVi (mapped2 (at1 0 1 []) [0x8080001080, 0, 0, 0x8000000, 0, 0, 0, 0x55] [0x0410400000000000, 0x0001000000000000, 80, 0x0000004000000000, 0, 0, 0, 0, 0x0000040000000000, 0x0003FFFF00040040]) 0 (fun v => { v with queues := [(15, { JobQueue.reset with base := 0x8080001010, tail := 0 })] })
  reeveReady s = false := by decide +kernel

theorem wit_ReeveRounds_2 :
  let s : State := onVi (mapped2 (at1 0 1 []) [0x8080001080, 0, 0, 1, 0, 0, 0, 0x55] [0x0410400000000000, 0x0001000000000000, 80, 0x0000004000000000, 0, 0, 0, 0, 0x0000040000000000, 0x0003FFFF00040040]) 0 (fun v => { v with queues := [(15, { JobQueue.reset with base := 0x8080001010, tail := 1 })] })
  let s1 : State := (match readSlot s 0 15 with | .ok x _ => x | _ => s)
  let ws : List Dword := (match readSlot s 0 15 with | .ok _ l => l | _ => [])
  reeveReady s = true ∧
  readSlot s 0 15 = .ok s1 ws ∧
  badRoot ws = true := by decide +kernel

theorem wit_ReeveRounds_3 :
  let s : State := onVi (mapped2 (at1 0 1 []) [0x8080001080, 0, 0, 0x8000000, 0, 0, 0, 0x55] [0x0410400000000000, 0x0001000000000000, 80, 0x0000004000000000, 0, 0, 0, 0, 0x0000040000000000, 0x0003FFFF00040040]) 0 (fun v => { v with queues := [(15, { JobQueue.reset with base := 0x8080001010, tail := 1 })] })
  let s1 : State := (match readSlot s 0 15 with | .ok x _ => x | _ => s)
  let ws : List Dword := (match readSlot s 0 15 with | .ok _ l => l | _ => [])
  let s2 := (takeJob s1 0 15 (newJob 0 15 0 0x55 0)).1
  let j := 0
  let s3 := (match jobImage s2 j 0x8080001080 with | .ok x _ => x | _ => s2)
  let im : JobImage := { pin := false, pdie := 0, handles := [] }
  let s4 := (match configure (beginJournal (putRec s3 reeveRec { recOf ws j with root := true, join := 0 }) j) 0 .reeve (some 15) 0x8080001080 0 true none with | .ok x _ => x | _ => s3)
  let key := 1
  let p := Tab.atD s4.plots 1 (plot1 Cell.empty)
  let s5 := s4
  let es := []
  let seed := 0
  let q := Tab.atD (viOf s1 0).queues 15 JobQueue.reset
  let r := { recOf ws j with root := true, join := 0 }
  reeveReady s = true ∧
  readSlot s 0 15 = .ok s1 ws ∧
  badRoot ws = false ∧
  takeJob s1 0 15 (newJob 0 15 q.head ((ws[7]?).getD 0) q.jnl) = (s2, j) ∧
  jobImage s2 j r.code = .ok s3 im ∧
  r.lo ≠ r.hi ∧
  configure (clearReeve (beginJournal (putRec s3 reeveRec r) j)) 0 .reeve (some 15) r.code 0 true none = .ok s4 key ∧
  Tab.at? s4.plots key = some p ∧
  readArgs s4 0 p r.args = .ok s5 es seed := by decide +kernel

theorem wit_BellAndHeat_2 :
  let s : State := { mapped (at1 0 1 []) [] with power := false }
  s.power = false ∧
  s.agenda = [] := by decide +kernel

theorem wit_CompleteFrame_1 :
  let lat : Nat := 2
  lat ≠ 0 := by decide +kernel

theorem wit_CompleteFrame_2 :
  let s : State := at1 0x3023FE10 1 [(0, elem1 0 1)]
  let c : Ctx := cx s
  let lat : Nat := 2
  let k := 1
  lat ≠ 0 ∧
  k ≠ c.f.plot := by decide +kernel

theorem wit_CompleteFrame_3 :
  let s : State := at1 0x3023FE10 1 [(0, elem1 0 1)]
  let c : Ctx := cx s
  let lat : Nat := 2
  let p := Tab.atD s.plots 0 (plot1 Cell.empty)
  lat ≠ 0 ∧
  Tab.at? s.plots c.f.plot = some p := by decide +kernel

theorem wit_LaneFrame_1 :
  let s : State := at1 0x0003FFFF 1 []
  let i : Instr := .nop
  let t : State := outS s (exec .nop s)
  lanesOnly i = true ∧
  exec i s = .next t := ⟨by decide +kernel, next_ok (by decide +kernel)⟩

theorem wit_LaneFrame_2 :
  let s : State := at1 0x0003FFFF 1 []
  let i : Instr := .nop
  let t : State := outS s (exec .nop s)
  let k := 1
  (lanesOnly i = true ∧
  k ≠ s.cur.plot) ∧
  exec i s = .next t := ⟨by decide +kernel, next_ok (by decide +kernel)⟩

theorem wit_LaneFrame_3 :
  let s : State := at1 0x0003FFFF 1 []
  let i : Instr := .nop
  let t : State := outS s (exec .nop s)
  let p := Tab.atD s.plots 0 (plot1 Cell.empty)
  (lanesOnly i = true ∧
  Tab.at? s.plots s.cur.plot = some p) ∧
  exec i s = .next t := ⟨by decide +kernel, next_ok (by decide +kernel)⟩

theorem wit_Delivering_1 :
  let k : Cell := { cell1 (blk 0x0003FFFF 0 [] (inst 1 [])) with blocks := [], pend := [{ left := 0, bidx := 0, first := 0, out := [] }] }
  let p : Plot := plot1 { cell1 (blk 0x0003FFFF 0 [] (inst 1 [])) with blocks := [], pend := [{ left := 0, bidx := 0, first := 0, out := [] }] }
  let cell : Nat := 0
  Tab.at? p.cells cell = some k := by decide +kernel

theorem wit_IssueOrder :
  let waited : List Firing := []
  let round : Nat := 0
  let key : Nat := 0
  let cell : Nat := 0
  let c : Cell := cell1 (blk 0x0003FFFF 0 [] (inst 1 []))
  let path : Bool := true
  let f : Firing := { plot := 0, cell := 0, bidx := 0, slot := 0, frame := 0, round := 0 }
  let i : Instr := .nop
  pathFiring? waited key round cell c path = some (f, i) := by decide +kernel

theorem wit_RepresentableExact :
  let f : Fmt := fmtBf16
  let r : Rnd := rne
  let p : Nat := 0x8001
  f ∈ [fmtF32, fmtBf16, fmtE5m2, fmtE4m3] ∧
  r.word < 2 ^ 16 ∧
  p < 2 ^ f.width ∧
  Machine.decodeF f p ≠ .nan := by decide +kernel

theorem wit_DecodeEncode :
  let i : Instr := .sel 0x1FF 0x028
  let w : Word := 0x0903FE28
  i.wf = true ∧
  encode i = some w := by decide +kernel

theorem wit_EncodeDecode :
  let w : Word := 0x4E045020
  let i : Instr := (match decode 0x4E045020 with | .ok i => i | _ => .nop)
  decode w = .ok i := by decide +kernel

theorem wit_UnassignedRefused :
  let w : Word := 0x15000000
  noOpcode (w.extractLsb' 24 8).toNat = true := by decide +kernel

theorem wit_StepRunsDecoded_1 :
  let s : State := { at1 0x0003FFFF 1 [] with power := true, issue := some Firing.zero }
  let f : Firing := Firing.zero
  let u : State := { s with issue := none }
  let w : Word := 0x0003FFFF
  let i : Instr := .nop
  choose s = .fire f u ∧
  fetch? u f = some w ∧
  decode w = .ok i := by decide +kernel

theorem wit_StepRunsDecoded_2 :
  let s : State := { at1 0x0003FFFF 1 [] with power := true, agenda := [.vireset 3 0] }
  let u : State := { s with agenda := [] }
  let i : Instr := .vireset 3 0
  choose s = .occur i u := by decide +kernel

theorem wit_StepRunsDecoded_3 :
  let s : State := { at1 0x0003FFFF 1 [] with power := false }
  let u : State := s
  choose s = .cycle u := by decide +kernel

theorem wit_StepRunsDecoded_4 :
  let s : State := { at1 0x0003FFFF 1 [] with power := true, issue := some Firing.zero }
  let f : Firing := Firing.zero
  let p : Plot := plot1 (cell1 (blk 0x0003FFFF 0 [] (inst 1 [])))
  s.power = true ∧
  s.issue = some f ∧
  Tab.at? s.plots f.plot = some p ∧
  p.live = true := by decide +kernel

theorem wit_StepRunsDecoded_5 :
  let s : State := { at1 0x0003FFFF 1 [] with power := true, agenda := [.vireset 3 0] }
  let i : Instr := .vireset 3 0
  let rest : List Instr := []
  s.power = true ∧
  s.issue = none ∧
  s.retry = [] ∧
  s.agenda = i :: rest ∧
  outsideWaits s i = false ∧
  isForm i = false := by decide +kernel

theorem wit_SliceQueue_1 :
  let r : Req := { port := 0, vi := 0, line := 32, part := 0, hgen := 0, owned := false, sent := false, kind := .prefetch }
  let rest : List Req := []
  let port : Nat := 0
  let s : State := { State.reset with hmask := [], pcells := [(0, { PCell.reset with out := [r] })], slices := []  }
  (portOf s port).out = r :: rest ∧
  free s port r.line ∧
  slotServes s port r = false := by decide +kernel

theorem wit_PrefetchAndSlice_1 :
  let s : State := withPlot (at1 0xCE000000 1 [(0, run64 [0x8080001000])]) (fun p => { p with ports := [] })
  let c : Ctx := cx s
  let e : Nat := 0
  FiresOn s c e ∧
  homePort? c.plot c.f.cell = none := by decide +kernel

theorem wit_PrefetchAndSlice_2 :
  let s : State := onPort (mapped (at1 0xCE000000 1 [(0, run64 [0x1000])]) [7, 9]) 0 (fun p => { p with misses := [{ miss1 0x1000 (some (.xlate 0)) false with who := { (miss1 0 none false).who with firing := none } }] })
  let c : Ctx := cx s
  let e : Nat := 0
  let port : Nat := 0
  let s1 : State := (match translate s (c.via port 0) (vaOf (c.wide 0 e)) .read with | .ok x _ => x | .miss x => x | .fail x _ => x)
  let why := 0
  let va := vaOf (c.wide 0 e)
  FiresOn s c e ∧
  homePort? c.plot c.f.cell = some port ∧
  translate s (c.via port 0) va .read = .fail s1 (.xlate why) := by decide +kernel

theorem wit_PrefetchAndSlice_3 :
  let s : State := onPort (mapped (at1 0xCE000000 1 [(0, run64 [0x8080001000])]) [7, 9]) 0 (fun p => { p with tlb := [{ tlb0 with pa := 2 ^ 44 }] })
  let c : Ctx := cx s
  let e : Nat := 0
  let port : Nat := 0
  let s1 : State := (match translate s (c.via port 0) (vaOf (c.wide 0 e)) .read with | .ok x _ => x | .miss x => x | .fail x _ => x)
  let pa : Nat := (match translate s (c.via port 0) (vaOf (c.wide 0 e)) .read with | .ok _ p => p | _ => 0)
  let va := vaOf (c.wide 0 e)
  FiresOn s c e ∧
  homePort? c.plot c.f.cell = some port ∧
  translate s (c.via port 0) va .read = .ok s1 pa ∧
  (paReserved s1 pa = true ∨ paRemote s1 pa = true) := by decide +kernel

theorem wit_PrefetchAndSlice_4 :
  let s : State := mapped (at1 0xCE000000 1 [(0, run64 [0x8080001000])]) [7, 9]
  let c : Ctx := cx s
  let e : Nat := 0
  let port : Nat := 0
  let s1 : State := (match translate s (c.via port 0) (vaOf (c.wide 0 e)) .read with | .ok x _ => x | .miss x => x | .fail x _ => x)
  let pa : Nat := (match translate s (c.via port 0) (vaOf (c.wide 0 e)) .read with | .ok _ p => p | _ => 0)
  let va := vaOf (c.wide 0 e)
  FiresOn s c e ∧
  homePort? c.plot c.f.cell = some port ∧
  translate s (c.via port 0) va .read = .ok s1 pa ∧
  paReserved s1 pa = false ∧
  paRemote s1 pa = false ∧
  portRoom s1 port = true := by decide +kernel

theorem wit_PrefetchAndSlice_5 :
  let s : State := onPort (mapped (at1 0xDF000000 1 [(0, run64 [0x1000])]) [7, 9]) 0 (fun p => { p with misses := [{ miss1 0x1000 (some (.xlate 0)) false with who := { (miss1 0 none false).who with firing := none } }] })
  let c : Ctx := cx s
  let e : Nat := 0
  let port : Nat := 0
  let s1 : State := (match translate s (c.via port 0) (vaOf (c.wide 0 e)) .none with | .ok x _ => x | .miss x => x | .fail x _ => x)
  let why := 0
  let va := vaOf (c.wide 0 e)
  FiresOn s c e ∧
  homePort? c.plot c.f.cell = some port ∧
  translate s (c.via port 0) va .none = .fail s1 (.xlate why) := by decide +kernel

theorem wit_PrefetchAndSlice_6 :
  let s : State := onVi (mapped (at1 0xDF000000 1 [(0, run64 [0x8080001000])]) [7, 9]) 0 (fun v => { v with vdom := 0x40 })
  let c : Ctx := cx s
  let e : Nat := 0
  let port : Nat := 0
  let s1 : State := (match translate s (c.via port 0) (vaOf (c.wide 0 e)) .none with | .ok x _ => x | .miss x => x | .fail x _ => x)
  let pa : Nat := (match translate s (c.via port 0) (vaOf (c.wide 0 e)) .none with | .ok _ p => p | _ => 0)
  let va := vaOf (c.wide 0 e)
  FiresOn s c e ∧
  homePort? c.plot c.f.cell = some port ∧
  translate s (c.via port 0) va .none = .ok s1 pa ∧
  (paReserved s1 pa = true ∨ homeSlice? s1 c.plot.vi pa = none) := by decide +kernel

theorem wit_PrefetchAndSlice_7 :
  let s : State := mapped (at1 0xDF000000 1 [(0, run64 [0x8080001000])]) [7, 9]
  let c : Ctx := cx s
  let e : Nat := 0
  let port : Nat := 0
  let s1 : State := (match translate s (c.via port 0) (vaOf (c.wide 0 e)) .none with | .ok x _ => x | .miss x => x | .fail x _ => x)
  let pa : Nat := (match translate s (c.via port 0) (vaOf (c.wide 0 e)) .none with | .ok _ p => p | _ => 0)
  let n := 0
  let va := vaOf (c.wide 0 e)
  FiresOn s c e ∧
  homePort? c.plot c.f.cell = some port ∧
  translate s (c.via port 0) va .none = .ok s1 pa ∧
  paReserved s1 pa = false ∧
  homeSlice? s1 c.plot.vi pa = some n := by decide +kernel

theorem wit_CopyIssue :
  let s : State := mapped (withK (at1 0xC9000000 1 []) [(0, 0x80001000), (1, 0x80), (2, 0x40000), (3, 64)]) [7, 9]
  let c : Ctx := cx s
  let es : List Nat := [0]
  let e : Nat := 0
  let i : Instr := .copy 0 0 0x1FF 0x010
  let dir : Nat := 0
  let n : Nat := 0
  let mm : Bool := false
  let c1 : Cons := 0x1FF
  let c0 : Cons := 0x010
  let port : Nat := 0
  let sc : Nat := 1
  let s1 : State := (match copySide s c { c.via port 1 with need := [(vaOf (c.k2 n), 64)] } (vaOf (c.k2 n)) 1 .read with | .inl (.ok x _) => x | _ => s)
  let src : List Nat := (match copySide s c { c.via port 1 with need := [(vaOf (c.k2 n), 64)] } (vaOf (c.k2 n)) 1 .read with | .inl (.ok _ l) => l | _ => [])
  let s2 : State := s1
  let dsts : List Nat := []
  let k2 := c.k (n + 2)
  let k3 := c.k (n + 3)
  let va := vaOf (c.k2 n)
  let dst := if dir = 2 then vaOf (c.wide 1 e) else va
  let len := k3.toNat % 2 ^ 24
  let bf := k3.toNat / 2 ^ 30
  let fromMem := if dir = 0 ∨ dir = 2 then [(va, len)] else []
  let toMem := if dir = 0 then [] else [(dst, len)]
  let way := fun (src : Nat) => { c.via port src with need := fromMem ++ toMem }
  FiresOnce s c es e ∧
  copyForm i = some (dir, n, mm, c1, c0) ∧
  homePort? c.plot c.f.cell = some port ∧
  ownEarlier s c (fun d => d.copies || d.writesMem) = false ∧
  copyField? (dir == 2) k2 k3 = none ∧
  len ≠ 0 ∧
  len % 64 = 0 ∧
  (if dir = 2 then sc = 0 else rawNear c.plot c.f.cell k2.toNat (len + headerBytes bf len) = .ok sc) ∧
  (if dir = 0 ∨ dir = 2 then va % 64 = 0 ∧ copySide s c (way 1) va (len / 64) .read = .inl (.ok s1 src) else s1 = s ∧ src = []) ∧
  (if dir = 0 then s2 = s1 ∧ dsts = []
    else dst % 64 = 0 ∧ copySide s1 c (way 2) dst (len / 64) .write = .inl (.ok s2 dsts)) := by decide +kernel

theorem wit_StreamWrites_1 :
  let t : Stream := strm 0x8000000000000000 0x4000000000000000
  let s : State := open1 (mapped (at1 0xCB000000 4 [(0, elem1 1 0), (1, elem1 1 77)]) [7, 9]) t
  let c : Ctx := cx s
  let port : Nat := 0
  let ctx : Nat := 0
  let e : Nat := 1
  let o := 1
  FiresOn s c e ∧
  streamOf? s c (c.low 0 e).toNat = some (port, ctx, t) ∧
  t.writes = true ∧
  t.mode ≠ 2 ∧
  t.closing = false ∧
  ordinal? t (c.tag e) = some o ∧
  t.queue.length < t.cap := by decide +kernel

theorem wit_StreamWrites_2 :
  let t : Stream := { strm 0x8000000000000000 0x4000000000000000 with queue := (List.range 32).map (fun k => (k, (0, .val 1))), accepted := 32 }
  let s : State := open1 (mapped (at1 0xCB000000 4 [(0, elem1 1 0), (1, elem1 1 77)]) [7, 9]) t
  let c : Ctx := cx s
  let port : Nat := 0
  let ctx : Nat := 0
  let e : Nat := 1
  let o := 1
  FiresOn s c e ∧
  streamOf? s c (c.low 0 e).toNat = some (port, ctx, t) ∧
  t.writes = true ∧
  t.mode ≠ 2 ∧
  t.closing = false ∧
  ordinal? t (c.tag e) = some o ∧
  t.cap ≤ t.queue.length := by decide +kernel

theorem wit_StreamWrites_3 :
  let t : Stream := strm 0x8000000000000000 0x4000000000000000
  let s : State := open1 (mapped (at1 0xCB000000 5 [(0, elem1 4 0), (1, elem1 4 77)]) [7, 9]) t
  let c : Ctx := cx s
  let port : Nat := 0
  let ctx : Nat := 0
  let e : Nat := 4
  FiresOn s c e ∧
  streamOf? s c (c.low 0 e).toNat = some (port, ctx, t) ∧
  t.writes = true ∧
  t.mode ≠ 2 ∧
  t.closing = false ∧
  ordinal? t (c.tag e) = none := by decide +kernel

theorem wit_StreamGenerates_1 :
  let t : Stream := { strm 0 0x0040C02000000000 with slines := [sline 4 [0x900000007, 11] false], asked := 4 }
  let s : State := open1 (mapped (at1 0x00000000 1 []) [7, 9]) t
  let port : Nat := 0
  let ctx : Nat := 0
  let l : SLine := sline 4 [0x900000007, 11] false
  let d : Line := lineOf [0x900000007, 11]
  let bad : Bool := false
  let rest := l.ord + l.count - t.next
  let first := t.tbase + t.next
  let n := min rest (runEnd ((t.w 7).toNat / 2 ^ 24 % 2 ^ 24) first - first)
  generates s port ctx t ∧
  t.writes = false ∧
  t.ready? = some (l, d, bad) ∧
  t.asked = t.total ∧
  t.mode = 0 ∧
  n ≠ 0 := by decide +kernel

theorem wit_StreamGenerates_2 :
  let t : Stream := { strm 0 0x4000000000000000 with slines := [sline 4 [0x900000007, 11] false], asked := 4 }
  let s : State := open1 (mapped (at1 0x00000000 1 []) [7, 9]) t
  let port : Nat := 0
  let ctx : Nat := 0
  let l : SLine := sline 4 [0x900000007, 11] false
  let d : Line := lineOf [0x900000007, 11]
  let bad : Bool := false
  let rest := l.ord + l.count - t.next
  generates s port ctx t ∧
  t.writes = false ∧
  t.ready? = some (l, d, bad) ∧
  t.asked = t.total ∧
  t.mode = 1 ∧
  rest ≠ 0 := by decide +kernel

theorem wit_StreamGenerates_3 :
  let t : Stream := { strm 0 0x8040000000100000 with slines := [sline 4 [0x900000007, 11] false], asked := 4 }
  let s : State := open1 (mapped (at1 0x00000000 1 []) [7, 9]) t
  let port : Nat := 0
  let ctx : Nat := 0
  let l : SLine := sline 4 [0x900000007, 11] false
  let d : Line := lineOf [0x900000007, 11]
  let bad : Bool := false
  let rest := l.ord + l.count - t.next
  let n := min rest ((t.cons + t.ring - t.prod) / t.esz)
  generates s port ctx t ∧
  t.writes = false ∧
  t.ready? = some (l, d, bad) ∧
  t.asked = t.total ∧
  t.mode = 2 ∧
  t.esz ≠ 64 ∧
  n ≠ 0 := by decide +kernel

theorem wit_StreamAsks_1 :
  let t : Stream := strm 0 0x4000000000000000
  let s : State := open1 (mapped (at1 0 1 []) [7, 9]) t
  let port : Nat := 0
  let ctx : Nat := 0
  let s1 : State := (match streamWay s port t t.asked with | .go x _ => x | _ => s)
  let pa : Nat := (match streamWay s port t t.asked with | .go _ p => p | _ => 0)
  let o := t.asked
  generates s port ctx t ∧
  t.writes = false ∧
  t.ready? = none ∧
  streamWay s port t o = .go s1 pa ∧
  windowAt s1 port ctx (t.va o) t = .past := by decide +kernel

theorem wit_StreamAsks_4 :
  let t : Stream := { strm 0 0x4000000000000000 with windowed := true, desc := [0x2000008080001000, 0x0000030000000004, 0, 0, 0, 0x4000000000000000, 0, 0x0010000000000000], head := 128, wlines := [(0, { line := 32, data := 7, side := 0, poison := false, mask := 0, n := 0 })] }
  let s : State := open1 (mapped (at1 0 1 []) [7, 9]) t
  let port : Nat := 0
  let ctx : Nat := 0
  let s1 : State := (match streamWay s port t t.asked with | .go x _ => x | _ => s)
  let pa : Nat := (match streamWay s port t t.asked with | .go _ p => p | _ => 0)
  let s2 := winS (windowAt s1 port ctx (t.va t.asked) t)
  let off := 0
  let u := Tab.atD (portOf s2 port).ctxs ctx t
  let x := Tab.atD u.wlines 0 { line := 0, data := 0, side := 0, poison := false, mask := 0, n := 0 }
  let o := t.asked
  generates s port ctx t ∧
  t.writes = false ∧
  t.ready? = none ∧
  streamWay s port t o = .go s1 pa ∧
  windowAt s1 port ctx (t.va o) t = .at_ s2 off ∧
  Tab.at? (portOf s2 port).ctxs ctx = some u ∧
  Tab.at? u.wlines off = some x := by decide +kernel

theorem wit_StreamFaults_1 :
  let t : Stream := { strm 0 0x4000000000000000 with desc := [0x2000008080001001, 0x0000030000000004, 0, 0, 0, 0x4000000000000000, 0, 0] }
  let s : State := open1 (mapped (at1 0x00000000 1 []) [7, 9]) t
  let port : Nat := 0
  let ctx : Nat := 0
  let cause : Nat := 8
  let s1 : State := wayF (streamWay s port t t.asked)
  generates s port ctx t ∧
  t.writes = false ∧
  t.ready? = none ∧
  streamWay s port t t.asked = .fault s1 cause := by decide +kernel

theorem wit_StreamFaults_2 :
  let t : Stream := { strm 0 0x4000000000000000 with desc := [0xA000008080001001, 0x0000030000000004, 0, 0, 0, 0x4000000000000000, 0, 0], accepted := 1, queue := [(0, (0, .val 77))] }
  let s : State := open1 (mapped (at1 0x00000000 1 []) [7, 9]) t
  let port : Nat := 0
  let ctx : Nat := 0
  let cause : Nat := 8
  let near := []
  let o := 0
  let v := 77
  let s1 : State := wayF (streamWay { s with ctr := s.ctr + 8 } port t o)
  let s0 : State := { s with ctr := s.ctr + 8 }
  generates s port ctx t ∧
  t.writes = true ∧
  t.esz ≠ 64 ∧
  (Tab.at? s.plots t.plot).map (fun p => nearOf p (descScell t.desc)) = some near ∧
  stored t near = some (o, v) ∧
  streamWay s0 port t o = .fault s1 cause := by decide +kernel

theorem wit_StreamStores_1 :
  let t : Stream := { strm 0x8000000000000000 0x4000000000000000 with accepted := 1, queue := [(0, (0, .val 77))]  }
  let s : State := open1 (mapped (at1 0x00000000 1 []) [7, 9]) t
  let port : Nat := 0
  let ctx : Nat := 0
  let o : Nat := 0
  let v : Nat := 77
  let near : Memory := []
  let s1 : State := (match streamWay { s with ctr := s.ctr + 8 } port t o with | .go x _ => x | _ => s)
  let pa : Nat := (match streamWay { s with ctr := s.ctr + 8 } port t o with | .go _ p => p | _ => 0)
  generates s port ctx t ∧
  t.writes = true ∧
  t.esz ≠ 64 ∧
  (Tab.at? s.plots t.plot).map (fun p => nearOf p (descScell t.desc)) = some near ∧
  stored t near = some (o, v) ∧
  streamWay { s with ctr := s.ctr + 8 } port t o = .go s1 pa ∧
  windowAt s1 port ctx (t.va o) t = .past ∧
  t.sent = 0 ∧
  portRoom s1 port = true := by decide +kernel

theorem wit_StreamStores_2 :
  let t : Stream := { strm 0x8000000000000000 0x4000000000000000 with accepted := 1, queue := [(0, (0, .val 77))] , sent := 1 }
  let s : State := open1 (mapped (at1 0x00000000 1 []) [7, 9]) t
  let port : Nat := 0
  let ctx : Nat := 0
  let o : Nat := 0
  let v : Nat := 77
  let near : Memory := []
  let s1 : State := (match streamWay { s with ctr := s.ctr + 8 } port t o with | .go x _ => x | _ => s)
  let pa : Nat := (match streamWay { s with ctr := s.ctr + 8 } port t o with | .go _ p => p | _ => 0)
  generates s port ctx t ∧
  t.writes = true ∧
  t.esz ≠ 64 ∧
  (Tab.at? s.plots t.plot).map (fun p => nearOf p (descScell t.desc)) = some near ∧
  stored t near = some (o, v) ∧
  streamWay { s with ctr := s.ctr + 8 } port t o = .go s1 pa ∧
  windowAt s1 port ctx (t.va o) t = .past ∧
  (t.sent ≠ 0 ∨ portRoom s1 port = false) := by decide +kernel

theorem wit_StreamStores_4 :
  let t : Stream := { strm 0x8000000000000000 0x4000000000000000 with accepted := 1, queue := [(0, (0, .val 77))] , windowed := true, desc := [0xA000008080001000, 0x0000030000000004, 0, 0, 0, 0x4000000000000000, 0, 0x0010000000000000] }
  let s : State := open1 (mapped (at1 0x00000000 1 []) [7, 9]) t
  let port : Nat := 0
  let ctx : Nat := 0
  let o : Nat := 0
  let v : Nat := 77
  let near : Memory := []
  let s1 : State := (match streamWay { s with ctr := s.ctr + 8 } port t o with | .go x _ => x | _ => s)
  let pa : Nat := (match streamWay { s with ctr := s.ctr + 8 } port t o with | .go _ p => p | _ => 0)
  let s2 := winS (windowAt s1 port ctx (t.va o) t)
  let off := 0
  generates s port ctx t ∧
  t.writes = true ∧
  t.esz ≠ 64 ∧
  (Tab.at? s.plots t.plot).map (fun p => nearOf p (descScell t.desc)) = some near ∧
  stored t near = some (o, v) ∧
  streamWay { s with ctr := s.ctr + 8 } port t o = .go s1 pa ∧
  windowAt s1 port ctx (t.va o) t = .at_ s2 off := by decide +kernel

theorem wit_StreamFormsComplete_1 :
  let t : Stream := { strm 0 0x4000000000000000 with next := 4, queue := [(0, (0, .val 7)), (1, (1, .val 8)), (2, (2, .val 9)), (3, (3, .val 10))] }
  let s : State := open1 (mapped (at1 0xCA000000 4 [(0, run [0, 0, 0, 0])]) [7, 9]) t
  let c : Ctx := cx s
  let port : Nat := 0
  let ctx : Nat := 0
  let es : List Nat := [0, 1, 2, 3]
  let e : Nat := 0
  streamOf? s c (c.low 0 e).toNat = some (port, ctx, t) ∧
  FiresOnce s c es e ∧
  t.writes = false ∧
  t.mode = 1 ∧
  (∀ i < c.inst.len, (ordinal? t (c.tag i)).all (fun o => Tab.has t.queue o) = true) := by decide +kernel

theorem wit_StreamFormsComplete_2 :
  let t : Stream := strm 0x8000000000000000 0x4000000000000000
  let s : State := open1 (mapped (at1 0xCB000000 4 [(0, elem1 1 0), (1, elem1 1 77)]) [7, 9]) t
  let c : Ctx := cx s
  let port : Nat := 0
  let ctx : Nat := 0
  let e : Nat := 1
  streamOf? s c (c.low 0 e).toNat = some (port, ctx, t) ∧
  FiresOn s c e ∧
  t.writes = true ∧
  t.mode ≠ 2 ∧
  t.closing = false ∧
  (ordinal? t (c.tag e)).isSome = true ∧
  t.queue.length < t.cap := by decide +kernel

theorem wit_StreamFormsComplete_3 :
  let t : Stream := { strm 0 0x8040000000100000 with prod := 64 }
  let s : State := open1 (mapped (at1 0xDA000000 1 [(0, scal 0), (1, scal 64)]) [7, 9]) t
  let c : Ctx := cx s
  let port : Nat := 0
  let ctx : Nat := 0
  let es : List Nat := [0]
  let e : Nat := 0
  let n := (c.low 1 e).toNat
  streamOf? s c (c.low 0 e).toNat = some (port, ctx, t) ∧
  FiresOnce s c es e ∧
  t.writes = false ∧
  t.mode = 2 ∧
  n ≠ 0 ∧
  n % 64 = 0 ∧
  (t.cons + t.granted) % max 1 t.ring + n ≤ t.ring ∧
  t.cons + t.granted + n ≤ t.prod := by decide +kernel

theorem wit_StreamFormsComplete_4 :
  let t : Stream := strm 0x8000000000000000 0x8040000000100000
  let s : State := open1 (mapped (at1 0xDA000000 1 [(0, scal 0), (1, scal 64)]) [7, 9]) t
  let c : Ctx := cx s
  let port : Nat := 0
  let ctx : Nat := 0
  let es : List Nat := [0]
  let e : Nat := 0
  let n := (c.low 1 e).toNat
  streamOf? s c (c.low 0 e).toNat = some (port, ctx, t) ∧
  FiresOnce s c es e ∧
  t.writes = true ∧
  t.mode = 2 ∧
  t.closing = false ∧
  t.waiter = none ∧
  n ≠ 0 ∧
  n % 64 = 0 ∧
  (t.prod + n) % max 1 t.ring + n ≤ t.ring ∧
  t.prod + n + n ≤ t.cons + t.ring := by decide +kernel

theorem wit_GroupSteering_1 :
  let fl : Flight := { msg := msg0, at_ := .climb 1024, parked := false, tries := 0 }
  let s : State := { (grouped (mapped (at1 0xE2000000 1 [(0, scal 1)]) []) (grp0 [] [(1024, node1 0 2)] [(0, mem0)]) (ep0 [] [(0, { gen := 1, midx := 0, ready := 2 })])) with flights := [(0, { msg := msg0, at_ := .climb 1024, parked := false, tries := 0 })], nextFlight := 1 }
  let k : Nat := 0
  let g : Group := grp0 [] [(1024, node1 0 2)] [(0, mem0)]
  let node : Nat := 1024
  let child : Nat := 0
  let parks := (∃ t, Tab.at? g.nodes node = some t ∧ t.park = true) ∨ (node = 0 ∧ g.pound ≠ [])
  Tab.at? s.flights k = some fl ∧
  Tab.at? s.groups fl.msg.group = some g ∧
  fl.at_ = .climb node ∧
  ¬ parks ∧
  positiveChild? s g node = some child := by decide +kernel

theorem wit_GroupSteering_2 :
  let fl : Flight := { msg := msg0, at_ := .climb 1024, parked := false, tries := 0 }
  let s : State := { (grouped (mapped (at1 0xE2000000 1 [(0, scal 1)]) []) (grp0 [] [] []) (ep0 [] [(0, { gen := 1, midx := 0, ready := 2 })])) with flights := [(0, { msg := msg0, at_ := .climb 1024, parked := false, tries := 0 })], nextFlight := 1 }
  let k : Nat := 0
  let g : Group := grp0 [] [] []
  let node : Nat := 1024
  let parks := (∃ t, Tab.at? g.nodes node = some t ∧ t.park = true) ∨ (node = 0 ∧ g.pound ≠ [])
  Tab.at? s.flights k = some fl ∧
  Tab.at? s.groups fl.msg.group = some g ∧
  fl.at_ = .climb node ∧
  ¬ parks ∧
  positiveChild? s g node = none ∧
  node ≠ 0 := by decide +kernel

theorem wit_GroupSteering_3 :
  let fl : Flight := { msg := msg0, at_ := .climb 0, parked := false, tries := 0 }
  let s : State := { (grouped (mapped (at1 0xE2000000 1 [(0, scal 1)]) []) (grp0 [msg0] [] []) (ep0 [] [(0, { gen := 1, midx := 0, ready := 2 })])) with flights := [(0, { msg := msg0, at_ := .climb 0, parked := false, tries := 0 })], nextFlight := 1 }
  let k : Nat := 0
  let g : Group := grp0 [msg0] [] []
  let node : Nat := 0
  let parks := (∃ t, Tab.at? g.nodes node = some t ∧ t.park = true) ∨ (node = 0 ∧ g.pound ≠ [])
  Tab.at? s.flights k = some fl ∧
  Tab.at? s.groups fl.msg.group = some g ∧
  fl.at_ = .climb node ∧
  (parks ∨ (node = 0 ∧ positiveChild? s g node = none)) ∧
  fl.parked = false := by decide +kernel

theorem wit_GroupSteering_4 :
  let fl : Flight := { msg := msg0, at_ := .down 1024 1024 0, parked := false, tries := 0 }
  let s : State := { (grouped (mapped (at1 0xE2000000 1 [(0, scal 1)]) []) (grp0 [] [(1024, node1 0 2)] [(0, mem0)]) (ep0 [] [(0, { gen := 1, midx := 0, ready := 2 })])) with flights := [(0, { msg := msg0, at_ := .down 1024 1024 0, parked := false, tries := 0 })], nextFlight := 1 }
  let k : Nat := 0
  let g : Group := grp0 [] [(1024, node1 0 2)] [(0, mem0)]
  let node : Nat := 1024
  let child : Nat := 0
  let turn : Nat := 1024
  let since : Nat := 0
  let key := fl.msg.group
  Tab.at? s.flights k = some fl ∧
  Tab.at? s.groups fl.msg.group = some g ∧
  fl.at_ = .down node turn since ∧
  (node = 0 → headFirst s key g = false) ∧
  positiveChild? s g node = some child := by decide +kernel

theorem wit_GroupBounces_1 :
  let fl : Flight := { msg := msg0, at_ := .down 1024 1024 0, parked := false, tries := 7 }
  let s : State := { (grouped (mapped (at1 0xE2000000 1 [(0, scal 1)]) []) (grp0 [] [(16, node1 0 1)] []) (ep0 [] [(0, { gen := 1, midx := 0, ready := 2 })])) with flights := [(0, { msg := msg0, at_ := .down 1024 1024 0, parked := false, tries := 7 })], nextFlight := 1 }
  let k : Nat := 0
  let g : Group := grp0 [] [(16, node1 0 1)] []
  let node : Nat := 1024
  let turn : Nat := 1024
  let since : Nat := 0
  Tab.at? s.flights k = some fl ∧
  Tab.at? s.groups fl.msg.group = some g ∧
  fl.at_ = .down node turn since ∧
  node ≠ 0 ∧
  positiveChild? s g node = none ∧
  7 ≤ fl.tries ∧
  fl.parked = false := by decide +kernel

theorem wit_GroupBounces_2 :
  let fl : Flight := { msg := msg0, at_ := .down 1 1 0, parked := false, tries := 0 }
  let s : State := { (grouped (mapped (at1 0xE2000000 1 [(0, scal 1)]) []) (grp0 [] [(0, node1 0 1)] []) (ep0 [] [(0, { gen := 1, midx := 0, ready := 2 })])) with flights := [(0, { msg := msg0, at_ := .down 1 1 0, parked := false, tries := 0 })], nextFlight := 1 }
  let k : Nat := 0
  let g : Group := grp0 [] [(0, node1 0 1)] []
  let node : Nat := 1
  let turn : Nat := 1
  let since : Nat := 0
  let up := parentNode node
  Tab.at? s.flights k = some fl ∧
  Tab.at? s.groups fl.msg.group = some g ∧
  fl.at_ = .down node turn since ∧
  node ≠ 0 ∧
  positiveChild? s g node = none ∧
  fl.tries < 7 ∧
  up = 0 := by decide +kernel

theorem wit_GroupBounces_3 :
  let fl : Flight := { msg := msg0, at_ := .down 1024 1024 0, parked := false, tries := 0 }
  let s : State := { (grouped (mapped (at1 0xE2000000 1 [(0, scal 1)]) []) (grp0 [] [(16, node1 1 1)] []) (ep0 [] [(0, { gen := 1, midx := 0, ready := 2 })])) with flights := [(0, { msg := msg0, at_ := .down 1024 1024 0, parked := false, tries := 0 })], nextFlight := 1 }
  let k : Nat := 0
  let g : Group := grp0 [] [(16, node1 1 1)] []
  let node : Nat := 1024
  let turn : Nat := 1024
  let since : Nat := 0
  let child := 1
  let key := fl.msg.group
  let up := parentNode node
  let crossing := fun (x : State) => addToll x (key / 1024) 7 (msgBytes fl.msg)
  let refunded := onGroup s key (fun g => addCountSince g up (childOf node) since 1)
  let s1 := if up = 0 then crossing refunded else refunded
  let g1 := Tab.atD s1.groups 0 (grp0 [] [] [])
  Tab.at? s.flights k = some fl ∧
  Tab.at? s.groups fl.msg.group = some g ∧
  fl.at_ = .down node turn since ∧
  node ≠ 0 ∧
  positiveChild? s g node = none ∧
  fl.tries < 7 ∧
  up ≠ 0 ∧
  Tab.at? s1.groups key = some g1 ∧
  positiveChild? s1 g1 up = some child := by decide +kernel

theorem wit_PoundFills_1 :
  let fl : Flight := { msg := msg0, at_ := .toPound, parked := false, tries := 0 }
  let s : State := { (grouped (mapped (at1 0xE2000000 1 [(0, scal 1)]) []) (grp0 [msg0] [(0, node1 0 0)] []) (ep0 [] [(0, { gen := 1, midx := 0, ready := 2 })])) with flights := [(0, { msg := msg0, at_ := .toPound, parked := false, tries := 0 })], nextFlight := 1 }
  let k : Nat := 0
  let g : Group := grp0 [msg0] [(0, node1 0 0)] []
  let key := fl.msg.group
  let held := (g.pound.map (fun m => msgBytes m / 64)).sum
  let first := ∀ x ∈ s.flights, x.2.msg.group = key → ∀ since, x.2.at_ ≠ .waiting since
  (Tab.at? s.flights k = some fl ∧
  Tab.at? s.groups fl.msg.group = some g ∧
  fl.at_ = .toPound ∧
  fl.msg.src = none ∧
  held + msgBytes fl.msg / 64 ≤ g.units) ∧
  first := ⟨by decide +kernel, fun x h _ since h2 => (by cases List.mem_singleton.mp h; cases h2)⟩

theorem wit_PoundFills_2 :
  let fl : Flight := { msg := { msg0 with try1 := true }, at_ := .toPound, parked := false, tries := 0 }
  let s : State := { (grouped (mapped (at1 0xE2000000 1 [(0, scal 1)]) []) ({ grp0 [msg0] [] [] with units := 1 }) (ep0 [] [(0, { gen := 1, midx := 0, ready := 2 })])) with flights := [(0, { msg := { msg0 with try1 := true }, at_ := .toPound, parked := false, tries := 0 })], nextFlight := 1 }
  let k : Nat := 0
  let g : Group := { grp0 [msg0] [] [] with units := 1 }
  let held := (g.pound.map (fun m => msgBytes m / 64)).sum
  Tab.at? s.flights k = some fl ∧
  Tab.at? s.groups fl.msg.group = some g ∧
  fl.at_ = .toPound ∧
  fl.msg.src = none ∧
  g.units < held + msgBytes fl.msg / 64 ∧
  fl.msg.try1 = true := by decide +kernel

theorem wit_PoundFills_3 :
  let fl : Flight := { msg := msg0, at_ := .toPound, parked := false, tries := 0 }
  let s : State := { (grouped (mapped (at1 0xE2000000 1 [(0, scal 1)]) []) ({ grp0 [msg0] [] [] with units := 1 }) (ep0 [] [(0, { gen := 1, midx := 0, ready := 2 })])) with flights := [(0, { msg := msg0, at_ := .toPound, parked := false, tries := 0 })], nextFlight := 1 }
  let k : Nat := 0
  let g : Group := { grp0 [msg0] [] [] with units := 1 }
  let held := (g.pound.map (fun m => msgBytes m / 64)).sum
  Tab.at? s.flights k = some fl ∧
  Tab.at? s.groups fl.msg.group = some g ∧
  fl.at_ = .toPound ∧
  fl.msg.src = none ∧
  g.units < held + msgBytes fl.msg / 64 ∧
  fl.msg.try1 = false := by decide +kernel

theorem wit_GroupCounts_1 :
  let d : Delta := { group := 0, gen := 1, node := 0, child := 0, by_ := 1, born := 1 }
  let g := grp0 [] [(0, node1 0 1), (16, node1 0 1)] []
  let s : State := { grouped (at1 0 1 []) { grp0 [] [(0, node1 0 1), (16, node1 0 1)] [] with gen := 1 } (ep0 [] []) with deltas := [(0, { group := 0, gen := 1, node := 0, child := 0, by_ := 1, born := 1 })], nextDelta := 2 }
  let k := 0
  Tab.at? s.deltas k = some d ∧
  Tab.at? s.groups d.group = some g ∧
  g.gen = d.gen ∧
  d.node = 0 := by decide +kernel

theorem wit_GroupCounts_2 :
  let d : Delta := { group := 0, gen := 1, node := 16, child := 0, by_ := 1, born := 1 }
  let g := grp0 [] [(0, node1 0 1), (16, node1 0 1)] []
  let s : State := { grouped (at1 0 1 []) { grp0 [] [(0, node1 0 1), (16, node1 0 1)] [] with gen := 1 } (ep0 [] []) with deltas := [(0, { group := 0, gen := 1, node := 16, child := 0, by_ := 1, born := 1 })], nextDelta := 2 }
  let k := 0
  Tab.at? s.deltas k = some d ∧
  Tab.at? s.groups d.group = some g ∧
  g.gen = d.gen ∧
  d.node ≠ 0 := by decide +kernel

theorem wit_GroupCounts_3 :
  let g := grp0 [] [(0, node1 0 1), (16, node1 0 1)] []
  let d : Delta := { group := 0, gen := 1, node := 0, child := 0, by_ := 1, born := 1 }
  let s : State := { grouped (at1 0 1 []) { grp0 [] [(0, node1 0 1), (16, node1 0 1)] [] with gen := 2 } (ep0 [] []) with deltas := [(0, { group := 0, gen := 1, node := 0, child := 0, by_ := 1, born := 1 })], nextDelta := 2 }
  let k := 0
  Tab.at? s.deltas k = some d ∧
  (∀ g, Tab.at? s.groups d.group = some g → g.gen ≠ d.gen) := ⟨by decide +kernel, fun g h => by cases h; decide +kernel⟩

theorem wit_GroupCounts_4 :
  let fl : Flight := { msg := { msg0 with firing := some { Firing.zero with plot := 0 } }, at_ := .outcome true none, parked := false, tries := 0 }
  let s : State := { (grouped (mapped (at1 0xE2000000 1 [(0, scal 1)]) []) (grp0 [] [(1024, node1 0 2)] [(0, mem0)]) (ep0 [{ off := 0, bytes := 128, id := 0, counted := false }] [(0, { gen := 1, midx := 0, ready := 2 })])) with flights := [(0, { msg := { msg0 with firing := some { Firing.zero with plot := 0 } }, at_ := .outcome true none, parked := false, tries := 0 })], nextFlight := 1 }
  let k := 0
  let f := Firing.zero
  let failed := true
  Tab.at? s.flights k = some fl ∧
  fl.at_ = .outcome failed none ∧
  fl.msg.firing = some f ∧
  fl.msg.src = none := by decide +kernel

theorem wit_GroupCounts_5 :
  let fl : Flight := { msg := { msg0 with firing := some { Firing.zero with plot := 0 } }, at_ := .outcome false (some (0, 0, 0, 0)), parked := false, tries := 0 }
  let s : State := { (grouped (mapped (at1 0xE2000000 1 [(0, scal 1)]) []) (grp0 [] [(1024, node1 0 2)] [(0, mem0)]) (ep0 [{ off := 0, bytes := 128, id := 0, counted := false }] [(0, { gen := 1, midx := 0, ready := 2 })])) with flights := [(0, { msg := { msg0 with firing := some { Firing.zero with plot := 0 } }, at_ := .outcome false (some (0, 0, 0, 0)), parked := false, tries := 0 })], nextFlight := 1 }
  let k := 0
  let f := Firing.zero
  let plot := 0
  let ep := 0
  let id := 0
  let midx := 0
  Tab.at? s.flights k = some fl ∧
  fl.at_ = .outcome false (some (plot, ep, id, midx)) ∧
  fl.msg.firing = some f ∧
  fl.msg.src = none ∧
  countsNext s plot ep id = true := by decide +kernel

theorem wit_DeliveryCounted_1 :
  let fl : Flight := { msg := msg0, at_ := .outcome false (some (0, 0, 0, 0)), parked := false, tries := 0 }
  let s : State := { (grouped (mapped (at1 0xE2000000 1 [(0, scal 1)]) []) ({ grp0 [] [(1024, node1 0 2)] [(0, mem0)] with gen := 1 }) (ep0 [{ off := 0, bytes := 128, id := 0, counted := false }] [(0, { gen := 1, midx := 0, ready := 2 })])) with flights := [(0, { msg := msg0, at_ := .outcome false (some (0, 0, 0, 0)), parked := false, tries := 0 })], nextFlight := 1 }
  let g : Group := { grp0 [] [(1024, node1 0 2)] [(0, mem0)] with gen := 1 }
  let plot : Nat := 0
  Tab.has s.plots plot = true ∧
  Tab.at? s.groups fl.msg.group = some g ∧
  fl.msg.src = none ∧
  fl.parked = false ∧
  g.gen = fl.msg.gen := by decide +kernel

theorem wit_DeliveryCounted_2 :
  let fl : Flight := { msg := msg0, at_ := .outcome false (some (0, 0, 0, 0)), parked := false, tries := 0 }
  let s : State := { (grouped (mapped (at1 0xE2000000 1 [(0, scal 1)]) []) ({ grp0 [] [(1024, node1 0 2)] [(0, mem0)] with gen := 2 }) (ep0 [{ off := 0, bytes := 128, id := 0, counted := false }] [(0, { gen := 1, midx := 0, ready := 2 })])) with flights := [(0, { msg := msg0, at_ := .outcome false (some (0, 0, 0, 0)), parked := false, tries := 0 })], nextFlight := 1 }
  let g : Group := { grp0 [] [(1024, node1 0 2)] [(0, mem0)] with gen := 2 }
  let plot : Nat := 0
  Tab.has s.plots plot = true ∧
  Tab.at? s.groups fl.msg.group = some g ∧
  fl.msg.src = none ∧
  fl.parked = false ∧
  g.gen ≠ fl.msg.gen := by decide +kernel

theorem wit_PoundDrains_1 :
  let s : State := grouped (mapped (at1 0xE2000000 1 [(0, scal 1)]) []) (grp0 [msg0] [(0, node1 0 1)] []) (ep0 [] [(0, { gen := 1, midx := 0, ready := 2 })])
  let key : Nat := 0
  let g : Group := grp0 [msg0] [(0, node1 0 1)] []
  let m : GMsg := msg0
  let rest := []
  let child := 0
  Tab.at? s.groups key = some g ∧
  headAway s key = false ∧
  g.pound = m :: rest ∧
  (∀ x ∈ g.pound, replayJob? s x = none) ∧
  (∀ w ∈ waitingOf s key, replayJob? s w.2.2.msg = none) ∧
  positiveChild? s g 0 = some child := by decide +kernel

theorem wit_PoundDrains_2 :
  let s : State := { grouped (mapped (at1 0 1 []) [0, 0, 0, 0, 0, 0, 0, 0, 0x0100000000000005, 6, 7, 0]) (grp0 [{ msg0 with src := some (0, 5, 6, 7) }] [(0, node1 0 1)] [(0, mem0)]) (ep0 [] [(0, { gen := 1, midx := 0, ready := 2 })]) with jobs := [(0, { job0 with jmode := 2, jbase := 0x8080001000, jsize := 4, jtotal := 1 })] }
  let key : Nat := 0
  let g : Group := grp0 [{ msg0 with src := some (0, 5, 6, 7) }] [(0, node1 0 1)] [(0, mem0)]
  let m : GMsg := (poundMessages s 0 g g.head g.pound).headD msg0
  let plot := 0
  let ep := 0
  let p := Tab.atD s.plots 0 (plot1 Cell.empty)
  Tab.at? s.groups key = some g ∧
  headAway s key = false ∧
  (poundMessages s (key / 1024) g g.head g.pound).find? (fun x => (forced? s key g x).isSome) = some m ∧
  forced? s key g m = some (plot, ep, p) := by decide +kernel

theorem wit_Dispatches_4 :
  let s : State := onPlot (tasked (at1 0 1 []) [] [(1, { rec0 8 16 false with bound := some 0 })]) 0 (fun p => { p with running := false, task := some 1, frozen := true })
  let plot : Nat := 0
  let p : Plot := (cx s).plot
  let k : Nat := 1
  let r : Rec := (s.recs.map (fun x => x.2)).getLastD (rec0 0 0 false)
  Tab.at? s.plots plot = some p ∧
  choose? s plot p = some (k, r) ∧
  Tab.at? s.recs k = some r ∧
  r.grain = 0 ∧
  p.frozen = true := by decide +kernel

theorem wit_Dispatches_3 :
  let s : State := onPlot (tasked (at1 0 1 []) [] [(1, rec0 8 16 false), (2, { rec0 8 16 false with prio := 3, code := 0x8080003040 })]) 0 (fun p => { p with running := false, yield := true })
  let plot : Nat := 0
  let p : Plot := (cx s).plot
  let k : Nat := 1
  let r : Rec := rec0 8 16 false
  Tab.at? s.plots plot = some p ∧
  choose? s plot p = some (k, r) ∧
  Tab.at? s.recs k = some r ∧
  r.grain = 0 ∧
  p.frozen = false ∧
  yielded s p r = true := by decide +kernel

theorem wit_Dispatches_2 :
  let s : State := onPlot (tasked (at1 0 1 []) image0 [(1, { rec0 8 16 false with code := 0x8080001000 })]) 0 (fun p => { p with running := false, task := none, stale := 1, code := 0x8080001000 })
  let plot : Nat := 0
  let p : Plot := (cx s).plot
  let k : Nat := 1
  let r : Rec := (s.recs.map (fun x => x.2)).getLastD (rec0 0 0 false)
  let s1 : State := (match (configure (releasePlot s plot) p.vi .graph ((Tab.at? s.jobs r.job).map (·.queue)) p.code p.die r.image.isNone (some (p.x, p.y))) with | .ok x _ => x | _ => s)
  let key := (match (configure (releasePlot s plot) p.vi .graph ((Tab.at? s.jobs r.job).map (·.queue)) p.code p.die r.image.isNone (some (p.x, p.y))) with | .ok _ k => k | _ => 0)
  let stale := ((Tab.at? s.jobs r.job).map (fun j => p.stale.testBit j.queue)).getD false
  Tab.at? s.plots plot = some p ∧
  choose? s plot p = some (k, r) ∧
  Tab.at? s.recs k = some r ∧
  r.grain = 0 ∧
  p.frozen = false ∧
  yielded s p r = false ∧
  stale = true ∧
  configure (releasePlot s plot) p.vi .graph ((Tab.at? s.jobs r.job).map (·.queue)) p.code p.die r.image.isNone (some (p.x, p.y)) = .ok s1 key := by decide +kernel

theorem wit_SetHash_1 :
  let s : State := { (fun x => onPort x 384 (fun p => { p with tlb := [tlb0] })) <| withPlot (mapped (at1 0xD8000000 1 [(0, scal 0), (1, run64 [0x8080001000]), (2, scal 0)]) [0x8000000000000000, 0, 0, 0, 0, 0, 0, 1]) (fun plt => { plt with role := .reeve, vi := 0 }) with partcfg := [(0, 0x8020000000000000)] }
  let c : Ctx := cx s
  let es : List Nat := [0]
  let e : Nat := 0
  let s1 : State := gotS (cellRead s c e 4 0x8080001000 16)
  let d : List Dword := gotV (cellRead s c e 4 0x8080001000 16)
  let p := (c.low 0 e).toNat
  FiresOnce s c es e ∧
  c.plot.role = .reeve ∧
  (c.low 0 e).toNat < 64 ∧
  sethashBefore s c p = false ∧
  cellRead s c e 4 (vaOf (c.wide 1 e)) 16 = .ok s1 d ∧
  vaOf (c.wide 1 e) % 128 = 0 ∧
  hashFieldsOk d = true ∧
  partValid s1 p = true ∧
  partQui s1 p = false := by decide +kernel

theorem wit_SetHash_2 :
  let s : State := { (fun x => onPort x 384 (fun p => { p with tlb := [tlb0] })) <| withPlot (mapped (at1 0xD8000000 1 [(0, scal 0), (1, run64 [0x8080001000]), (2, scal 0)]) [0x8000000000000000, 0, 0, 0, 0, 0, 0, 1]) (fun plt => { plt with role := .reeve, vi := 0 }) with partcfg := [(0, 0xC020000000000000)] }
  let c : Ctx := cx s
  let es : List Nat := [0]
  let e : Nat := 0
  let s1 : State := gotS (cellRead s c e 4 0x8080001000 16)
  let d : List Dword := gotV (cellRead s c e 4 0x8080001000 16)
  let p := (c.low 0 e).toNat
  let w0 := (d[0]?).getD 0
  let new : List Nat := (List.range (2 ^ (w0.extractLsb' 6 3).toNat)).map ((w0.extractLsb' 0 6).toNat + ·)
  let wins := partWindows s1 p
  FiresOnce s c es e ∧
  c.plot.role = .reeve ∧
  (c.low 0 e).toNat < 64 ∧
  sethashBefore s c p = false ∧
  cellRead s c e 4 (vaOf (c.wide 1 e)) 16 = .ok s1 d ∧
  vaOf (c.wide 1 e) % 128 = 0 ∧
  hashFieldsOk d = true ∧
  (partValid s1 p = true → partQui s1 p = true) ∧
  (w0.getLsbD 63 = true → ∀ n ∈ new, sliceFree s1 p n = true) ∧
  (∀ v ∈ hashVis d, viMovable s1 p v = true) ∧
  (∀ x ∈ s1.slices, ∀ r ∈ x.2.queue, r.part ≠ p) ∧
  (∀ x ∈ wins, x.2.2.sent = 0) := by decide +kernel

theorem wit_SetHash_3 :
  let s : State := { (fun x => onPort x 384 (fun p => { p with tlb := [tlb0] })) <| withPlot (onSlice (mapped (at1 0xD8000000 1 [(0, scal 0), (1, run64 [0x8080001000]), (2, scal 0)]) [0x8000000000000000, 0, 0, 0, 0, 0, 0, 1]) 0 (fun sl => { sl with queue := [{ port := 0, vi := 0, line := 1, part := 0, hgen := 0, owned := false, sent := false, kind := .prefetch }] })) (fun plt => { plt with role := .reeve, vi := 0 }) with partcfg := [(0, 0xC020000000000000)] }
  let c : Ctx := cx s
  let es : List Nat := [0]
  let e : Nat := 0
  let s1 : State := gotS (cellRead s c e 4 0x8080001000 16)
  let d : List Dword := gotV (cellRead s c e 4 0x8080001000 16)
  let p := (c.low 0 e).toNat
  let w0 := (d[0]?).getD 0
  let new : List Nat := (List.range (2 ^ (w0.extractLsb' 6 3).toNat)).map ((w0.extractLsb' 0 6).toNat + ·)
  let wins := partWindows s1 p
  FiresOnce s c es e ∧
  c.plot.role = .reeve ∧
  (c.low 0 e).toNat < 64 ∧
  sethashBefore s c p = false ∧
  cellRead s c e 4 (vaOf (c.wide 1 e)) 16 = .ok s1 d ∧
  vaOf (c.wide 1 e) % 128 = 0 ∧
  hashFieldsOk d = true ∧
  (partValid s1 p = true → partQui s1 p = true) ∧
  (w0.getLsbD 63 = true → ∀ n ∈ new, sliceFree s1 p n = true) ∧
  (∀ v ∈ hashVis d, viMovable s1 p v = true) ∧
  ((∃ x ∈ s1.slices, ∃ r ∈ x.2.queue, r.part = p) ∨ ∃ x ∈ wins, x.2.2.sent ≠ 0) := by decide +kernel

theorem wit_Arriving_3 :
  let b := { expect := 3, count := 1, phase := 4, waiters := [] }
  let s : State := withPlot (withK (mapped (at1 0xF4000000 1 [(0, scal 0)]) []) [(0, 0x80001000), (1, 0x80)]) (fun p => { p with barriers := [(0x1000, b)], arrivals := [{ by_ := (0, 5), vi := 0, gen := 0, pa := 0x1000, n := 4 }] })
  let plot : Nat := 0
  let p : Plot := (cx s).plot
  let x : Sig := { by_ := (0, 5), vi := 0, gen := 0, pa := 0x1000, n := 4 }
  let more : List Sig := []
  Tab.at? s.plots plot = some p ∧
  p.arrivals = x :: more ∧
  Tab.has p.barriers x.pa = true := by decide +kernel

theorem wit_BarrierForms_1 :
  let b : Barrier := { expect := 3, count := 1, phase := 4, waiters := [] }
  let s : State := withPlot (withK (mapped (at1 0xF4000000 1 [(0, scal 0)]) []) [(0, 0x80001000), (1, 0x80)]) (fun p => { p with barriers := [(0x1000, b)], arrivals := [{ by_ := (0, 5), vi := 0, gen := 0, pa := 0x1000, n := 4 }] })
  let c : Ctx := cx s
  let es : List Nat := [0]
  let e : Nat := 0
  let pa : Nat := 0x1000
  let n : BitVec 4 := 0
  let s1 : State := (match barrierWay s c 0x8080001000 .write true with | .go x _ => x | _ => s)
  let s2 : State := (releaseFirst s1 c).1
  let s3 : State := (match bindBarrier s2 c 0x8080001000 pa with | .ok (x, _) => x | _ => s)
  let va := vaOf (c.k2 n.toNat)
  FiresOnce s c es e ∧
  barrierWay s c va .write true = .go s1 pa ∧
  releaseFirst s1 c = (s2, false) ∧
  bindBarrier s2 c va pa = .ok (s3, some b) := by decide +kernel

theorem wit_BarrierForms_2 :
  let b : Barrier := { expect := 3, count := 1, phase := 4, waiters := [] }
  let s : State := withPlot (withK (mapped (at1 0xF4000000 1 [(0, scal 0)]) []) [(0, 0x80001000), (1, 0x80)]) (fun p => { p with barriers := [(0x1000, b)], arrivals := [{ by_ := (0, 5), vi := 0, gen := 0, pa := 0x1000, n := 4 }] })
  let c : Ctx := cx s
  let es : List Nat := [0]
  let e : Nat := 0
  let pa : Nat := 0x1000
  let n : BitVec 4 := 0
  let va := vaOf (c.k2 n.toNat)
  let x : Sig := { by_ := (c.f.plot, c.f.cell), vi := c.plot.vi, gen := c.plot.bgen, pa := pa, n := (c.low 0 e).toNat % 2 ^ 16 }
  let s1 : State := (match barrierWay s c 0x8080001000 .write false with | .go x _ => x | _ => s)
  let s2 : State := (releaseFirst s1 c).1
  FiresOnce s c es e ∧
  barrierWay s c va .write false = .go s1 pa ∧
  releaseFirst s1 c = (s2, false) := by decide +kernel

theorem wit_BarrierForms_3 :
  let b : Barrier := { expect := 3, count := 1, phase := 4, waiters := [] }
  let s : State := withPlot (withK (mapped (at1 0xF4000000 1 [(0, scal 4)]) []) [(0, 0x80001000), (1, 0x80)]) (fun p => { p with barriers := [(0x1000, b)], arrivals := [{ by_ := (0, 5), vi := 0, gen := 0, pa := 0x1000, n := 4 }] })
  let c : Ctx := cx s
  let es : List Nat := [0]
  let e : Nat := 0
  let pa : Nat := 0x1000
  let n : BitVec 4 := 0
  let s1 : State := (match barrierWay s c 0x8080001000 .read true with | .go x _ => x | _ => s)
  let s3 : State := (match bindBarrier s1 c 0x8080001000 pa with | .ok (x, _) => x | _ => s)
  let va := vaOf (c.k2 n.toNat)
  FiresOnce s c es e ∧
  barrierWay s c va .read true = .go s1 pa ∧
  bindBarrier s1 c va pa = .ok (s3, some b) ∧
  b.phase = (c.low 0 e).toNat % 2 ^ 16 := by decide +kernel

theorem wit_BarrierForms_4 :
  let b : Barrier := { expect := 3, count := 1, phase := 4, waiters := [] }
  let s : State := withPlot (withK (mapped (at1 0xF4000000 1 [(0, scal 3)]) []) [(0, 0x80001000), (1, 0x80)]) (fun p => { p with barriers := [(0x1000, b)], arrivals := [{ by_ := (0, 5), vi := 0, gen := 0, pa := 0x1000, n := 4 }] })
  let c : Ctx := cx s
  let es : List Nat := [0]
  let e : Nat := 0
  let pa : Nat := 0x1000
  let n : BitVec 4 := 0
  let s1 : State := (match barrierWay s c 0x8080001000 .read true with | .go x _ => x | _ => s)
  let s3 : State := (match bindBarrier s1 c 0x8080001000 pa with | .ok (x, _) => x | _ => s)
  let va := vaOf (c.k2 n.toNat)
  FiresOnce s c es e ∧
  barrierWay s c va .read true = .go s1 pa ∧
  bindBarrier s1 c va pa = .ok (s3, some b) ∧
  b.phase ≠ (c.low 0 e).toNat % 2 ^ 16 := by decide +kernel

theorem wit_Signals_1 :
  let x : Sig := { by_ := (0, 5), vi := 0, gen := 1, pa := 0x1000, n := 2 }
  let rest : List Sig := []
  let s : State := { withPlot (mapped (at1 0xF4000000 1 []) [7]) (fun p => { p with barriers := [], arrivals := [{ by_ := (0, 5), vi := 0, gen := 1, pa := 0x1000, n := 2 }] }) with sigs := [{ by_ := (0, 5), vi := 0, gen := 1, pa := 0x1000, n := 2 }] }
  s.sigs = x :: rest ∧
  x.gen ≠ (viOf s x.vi).bgen := by decide +kernel

theorem wit_Signals_2 :
  let x : Sig := { by_ := (0, 5), vi := 0, gen := 0, pa := 0x1000, n := 2 }
  let rest : List Sig := []
  let s : State := { withPlot (mapped (at1 0xF4000000 1 []) [7]) (fun p => { p with barriers := [(0x1000, { expect := 3, count := 1, phase := 4, waiters := [] })], arrivals := [{ by_ := (0, 5), vi := 0, gen := 0, pa := 0x1000, n := 2 }] }) with sigs := [{ by_ := (0, 5), vi := 0, gen := 0, pa := 0x1000, n := 2 }] }
  let k := 0
  let p := Tab.atD s.plots 0 (plot1 Cell.empty)
  s.sigs = x :: rest ∧
  x.gen = (viOf s x.vi).bgen ∧
  barrierHomes s x.vi x.pa = [(k, p)] ∧
  p.stop ≠ .freeze := by decide +kernel

theorem wit_Signals_3 :
  let x : Sig := { by_ := (0, 5), vi := 0, gen := 0, pa := 0x1000, n := 2 }
  let rest : List Sig := []
  let s : State := { withPlot (mapped (at1 0xF4000000 1 []) [7]) (fun p => { p with barriers := [], arrivals := [{ by_ := (0, 5), vi := 0, gen := 0, pa := 0x1000, n := 2 }] }) with sigs := [{ by_ := (0, 5), vi := 0, gen := 0, pa := 0x1000, n := 2 }] }
  s.sigs = x :: rest ∧
  x.gen = (viOf s x.vi).bgen ∧
  barrierHomes s x.vi x.pa = [] ∧
  barrierImage? s x.vi x.pa = none ∧
  lineReady s hubPort x.vi (x.pa / 128) = true := by decide +kernel

theorem wit_Signals_4 :
  let x : Sig := { by_ := (0, 5), vi := 0, gen := 0, pa := 0x1000, n := 2 }
  let rest : List Sig := []
  let s : State := { withPlot (mapped (at1 0xF4000000 1 []) [7]) (fun p => { p with barriers := [], arrivals := [{ by_ := (0, 5), vi := 0, gen := 0, pa := 0x1000, n := 2 }] }) with sigs := [{ by_ := (0, 5), vi := 0, gen := 0, pa := 0x1000, n := 2 }] }
  let plot := 0
  let p := (cx s).plot
  let y : Sig := x
  let more := []
  s.sigs = x :: rest ∧
  Tab.at? s.plots plot = some p ∧
  p.arrivals = y :: more ∧
  Tab.has p.barriers y.pa = false := by decide +kernel

theorem wit_Staging_1 :
  let s : State := onVi (withPlot (tasked (at1 0 1 []) [0x8080001000, 0x1000000] [(1, { rec0 0 8 false with wsd := 0x8080001000, wsn := 1, open_ := false, bound := none })]) (fun p => { p with running := false, task := none, ports := p.ports ++ [0x8103401D80000000] })) 0 (fun v => { v with squota := 0x100 })
  let k : Nat := 1
  let r : Rec := { rec0 0 8 false with wsd := 0x8080001000, wsn := 1, open_ := false, bound := none }
  let s1 : State := (match currentSet s k r with | .set x _ => x | _ => s)
  let w : WorkSet := (match currentSet s k r with | .set _ x => x | _ => { start := 0, bytes := 0, near := false, frozen := false, area := 0 })
  let v := recVi k
  let units := (w.bytes + 65535) / 65536
  let used := ((viOf s1 v).squota.extractLsb' 32 16).toNat
  let quota := ((viOf s1 v).squota.extractLsb' 0 16).toNat
  Tab.at? s.recs k = some r ∧
  currentSet s k r = .set s1 w ∧
  stageable s k r = true ∧
  (∀ x ∈ stagedBefore s k r, stageable s x.1 x.2 = true → admitted? s x.1 x.2 = none) ∧
  w.near = false ∧
  used + units ≤ quota := by decide +kernel

theorem wit_Staging_2 :
  let s : State := onVi (withPlot (tasked (at1 0 1 []) [0x8080001000, 0x1000000] [(1, { rec0 0 8 false with wsd := 0x8080001000, wsn := 1, open_ := false, bound := none })]) (fun p => { p with running := false, task := none, ports := p.ports ++ [0x8103401D80000000] })) 0 (fun v => { v with squota := 0 })
  let k : Nat := 1
  let r : Rec := { rec0 0 8 false with wsd := 0x8080001000, wsn := 1, open_ := false, bound := none }
  let s1 : State := (match currentSet s k r with | .set x _ => x | _ => s)
  let w : WorkSet := (match currentSet s k r with | .set _ x => x | _ => { start := 0, bytes := 0, near := false, frozen := false, area := 0 })
  let v := recVi k
  let units := (w.bytes + 65535) / 65536
  let used := ((viOf s1 v).squota.extractLsb' 32 16).toNat
  let quota := ((viOf s1 v).squota.extractLsb' 0 16).toNat
  Tab.at? s.recs k = some r ∧
  currentSet s k r = .set s1 w ∧
  stageable s k r = true ∧
  (∀ x ∈ stagedBefore s k r, stageable s x.1 x.2 = true → admitted? s x.1 x.2 = none) ∧
  w.near = false ∧
  quota < used + units := by decide +kernel

theorem wit_Staging_3 :
  let s : State := onVi (withPlot (tasked (at1 0 1 []) [0xC000008080001000, 0x1000000] [(1, { rec0 0 8 false with wsd := 0x8080001000, wsn := 1, open_ := false, bound := none })]) (fun p => { p with running := false, task := none, ports := p.ports ++ [0x8103401D80000000] })) 0 (fun v => { v with squota := 0x100 })
  let k : Nat := 1
  let r : Rec := { rec0 0 8 false with wsd := 0x8080001000, wsn := 1, open_ := false, bound := none }
  let s1 : State := (match currentSet s k r with | .set x _ => x | _ => s)
  let w : WorkSet := (match currentSet s k r with | .set _ x => x | _ => { start := 0, bytes := 0, near := false, frozen := false, area := 0 })
  let key := 0
  Tab.at? s.recs k = some r ∧
  currentSet s k r = .set s1 w ∧
  stageable s k r = true ∧
  (∀ x ∈ stagedBefore s k r, stageable s x.1 x.2 = true → admitted? s x.1 x.2 = none) ∧
  w.near = true ∧
  w.frozen = true ∧
  nearPlot? s1 k r w = some key := by decide +kernel

theorem wit_Staging_4 :
  let s : State := (fun x : State => { x with nets := [(0, { credit := [], turn := .staging (some 0) })] }) (onVi (withPlot (tasked (at1 0 1 []) [0x8080001000, 0x0] [(1, { rec0 0 8 false with wsd := 0x8080001000, wsn := 1, open_ := true, bound := none })]) (fun p => { p with running := false, task := none, ports := p.ports ++ [0x8103401D80000000] })) 0 (fun v => { v with squota := 0x100 }))
  let k : Nat := 1
  let r : Rec := { rec0 0 8 false with wsd := 0x8080001000, wsn := 1, open_ := true, bound := none }
  let s1 : State := (match currentSet s k r with | .set x _ => x | _ => s)
  let w : WorkSet := (match currentSet s k r with | .set _ x => x | _ => { start := 0, bytes := 0, near := false, frozen := false, area := 0 })
  let port := ((stagingPort? s (recDie k) (recVi k)).getD 0)
  let v := recVi k
  Tab.at? s.recs k = some r ∧
  currentSet s k r = .set s1 w ∧
  stagingPort? s (recDie k) v = some port ∧
  r.ready s = true ∧
  r.open_ = true ∧
  firstStaged s k r = true ∧
  stageSlot s (recDie k) v = true ∧
  w.bytes ≤ 128 * r.line := by decide +kernel

theorem wit_Staging_5 :
  let s : State := (fun x : State => onPort x 0 (fun p => { p with tlb := { tlb0 with va := 0, r1 := false } :: p.tlb })) <| (fun x : State => { x with nets := [(0, { credit := [], turn := .staging (some 0) })] }) (onVi (withPlot (tasked (at1 0 1 []) [0x1000, 0x1000000] [(1, { rec0 0 8 false with wsd := 0x8080001000, wsn := 1, open_ := true, bound := none })]) (fun p => { p with running := false, task := none, ports := p.ports ++ [0x8103401D80000000] })) 0 (fun v => { v with squota := 0x100 }))
  let k : Nat := 1
  let r : Rec := { rec0 0 8 false with wsd := 0x8080001000, wsn := 1, open_ := true, bound := none }
  let s1 : State := (match currentSet s k r with | .set x _ => x | _ => s)
  let w : WorkSet := (match currentSet s k r with | .set _ x => x | _ => { start := 0, bytes := 0, near := false, frozen := false, area := 0 })
  let s2 := (match translate s1 (Via.staging 0 0) w.start .read with | .fail x _ => x | _ => s1)
  let why := 2
  let port := ((stagingPort? s (recDie k) (recVi k)).getD 0)
  let v := recVi k
  let va := (w.start + 128 * r.line) % 2 ^ 57
  Tab.at? s.recs k = some r ∧
  currentSet s k r = .set s1 w ∧
  stagingPort? s (recDie k) v = some port ∧
  r.ready s = true ∧
  r.open_ = true ∧
  firstStaged s k r = true ∧
  stageSlot s (recDie k) v = true ∧
  128 * r.line < w.bytes ∧
  translate s1 (Via.staging port v) va .read = .fail s2 (.xlate why) := by decide +kernel

theorem wit_Staging_6 :
  let s : State := (fun x : State => { x with nets := [(0, { credit := [], turn := .staging (some 0) })] }) (onVi (withPlot (tasked (at1 0 1 []) [0x8080001000, 0x1000000] [(1, { rec0 0 8 false with wsd := 0x8080001000, wsn := 1, open_ := true, bound := none })]) (fun p => { p with running := false, task := none, ports := p.ports ++ [0x8103401D80000000] })) 0 (fun v => { v with squota := 0x100 }))
  let k : Nat := 1
  let r : Rec := { rec0 0 8 false with wsd := 0x8080001000, wsn := 1, open_ := true, bound := none }
  let s1 : State := (match currentSet s k r with | .set x _ => x | _ => s)
  let w : WorkSet := (match currentSet s k r with | .set _ x => x | _ => { start := 0, bytes := 0, near := false, frozen := false, area := 0 })
  let s2 := (match translateNow s1 0 w.start .read with | .ok x _ => x | _ => s1)
  let pa := 0x1000
  let port := ((stagingPort? s (recDie k) (recVi k)).getD 0)
  let v := recVi k
  let va := (w.start + 128 * r.line) % 2 ^ 57
  Tab.at? s.recs k = some r ∧
  currentSet s k r = .set s1 w ∧
  stagingPort? s (recDie k) v = some port ∧
  r.ready s = true ∧
  r.open_ = true ∧
  firstStaged s k r = true ∧
  stageSlot s (recDie k) v = true ∧
  128 * r.line < w.bytes ∧
  translate s1 (Via.staging port v) va .read = .ok s2 pa ∧
  paReserved s2 pa = false ∧
  paRemote s2 pa = false ∧
  lineReady s2 port v (pa / 128) = true ∧
  w.near = false := by decide +kernel

theorem wit_Staging_7 :
  let s : State := (fun x : State => { x with nets := [(0, { credit := [], turn := .staging (some 0) })] }) (onVi (withPlot (tasked (at1 0 1 []) [0xC000008080001000, 0x1000000] [(1, { rec0 0 8 false with wsd := 0x8080001000, wsn := 1, open_ := true, bound := some 0 })]) (fun p => { p with running := false, task := none, ports := p.ports ++ [0x8103401D80000000] })) 0 (fun v => { v with squota := 0x100 }))
  let k : Nat := 1
  let r : Rec := { rec0 0 8 false with wsd := 0x8080001000, wsn := 1, open_ := true, bound := some 0 }
  let s1 : State := (match currentSet s k r with | .set x _ => x | _ => s)
  let w : WorkSet := (match currentSet s k r with | .set _ x => x | _ => { start := 0, bytes := 0, near := false, frozen := false, area := 0 })
  let s2 := (match translateNow s1 0 w.start .read with | .ok x _ => x | _ => s1)
  let pa := 0x1000
  let key := 0
  let port := ((stagingPort? s (recDie k) (recVi k)).getD 0)
  let v := recVi k
  let va := (w.start + 128 * r.line) % 2 ^ 57
  Tab.at? s.recs k = some r ∧
  currentSet s k r = .set s1 w ∧
  stagingPort? s (recDie k) v = some port ∧
  r.ready s = true ∧
  r.open_ = true ∧
  firstStaged s k r = true ∧
  stageSlot s (recDie k) v = true ∧
  128 * r.line < w.bytes ∧
  translate s1 (Via.staging port v) va .read = .ok s2 pa ∧
  paReserved s2 pa = false ∧
  paRemote s2 pa = false ∧
  lineReady s2 port v (pa / 128) = true ∧
  w.near = true ∧
  r.bound = some key := by decide +kernel

theorem wit_PageWalks_1 :
  let m : Miss := miss1 0x1000 none false
  let port : Nat := 0
  let s : State := onPort (evicted (at1 0xCC043010 1 [])) 0 (fun q => { q with tlb := [], misses := [miss1 0x1000 none false] })
  let why := 4
  nextWalk? s port = some m ∧
  waitsOnce s port m ∧
  walk s m.who.vi m.va = .error (.xlate why) := by decide +kernel

theorem wit_PageWalks_2 :
  let m : Miss := miss1 0x8080001000 none false
  let port : Nat := 0
  let s : State := onPort (evicted (at1 0xCC043010 1 [])) 0 (fun q => { q with tlb := [], misses := [miss1 0x8080001000 none false] })
  let w := match walk s 0 0x8080001000 with | .ok t => t | _ => { entry := tlb0, tables := [], leaves := [] }
  nextWalk? s port = some m ∧
  waitsOnce s port m ∧
  walk s m.who.vi m.va = .ok w := by decide +kernel

theorem wit_PageWalks_3 :
  let m : Miss := miss1 0x8040003000 none false
  let port : Nat := 0
  let s : State := onPort (evicted (at1 0xCC043010 1 [])) 0 (fun q => { q with tlb := [], misses := [miss1 0x8040003000 none false] })
  let entry := 0x10018
  let pfn := 0x200
  let lg := 12
  nextWalk? s port = some m ∧
  waitsOnce s port m ∧
  walk s m.who.vi m.va = .error (.migrate entry pfn lg) := by decide +kernel

theorem wit_Migration_1 :
  let m : Miss := miss1 0x8040003000 (some (.migrate 0x10018 0x200 12)) false
  let port : Nat := 0
  let frame : Nat := 0x300
  let entry : Nat := 0x10018
  let pfn : Nat := 0x200
  let lg : Nat := 12
  let s : State := onPort (evicted (at1 0xCC043010 1 [])) 0 (fun q => { q with misses := [miss1 0x8040003000 (some (.migrate 0x10018 0x200 12)) false] })
  migrates s port m entry pfn lg ∧
  frameOk s true frame lg = true ∧
  migrationWaits s port none = false := by decide +kernel

theorem wit_Migration_2 :
  let m : Miss := miss1 0x8040003000 (some (.migrate 0x10018 0x200 12)) false
  let port : Nat := 0
  let frame : Nat := 0x10000000
  let entry : Nat := 0x10018
  let pfn : Nat := 0x200
  let lg : Nat := 12
  let s : State := onPort (evicted (at1 0xCC043010 1 [])) 0 (fun q => { q with misses := [miss1 0x8040003000 (some (.migrate 0x10018 0x200 12)) false] })
  let evict := none
  migrates s port m entry pfn lg ∧
  (frameOk s true frame lg = false ∨ migrationWaits s port evict = true) := by decide +kernel

theorem wit_Migration_3 :
  let m : Miss := miss1 0x8040003000 (some (.migrate 0x10018 0x200 12)) false
  let port : Nat := 0
  let frame : Nat := 0x300
  let entry : Nat := 0x10018
  let pfn : Nat := 0x200
  let lg : Nat := 12
  let s : State := { onPort (evicted (at1 0xCC043010 1 [])) 0 (fun q => { q with misses := [miss1 0x8040003000 (some (.migrate 0x10018 0x200 12)) false] }) with cxl0 := 2 ^ 40 }
  let other := 0x10010
  let place := 0x40000001
  migrates s port m entry pfn lg ∧
  frameOk s true frame lg = true ∧
  migrationWaits s port (some (other, place)) = false ∧
  evictable s (m.needs s) other lg = true ∧
  frameOk s false place lg = true := by decide +kernel

theorem wit_NoVictim_3 :
  let v : Nat := 0
  let start : Nat := 0
  let s : State := { onVi (onPort (withPlot (evicted (at1 0xCC043010 1 [])) (fun q => { q with idle := 0 })) 0 (fun q => { q with misses := [miss1 0x8040003000 (some (.migrate 0x10018 0x200 12)) true] })) 0 (fun x => { x with ftstart := some 0, ftimeout := 1 }) with time := 1300 }
  let port := 0
  let m := miss1 0x8040003000 (some (.migrate 0x10018 0x200 12)) true
  let l := []
  let p := (cx s).plot
  let key := 0
  (viOf s v).ftstart = some start ∧
  (viOf s v).ftimeout.toNat * Config.cyclesPerUs ≤ s.time.toNat - start ∧
  victims s v = (port, m) :: l ∧
  m.who.plot = some key ∧
  Tab.at? s.plots key = some p ∧
  p.stop = .none ∧
  p.frozen = false := by decide +kernel

theorem wit_NoVictim_4 :
  let v : Nat := 0
  let start : Nat := 0
  let s : State := { onVi (onPort (withPlot (evicted (at1 0xCC043010 1 [])) (fun q => { q with frozen := true })) 0 (fun q => { q with misses := [miss1 0x8040003000 (some (.migrate 0x10018 0x200 12)) true] })) 0 (fun x => { x with ftstart := some 0, ftimeout := 1 }) with time := 1300 }
  let port := 0
  let m := miss1 0x8040003000 (some (.migrate 0x10018 0x200 12)) true
  let l := []
  let p := (cx s).plot
  let f := Firing.zero
  let key := 0
  (viOf s v).ftstart = some start ∧
  (viOf s v).ftimeout.toNat * Config.cyclesPerUs ≤ s.time.toNat - start ∧
  victims s v = (port, m) :: l ∧
  m.who.plot = some key ∧
  Tab.at? s.plots key = some p ∧
  (p.stop ≠ .none ∨ p.frozen = true) ∧
  cellsStopped key p true = true ∧
  m.who.firing = some f := by decide +kernel

theorem wit_RegistersHold_1 :
  let r : Nat := 0x078
  let w : Dword := 5
  valueOk r w = true ∧
  r ∈ [0x040, 0x041, 0x043, 0x045, 0x04A, 0x04B, 0x04D, 0x050, 0x060, 0x061, 0x062, 0x063, 0x065, 0x066, 0x068, 0x06A, 0x06E,
    0x073, 0x075, 0x077, 0x078] := by decide +kernel

theorem wit_RegistersHold_2 :
  let s : State := State.reset
  let v : Nat := 0
  let n : Nat := 0
  let r : Nat := 0x071
  let w : Dword := 0x30
  let q := Tab.atD (viOf s v).queues n JobQueue.reset
  let size := 2 ^ ((w.extractLsb' 0 4).toNat + 4)
  valueOk r w = true ∧
  r = 0x071 ∧
  (q.tail - q.head).toNat ≤ size := by decide +kernel

theorem wit_RegistersHold_3 :
  let s : State := { State.reset with vis := [(0, { Vi.reset with queues := [(0, { JobQueue.reset with tail := 40 })] })] }
  let v : Nat := 0
  let n : Nat := 0
  let r : Nat := 0x071
  let w : Dword := 0x30
  let q := Tab.atD (viOf s v).queues n JobQueue.reset
  let size := 2 ^ ((w.extractLsb' 0 4).toNat + 4)
  valueOk r w = true ∧
  r = 0x071 ∧
  size < (q.tail - q.head).toNat := by decide +kernel

theorem wit_RegistersHold_4 :
  let r : Nat := 0x049
  let w : Dword := 5
  let k := 2
  k < 64 ∧
  valueOk r w = true := by decide +kernel

theorem wit_RegistersHold_5 :
  let r : Nat := 0x071
  let w : Dword := 0x30
  valueOk r w = true := by decide +kernel

theorem wit_RegistersHold_6 :
  let v : Nat := 0
  let r : Nat := 0x071
  let w : Dword := 0x30
  let u := 1
  valueOk r w = true ∧
  u ≠ v ∧
  r ≠ 0x04F ∧
  r ≠ 0x040 ∧
  r ≠ 0x044 ∧
  r ≠ 0x063 ∧
  r ≠ 0x065 ∧
  r ≠ 0x067 := by decide +kernel

theorem wit_RegistersHold_7 :
  let r : Nat := 0x103
  let w : Dword := 100
  valueOk r w = true ∧
  r ∈ [0x103, 0x104] := by decide +kernel

theorem wit_RegistersHold_8 :
  let s : State := State.reset
  let v : Nat := 0
  let r : Nat := 0x06C
  let w : Dword := 0x3000
  valueOk r w = true ∧
  r = 0x06C ∧
  ((viOf s v).poolmem.map (·.1)).Nodup := by decide +kernel

theorem wit_RegistersHold_9 :
  let s : State := State.reset
  let r : Nat := 0x106
  let w : Dword := 0
  valueOk r w = true ∧
  r ∈ [0x106, 0x107] ∧
  (s.smap.map (·.1)).Nodup := by decide +kernel

theorem wit_TakingTraps_1 :
  let s : State := withPlot (at1 0xF0000000 1 [(0, scal 5)]) (fun q => { q with trap := none, trapNow := false })
  let f : Firing := Firing.zero
  let p : Plot := Tab.atD s.plots 0 (plot1 Cell.empty)
  Tab.at? s.plots f.plot = some p ∧
  p.trap = none := by decide +kernel

theorem wit_TakingTraps_2 :
  let s : State := withPlot (at1 0xF0000000 1 [(0, scal 5)]) (fun q => { q with trap := some { cause := 0x60, tag := 0, info := 5, cell := 0xFFFFFFFF, entries := [], seq := none }, trapNow := true })
  let f : Firing := Firing.zero
  let cause : Cause := .priv
  let tag : Nat := 3
  let info : Dword := 77
  let p : Plot := Tab.atD s.plots 0 (plot1 Cell.empty)
  let r : TrapRec := { cause := 0x60, tag := 0, info := 5, cell := 0xFFFFFFFF, entries := [], seq := none }
  let word := cellWord p f.cell f.bidx f.slot
  Tab.at? s.plots f.plot = some p ∧
  p.trap = some r ∧
  p.trapNow = true ∧
  r.seq = none ∧
  siteBefore word r.cell = true := by decide +kernel

theorem wit_TakingTraps_3 :
  let s : State := withPlot (at1 0xF0000000 1 [(0, scal 5)]) (fun q => { q with trap := some { cause := 0x60, tag := 0, info := 5, cell := 0, entries := [], seq := none }, trapNow := false })
  let f : Firing := Firing.zero
  let cause : Cause := .priv
  let tag : Nat := 3
  let info : Dword := 77
  let p : Plot := Tab.atD s.plots 0 (plot1 Cell.empty)
  let r : TrapRec := { cause := 0x60, tag := 0, info := 5, cell := 0, entries := [], seq := none }
  let word := cellWord p f.cell f.bidx f.slot
  Tab.at? s.plots f.plot = some p ∧
  p.trap = some r ∧
  (p.trapNow = false ∨ r.seq.isSome = true ∨ siteBefore word r.cell = false) := by decide +kernel

theorem wit_TakingTraps_4 :
  let s : State := withPlot (at1 0xF0000000 1 [(0, scal 5)]) (fun q => { q with trap := none, trapNow := false })
  let f : Firing := Firing.zero
  let p : Plot := Tab.atD s.plots 0 (plot1 Cell.empty)
  let k := 1
  Tab.at? s.plots f.plot = some p ∧
  k ≠ f.plot := by decide +kernel

theorem wit_TakingTraps_5 :
  let s : State := withPlot (at1 0xF0000000 1 [(0, scal 5)]) (fun q => { q with trap := none, trapNow := false })
  let f : Firing := Firing.zero
  let p : Plot := Tab.atD s.plots 0 (plot1 Cell.empty)
  Tab.at? s.plots f.plot = some p := by decide +kernel

theorem wit_DoorbellPage_1 :
  let size : Nat := 8
  let off : Nat := 0x121
  (size ≠ 8 ∨ off % 8 ≠ 0 ∨ 0x120 ≤ off) := by decide +kernel

theorem wit_DoorbellPage_2 :
  let q := 3
  q < 16 := by decide +kernel

theorem wit_DoorbellPage_4 :
  let s : State := { State.reset with ready := true }
  let size : Nat := 8
  let off : Nat := 8
  (size = 8 ∧ off % 8 = 0) ∨ s.ready = false := by decide +kernel

theorem wit_DoorbellPage_5 :
  let s : State := { State.reset with ready := true }
  let size : Nat := 8
  let off : Nat := 9
  (size ≠ 8 ∨ off % 8 ≠ 0) ∧
  s.ready = true := by decide +kernel

theorem wit_WindowReads_1 :
  let fn : Nat := 0
  fn = 0 := by decide +kernel

theorem wit_WindowReads_2 :
  let s : State := { State.reset with ready := false, visel := 3 }
  let fn : Nat := 0
  let size : Nat := 8
  let off : Nat := 0x3F00
  (fn ≠ 0 ∨ off ≠ 0x3F08 ∨ size ≠ 8) ∧
  s.ready = false := by decide +kernel

theorem wit_WindowReads_3 :
  let s : State := { State.reset with ready := true, visel := 3 }
  let size : Nat := 8
  let off : Nat := 0x2001
  (size ≠ 8 ∨ off % 8 ≠ 0) ∧
  s.ready = true := by decide +kernel

theorem wit_WindowReads_4 :
  let s : State := { State.reset with ready := true, visel := 3 }
  s.ready = true := by decide +kernel

theorem wit_WindowReads_5 :
  let s : State := { State.reset with ready := true, visel := 3 }
  let fn : Nat := 0
  let off : Nat := 0x2180
  let r := 3
  let n := 0
  let v := if fn = 0 then s.visel.toNat else fn
  let a := dw (2 ^ 59 + v * 2 ^ 50 + (0x040 + r) * 2 ^ 40 + n)
  off = 0x2000 + 128 * r + 8 * n ∧
  r < 60 ∧
  n < 16 ∧
  s.ready = true ∧
  accessWhy? (fn == 0) fn a none = none := by decide +kernel

theorem wit_WindowReads_6 :
  let s : State := { State.reset with ready := true, visel := 3 }
  let fn : Nat := 0
  let off : Nat := 0x3DF8
  let r := 59
  let n := 15
  let why := 2
  let v := if fn = 0 then s.visel.toNat else fn
  let a := dw (2 ^ 59 + v * 2 ^ 50 + (0x040 + r) * 2 ^ 40 + n)
  off = 0x2000 + 128 * r + 8 * n ∧
  r < 60 ∧
  n < 16 ∧
  s.ready = true ∧
  accessWhy? (fn == 0) fn a none = some why := by decide +kernel

theorem wit_WindowReads_7 :
  let fn : Nat := 2
  let off : Nat := 0x3E00
  fn ≠ 0 ∧
  0x3E00 ≤ off ∧
  off % 8 = 0 := by decide +kernel

theorem wit_HostMemory_1 :
  let s : State := { mapped (at1 0 1 []) [7, 9] with ready := false }
  let v : Nat := 0
  ¬readable s v := by decide +kernel

theorem wit_HostMemory_2 :
  let s : State := { mapped (at1 0 1 []) [7, 9] with ready := false }
  let v : Nat := 0
  ¬reachable s v := by decide +kernel

theorem wit_HostMemory_6 :
  let s : State := { mapped (at1 0 1 []) [7, 9] with ready := true }
  let v : Nat := 0
  let off : BitVec 40 := 0x8080001000
  let s1 : State := (match translateNow s 0 off.toNat .read with | .ok yy _ => yy | .fail yy _ => yy | .miss yy => yy)
  let pa : Nat := (match translateNow s 0 off.toNat .read with | .ok _ ad => ad | _ => 0)
  readable s v ∧
  off.toNat % 8 = 0 ∧
  translateNow s v off.toNat .read = .ok s1 pa ∧
  paReserved s1 pa = false ∧
  lineReady s1 hubPort v (pa / 128) = true := by decide +kernel

theorem wit_HostMemory_7 :
  let s : State := { mapped (at1 0 1 []) [7, 9] with ready := true }
  let v : Nat := 0
  let off : BitVec 40 := 0x8080201000
  let s1 : State := (match translateNow s 0 off.toNat .write with | .ok yy _ => yy | .fail yy _ => yy | .miss yy => yy)
  let pa : Nat := (match translateNow s 0 off.toNat .write with | .ok _ ad => ad | _ => 0)
  readable s v ∧
  off.toNat % 8 = 0 ∧
  (viOf s v).busy = false ∧
  translateNow s v off.toNat .write = .ok s1 pa ∧
  paReserved s1 pa = false ∧
  regionOf? (viOf s1 v) off.toNat = none ∧
  lineReady s1 hubPort v (pa / 128) = true := by decide +kernel

theorem wit_HostMemory_8 :
  let s : State := { onVi (mapped (at1 0 1 []) [7, 9]) 0 (fun x => { x with owners := [(0, { port := 0, here := true, plot := 0 })] }) with ready := true }
  let v : Nat := 0
  let off : BitVec 40 := 0x8080001000
  let s1 : State := (match translateNow s 0 off.toNat .write with | .ok yy _ => yy | .fail yy _ => yy | .miss yy => yy)
  let pa : Nat := (match translateNow s 0 off.toNat .write with | .ok _ ad => ad | _ => 0)
  let r := 0
  let o : Owner := { port := 0, here := true, plot := 0 }
  readable s v ∧
  off.toNat % 8 = 0 ∧
  (viOf s v).busy = false ∧
  translateNow s v off.toNat .write = .ok s1 pa ∧
  paReserved s1 pa = false ∧
  regionOf? (viOf s1 v) off.toNat = some r ∧
  Tab.at? (viOf s1 v).owners r = some o ∧
  o.here = true ∧
  lineReady s1 o.port v (pa / 128) = true := by decide +kernel

theorem wit_HostMemory_9 :
  let s : State := { onVi (mapped (at1 0 1 []) [7, 9]) 0 (fun x => { x with owners := [(0, { port := 0, here := false, plot := 0 })] }) with ready := true }
  let v : Nat := 0
  let off : BitVec 40 := 0x8080001000
  let s1 : State := (match translateNow s 0 off.toNat .write with | .ok yy _ => yy | .fail yy _ => yy | .miss yy => yy)
  let pa : Nat := (match translateNow s 0 off.toNat .write with | .ok _ ad => ad | _ => 0)
  let r := 0
  let o : Owner := { port := 0, here := false, plot := 0 }
  readable s v ∧
  off.toNat % 8 = 0 ∧
  (viOf s v).busy = false ∧
  translateNow s v off.toNat .write = .ok s1 pa ∧
  paReserved s1 pa = false ∧
  regionOf? (viOf s1 v) off.toNat = some r ∧
  Tab.at? (viOf s1 v).owners r = some o ∧
  o.here = false := by decide +kernel

theorem wit_HostMemory_10 :
  let s : State := { onSlice (mapped (at1 0 1 []) []) 0 (fun sl => { sl with lines := [dirtyLine 512 [0x10001, 0x10001, 0x18F, 0x10000000018F]] }) with ready := true }
  let v : Nat := 0
  let off : BitVec 40 := 0x8040003000
  let s1 : State := (match translateNow s 0 off.toNat .read with | .ok yy _ => yy | .fail yy _ => yy | .miss yy => yy)
  let pa : Nat := (match translateNow s 0 off.toNat .read with | .ok _ ad => ad | _ => 0)
  readable s v ∧
  off.toNat % 8 = 0 ∧
  translateNow s v off.toNat .read = .ok s1 pa ∧
  paReserved s1 pa = true := by decide +kernel

theorem wit_HostMemory_11 :
  let s : State := { mapped (at1 0 1 []) [7, 9] with ready := true }
  let v : Nat := 0
  let off : BitVec 40 := 0x1000
  let s1 : State := (match translateNow s 0 off.toNat .read with | .ok yy _ => yy | .fail yy _ => yy | .miss yy => yy)
  let why := 4
  readable s v ∧
  off.toNat % 8 = 0 ∧
  translateNow s v off.toNat .read = .fail s1 (.xlate why) := by decide +kernel

theorem wit_HostMemory_12 :
  let s : State := { mapped (at1 0 1 []) [7, 9] with ready := true }
  let v : Nat := 0
  let off : BitVec 40 := 0x1000
  let s1 : State := (match translateNow s 0 off.toNat .write with | .ok yy _ => yy | .fail yy _ => yy | .miss yy => yy)
  let why := 4
  readable s v ∧
  off.toNat % 8 = 0 ∧
  (viOf s v).busy = false ∧
  translateNow s v off.toNat .write = .fail s1 (.xlate why) := by decide +kernel

theorem wit_HostMemory_13 :
  let s : State := { evicted (at1 0 1 []) with ready := true }
  let v : Nat := 0
  let off : BitVec 40 := 0x8040003000
  let s1 : State := (match translateNow s 0 off.toNat .read with | .ok yy _ => yy | .fail yy _ => yy | .miss yy => yy)
  let entry := 0x10018
  let pfn := 0x200
  let lg := 12
  readable s v ∧
  off.toNat % 8 = 0 ∧
  translateNow s v off.toNat .read = .fail s1 (.migrate entry pfn lg) := by decide +kernel

theorem wit_SoftErrors_5 :
  let s : State := named1 0x2003FE18 4 (fold5 [(1, mkHdr 1 1 2 0)]) [(0, elem1 1 9)]
  let plot : Nat := 0
  let sid : Nat := 5
  let slot : Nat := 1
  let p : Plot := Tab.atD s.plots 0 (plot1 Cell.empty)
  let f : Fold := fold5 [(1, mkHdr 1 1 2 0)]
  Tab.at? s.plots plot = some p ∧
  Tab.at? p.folds sid = some f ∧
  f.far = false ∧
  slot < f.slots := by decide +kernel

theorem wit_SoftErrors_6 :
  let s : State := onPlot (named1 0x2003FE18 4 (fold5 [(1, mkHdr 1 1 2 0)]) [(0, elem1 1 9)]) 0 (fun p => onCell p 0 (fun k => { k with array := [{ firing := Firing.zero, reads := [], raws := [(0, 0, 0x100000, 64)], logged := none, kept := [], seed := 0, fault := none, raw := true, dst := 0x100000, bytes := 2048, data := 5, fx := false, toll := 1, macs := 0, occ := 8, left := 8 }] }))
  let plot : Nat := 0
  let key : Nat := 0
  let p : Plot := Tab.atD s.plots 0 (plot1 Cell.empty)
  let j : TileJob := { firing := Firing.zero, reads := [], raws := [(0, 0, 0x100000, 64)], logged := none, kept := [], seed := 0, fault := none, raw := true, dst := 0x100000, bytes := 2048, data := 5, fx := false, toll := 1, macs := 0, occ := 8, left := 8 }
  let c := Tab.atD p.cells 0 Cell.empty
  let role := 0
  let r := 0
  let ref := 0x100000
  let ext := 64
  let off := 32
  Tab.at? s.plots plot = some p ∧
  Tab.at? p.cells key = some c ∧
  c.array = [j] ∧
  j.fault = none ∧
  0 < j.occ ∧
  j.raws = [(role, r, ref, ext)] ∧
  ref.testBit 20 = true ∧
  ref % 2 ^ 18 ≤ off ∧
  off < ref % 2 ^ 18 + ext := by decide +kernel

theorem wit_SoftErrors_7 :
  let s : State := named1 0x2003FE18 4 (fold5 [(1, mkHdr 1 1 2 0)]) [(0, elem1 1 9)]
  let plot : Nat := 0
  let p : Plot := Tab.atD s.plots 0 (plot1 Cell.empty)
  Tab.at? s.plots plot = some p ∧
  p.running = true ∧
  p.withdrawn = false := by decide +kernel

theorem wit_SoftErrors_2 :
  let s : State := mapped (named1 0x2003FE18 4 (fold5 [(1, mkHdr 1 1 2 0)]) [(0, elem1 1 9)]) []
  let plot : Nat := 3
  Tab.at? s.plots plot = none := by decide +kernel

theorem wit_ArrivalsComplete_1 :
  let s : State := routed (at1 0 1 []) 1 (token0 false false) (none)
  let plot : Nat := 0
  let k : Nat := 0
  let p : Plot := Tab.atD s.plots 0 (plot1 Cell.empty)
  let t : Token := token0 false false
  let r : Route := { dst := 1, hops := [1] }
  (atItsCell s plot k p t r ∧
  t.mark = false ∧
  t.eos = false) ∧
  (∀ c, Tab.at? p.cells r.dst = some c → bufferUsed c ≤ 512 - 385) := ⟨by decide +kernel, fun c h => Nat.le_of_ble_eq_true (of_all (g := fun c => (bufferUsed c).ble (512 - 385)) (by decide +kernel) _ c h)⟩

theorem wit_ArrivalsComplete_2 :
  let s : State := routed (at1 0 1 []) 1 (token0 true false) (none)
  let plot : Nat := 0
  let k : Nat := 0
  let p : Plot := Tab.atD s.plots 0 (plot1 Cell.empty)
  let t : Token := token0 true false
  let r : Route := { dst := 1, hops := [1] }
  atItsCell s plot k p t r ∧
  t.mark = false ∧
  t.eos = true := by decide +kernel

theorem wit_ArrivalsComplete_3 :
  let s : State := routed (at1 0 1 []) 1 (token0 false true) (some { start := 0, sent := true, arrived := [], waiter := none })
  let plot : Nat := 0
  let k : Nat := 0
  let p : Plot := Tab.atD s.plots 0 (plot1 Cell.empty)
  let t : Token := token0 false true
  let r : Route := { dst := 1, hops := [1] }
  let w : Wave := { start := 0, sent := true, arrived := [], waiter := none }
  atItsCell s plot k p t r ∧
  t.mark = true ∧
  p.wave = some w := by decide +kernel

theorem wit_EndOfStream :
  let s : State := withPlot (at1 0 1 []) (fun q => { q with eosQ := [{ cell := 0, bidx := 0, slot := 0, port := 1, tag := 3, left := 0 }], cells := [(0, cell1 { blk 0x0903FE28 3 [] (inst 4 []) with insts := [] })] })
  let plot : Nat := 0
  let cell : Nat := 0
  let bidx : Nat := 0
  let slot : Nat := 0
  let port : Nat := 1
  let tag : Nat := 3
  let p : Plot := Tab.atD s.plots 0 (plot1 Cell.empty)
  let b : Block := { blk 0x0903FE28 3 [] (inst 4 []) with insts := [] }
  let here : EosTok := { cell := cell, bidx := bidx, slot := slot, port := port, tag := tag, left := 0 }
  Tab.at? s.plots plot = some p ∧
  here ∈ p.eosQ ∧
  p.frozen = false ∧
  blockAt? p cell bidx = some b ∧
  b.insts = [] ∧
  b.early = [] := by decide +kernel

theorem wit_ArrivalsComplete_4 :
  let s : State := withPlot (at1 0 1 []) (fun q => { q with eosQ := [{ cell := 0, bidx := 0, slot := 0, port := 1, tag := 3, left := 0 }], cells := [(0, cell1 { blk 0x0903FE28 3 [] (inst 4 []) with insts := [] })] })
  let plot : Nat := 0
  let cell := 0
  let bidx := 0
  let slot := 0
  let port := 1
  let tag := 3
  let p : Plot := Tab.atD s.plots 0 (plot1 Cell.empty)
  let x : EosTok := { cell := cell, bidx := bidx, slot := slot, port := port, tag := tag, left := 0 }
  Tab.at? s.plots plot = some p ∧
  p.frozen = false ∧
  x ∈ p.eosQ := by decide +kernel

theorem wit_ArrivalsComplete_5 :
  let s : State := routed (at1 0 1 []) 0 (token0 false false) none
  let plot : Nat := 0
  let k : Nat := 0
  let dir := 0
  let p : Plot := Tab.atD s.plots 0 (plot1 Cell.empty)
  let t : Token := token0 false false
  let site := (0, 0)
  Tab.at? s.plots plot = some p ∧
  p.tokens[k]? = some t ∧
  t.hedge? p = some (site, dir) ∧
  t.meets p = true ∧
  p.frozen = false ∧
  p.stop ≠ .freeze := by decide +kernel

theorem wit_MeshJoins_1 :
  let edge := 2
  let idx := 23
  edge < 4 ∧
  idx < 24 := by decide +kernel

theorem wit_MeshJoins_2 :
  let edge := 3
  let idx := 23
  let n := 1
  n < 2 ∧
  edge < 4 ∧
  idx < 24 := by decide +kernel

theorem wit_MeshJoins_3 :
  let x := 47
  let y := 0
  x < 48 ∧
  y < 48 := by decide +kernel

theorem wit_GenerationCompletes :
  let s : State := withPlot (at1 0 1 []) (fun q => { q with cells := [(0, { cell1 { blk 0 0 [] (inst 4 []) with seq := false, insts := [], next := 1, frames := 2, bounds := [64] } with thread := { bidx := none, exited := false } })] })
  let plot : Nat := 0
  let cell : Nat := 0
  let bidx : Nat := 0
  let p : Plot := Tab.atD s.plots 0 (plot1 Cell.empty)
  let c : Cell := Tab.atD p.cells 0 Cell.empty
  let b : Block := Tab.atD c.blocks 0 (blk 0 0 [] (inst 0 []))
  Tab.at? s.plots plot = some p ∧
  Tab.at? p.cells cell = some c ∧
  Tab.at? c.blocks bidx = some b ∧
  p.live = true ∧
  b.next < runCount b.bounds ∧
  ((b.seq = false ∧ Tab.at? b.insts (b.next % b.frames) = none) ∨
    (b.seq = true ∧ c.thread.bidx = some bidx ∧ c.thread.exited = false ∧ b.insts = [])) := by decide +kernel

theorem wit_LoadName_3 :
  let s : State := onSlice (mapped2 (named1 0x2003FE18 4 { fold5 [] with w0 := 0x005C000020200000, w4 := 0x8080001000 } [(0, elem1 0 9)]) [7] [mkHdr 0 1 2 0]) 0 (fun sl => { sl with lines := sl.lines.map (fun x => if x.1 = 512 then (x.1, { x.2 with poison := true }) else x) })
  let c : Ctx := cx s
  let e : Nat := 0
  let nidx : BitVec 5 := 0
  let x : Named := { f := { fold5 [] with w0 := 0x005C000020200000, w4 := 0x8080001000 }, ord := 0, slot := 0 }
  let s1 : State := okS (getHdr s c x.f x.slot)
  let h : Dword := okV (getHdr s c x.f x.slot)
  let s2 : State := okS (getData s1 c x.f x.slot 4)
  let ty := nameTy (c.name nidx.toNat)
  FiresName s c e ∧
  named? s c e nidx.toNat = some x ∧
  Ok (getHdr s c x.f x.slot) (s1, h) ∧
  delivers h x.ord ∧
  Ok (getData s1 c x.f x.slot (tyWidth ty / 8)) (s2, none) := by decide +kernel

theorem wit_FoldAgain_2 :
  let s : State := mapped (withPlot (withK (named1 0x20000000 1 (fold5 []) []) [(0, 0x80001000), (1, 0x80)]) (fun p => { p with folds := [(5, fold5 [])] })) [0x005C000020200000, 0x0000004000000000, 0x0000004000000000, 0, 0x8080002000]
  let c : Ctx := cx s
  let es : List Nat := [0]
  let e : Nat := 0
  let n : BitVec 4 := 0
  let s1 : State := gotS (foldRecord s c e 0)
  let ws : List Dword := gotV (foldRecord s c e 0)
  let old : Fold := fold5 []
  let s2 : State := s1
  let s3 : State := okT (farPutHdrs s2 c { foldOf ws 0 0 with gen := 1 } [])
  let t : Tab Dword := []
  let f := foldOf ws 0 0
  let next := { f with gen := old.gen + 1 }
  (FiresOnce s c es e ∧
  goodRecord s s1 c e n.toNat ws ∧
  checkFold? s1 (plotNow s1 c) f = none ∧
  Tab.at? (plotNow s1 c).folds f.sid = some old ∧
  Ok (if old.far = true then allHdrs s1 c old else .ok (s1, old.hdrs)) (s2, t) ∧
  (∀ x ∈ t, hdrKept x.2 = false) ∧
  f.far = true ∧
  f.adopt = false) ∧
  Ok (farPutHdrs s2 c next []) s3 := ⟨by decide +kernel, ok_ok (by decide +kernel)⟩

theorem wit_SliceQueue_8 :
  let b : CLine := { data := 5, mask := 1, vi := 0, by_ := [(0, 0)], age := 3, side := none }
  let r : Req := { port := 0, vi := 0, line := 32, part := 0, hgen := 3, owned := false, sent := false, kind := .write 5 1 none [] }
  let rest : List Req := []
  let port : Nat := 0
  let s : State := { State.reset with hmask := [], pcells := [(0, { PCell.reset with nacked := [r], lines := [(32, b)] })], slices := []  }
  (portOf s port).nacked = r :: rest ∧
  isStore r.kind = true ∧
  Tab.at? (portOf s port).lines r.line = some b := by decide +kernel

theorem wit_SliceQueue_9 :
  let r : Req := { port := 0, vi := 0, line := 32, part := 0, hgen := 3, owned := false, sent := false, kind := .write 5 1 none [] }
  let rest : List Req := []
  let port : Nat := 0
  let s : State := { State.reset with hmask := [], pcells := [(0, { PCell.reset with nacked := [r] })], slices := []  }
  (portOf s port).nacked = r :: rest ∧
  isStore r.kind = true ∧
  Tab.at? (portOf s port).lines r.line = none := by decide +kernel

theorem wit_SliceServes_6 :
  let r : Req := { port := 0, vi := 0, line := 32, part := 0, hgen := 0, owned := false, sent := false, kind := .streamWrite 0 0 1 5 1 (some 0) }
  let rest : List Req := []
  let slice : Nat := 0
  let s : State := onSlice (open1 (mapped (at1 0xCC043010 1 [(0, run64 [0x8080001000])]) [7, 9]) { strm 0x8000000000000000 0x4000000000000000 with sent := 1 }) 0 (fun sl => { sl with queue := [r], lines := sl.lines.map (fun x => (x.1, { x.2 with poison := false })) })
  let data := (5 : Line)
  let mask := (1 : BitVec 128)
  let ctx := 0
  let handle := 0
  let n := 1
  let die := (some 0 : Option Nat)
  (sliceOf s slice).queue = r :: rest ∧
  r.kind = .streamWrite ctx handle n data mask die := by decide +kernel

theorem wit_SliceServes_5 :
  let r : Req := { port := 0, vi := 0, line := 32, part := 0, hgen := 0, owned := false, sent := false, kind := .streamRead 0 0 0 }
  let rest : List Req := []
  let slice : Nat := 0
  let s : State := onSlice (open1 (mapped (at1 0xCC043010 1 [(0, run64 [0x8080001000])]) [7, 9]) { strm 0 0x4000000000000000 with asked := 4, slines := [{ ord := 0, count := 4, line := 32, win := none, data := none, left := 4 }] }) 0 (fun sl => { sl with queue := [r], lines := sl.lines.map (fun x => (x.1, { x.2 with poison := false })) })
  let ctx := 0
  let handle := 0
  let ord := 0
  (sliceOf s slice).queue = r :: rest ∧
  r.kind = .streamRead ctx handle ord := by decide +kernel

theorem wit_SliceServes_7 :
  let r : Req := { port := 0, vi := 0, line := 32, part := 0, hgen := 0, owned := false, sent := false, kind := .atomic { firing := Firing.zero, first := 0, elem := 0, va := 0x8080001000 } 0 .n32 .add 3 0 }
  let rest : List Req := []
  let slice : Nat := 0
  let s : State := onSlice (mapped (at1 0xCC043010 1 [(0, run64 [0x8080001000])]) [7, 9]) 0 (fun sl => { sl with queue := [r], lines := sl.lines.map (fun x => (x.1, { x.2 with poison := true })) })
  let rpl := { firing := Firing.zero, first := 0, elem := 0, va := 0x8080001000 }
  let off := 0
  let ty := .n32
  let op := AtomOp.add
  let b := (3 : Dword)
  let c := (0 : Dword)
  let t := onSlice s slice (fun sl => { sl with queue := rest })
  let g := fun (n : Nat) => fetchAt (servedAt slice) t (dieOf? r.port) r.vi r.line n
  let g := g 0
  (sliceOf s slice).queue = r :: rest ∧
  r.kind = .atomic rpl off ty op b c ∧
  atomJob? s rpl = none ∧
  atomType op ty = true ∧
  g.poison = true := by decide +kernel

theorem wit_Coalescer_2 :
  let s : State := State.reset
  let port : Nat := 0
  let line : Nat := 32
  let mask := (1 : BitVec 128)
  Tab.at? (portOf s port).lines line = none ∧
  (portOf s port).lines.length < 64 ∧
  mask ≠ BitVec.allOnes 128 := by decide +kernel

theorem wit_Coalescer_3 :
  let r : Req := { port := 0, vi := 0, line := 32, part := 0, hgen := 0, owned := false, sent := false, kind := .write 5 1 none [] }
  let s : State := State.reset
  let port : Nat := 0
  let line : Nat := 32
  r.port = port ∧
  r.line = line ∧
  Tab.at? (portOf s port).lines line = none ∧
  (portOf s port).lines.length < 64 := by decide +kernel

theorem wit_Coalescer_4 :
  let b : CLine := { data := 5, mask := 1, vi := 0, by_ := [(0, 0)], age := 3, side := none }
  let r : Req := { port := 0, vi := 0, line := 32, part := 0, hgen := 0, owned := false, sent := false, kind := .write 5 1 none [] }
  let s : State := { State.reset with pcells := [(0, { PCell.reset with lines := [(32, b)] })] }
  let port : Nat := 0
  let line : Nat := 32
  r.port = port ∧
  r.line = line ∧
  Tab.at? (portOf s port).lines line = some b ∧
  b.vi = r.vi := by decide +kernel

theorem wit_OwnHandsOver_1 :
  let n : BitVec 4 := 0
  let es : List Nat := [0]
  let e : Nat := 0
  let port : Nat := 0
  let s : State := behind (withPlot (withK (mapped (at1 0xD6000000 1 []) [7, 9]) [(0, 0x100)]) (fun p => { p with ports := 0x0098380000000000 :: p.ports })) 0xCD000000 [(0, run64 [0x8080001000])]
  let c : Ctx := cx s
  let q := 0
  let w := c.k n.toNat
  let region := w.toNat % 256
  let dest := 96 * (w.extractLsb' 15 2).toNat + 24 * (w.extractLsb' 13 2).toNat + (w.extractLsb' 8 5).toNat
  let before := anyEarlier s c (fun d => d.writesMem && d.plot.vi == c.plot.vi && homePort? d.plot d.f.cell == some port)
  FiresOnce s c es e ∧
  homePort? c.plot c.f.cell = some port ∧
  (c.k n.toNat).toNat < 2 ^ 17 ∧
  (∀ h ∈ (portOf s port).tokens, h.firing = c.f → h.sent = true) ∧
  (w.extractLsb' 8 5).toNat < 24 ∧
  Tab.at? (viOf s c.plot.vi).owners region = some { port := port, here := true, plot := c.f.plot } ∧
  grantee? s c.plot.vi dest = some q ∧
  before = true := by decide +kernel

theorem wit_PartitionPrivilege_4 :
  let s : State := behind (withPlot (mapped (at1 0xD8000000 1 [(0, scal 5), (1, run64 [0x8080001000]), (2, scal 0)]) []) (fun plt => { plt with role := .reeve, vi := 0 })) 0xFC000000 [(0, scal 5)]
  let c : Ctx := cx s
  let es : List Nat := [0]
  let e : Nat := 0
  let c1 : Cons := 0x1FF
  let c0 : Cons := 0x010
  let i : Instr := .partWb 0x1FF 0x010
  FiresOnce s c es e ∧
  partForm i = some (c1, c0) ∧
  c.plot.role = .reeve ∧
  (c.low 0 e).toNat < 64 ∧
  sethashBefore s c (c.low 0 e).toNat = true := by decide +kernel

theorem wit_StreamAsks_3 :
  let t : Stream := { strm 0 0x4000000000000000 with windowed := true, desc := [0x2000008080001000, 0x0000030000000004, 0, 0, 0, 0x4000000000000000, 0, 0x0010000000000000], head := 128 }
  let s : State := open1 (mapped (at1 0 1 []) [7, 9]) t
  let port : Nat := 0
  let ctx : Nat := 0
  let s1 : State := (match streamWay s port t t.asked with | .go x _ => x | _ => s)
  let pa : Nat := (match streamWay s port t t.asked with | .go _ p => p | _ => 0)
  let s2 := winS (windowAt s1 port ctx (t.va t.asked) t)
  let off := 0
  let u := Tab.atD (portOf s2 port).ctxs ctx t
  let o := t.asked
  generates s port ctx t ∧
  t.writes = false ∧
  t.ready? = none ∧
  streamWay s port t o = .go s1 pa ∧
  windowAt s1 port ctx (t.va o) t = .at_ s2 off ∧
  Tab.at? (portOf s2 port).ctxs ctx = some u ∧
  Tab.at? u.wlines off = none := by decide +kernel

set_option maxRecDepth 100000 in
theorem wit_StreamAsks_2 :
  let t : Stream := { strm 0 0x4000000000000000 with asked := 1, windowed := true, desc := [0x200000808000107C, 0x0000030000000004, 0, 0, 0, 0x4000000000000000, 0, 0x0007000000000000], head := 128, wlines := [(0, { line := 32, data := 7, side := 0, poison := false, mask := 1, n := 1 })] }
  let s : State := onPort (open1 (mapped (at1 0 1 []) [7, 9]) t) 0 (fun p => { p with out := List.replicate (Config.portRoom + 1) { port := 0, vi := 0, line := 32, part := 0, hgen := 0, owned := false, sent := false, kind := .prefetch } })
  let port : Nat := 0
  let ctx : Nat := 0
  let s1 : State := wayS (streamWay s port t t.asked)
  let pa : Nat := wayP (streamWay s port t t.asked)
  let s2 := s1
  let o := t.asked
  (generates s port ctx t ∧
  t.writes = false ∧
  t.ready? = none) ∧
  streamWay s port t o = .go s1 pa ∧
  windowAt s1 port ctx (t.va o) t = .wait s2 := ⟨by decide +kernel, way_ok (by decide +kernel), window_wait (no_room (r := { port := 0, vi := 0, line := 32, part := 0, hgen := 0, owned := false, sent := false, kind := .prefetch }) rfl) (by decide +kernel)⟩

set_option maxRecDepth 100000 in
theorem wit_StreamStores_3 :
  let t : Stream := { strm 0x8000000000000000 0x4000000000000000 with accepted := 2, next := 1, queue := [(1, (1, .val 77))], windowed := true, desc := [0xA00000808000107C, 0x0000030000000004, 0, 0, 0, 0x4000000000000000, 0, 0x0007000000000000], head := 128, wlines := [(0, { line := 32, data := 7, side := 0, poison := false, mask := 1, n := 1 })] }
  let s : State := onPort (open1 (mapped (at1 0x00000000 1 []) [7, 9]) t) 0 (fun p => { p with out := List.replicate (Config.portRoom + 1) { port := 0, vi := 0, line := 32, part := 0, hgen := 0, owned := false, sent := false, kind := .prefetch } })
  let port : Nat := 0
  let ctx : Nat := 0
  let o : Nat := 1
  let v : Nat := 77
  let near : Memory := []
  let s1 : State := wayS (streamWay { s with ctr := s.ctr + 8 } port t o)
  let pa : Nat := wayP (streamWay { s with ctr := s.ctr + 8 } port t o)
  let s2 := s1
  (generates s port ctx t ∧
  t.writes = true ∧
  t.esz ≠ 64 ∧
  (Tab.at? s.plots t.plot).map (fun p => nearOf p (descScell t.desc)) = some near ∧
  stored t near = some (o, v)) ∧
  streamWay { s with ctr := s.ctr + 8 } port t o = .go s1 pa ∧
  windowAt s1 port ctx (t.va o) t = .wait s2 := ⟨by decide +kernel, way_ok (by decide +kernel), window_wait (no_room (r := { port := 0, vi := 0, line := 32, part := 0, hgen := 0, owned := false, sent := false, kind := .prefetch }) rfl) (by decide +kernel)⟩

theorem wit_StreamBackPressure_1 :
  let t : Stream := { strm 0 0x4000000000000000 with route := 0, desc := [0x2000008080001000, 0x0000030000000004, 0, 0, 0, 0, 0, 0] }
  let s : State := routed (open1 (mapped (at1 0 1 []) [7, 9]) t) 0 (token0 false false) none
  let port : Nat := 0
  let ctx : Nat := 0
  let p : Plot := Tab.atD s.plots 0 (plot1 Cell.empty)
  Tab.at? (portOf s port).ctxs ctx = some t ∧
  Tab.at? s.plots t.plot = some p ∧
  t.writes = false ∧
  t.mode = 0 ∧
  (∃ x ∈ p.tokens, x.route = t.route) := by decide +kernel

theorem wit_StreamBackPressure_2 :
  let t : Stream := { strm 0 0x4000000000000000 with slines := [{ ord := 0, count := 4, line := 32, win := none, data := none, left := 4 }] }
  let s : State := open1 (mapped (at1 0 1 []) [7, 9]) t
  let port : Nat := 0
  let ctx : Nat := 0
  let p : Plot := Tab.atD s.plots 0 (plot1 Cell.empty)
  Tab.at? (portOf s port).ctxs ctx = some t ∧
  Tab.at? s.plots t.plot = some p ∧
  t.writes = false ∧
  (t.depth ≤ t.slines.length ∨ ∃ l ∈ t.slines, l.data = none) := by decide +kernel

theorem wit_GroupBounces_4 :
  let fl : Flight := { msg := msg0, at_ := .down 1024 1024 0, parked := false, tries := 0 }
  let s : State := { (grouped (mapped (at1 0xE2000000 1 [(0, scal 1)]) []) (grp0 [] [(16, node1 1 (-1))] []) (ep0 [] [(0, { gen := 1, midx := 0, ready := 2 })])) with flights := [(0, { msg := msg0, at_ := .down 1024 1024 0, parked := false, tries := 0 })], nextFlight := 1 }
  let k : Nat := 0
  let g : Group := grp0 [] [(16, node1 1 (-1))] []
  let node : Nat := 1024
  let turn : Nat := 1024
  let since : Nat := 0
  let key := fl.msg.group
  let up := parentNode node
  let crossing := fun (x : State) => addToll x (key / 1024) 7 (msgBytes fl.msg)
  let refunded := onGroup s key (fun g => addCountSince g up (childOf node) since 1)
  let s1 := if up = 0 then crossing refunded else refunded
  let g1 := Tab.atD s1.groups 0 (grp0 [] [] [])
  Tab.at? s.flights k = some fl ∧
  Tab.at? s.groups fl.msg.group = some g ∧
  fl.at_ = .down node turn since ∧
  node ≠ 0 ∧
  positiveChild? s g node = none ∧
  fl.tries < 7 ∧
  up ≠ 0 ∧
  Tab.at? s1.groups key = some g1 ∧
  positiveChild? s1 g1 up = none := by decide +kernel

theorem wit_FairShare_2 :
  let s : State := { onVi (withPlot (tasked (at1 0 1 []) [0x0010400000000000] [(1, { rec0 0 8 false with code := 0x8080001000 })]) (fun p => { p with vi := 1, x := 0, y := 0, w := 4, h := 4 })) 0 (fun v => { v with fsdef := 3000 }) with quantum := 2000, vis := [(0, { vi0 with poolmem := [(0, 0x8080008000)], owners := [], fsdef := 3000 }), (1, { Vi.reset with imgmem := 0x8080010002 })] }
  let v := 0
  let k := 1
  let r := { rec0 0 8 false with code := 0x8080001000 }
  let shape := ((shapeOf? s k r).map (fun x => x.1)).getD (plot1 Cell.empty)
  let pin := ((shapeOf? s k r).map (fun x => x.2)).getD none
  s.quantum.toNat % 2 ^ 32 < (viOf s v).fsdef.toNat ∧
  preempting s = false ∧
  oldestWaiting? s v = some (k, r) ∧
  shapeOf? s k r = some (shape, pin) ∧
  makePlace s.plots.length s shape pin ≠ none := by decide +kernel

theorem wit_SystemRegisters_3 :
  let s : State := withPlot (at1 0xF7000000 1 [(0, run64 [0x060000000000]), (1, run64 [5])]) (fun p => { p with role := .handler })
  let c : Ctx := cx s
  let es : List Nat := [0]
  let e : Nat := 0
  let a := c.wide 0 e
  let reg := (a.extractLsb' 40 10).toNat
  FiresOnce s c es e ∧
  a.extractLsb' 59 2 = 0#2 ∧
  plotTarget? s c = none ∧
  reg ≠ 0x00D ∧
  accessWhy? (isVi0 c.plot) c.plot.vi a none = none := by decide +kernel

theorem wit_SystemRegisters_4 :
  let s : State := withPlot (at1 0xF7000000 1 [(0, run64 [0x060000000000]), (1, run64 [0x8000000000000005])]) (fun p => { p with role := .handler })
  let c : Ctx := cx s
  let es : List Nat := [0]
  let e : Nat := 0
  let a := c.wide 0 e
  let w := c.wide 1 e
  FiresOnce s c es e ∧
  a.extractLsb' 59 2 = 0#2 ∧
  plotTarget? s c = none ∧
  accessWhy? (isVi0 c.plot) c.plot.vi a (some w) ∈ [none, some 4] := by decide +kernel

theorem wit_ImageForms_5 :
  let s : State := { (fun x => onPort x 0 (fun p => { p with tlb := { tlb0 with va := 0x8080200000, r1 := false } :: p.tlb })) <| withPlot (withK (mapped2 (at1 0xF8000000 1 [(0, run64 [0xFC0104])]) image0 [0x0224000000000040, 0x100104, 0x8080001000, 0, 0, 0, 0, 0]) [(0, 0x80201080), (1, 0x80)]) (fun q => { q with idle := 0 }) with nextImage := 1 }
  let c : Ctx := cx s
  let es : List Nat := [0]
  let e : Nat := 0
  let n : BitVec 4 := 0
  let cause := .xlate
  let tag := c.tag 0
  let info := infoMem 4 2 0x8080201080
  let w := c.wide 0 e
  let va := vaOf (c.k2 n.toNat)
  FiresOnce s c es e ∧
  mayActOn c w ∧
  cellRead s c e 4 va 8 = .stop (.trap cause tag info) ∧
  onFabric w = false := by decide +kernel

theorem wit_ImageForms_6 :
  let s : State := { (fun x => onPort x 0 (fun p => { p with tlb := { tlb0 with va := 0x8080200000, r1 := false } :: p.tlb })) <| withPlot (withK (mapped2 (at1 0xF8000000 1 [(0, run64 [0x104])]) image0 [0x0224000000000040, 0x100104, 0x8080001000, 0, 0, 0, 0, 0]) [(0, 0x80201080), (1, 0x80)]) (fun q => { q with idle := 0 }) with nextImage := 1 }
  let c : Ctx := cx s
  let es : List Nat := [0]
  let e : Nat := 0
  let n : BitVec 4 := 0
  let cause := .xlate
  let tag := c.tag 0
  let info := infoMem 4 2 0x8080201080
  let w := c.wide 0 e
  let va := vaOf (c.k2 n.toNat)
  FiresOnce s c es e ∧
  mayActOn c w ∧
  cellRead s c e 4 va 8 = .stop (.trap cause tag info) ∧
  onFabric w = true ∧
  (∃ x ∈ s.plots, (wordPlace w).overlaps x.2 = true) := by decide +kernel

theorem wit_ImageForms_7 :
  let s : State := { (fun x => onPort x 0 (fun p => { p with tlb := { tlb0 with va := 0x8080200000, r1 := false } :: p.tlb })) <| withPlot (withK (mapped2 (at1 0xF8000000 1 [(0, run64 [0x100104])]) image0 [0x0224000000000040, 0x100104, 0x8080001000, 0, 0, 0, 0, 0]) [(0, 0x80201080), (1, 0x80)]) (fun q => { q with idle := 0 }) with nextImage := 1 }
  let c : Ctx := cx s
  let es : List Nat := [0]
  let e : Nat := 0
  let n : BitVec 4 := 0
  let cause := .xlate
  let tag := c.tag 0
  let info := infoMem 4 2 0x8080201080
  let w := c.wide 0 e
  let va := vaOf (c.k2 n.toNat)
  FiresOnce s c es e ∧
  mayActOn c w ∧
  cellRead s c e 4 va 8 = .stop (.trap cause tag info) ∧
  onFabric w = true ∧
  (∀ x ∈ s.plots, (wordPlace w).overlaps x.2 = false) := by decide +kernel

theorem wit_ImageForms_8 :
  let s : State := { withPlot (withK (mapped2 (at1 0xF8000000 1 [(0, run64 [0x100103])]) image0 [0x0224000000000040, 0x100104, 0x8080001000, 0, 0, 0, 0, 0]) [(0, 0x80001080), (1, 0x80)]) (fun q => { q with idle := 0 }) with nextImage := 1 }
  let c : Ctx := cx s
  let es : List Nat := [0]
  let e : Nat := 0
  let n : BitVec 4 := 0
  let s1 : State := gotS (cellRead s c e 4 0x8080001080 8)
  let h : List Dword := gotV (cellRead s c e 4 0x8080001080 8)
  let w := c.wide 0 e
  let va := vaOf (c.k2 n.toNat)
  let saved := (h[1]?).getD 0
  FiresOnce s c es e ∧
  mayActOn c w ∧
  cellRead s c e 4 va 8 = .ok s1 h ∧
  rectangleOk w saved = false := by decide +kernel

theorem wit_ImageForms_9 :
  let s : State := { withPlot (withK (mapped2 (at1 0xF8000000 1 [(0, run64 [0x104])]) image0 [0x0224000000000040, 0x100104, 0x8080001000, 0, 0, 0, 0, 0]) [(0, 0x80001080), (1, 0x80)]) (fun q => { q with idle := 0 }) with nextImage := 1 }
  let c : Ctx := cx s
  let es : List Nat := [0]
  let e : Nat := 0
  let n : BitVec 4 := 0
  let s1 : State := gotS (cellRead s c e 4 0x8080001080 8)
  let h : List Dword := gotV (cellRead s c e 4 0x8080001080 8)
  let w := c.wide 0 e
  let va := vaOf (c.k2 n.toNat)
  let saved := (h[1]?).getD 0
  FiresOnce s c es e ∧
  mayActOn c w ∧
  cellRead s c e 4 va 8 = .ok s1 h ∧
  rectangleOk w saved = true ∧
  (∃ x ∈ s.plots, (wordPlace w).overlaps x.2 = true) := by decide +kernel

theorem wit_ImageForms_10 :
  let s : State := { withPlot (withK (mapped2 (at1 0xF8000000 1 [(0, run64 [0x200104])]) (0x0410400000000001 :: image0.drop 1) [0x0224000000000040, 0x100104, 0x8080001000, 0, 0, 0, 0, 0]) [(0, 0x80001080), (1, 0x80)]) (fun q => { q with idle := 0 }) with nextImage := 1 }
  let c : Ctx := cx s
  let es : List Nat := [0]
  let e : Nat := 0
  let n : BitVec 4 := 0
  let s1 : State := gotS (cellRead s c e 4 0x8080001080 8)
  let s2 : State := gotS (cellRead s1 c e 4 0x80800010C0 0)
  let h : List Dword := gotV (cellRead s c e 4 0x8080001080 8)
  let body : List Dword := []
  let s3 := loadS (configure s2 0 .graph none 0x8080001000 0 false (some (8, 0)))
  let cause := loadC (configure s2 0 .graph none 0x8080001000 0 false (some (8, 0)))
  let info := loadW 0 (configure s2 0 .graph none 0x8080001000 0 false (some (8, 0)))
  let cell := loadW 1 (configure s2 0 .graph none 0x8080001000 0 false (some (8, 0)))
  let pw := loadW 2 (configure s2 0 .graph none 0x8080001000 0 false (some (8, 0)))
  let w := c.wide 0 e
  let va := vaOf (c.k2 n.toNat)
  let saved := (h[1]?).getD 0
  FiresOnce s c es e ∧
  mayActOn c w ∧
  va % 64 = 0 ∧
  cellRead s c e 4 va 8 = .ok s1 h ∧
  rectangleOk w saved = true ∧
  (∀ x ∈ s.plots, (wordPlace w).overlaps x.2 = false) ∧
  badImageHead? h = none ∧
  cellRead s1 c e 4 (va + 64) ((((h[0]?).getD 0).extractLsb' 0 48).toNat / 8 - 8) = .ok s2 body ∧
  crc32 body = ((h[4]?).getD 0).setWidth 32 ∧
  configure s2 (w.extractLsb' 32 9).toNat .graph none (((h[2]?).getD 0).extractLsb' 0 57).toNat (w.extractLsb' 24 2).toNat false
    (some ((w.extractLsb' 18 6).toNat, (w.extractLsb' 12 6).toNat)) = .failed s3 cause info cell pw := by decide +kernel

theorem wit_Reductions_1 :
  let s : State := withPlot (at1 0 1 []) (fun q => { q with cells := [(0, cell1 { blk 0x8703FE10 1 [] (inst 4 []) with eos := [(0, 2)], reds := [(0, { window := [(2, .val 5)], next := 2, acc := none, scan := [], due := [], left := 0 })] })] })
  let plot : Nat := 0
  let cell : Nat := 0
  let bidx : Nat := 0
  let slot : Nat := 0
  let p : Plot := Tab.atD s.plots 0 (plot1 Cell.empty)
  let b : Block := (blockAt? p 0 0).getD (blk 0 0 [] (inst 0 []))
  let f : RedForm := (redAt? b 0).getD { op := .add, scan := false, row := false, satq := false, ty := .n32, c1 := 0, c0 := 0 }
  let r := Tab.atD b.reds slot Red.zero
  Tab.at? s.plots plot = some p ∧
  blockAt? p cell bidx = some b ∧
  redAt? b slot = some f ∧
  belowEos r.next (eosOfA b slot) = false := by decide +kernel

theorem wit_Reversing_5 :
  let r : Reversal := { firing := Firing.zero, run := 0, recs := [0, 32], done := [], next := none, left := 0, srseed := 0 }
  let s : State := onPort (onPlot (logged 0xC3000000 [] 64 32 0x5000000000000000 (zeroRec 0 1 ++ zeroRec 1 2)) 0 (fun p => { onInst p 0 0 0 (fun i => { i with issued := [(0, 1)], held := [(1, 1)] }) with rev := some r })) 0 (fun p => { p with watches := [{ plot := 0, line := 5, hit := true }] })
  let plot : Nat := 0
  let p : Plot := (cx s).plot
  let c : Ctx := cx s
  let seg : List LogRec := (match readRecs s c p r.recs with | .ok l => l | .error _ => [])
  let q : LogRec := (nextRecord? p (seg.filter (fun q => !r.done.contains q.off))).getD { off := 0, w0 := 0, w1 := 0, w2 := 0, w3 := 0 }
  let due := fun (w : Watch) => w.plot == plot && w.hit;
  (Tab.at? s.plots plot = some p ∧
  p.rev = some r ∧
  ctxIn? p r.firing = some c ∧
  c.inst.run = r.run ∧
  Tab.atD c.inst.issued c.f.slot 0 ≠ 0 ∧
  readRecs s c p r.recs = .ok seg ∧
  nextRecord? p (seg.filter (fun q => !r.done.contains q.off)) = some q) ∧
  (∃ k pc, (k, pc) ∈ s.pcells ∧ pc.watches.any due = true) := ⟨by decide +kernel, ⟨0, _, List.mem_cons_self, by decide +kernel⟩⟩

theorem wit_Configuring_3 :
  let s : State := { tasked (at1 0 1 []) image0 [(1, { rec0 0 8 false with code := 0x1000 })] with plots := [] }
  let k : Nat := 1
  let r : Rec := { rec0 0 8 false with code := 0x1000 }
  let s1 : State := loadS (configure s 0 .graph (some 0) 0x1000 0 true none)
  let cause := loadC (configure s 0 .graph (some 0) 0x1000 0 true none)
  let info := loadW 0 (configure s 0 .graph (some 0) 0x1000 0 true none)
  let cell := loadW 1 (configure s 0 .graph (some 0) 0x1000 0 true none)
  let pw := loadW 2 (configure s 0 .graph (some 0) 0x1000 0 true none)
  let queue := (Tab.at? s.jobs r.job).map (·.queue)
  let result := configure s (recVi k) .graph queue r.code (recDie k) r.image.isNone none
  let failed := failJob s1 r.job (causeCode cause)
  let waits := ∃ x, Tab.at? failed.recs k = some x ∧ x.running = false
  wantsPlot s k = true ∧
  Tab.at? s.recs k = some r ∧
  result = .failed s1 cause info cell pw ∧
  Tab.at? s1.recs k = some r ∧
  ¬waits := by decide +kernel

theorem wit_Configuring_2 :
  let s : State := { tasked (at1 0 1 []) image0 [(1, { rec0 0 8 false with code := 0x1000, image := some 0 })] with plots := [], jobs := [(0, { job0 with cause := some 3 })], images := [(0, { kind := 1, key := 7, live := true, plot := { plot1 Cell.empty with code := 0x1000 }, streams := [], task := none, va := none, bytes := 64, body := 0 })], nextImage := 1 }
  let k : Nat := 1
  let r : Rec := { rec0 0 8 false with code := 0x1000, image := some 0 }
  let s1 : State := loadS (configure s 0 .graph (some 0) 0x1000 0 false none)
  let cause := loadC (configure s 0 .graph (some 0) 0x1000 0 false none)
  let info := loadW 0 (configure s 0 .graph (some 0) 0x1000 0 false none)
  let cell := loadW 1 (configure s 0 .graph (some 0) 0x1000 0 false none)
  let pw := loadW 2 (configure s 0 .graph (some 0) 0x1000 0 false none)
  let queue := (Tab.at? s.jobs r.job).map (·.queue)
  let result := configure s (recVi k) .graph queue r.code (recDie k) r.image.isNone none
  let failed := failJob s1 r.job (causeCode cause)
  let waits := ∃ x, Tab.at? failed.recs k = some x ∧ x.running = false
  wantsPlot s k = true ∧
  Tab.at? s.recs k = some r ∧
  result = .failed s1 cause info cell pw ∧
  Tab.at? s1.recs k = some r ∧
  waits := by decide +kernel

theorem wit_RegisterWindow_5 :
  let s : State := { mapped (at1 0 1 []) [7, 9] with ready := true, visel := 3 }
  let fn : Nat := 0
  let size := 4
  reachable s fn ∧
  size ≠ 8 := by decide +kernel

theorem wit_HostMemory_3 :
  let s : State := { mapped (at1 0 1 []) [7, 9] with ready := true }
  let v : Nat := 0
  let off : BitVec 40 := 0x8080001000
  let size := 4
  (size ≠ 8 ∨ off.toNat % 8 ≠ 0) ∧
  readable s v := by decide +kernel

theorem wit_HostMemory_4 :
  let off : BitVec 40 := 0x8080001000
  let size := 4
  (size ≠ 8 ∨ off.toNat % 8 ≠ 0) := by decide +kernel

theorem wit_Interrupts_3 :
  let s : State := onVi State.reset 2 (fun v => { v with ipend := 1, iorder := [], msix := 0, imask := 0 })
  let v : Nat := 2
  let k : Nat := 63
  let vi := viOf s v
  v < 512 ∧
  k < 64 ∧
  vi.ipend.getLsbD k = false := by decide +kernel

theorem wit_Interrupts_6 :
  let v : Nat := 2
  let k : Nat := 63
  v < 512 ∧
  k < 64 := by decide +kernel

theorem wit_Resets_3 :
  let s : State := { onVi (mapped (at1 0 1 []) [7, 9]) 3 (fun x => { x with busy := true, queues := [(0, { JobQueue.reset with base := 0x8080001010 })] }) with ready := true, visel := 3 }
  let v : Nat := 3
  v < 512 ∧
  v ≠ 0 ∧
  (viOf s v).busy = true := by decide +kernel

theorem wit_Resets_5 :
  let v : Nat := 3
  v < 512 ∧
  v ≠ 0 := by decide +kernel

theorem wit_Resets_6 :
  let s : State := { tasked (at1 0 1 []) [7, 9] [(1, rec0 0 8 false)] with ready := true, jobs := [(0, { job0 with vi := 0 })] }
  let v : Nat := 3
  let k := 1
  let r := rec0 0 8 false
  let t := beginReset s v
  v < 512 ∧
  v ≠ 0 ∧
  (k, r) ∈ t.recs := by decide +kernel

theorem wit_Resets_7 :
  let s : State := { tasked (at1 0 1 []) [7, 9] [(1, rec0 0 8 false)] with ready := true, jobs := [(0, { job0 with vi := 0 })] }
  let v : Nat := 3
  let k := 0
  let j := job0
  let t := beginReset s v
  v < 512 ∧
  v ≠ 0 ∧
  (k, j) ∈ t.jobs := by decide +kernel

theorem wit_Resets_8 :
  let s : State := withPlot (mapped (at1 0 1 []) [7, 9]) (fun p => { p with vi := 3 })
  let v : Nat := 3
  let k := 0
  let p := { plot1 (cell1 (blk 0 0 [] (inst 1 []))) with vi := 3, frozen := true }
  let t := beginReset s v
  v < 512 ∧
  v ≠ 0 ∧
  (k, p) ∈ t.plots ∧
  p.vi = v := by decide +kernel

theorem wit_Resets_9 :
  let s : State := onVi (mapped (at1 0 1 []) [7, 9]) 3 (fun x => { x with queues := [(0, { JobQueue.reset with base := 0x8080001010 })] })
  let v : Nat := 3
  let q := 0
  let j := Tab.atD (viOf (beginReset s 3) 3).queues 0 JobQueue.reset
  let t := beginReset s v
  v < 512 ∧
  v ≠ 0 ∧
  (q, j) ∈ (viOf t v).queues := by decide +kernel

theorem wit_Resets_10 :
  let s : State := { mapped (at1 0 1 []) [7, 9] with ready := true }
  (∀ x ∈ s.vis, x.2.busy = false) := by decide +kernel

theorem wit_Resets_11 :
  let s : State := { mapped (at1 0 1 []) [7, 9] with ready := true, vis := [(3, { vi0 with busy := true })] }
  let v : Nat := 3
  let x := { vi0 with busy := true }
  s.vis = [(v, x)] ∧
  x.busy = true := by decide +kernel

theorem wit_SoftErrors_4 :
  let s : State := onSlice (mapped2 (named1 0x2003FE18 4 { fold5 [] with w0 := 0x005C000020200000, w4 := 0x8080001000 } [(0, elem1 0 9)]) [7] [mkHdr 0 1 2 0]) 0 (fun sl => sl)
  let plot : Nat := 0
  let sid : Nat := 5
  let slot : Nat := 0
  let p : Plot := Tab.atD s.plots 0 (plot1 Cell.empty)
  let f : Fold := { fold5 [] with w0 := 0x005C000020200000, w4 := 0x8080001000 }
  let s1 := (match hubRead s p.vi (f.hdrAt slot) 1 with | .ok x _ => x | _ => s)
  let h := mkHdr 0 1 2 0
  let s2 := (hubStore? s1 p.vi (f.hdrAt slot) [poisonHdr h]).getD s
  Tab.at? s.plots plot = some p ∧
  Tab.at? p.folds sid = some f ∧
  f.far = true ∧
  slot < f.slots ∧
  (∀ c ∈ p.cells, c.2.array = []) ∧
  hubRead s p.vi (f.hdrAt slot) 1 = .ok s1 [h] ∧
  hubStore? s1 p.vi (f.hdrAt slot) [poisonHdr h] = some s2 := by decide +kernel

theorem wit_SoftErrors_3 :
  let s : State := { tasked (at1 0 1 []) image0 [] with plots := [(0, { plot1 Cell.empty with code := 0x8080001000 }), (1, { plot1 Cell.empty with w := 48, h := 48, vi := 1 })] }
  let plot : Nat := 0
  let p : Plot := { plot1 Cell.empty with code := 0x8080001000 }
  let queue := none
  Tab.at? s.plots plot = some p ∧
  queue = ((recOf? s p).bind (fun x => Tab.at? s.jobs x.2.job)).map (·.queue) ∧
  configure (dropOwners { s with plots := Tab.del s.plots plot } plot p.vi) p.vi p.role queue p.code p.die false (some (p.x, p.y)) = .wait := by decide +kernel

theorem wit_Delivering_3 :
  let d : Deliver := { left := 1, bidx := 0, first := 0, out := [] }
  let k : Cell := { cell1 (blk 0x0003FFFF 0 [] (inst 1 [])) with pend := [d] }
  let p : Plot := plot1 { cell1 (blk 0x0003FFFF 0 [] (inst 1 [])) with pend := [d] }
  let cell : Nat := 0
  p.cells = [(cell, k)] ∧
  k.pend = [d] ∧
  d.left ≤ 1 := by decide +kernel

theorem wit_Delivering_2 :
  let d := { left := 3, bidx := 0, first := 0, out := [] }
  let k : Cell := { cell1 (blk 0x0003FFFF 0 [] (inst 1 [])) with pend := [d] }
  let p : Plot := plot1 { cell1 (blk 0x0003FFFF 0 [] (inst 1 [])) with pend := [d] }
  let cell : Nat := 0
  p.cells = [(cell, k)] ∧
  (∀ d ∈ k.pend, 1 < d.left) := by decide +kernel

theorem wit_MemoryStores_5 :
  let s : State := { State.reset with mem := words 0x1000 [7] }
  Memory.wf s.mem = true := by decide +kernel

theorem wit_ResetValues_3 :
  let p := 4
  4 ≤ p := by decide +kernel

theorem wit_StepRunsDecoded_6 :
  let s : State := { at1 0x0003FFFF 1 [] with power := true, agenda := [.nop] }
  let i : Instr := .nop
  let rest : List Instr := []
  s.power = true ∧
  s.issue = none ∧
  s.retry = [] ∧
  s.agenda = i :: rest ∧
  outsideWaits s i = false ∧
  isForm i = true := by decide +kernel

theorem wit_StepRunsDecoded_7 :
  let s : State := { at1 0x0003FFFF 1 [] with power := true, agenda := [.hostMemoryAccess 0 0x8080001000 none, .vireset 3 0], hostQ := [(0, 0x8080002000, none)] }
  let i : Instr := .hostMemoryAccess 0 0x8080001000 none
  let j : Instr := .vireset 3 0
  let rest : List Instr := []
  s.power = true ∧
  s.issue = none ∧
  s.retry = [] ∧
  s.agenda = i :: j :: rest ∧
  outsideWaits s i = true ∧
  outsideWaits s j = false ∧
  isForm j = false := by decide +kernel

end Sys2Proof.Tests
end

section
/-!
PROOFS. The forms that route data: MERGE, OUT and the shuffles, and what the mesh joins.
-/
namespace Sys2Proof.Machine
open Sys2Proof.Claim

/-! ### Comparisons -/

/-- The Boolean comparisons of the model as the decisions of the statements. -/
theorem ble_eq_decide (m n : Nat) : m.ble n = decide (m ≤ n) := by rw [Bool.eq_iff_iff, Nat.ble_eq, decide_eq_true_iff]

theorem blt_eq_decide (m n : Nat) : m.blt n = decide (m < n) := ble_eq_decide (m + 1) n

/-! ### Emission -/

/-- The kinds in which a choice between operands is sent are those of the statements. -/
theorem passKind_eq_sentKind (k : Kind) : passKind k = sentKind k := by cases k <;> rfl

/-- Two deliveries of elements apart, in one list. -/
theorem apart_append (l r : List Emit) : apart (l ++ r) = apart l ++ apart r := List.map_append

/-- An element listed with its value is found under its index. -/
theorem find?_indexed {α : Type} {l : List Nat} {e : Nat} (g : Nat → α) (h : e ∈ l) :
    (l.map (fun x => (x, g x))).find? (fun p => p.1 == e) = some (e, g e) := by
  induction l with
  | nil => simp at h
  | cons x l ih =>
    by_cases hx : x = e
    · simp [hx]
    · have he : e ∈ l := (List.mem_cons.mp h).resolve_left (Ne.symm hx)
      simpa [hx] using ih he

/-! ### MERGE (R132) -/

/-- Whether MERGE takes an element from its port a. -/
def takesA (c : Ctx) (e : Nat) : Bool := c.elem? 0 e != some .null

/-- Where a is not null, MERGE passes a. -/
theorem passElems_takesA (c : Ctx) (es : List Nat) :
    passElems c 0 (es.filter (takesA c)) = (es.filter (takesA c)).map (fun e => (e, mergeElem c e)) := by
  refine List.map_congr_left fun e he => ?_
  have ha : takesA c e = true := List.of_mem_filter he
  cases h : c.elem? 0 e with
  | none => simp [mergeElem, h]
  | some x =>
    cases x with
    | null => simp [takesA, h] at ha
    | val v => simp [mergeElem, h]

/-- Where a is null, MERGE passes b. -/
theorem passElems_not_takesA (c : Ctx) (es : List Nat) :
    passElems c 1 (es.filter (fun e => !takesA c e)) = (es.filter (fun e => !takesA c e)).map (fun e => (e, mergeElem c e)) := by
  refine List.map_congr_left fun e he => ?_
  have hb : c.elem? 0 e = some .null := by simpa [takesA] using List.of_mem_filter he
  simp [mergeElem, hb]

/-- What MERGE sends: one delivery of all elements where the kinds of its operands agree, else one of each operand's. -/
theorem bothSides_merge (c : Ctx) (c1 c0 : Cons) (es : List Nat) :
    bothSides c c1 c0 (passElems c 0 (es.filter (takesA c))) (passElems c 1 (es.filter (fun e => !takesA c e))) es =
      apart (if sentKind (c.kind 0) = sentKind (c.kind 1) then both c1 c0 (sentKind (c.kind 0)) (es.map (fun e => (e, mergeElem c e)))
        else both c1 c0 (sentKind (c.kind 0)) ((es.filter (takesA c)).map (fun e => (e, mergeElem c e))) ++
          both c1 c0 (sentKind (c.kind 1)) ((es.filter (fun e => !takesA c e)).map (fun e => (e, mergeElem c e)))) := by
  rw [passElems_takesA, passElems_not_takesA]
  unfold bothSides
  simp only [passKind_eq_sentKind, Bool.cond_eq_ite, beq_iff_eq]
  split
  · have hall : es.map (fun e => (e, (((es.filter (takesA c)).map (fun e => (e, mergeElem c e)) ++
        (es.filter (fun e => !takesA c e)).map (fun e => (e, mergeElem c e))).find? (fun p => p.1 == e)).map (·.2) |>.getD .null)) =
        es.map (fun e => (e, mergeElem c e)) := by
      refine List.map_congr_left fun e he => ?_
      have hm : e ∈ es.filter (takesA c) ++ es.filter (fun e => !takesA c e) := by
        cases h : takesA c e <;> simp [he, h]
      rw [← List.map_append, find?_indexed (mergeElem c) hm]; rfl
    rw [hall]; rfl
  · rw [apart_append]; rfl

/-- A firing of MERGE: what it sends, and the elements of b that find an a. -/
theorem execMerge_next {s : State} {c : Ctx} {es : List Nat} (c1 c0 : Cons) (h : FiresAll s c es) :
    execMerge c1 c0 s = .next (onPlot
      (complete s c 2 es (bothSides c c1 c0 (passElems c 0 (es.filter (takesA c))) (passElems c 1 (es.filter (fun e => !takesA c e))) es)) c.f.plot
      (fun p => (es.filter (fun e => takesA c e && c.elem? 1 e != some .null)).foldl
        (fun p e => dropElems p c.f.cell c.f.bidx c.f.slot 1 (c.tag e) 1 5) p)) := by
  obtain ⟨hc, he, hn⟩ := h
  unfold execMerge
  simp only [hc, he]
  cases es with
  | nil => exact absurd rfl hn
  | cons e es => rfl

theorem merge_says : Sys2Proof.Says.Merge := by
  intro s c es c1 c0 h clash drops left right
  have hnot : (fun e => !takesA c e) = (fun e => c.elem? 0 e == some .null) := by
    funext e; rw [takesA, bne, Bool.not_not]
  calc exec (.merge c1 c0) s = execMerge c1 c0 s := rfl
    _ = _ := by rw [execMerge_next c1 c0 h, bothSides_merge, hnot]; rfl

/-! ### OUT (R134) -/

/-- The tokens of a firing of OUT are those of the statement. -/
theorem tokensOf_eq_outTokens (c : Ctx) (route : BitVec 6) (bidx : BitVec 4) (c0 : Cons) (es : List Nat) :
    tokensOf c route.toNat bidx.toNat c0 es = outTokens c route bidx c0 es := by
  simp only [tokensOf, outTokens, Bool.cond_eq_ite, beq_iff_eq, blt_eq_decide, ble_eq_decide]

theorem out_says : Sys2Proof.Says.Out := by
  rintro s c es route bidx c0 ⟨hc, he, hn⟩
  change execOut route bidx c0 s = _
  unfold execOut
  simp only [hc, he, tokensOf_eq_outTokens]
  cases es with
  | nil => exact absurd rfl hn
  | cons e es =>
    by_cases ht : ∀ t ∈ outTokens c route bidx c0 (e :: es), canInject c.plot t = true
    · rw [if_neg (by simpa using ht), if_pos ht]
    · rw [if_pos (by simpa using ht), if_neg ht]

/-! ### Shuffles (R199, R200) -/

/-- What a source of an output position sends. -/
def srcElem (c : Ctx) (w64 : Bool) : Src → Elem
  | .elem i => match c.elem? 0 i with
    | some (.val _) => Elem.val (bif w64 then c.wide 0 i else zx32 (c.low 0 i))
    | _ => .null
  | .zero => .val 0
  | .null => .null

/-- A firing of a shuffle: each position sends its source. -/
theorem fireShuffle_next {s : State} {c : Ctx} {es : List Nat} {w64 : Bool} {c1 c0 : Cons} {src : Ctx → Nat → Src} {f : Nat → Elem}
    (hc : ctxOf? s s.cur = some c) (he : readyWhole c.blk c.inst c.f.slot = es) (hn : es ≠ []) (hf : ∀ e, srcElem c w64 (src c e) = f e) :
    fireShuffle w64 c1 c0 src s =
      .next (complete s c 2 es (both c1 c0 (if w64 = true then .r64 else .r32) (es.map (fun e => (e, f e))))) := by
  obtain rfl : (fun e => srcElem c w64 (src c e)) = f := funext hf
  unfold fireShuffle
  simp only [hc, he]
  cases es with
  | nil => exact absurd rfl hn
  | cons e es => cases w64 <;> rfl

/-- An element of a at the width of a shuffle (R168, R200). -/
def sentElem (c : Ctx) (w64 : Bool) (j : Nat) : Elem :=
  match c.elem? 0 j with
  | some (.val v) => Elem.val (if w64 = true then (if (c.kind 0).wide = true then v else (v.setWidth 32).setWidth 64) else (v.setWidth 32).setWidth 64)
  | _ => Elem.null

/-- The low half of a 64-bit word, zero-extended. -/
theorem dw_low32 (v : Dword) : dw (v.toNat % 2 ^ 32) = (v.setWidth 32).setWidth 64 := by
  apply BitVec.eq_of_toNat_eq
  simp

/-- A position whose source is an element sends that element. -/
@[simp] theorem srcElem_elem (c : Ctx) (w64 : Bool) (j : Nat) : srcElem c w64 (.elem j) = sentElem c w64 j := by
  rcases h : c.elem? 0 j with _ | _ | v
  · simp only [srcElem, sentElem, h]
  · simp only [srcElem, sentElem, h]
  · have hlow : zx32 (c.low 0 j) = (v.setWidth 32).setWidth 64 := by
      rw [← dw_low32]; simp [zx32, Ctx.low, Ctx.val, h, lo32]
    have hwide : c.wide 0 j = if (c.kind 0).wide = true then v else (v.setWidth 32).setWidth 64 := by
      rw [← dw_low32]; simp [Ctx.wide, widen, Ctx.val, h, Bool.cond_eq_ite]
    simp only [srcElem, sentElem, h, hlow, hwide, Bool.cond_eq_ite]

/-- A source that is an element where the run has it sends that element, and 0 beyond the run. -/
theorem srcElem_within (c : Ctx) (w64 : Bool) (j : Nat) :
    srcElem c w64 (bif c.inst.len.ble j then .zero else .elem j) = if j < c.inst.len then sentElem c w64 j else .val 0 := by
  rw [ble_eq_decide]
  by_cases h : j < c.inst.len
  · simp [h, Nat.not_le.mpr h]
  · simp [h, Nat.not_lt.mp h, srcElem]

/-- A source that is an entry of a list of elements sends that element, and null beyond the list. -/
theorem srcElem_entry (c : Ctx) (w64 : Bool) (l : List Nat) (e : Nat) :
    srcElem c w64 (match l[e]? with | some i => .elem i | none => .null) =
      match l[e]? with
      | some j => sentElem c w64 j
      | none => .null := by
  cases l[e]? with
  | none => rfl
  | some j => exact srcElem_elem c w64 j

/-- A source that is an element under a condition sends that element, or null. -/
theorem srcElem_cond (c : Ctx) (w64 b : Bool) (j : Nat) :
    srcElem c w64 (bif b then .elem j else .null) = if b = true then sentElem c w64 j else .null := by
  cases b with
  | false => rfl
  | true => exact srcElem_elem c w64 j

/-- Whether the predicate of an element is a value other than 0 (R200). -/
def predOf (c : Ctx) (j : Nat) : Bool :=
  match c.elem? 3 j with
  | some (.val v) => decide (v ≠ 0)
  | _ => false

theorem predTrue_eq_predOf (c : Ctx) : predTrue c = predOf c := by
  funext j
  unfold predTrue predOf
  rcases c.elem? 3 j with _ | _ | v
  · rfl
  · rfl
  · exact (decide_not (p := v = 0)).symm

/-- The forms that shuffle. -/
theorem shuffleForm_eq_some {i : Instr} {w64 : Bool} {c1 c0 : Cons} (h : shuffleForm i = some (w64, c1, c0)) :
    (∃ n, i = .perm n w64 c1 c0) ∨ (∃ n, i = .lrot n w64 c1 c0) ∨ (∃ n, i = .bcast n w64 c1 c0) ∨
      (∃ n, i = .compress n w64 c1 c0) ∨ ∃ n, i = .expand n w64 c1 c0 := by
  unfold shuffleForm at h
  split at h <;> simp_all

/-- Each shuffle sends the statement's element of each output position. -/
theorem shuffles_say : Sys2Proof.Says.Shuffles := by
  intro i s c es w64 c1 c0 f hi hc he hn hf
  have hp : predTrue c = predOf c := predTrue_eq_predOf c
  obtain ⟨n, rfl⟩ | ⟨n, rfl⟩ | ⟨n, rfl⟩ | ⟨n, rfl⟩ | ⟨n, rfl⟩ := shuffleForm_eq_some hi
  · refine (fireShuffle_next hc he hn fun e => Option.some.inj (Eq.trans ?_ (hf e)) : execPerm n w64 c1 c0 s = _)
    rcases h : c.elem? 1 e with _ | _ | v
    · simp only [shuffleElem, srcElem, h]
    · simp only [shuffleElem, srcElem, h]
    · simp only [shuffleElem, h]
      exact congrArg some (srcElem_within c w64 _)
  · refine (fireShuffle_next hc he hn fun e => Option.some.inj (Eq.trans ?_ (hf e)) : execLrot n w64 c1 c0 s = _)
    exact congrArg some (srcElem_elem c w64 _)
  · refine (fireShuffle_next hc he hn fun e => Option.some.inj (Eq.trans ?_ (hf e)) : execBcast n w64 c1 c0 s = _)
    exact congrArg some (srcElem_within c w64 _)
  · refine (fireShuffle_next hc he hn fun e => Option.some.inj (Eq.trans ?_ (hf e)) : execCompress n w64 c1 c0 s = _)
    rw [hp]
    exact congrArg some (srcElem_entry c w64 _ e)
  · refine (fireShuffle_next hc he hn fun e => Option.some.inj (Eq.trans ?_ (hf e)) : execExpand n w64 c1 c0 s = _)
    rw [hp]
    exact congrArg some (srcElem_cond c w64 _ _)

/-! ### The mesh (R7, R8) -/

theorem meshJoins_says : Sys2Proof.Says.MeshJoins := by
  constructor
  · intro edge idx he hi
    have near : ∀ n < 2, (2 * idx + n) / 2 = idx := by omega
    have far : ∀ n < 2, (47 - (47 - 2 * idx - n)) / 2 = idx := by omega
    have second : 46 - 2 * idx = 47 - 2 * idx - 1 := by omega
    interval_cases edge
    · exact ⟨rfl, fun n hn => congrArg (Joined.pcell 0) (near n hn)⟩
    · exact ⟨rfl, fun n hn => congrArg (Joined.pcell 1) (near n hn)⟩
    · exact ⟨congrArg (fun k => ((47 - 2 * idx, 47), (k, 47))) second, fun n hn => congrArg (Joined.pcell 2) (far n hn)⟩
    · exact ⟨congrArg (fun k => ((0, 47 - 2 * idx), (0, k))) second, fun n hn => congrArg (Joined.pcell 3) (far n hn)⟩
  · intro x y _ _
    simp [joined, Bool.cond_eq_ite]

/-- Settles O12: each part is the equation of its form, with the firing's context and elements put in. -/
theorem routing : Obligations.Routing :=
  ⟨merge_says, out_says, shuffles_say, meshJoins_says⟩

end Sys2Proof.Machine
end

section
/-!
PROOFS. Errors that are counted, found or poison what they hit (R158, R213, R429, R430), the bell and heat (R12, R395, R464), and the state
that refutes O59: a table of plots whose keys do not rise.
-/
namespace Sys2Proof.Machine
open Sys2Proof.Claim

/-! ### Tables -/

/-- The keys of a table rise strictly, as Machine/Tab.lean says of every table. -/
def Tab.Rising {α : Type} (t : Tab α) : Prop := t.Pairwise (fun x y => x.1 < y.1)

/-- In a table with rising keys, the entry that is there set again changes nothing. -/
theorem Tab.set_at? {α : Type} {t : Tab α} {k : Nat} {v : α} (ht : Tab.Rising t) (h : Tab.at? t k = some v) : Tab.set t k v = t := by
  induction t with
  | nil => cases h
  | cons x t ih =>
    obtain ⟨k', v'⟩ := x
    obtain ⟨hlow, ht⟩ := List.pairwise_cons.mp ht
    rw [Tab.at?_cons] at h
    rw [Tab.set_cons]
    split at h
    · next hk => subst hk; cases h; simp
    · next hk =>
      have hlt : k' < k := hlow _ (Tab.mem_of_at? h)
      rw [if_neg (by omega), if_neg hk, ih ht h]

/-- In a table with rising keys, a change that keeps the entry changes nothing. -/
theorem Tab.upd_fixed {α : Type} {t : Tab α} {k : Nat} {v : α} {f : α → α} (ht : Tab.Rising t) (h : Tab.at? t k = some v) (hf : f v = v) :
    Tab.upd t k f = t := by
  unfold Tab.upd
  simp only [h, hf]
  exact Tab.set_at? ht h

/-- An entry put or taken out leaves the others. -/
theorem Tab.at?_del_ne {α : Type} (t : Tab α) {k j : Nat} (h : j ≠ k) : Tab.at? (Tab.del t k) j = Tab.at? t j := by
  induction t with
  | nil => rfl
  | cons x t ih =>
    obtain ⟨k', v⟩ := x
    simp only [Tab.del, Bool.cond_eq_ite, beq_iff_eq]
    split
    · next hk => rw [Tab.at?_cons, if_neg (hk ▸ h)]
    · rw [Tab.at?_cons, Tab.at?_cons, ih]

/-- An entry taken out of a table that lists its key once is gone. -/
theorem Tab.at?_del_same {α : Type} {t : Tab α} (k : Nat) (ht : (t.map (·.1)).Nodup) : Tab.at? (Tab.del t k) k = none := by
  induction t with
  | nil => rfl
  | cons x t ih =>
    obtain ⟨k', v⟩ := x
    obtain ⟨hnot, ht⟩ := List.nodup_cons.mp ht
    simp only [Tab.del, Bool.cond_eq_ite, beq_iff_eq]
    split
    · next hk =>
      cases h : Tab.at? t k with
      | none => rfl
      | some w => exact absurd (List.mem_map.mpr ⟨_, Tab.mem_of_at? h, hk⟩) hnot
    · next hk => rw [Tab.at?_cons, if_neg hk, ih ht]

/-- What an entry that is put reads as. -/
theorem Tab.atD_put_same {α : Type} [DecidableEq α] {t : Tab α} (k : Nat) (v d : α) (ht : (t.map (·.1)).Nodup) :
    Tab.atD (Tab.put t k v d) k d = v := by
  unfold Tab.put
  split
  · next h => simp [Tab.atD, Tab.at?_del_same k ht, h]
  · simp [Tab.atD]

theorem Tab.atD_put_ne {α : Type} [DecidableEq α] (t : Tab α) {k j : Nat} (v d : α) (h : j ≠ k) :
    Tab.atD (Tab.put t k v d) j d = Tab.atD t j d := by
  unfold Tab.put
  split
  · simp [Tab.atD, Tab.at?_del_ne t h]
  · simp [Tab.atD, Tab.at?_set_ne t v h]

/-! ### The bell and heat (R12, R395, R464) -/

/-- A calendar slot that no pending write names keeps its entry. -/
theorem atD_pending_ne (ws : List (Nat × Dword)) (t : Tab Dword) {n : Nat} (h : ws.all (fun x => x.1 != n) = true) :
    Tab.atD (ws.foldl (fun t (n, v) => Tab.put t n v 0) t) n 0 = Tab.atD t n 0 := by
  induction ws generalizing t with
  | nil => rfl
  | cons w ws ih =>
    obtain ⟨hw, hws⟩ : (w.1 != n) = true ∧ ws.all (fun x => x.1 != n) = true := by simpa using h
    rw [List.foldl_cons, ih _ hws]
    exact Tab.atD_put_ne t _ _ (bne_iff_ne.mp hw).symm

/-- Without power and with nothing to come from outside, a step changes nothing. -/
theorem step_of_no_power {s : State} (hp : s.power = false) (ha : s.agenda = []) : step s = .next s := by
  rw [step_of_cycle (u := s) (by simp [choose, hp, ha])]
  simp [cycle, hp]

/-- The second part of O59 holds: the bell takes the calendar's pending writes, heat acts on the clock and the power. -/
theorem bellAndHeat_says : Sys2Proof.Says.BellAndHeat := by
  intro s
  refine ⟨rfl, rfl, rfl, ⟨_, rfl, rfl, rfl, rfl, rfl, rfl, fun n h => atD_pending_ne _ _ h, fun n w hw hs => ?_⟩, step_of_no_power⟩
  rw [hw]
  exact Tab.atD_put_same n w 0 hs

/-! ### The headers of names (R146, R158) -/

/-- A header as a number, by its fields (R146). -/
theorem mkHdr_toNat (occ st readers : Nat) (gen : BitVec 8) (hs : st < 4) (hr : readers < 256) :
    (mkHdr occ st readers gen).toNat = occ % 2 ^ 40 * 2 ^ 24 + st * 2 ^ 22 + readers * 2 ^ 14 + gen.toNat * 2 ^ 6 := by
  have hg := gen.isLt
  have ho : occ % 2 ^ 40 < 2 ^ 40 := Nat.mod_lt _ (by decide)
  simp only [mkHdr, at_, Nat.shiftLeft_eq, BitVec.toNat_ofNat]
  omega

theorem hdrState_mkHdr (occ st readers : Nat) (gen : BitVec 8) (hs : st < 4) (hr : readers < 256) :
    hdrState (mkHdr occ st readers gen) = st := by
  have hg := gen.isLt
  rw [hdrState, field, mkHdr_toNat occ st readers gen hs hr, Nat.shiftRight_eq_div_pow]
  omega

theorem hdrOcc_mkHdr (occ st readers : Nat) (gen : BitVec 8) (hs : st < 4) (hr : readers < 256) :
    hdrOcc (mkHdr occ st readers gen) = occ % 2 ^ 40 := by
  have hg := gen.isLt
  rw [hdrOcc, field, mkHdr_toNat occ st readers gen hs hr, Nat.shiftRight_eq_div_pow]
  omega

theorem gen_mkHdr (occ st readers : Nat) (gen : BitVec 8) (hs : st < 4) (hr : readers < 256) :
    (mkHdr occ st readers gen).extractLsb' 6 8 = gen := by
  have hg := gen.isLt
  apply BitVec.eq_of_toNat_eq
  rw [BitVec.extractLsb'_toNat, mkHdr_toNat occ st readers gen hs hr, Nat.shiftRight_eq_div_pow]
  omega

theorem hdrOcc_lt (h : Dword) : hdrOcc h < 2 ^ 40 := Nat.mod_lt _ (by decide)

/-- A header after an error in its slot's data: poison, OCC and GEN as they were (R158). -/
theorem hdrState_poisonHdr (h : Dword) : hdrState (poisonHdr h) = 3 := hdrState_mkHdr _ _ _ _ (by decide) (by decide)

theorem hdrOcc_poisonHdr (h : Dword) : hdrOcc (poisonHdr h) = hdrOcc h := by
  rw [poisonHdr, hdrOcc_mkHdr _ _ _ _ (by decide) (by decide), Nat.mod_eq_of_lt (hdrOcc_lt h)]

theorem gen_poisonHdr (h : Dword) : (poisonHdr h).extractLsb' 6 8 = h.extractLsb' 6 8 := gen_mkHdr _ _ _ _ (by decide) (by decide)

/-! ### What finds an error (R213, R217) -/

/-- A cell whose tile firings look for an error. -/
def seekError (hit : Nat → TileJob → Option (Cause × Dword)) (k : Nat) (c : Cell) : Cell :=
  { c with array := c.array.map (fun j => bif j.fault.isSome || j.occ == 0 then j else { j with fault := hit k j }) }

theorem findError_cells (p : Plot) (hit : Nat → TileJob → Option (Cause × Dword)) :
    (findError p hit).cells = p.cells.map (fun (k, c) => (k, seekError hit k c)) := rfl

@[simp] theorem findError_folds (p : Plot) (hit : Nat → TileJob → Option (Cause × Dword)) : (findError p hit).folds = p.folds := rfl

/-- A cell whose array is empty finds none. -/
theorem seekError_of_idle {hit : Nat → TileJob → Option (Cause × Dword)} {k : Nat} {c : Cell} (h : c.array = []) : seekError hit k c = c := by
  cases c
  simp_all [seekError]

/-- A cell with one tile firing, which occupies the array and has no fault yet, finds what hits it. -/
theorem seekError_of_single {hit : Nat → TileJob → Option (Cause × Dword)} {k : Nat} {c : Cell} {j : TileJob} (hj : c.array = [j])
    (hnone : j.fault = none) (hocc : 0 < j.occ) : (seekError hit k c).array = [{ j with fault := hit k j }] := by
  have hbusy : (j.fault.isSome || j.occ == 0) = false := by simp [hnone, Nat.pos_iff_ne_zero.mp hocc]
  simp only [seekError, hj, List.map_cons, List.map_nil, hbusy, cond_false]

/-- A plot whose arrays are empty finds none. -/
theorem findError_of_idle {p : Plot} (hit : Nat → TileJob → Option (Cause × Dword)) (h : ∀ c ∈ p.cells, c.2.array = []) :
    findError p hit = p := by
  have hcells : (findError p hit).cells = p.cells := by
    rw [findError_cells]
    exact (List.map_congr_left (g := id) fun (k, c) hc => congrArg (Prod.mk k) (seekError_of_idle (h _ hc))).trans (List.map_id _)
  calc findError p hit = { p with cells := (findError p hit).cells } := rfl
    _ = p := by rw [hcells]

/-- The firings of a plot that find an error in the data of a slot. -/
def dataFound (sid slot : Nat) (p : Plot) : Plot := findError p (fun _ => poisonedSource? p sid slot (slotOcc p sid slot))

@[simp] theorem dataFound_folds (sid slot : Nat) (p : Plot) : (dataFound sid slot p).folds = p.folds := rfl

theorem exec_foldData (plot sid slot : Nat) (s : State) :
    exec (.uncorrectableError (.foldData plot sid slot)) s = .next (poisonData (onPlot s plot (dataFound sid slot)) plot sid slot) := rfl

/-! ### Errors, by what they hit (R158, R213, R429, R430) -/

/-- The entry of a plot after a change. -/
theorem at?_onPlot_same {s : State} {k : Nat} {p : Plot} (g : Plot → Plot) (h : Tab.at? s.plots k = some p) :
    Tab.at? (onPlot s k g).plots k = some (g p) := by simp [onPlot, h]

/-- A fold with a slot poisoned by an error in its data (R158). -/
def withPoison (slot : Nat) (f : Fold) : Fold := { f with hdrs := Tab.set f.hdrs slot (poisonHdr (Tab.atD f.hdrs slot 0)) }

theorem withPoison_hdr (slot : Nat) (f : Fold) : Tab.atD (withPoison slot f).hdrs slot 0 = poisonHdr (Tab.atD f.hdrs slot 0) := by
  simp [Tab.atD, withPoison]

section
variable {s : State} {plot sid slot : Nat} {p : Plot} {f : Fold}

theorem poisonData_onChip (hp : Tab.at? s.plots plot = some p) (hf : Tab.at? p.folds sid = some f) (hfar : f.far = false)
    (hslot : slot < f.slots) : poisonData s plot sid slot = onPlot s plot (fun p => onFold p sid (withPoison slot)) := by
  simp only [poisonData, hp, Option.bind_some, foldOf?, hf, Option.map_some, Nat.blt_eq.mpr hslot, hfar, Bool.not_true, cond_false]
  rfl

theorem poisonData_far {s1 s2 : State} {h : Dword} (hp : Tab.at? s.plots plot = some p) (hf : Tab.at? p.folds sid = some f)
    (hfar : f.far = true) (hslot : slot < f.slots) (hr : hubRead s p.vi (f.hdrAt slot) 1 = .ok s1 [h])
    (hw : hubStore? s1 p.vi (f.hdrAt slot) [poisonHdr h] = some s2) : poisonData s plot sid slot = s2 := by
  simp [poisonData, hp, foldOf?, hf, Nat.blt_eq.mpr hslot, hfar, poisonFar, hr, hw]

/-- An error in the data of an on-chip slot leaves its header poisoned, its OCC and GEN as they were (R158). -/
theorem exec_foldData_onChip (hp : Tab.at? s.plots plot = some p) (hf : Tab.at? p.folds sid = some f) (hfar : f.far = false)
    (hslot : slot < f.slots) :
    ∃ t q g, exec (.uncorrectableError (.foldData plot sid slot)) s = .next t ∧ Tab.at? t.plots plot = some q ∧ Tab.at? q.folds sid = some g ∧
      hdrState (Tab.atD g.hdrs slot 0) = 3 ∧ hdrOcc (Tab.atD g.hdrs slot 0) = hdrOcc (Tab.atD f.hdrs slot 0) ∧
      (Tab.atD g.hdrs slot 0).extractLsb' 6 8 = (Tab.atD f.hdrs slot 0).extractLsb' 6 8 := by
  have hfound := at?_onPlot_same (dataFound sid slot) hp
  have hg : Tab.at? (onFold (dataFound sid slot p) sid (withPoison slot)).folds sid = some (withPoison slot f) := by simp [onFold, hf]
  rw [exec_foldData, poisonData_onChip hfound hf hfar hslot]
  refine ⟨_, _, _, rfl, at?_onPlot_same _ hfound, hg, ?_⟩
  rw [withPoison_hdr]
  exact ⟨hdrState_poisonHdr _, hdrOcc_poisonHdr _, gen_poisonHdr _⟩

/-- An error in the data of a slot of a far fold, in a state whose plots' keys rise, is the header written as poison (R158). -/
theorem exec_foldData_far {s1 s2 : State} {h : Dword} (hs : Tab.Rising s.plots) (hp : Tab.at? s.plots plot = some p)
    (hf : Tab.at? p.folds sid = some f) (hfar : f.far = true) (hslot : slot < f.slots) (hidle : ∀ c ∈ p.cells, c.2.array = [])
    (hr : hubRead s p.vi (f.hdrAt slot) 1 = .ok s1 [h]) (hw : hubStore? s1 p.vi (f.hdrAt slot) [poisonHdr h] = some s2) :
    exec (.uncorrectableError (.foldData plot sid slot)) s = .next s2 := by
  have hfound : onPlot s plot (dataFound sid slot) = s := by
    unfold onPlot
    rw [Tab.upd_fixed hs hp (findError_of_idle _ hidle)]
  rw [exec_foldData, hfound, poisonData_far hp hf hfar hslot hr hw]

/-- An error in the header of an on-chip slot leaves it poisoned, with OCC 0 (R158). -/
theorem exec_foldHeader_onChip (hp : Tab.at? s.plots plot = some p) (hf : Tab.at? p.folds sid = some f) (hfar : f.far = false)
    (hslot : slot < f.slots) :
    ∃ t q g, exec (.uncorrectableError (.foldHeader plot sid slot)) s = .next t ∧ Tab.at? t.plots plot = some q ∧ Tab.at? q.folds sid = some g ∧
      hdrState (Tab.atD g.hdrs slot 0) = 3 ∧ hdrOcc (Tab.atD g.hdrs slot 0) = 0 := by
  have hfound := at?_onPlot_same (fun p => findError p (fun _ => poisonedSource? p sid slot 0)) hp
  have hg : Tab.at? (Tab.upd p.folds sid (fun f => bif f.far || !slot.blt f.slots then f else
      { f with hdrs := Tab.set f.hdrs slot (mkHdr 0 3 0 f.gen) })) sid = some { f with hdrs := Tab.set f.hdrs slot (mkHdr 0 3 0 f.gen) } := by
    simp [hf, hfar, Nat.blt_eq.mpr hslot]
  refine ⟨_, _, _, rfl, at?_onPlot_same _ hfound, hg, ?_⟩
  simp [Tab.atD, hdrState_mkHdr, hdrOcc_mkHdr]

/-- An error in a byte of the accumulators that a tile firing reads raw is found by that firing (R213). -/
theorem exec_accData_found {c : Cell} {j : TileJob} {key role r ref ext off : Nat} (hp : Tab.at? s.plots plot = some p)
    (hc : Tab.at? p.cells key = some c) (hj : c.array = [j]) (hnone : j.fault = none) (hocc : 0 < j.occ) (hraw : j.raws = [(role, r, ref, ext)])
    (hown : ref.testBit 20 = true) (hlow : ref % 2 ^ 18 ≤ off) (hhigh : off < ref % 2 ^ 18 + ext) :
    ∃ t q d, exec (.uncorrectableError (.accData plot key off)) s = .next t ∧ Tab.at? t.plots plot = some q ∧ Tab.at? q.cells key = some d ∧
      d.array = [{ j with fault := some (.access, infoRaw role 3 r ref) }] := by
  let hit := fun k j => bif k == key then badRaw? p key none off j else none
  have hbad : hit key j = some (.access, infoRaw role 3 r ref) := by
    simp only [hit, beq_self_eq_true, cond_true, badRaw?, hraw, List.findSome?_cons, hown, ble_eq_decide, blt_eq_decide, hlow, hhigh]
    rfl
  have hcell : Tab.at? (findError p hit).cells key = some (seekError hit key c) := by
    rw [findError_cells, Tab.at?_map, hc, Option.map_some]
  exact ⟨_, _, _, rfl, at?_onPlot_same _ hp, hcell, by rw [seekError_of_single hj hnone hocc, hbad]⟩

/-- An error in a buffer of a plot whose round runs abandons that round, as failed with CFGERR (R430). -/
theorem exec_buffer_running (hp : Tab.at? s.plots plot = some p) (hrun : p.running = true) (hw : p.withdrawn = false) :
    exec (.uncorrectableError (.buffer plot)) s =
      .next (raiseRecord (onPlot s plot (fun p => { workGone p with frozen := false, trap := none, failed := some 0x70 })) p.vi .cfgerr 0 0
        (cellWord p 0 0 0) (plotWord p)) := by
  have hback : backInGroups s plot = s := by simp [backInGroups, hp, readvertise, hw]
  have hcell : tcellOf p 0 0 0 = cellWord p 0 0 0 := by simp [tcellOf, cellWord, siteOf, at_, Nat.shiftLeft_eq]
  change execUncorrectableError (.buffer plot) s = _
  simp only [execUncorrectableError, hp, hrun, cond_true, abandonRound, hback, hcell]
  rfl

/-- An uncorrectable error in the configuration of a plot whose image cannot be read stops its issue until the reload (R429). -/
theorem exec_configScrub_wait (hp : Tab.at? s.plots plot = some p)
    (hw : configure (dropOwners { s with plots := Tab.del s.plots plot } plot p.vi) p.vi p.role
      (((recOf? s p).bind (fun x => Tab.at? s.jobs x.2.job)).map (·.queue)) p.code p.die false (some (p.x, p.y)) = .wait) :
    exec (.configScrub plot .uncorrectable) s = .next (onPlot s plot (fun p => { p with scrub := true })) := by
  change execConfigScrub plot .uncorrectable s = _
  simp only [execConfigScrub, hp, reload, hw]

/-- An error in a line of memory poisons the line, and changes nothing else (R430). -/
theorem exec_memLine (pa : Nat) : ∃ t, exec (.uncorrectableError (.memLine pa)) s = .next t ∧ pa / 128 ∈ t.poison ∧
    (∀ x, x ∈ s.poison → x ∈ t.poison) ∧ { t with poison := s.poison } = s := by
  refine ⟨_, rfl, ?_⟩
  by_cases h : pa / 128 ∈ s.poison
  · simp [h]
  · simp only [List.contains_eq_mem, h, decide_false, cond_false]
    exact ⟨List.mem_cons_self .., fun x hx => List.mem_cons_of_mem _ hx, trivial⟩

end

/-! ### A table of plots whose keys do not rise -/

/-- VI 0 with one region of 1 GiB mapped, its walker holding the table's entries. -/
def farVi : Vi := { Vi.reset with s1root := 0x1001, walked := [(0x1000, 0x2101), (0x2000, 0x3101), (0x3000, 0x18F)] }

/-- A far fold of 4 slots of 4 bytes from address 0, its header array at 128. -/
def farFold : Fold :=
  { w0 := 0x005C000020200000, w1 := 0x0000004000000000, w2 := 0x0000004000000000, w3 := 0, w4 := 0, gen := 0, hdrs := [], pstall := 0 }

/-- A plot with that fold and no cells. -/
def farPlot : Plot := { Plot.empty 0 0 0 4 4 0 0 .graph [] with folds := [(5, farFold)] }

/-- The line of the header array, in a slice. -/
def farLine : L2Line := { line := 1, vi := 0, dirty := true, side := 0, data := 0, poison := false, used := 0 }

/-- A state that lists plot 1 before plot 0. -/
def fallingPlots : State :=
  { State.reset with plots := [(1, farPlot), (0, farPlot)], vis := [(0, farVi)], hmask := [],
                     slices := [(0, { Slice.reset with lines := [(16, farLine)] })] }

/-- The state after the hub has read the header of slot 0. -/
def fallingRead : State :=
  match hubRead fallingPlots 0 (farFold.hdrAt 0) 1 with
  | .ok s _ => s
  | _ => fallingPlots

/-- The state after the hub has stored that header poisoned. -/
def fallingStored : State := (hubStore? fallingRead 0 (farFold.hdrAt 0) [poisonHdr 0]).getD fallingRead

/-- The state that the error leaves. -/
def fallingAfter : State := poisonData (onPlot fallingPlots 0 (dataFound 5 0)) 0 5 0

theorem fallingPlots_read : hubRead fallingPlots 0 (farFold.hdrAt 0) 1 = .ok fallingRead [0] := by decide +kernel

theorem fallingRead_store : hubStore? fallingRead 0 (farFold.hdrAt 0) [poisonHdr 0] = some fallingStored := by decide +kernel

theorem fallingStored_keys : fallingStored.plots.map (fun x => x.1) = [1, 0] := by decide +kernel

/-- The change of plot 0 is put before plot 1, and the old entry stays behind it. -/
theorem fallingAfter_keys : fallingAfter.plots.map (fun x => x.1) = [0, 1, 0] := by decide +kernel

theorem exec_fallingPlots : exec (.uncorrectableError (.foldData 0 5 0)) fallingPlots = .next fallingAfter := exec_foldData 0 5 0 fallingPlots

/-- Refutes O59: SoftErrors asks that an error in the data of a far fold leaves the state of the hub's store, whatever the order of the
plots. The model first lets the plot's tile firings look for the error, which sets the entry of the plot again. Where the keys of the plots
rise, as Machine/Tab.lean says of every table, that changes nothing (exec_foldData_far). In fallingPlots plot 1 stands before plot 0, so the entry of
plot 0 is put in front of plot 1 while the old one stays: three plots are listed where the statement has two. -/
theorem not_errors : ¬ Obligations.Errors := by
  rintro ⟨hsoft, -⟩
  obtain ⟨-, -, -, -, hfar, -⟩ := hsoft fallingPlots 0 5 0 0 0 0 farPlot farFold
  have hnext := hfar fallingRead fallingStored 0 rfl rfl rfl (by decide) (by decide) fallingPlots_read fallingRead_store
  have heq : fallingAfter = fallingStored := Host.Outcome.next.inj (exec_fallingPlots.symm.trans hnext)
  have hkeys : [0, 1, 0] = [1, 0] := by rw [← fallingAfter_keys, heq, fallingStored_keys]
  exact absurd hkeys (by decide)

end Sys2Proof.Machine
end

section
/-!
PROOFS. The encoding (R49-R56): what the fields of X hold and how they join up, decode after encode, encode after decode, and the opcodes
that the map leaves unassigned.
-/
namespace Sys2Proof

/-! ### Codes of types, rounding modes, conditions and save modes (R76, R86, R172) -/

@[simp] theorem intTyOf_intTyCode (t : IntTy) : intTyOf (intTyCode t) = t := by cases t <;> rfl

@[simp] theorem intTyCode_intTyOf (v : BitVec 3) : intTyCode (intTyOf v) = v := by revert v; decide

@[simp] theorem tyOf_code (t : Ty) : tyOf t.code = t := by cases t <;> rfl

@[simp] theorem code_tyOf (v : BitVec 4) : (tyOf v).code = v := by revert v; decide

@[simp] theorem rmOf_rmCode (r : Rm) : rmOf (rmCode r) = r := by cases r <;> rfl

@[simp] theorem rmCode_rmOf (v : BitVec 2) : rmCode (rmOf v) = v := by revert v; decide

@[simp] theorem cmpOf_cmpCode (c : Cmp) : cmpOf (cmpCode c) = c := by cases c <;> rfl

@[simp] theorem cmpCode_cmpOf (v : BitVec 3) : cmpCode (cmpOf v) = v := by revert v; decide

@[simp] theorem saveOf_saveCode (m : Save) : saveOf (saveCode m) = m := by cases m <;> rfl

@[simp] theorem saveCode_saveOf (v : BitVec 2) : saveCode (saveOf v) = v := by revert v; decide

@[simp] theorem bit_getElem (b : Bool) : (bit b)[0] = b := by cases b <;> rfl

/-- FCMP keeps the low three bits of its type's code: the types that it takes have the high bit set (R185). -/
theorem tyOf_of_float {ty : Ty} (h : (ty == .f32 || ty == .bf16) = true) : tyOf (1#1 ++ ty.code.extractLsb' 0 3) = ty := by
  revert h; cases ty <;> decide

/-! ### When nothing stands against a word (R50, R51, R63) -/

theorem fault_eq_nil {b : Bool} {k : Nat} : (bif b then [] else [k]) = [] ↔ b = true := by cases b <;> simp

theorem setBits_eq_nil {n lo : Nat} {v : BitVec n} : setBits lo v = [] ↔ v = 0#n := by
  simp only [setBits, List.map_eq_nil_iff, List.filter_eq_nil_iff, List.mem_range]
  constructor
  · intro h
    apply BitVec.eq_of_getLsbD_eq
    intro i hi
    simpa using h i hi
  · rintro rfl
    simp

/-- An instruction is well-formed where its fields hold only values that the form's entry assigns: the two lists of the model agree. -/
theorem fieldFaults_eq_nil (i : Instr) : fieldFaults i = [] ↔ i.wf = true := by
  cases i <;> simp only [fieldFaults, Instr.wf, fault_eq_nil, List.append_eq_nil_iff, Bool.and_eq_true]

@[simp] theorem noCons_eq_nil {lo : Nat} {c : Cons} : noCons lo c = [] ↔ c = 0x1FF#9 := by simp [noCons, fault_eq_nil]

@[simp] theorem zeroField_eq_nil {n lo : Nat} {v : BitVec n} : zeroField lo v = [] ↔ v = 0#n := by simp [zeroField, fault_eq_nil]

theorem xFixed_eq_nil {m v x : BitVec 6} : xFixed m v x = [] ↔ (x ^^^ v) &&& m = 0#6 := setBits_eq_nil

@[simp] theorem xFixed_all {v x : BitVec 6} : xFixed 63#6 v x = [] ↔ x = v := by
  have hmask : ∀ d : BitVec 6, d &&& 63#6 = d := by decide
  rw [xFixed_eq_nil, hmask, BitVec.xor_eq_zero_iff]

@[simp] theorem xFixed_high4 {v x : BitVec 6} : xFixed 60#6 v x = [] ↔ x.extractLsb' 2 4 = v.extractLsb' 2 4 := by
  have hmask : ∀ d : BitVec 6, d &&& 60#6 = 0#6 ↔ d.extractLsb' 2 4 = 0#4 := by decide
  rw [xFixed_eq_nil, hmask, BitVec.extractLsb'_xor, BitVec.xor_eq_zero_iff]

@[simp] theorem xFixed_high3 {v x : BitVec 6} : xFixed 56#6 v x = [] ↔ x.extractLsb' 3 3 = v.extractLsb' 3 3 := by
  have hmask : ∀ d : BitVec 6, d &&& 56#6 = 0#6 ↔ d.extractLsb' 3 3 = 0#3 := by decide
  rw [xFixed_eq_nil, hmask, BitVec.extractLsb'_xor, BitVec.xor_eq_zero_iff]

@[simp] theorem xFixed_high2 {v x : BitVec 6} : xFixed 48#6 v x = [] ↔ x.extractLsb' 4 2 = v.extractLsb' 4 2 := by
  have hmask : ∀ d : BitVec 6, d &&& 48#6 = 0#6 ↔ d.extractLsb' 4 2 = 0#2 := by decide
  rw [xFixed_eq_nil, hmask, BitVec.extractLsb'_xor, BitVec.xor_eq_zero_iff]

@[simp] theorem xFixed_high1 {v x : BitVec 6} : xFixed 32#6 v x = [] ↔ x.extractLsb' 5 1 = v.extractLsb' 5 1 := by
  have hmask : ∀ d : BitVec 6, d &&& 32#6 = 0#6 ↔ d.extractLsb' 5 1 = 0#1 := by decide
  rw [xFixed_eq_nil, hmask, BitVec.extractLsb'_xor, BitVec.xor_eq_zero_iff]

/-- The upper five bits of the second consumer of OUT are reserved (R134). -/
@[simp] theorem reservedOut_eq_nil {c : Cons} : setBits 9 (c &&& 496#9) = [] ↔ c.extractLsb' 4 5 = 0#5 := by
  have hmask : ∀ d : Cons, d &&& 496#9 = 0#9 ↔ d.extractLsb' 4 5 = 0#5 := by decide
  rw [setBits_eq_nil, hmask]

/-! ### Fields read from an X made of them, each lemma named after the widths of the parts -/

@[simp] theorem fields_1_5 (a : BitVec 1) (b : BitVec 5) :
    (a ++ b).extractLsb' 0 5 = b ∧ (a ++ b).extractLsb' 5 1 = a ∧ (a ++ b)[5] = a[0] := by revert a b; decide

@[simp] theorem fields_2_4 (a : BitVec 2) (b : BitVec 4) :
    (a ++ b).extractLsb' 0 4 = b ∧ (a ++ b).extractLsb' 4 2 = a ∧ (a ++ b).extractLsb' 5 1 = a.extractLsb' 1 1 := by revert a b; decide

@[simp] theorem fields_3_3 (a b : BitVec 3) :
    (a ++ b).extractLsb' 0 3 = b ∧ (a ++ b).extractLsb' 3 3 = a ∧ (a ++ b).extractLsb' 4 2 = a.extractLsb' 1 2 := by revert a b; decide

@[simp] theorem fields_4_2 (a : BitVec 4) (b : BitVec 2) :
    (a ++ b).extractLsb' 0 2 = b ∧ (a ++ b).extractLsb' 2 4 = a ∧ (a ++ b).extractLsb' 2 2 = a.extractLsb' 0 2 ∧
      (a ++ b).extractLsb' 4 2 = a.extractLsb' 2 2 := by revert a b; decide

@[simp] theorem fields_5_1 (a : BitVec 5) (b : Bool) : (a ++ bit b).extractLsb' 1 5 = a ∧ (a ++ bit b)[0] = b := by revert a b; decide

@[simp] theorem fields_1_1_4 (a : BitVec 1) (b : Bool) (c : BitVec 4) : (a ++ bit b ++ c)[4] = b ∧ (a ++ bit b ++ c)[5] = a[0] := by
  revert a b c; decide

@[simp] theorem fields_2_1_3 (a : BitVec 2) (b : Bool) (c : BitVec 3) :
    (a ++ bit b ++ c)[3] = b ∧ (a ++ bit b ++ c).extractLsb' 4 2 = a := by revert a b c; decide

@[simp] theorem fields_3_1_2 (a : BitVec 3) (b : Bool) (c : BitVec 2) :
    (a ++ bit b ++ c)[2] = b ∧ (a ++ bit b ++ c).extractLsb' 3 3 = a := by revert a b c; decide

@[simp] theorem fields_1_1 (a b : BitVec 1) : (a ++ b).extractLsb' 1 1 = a := by revert a b; decide

@[simp] theorem fields_1_3 (a : BitVec 1) (b : BitVec 3) : (a ++ b).extractLsb' 0 3 = b := by revert a b; decide

@[simp] theorem fields_2_2 (a b : BitVec 2) : (a ++ b).extractLsb' 0 2 = b ∧ (a ++ b).extractLsb' 2 2 = a := by revert a b; decide

@[simp] theorem fields_5_4 (a : BitVec 5) (b : BitVec 4) : (a ++ b).extractLsb' 0 4 = b ∧ (a ++ b).extractLsb' 4 5 = a := by
  revert a b; decide

/-! ### Fields of X joined up again -/

@[simp] theorem bit_of_getElem {n : Nat} (x : BitVec n) (i : Nat) (h : i < n) : bit x[i] = x.extractLsb' i 1 := by
  apply BitVec.eq_of_getLsbD_eq
  intro j hj
  obtain rfl : j = 0 := by omega
  simp [bit, h]

section
variable {x : BitVec 6}

@[simp] theorem join_1_5 {a : BitVec 1} (h : x.extractLsb' 5 1 = a) : a ++ x.extractLsb' 0 5 = x := by subst h; revert x; decide

@[simp] theorem join_2_4 {a : BitVec 2} (h : x.extractLsb' 4 2 = a) : a ++ x.extractLsb' 0 4 = x := by subst h; revert x; decide

@[simp] theorem join_3_3 {a : BitVec 3} (h : x.extractLsb' 3 3 = a) : a ++ x.extractLsb' 0 3 = x := by subst h; revert x; decide

@[simp] theorem join_4_2 {a : BitVec 4} (h : x.extractLsb' 2 4 = a) : a ++ x.extractLsb' 0 2 = x := by subst h; revert x; decide

@[simp] theorem join_5_1 {a : BitVec 5} (h : x.extractLsb' 1 5 = a) : a ++ x.extractLsb' 0 1 = x := by subst h; revert x; decide

@[simp] theorem join_1_1_4 {a : BitVec 1} (h : x.extractLsb' 5 1 = a) : a ++ x.extractLsb' 4 1 ++ x.extractLsb' 0 4 = x := by
  subst h; revert x; decide

@[simp] theorem join_2_1_3 {a : BitVec 2} (h : x.extractLsb' 4 2 = a) : a ++ x.extractLsb' 3 1 ++ x.extractLsb' 0 3 = x := by
  subst h; revert x; decide

@[simp] theorem join_3_1_2 {a : BitVec 3} (h : x.extractLsb' 3 3 = a) : a ++ x.extractLsb' 2 1 ++ x.extractLsb' 0 2 = x := by
  subst h; revert x; decide

@[simp] theorem join_2_2_2 {a b : BitVec 2} (ha : x.extractLsb' 4 2 = a) (hb : x.extractLsb' 2 2 = b) :
    a ++ b ++ x.extractLsb' 0 2 = x := by subst ha hb; revert x; decide

/-- TZERO has both save modes of its form at zero: it reads no source (R226). -/
@[simp] theorem join_zero_2 (ha : x.extractLsb' 4 2 = 0#2) (hb : x.extractLsb' 2 2 = 0#2) : 0#4 ++ x.extractLsb' 0 2 = x := by
  revert x; decide

end

@[simp] theorem join_5_4 {c : Cons} {a : BitVec 5} (h : c.extractLsb' 4 5 = a) : a ++ c.extractLsb' 0 4 = c := by
  rw [← h, BitVec.extractLsb'_append_extractLsb'_eq_extractLsb' (by rfl)]
  exact BitVec.extractLsb'_eq_self

/-! ### The fields of a word (R49) -/

theorem toNat_append_eq_add {m n : Nat} (x : BitVec m) (y : BitVec n) : (x ++ y).toNat = x.toNat * 2 ^ n + y.toNat := by
  rw [BitVec.toNat_append, ← Nat.shiftLeft_add_eq_or_of_lt y.isLt, Nat.shiftLeft_eq]

/-- The opcode from its two nibbles. -/
theorem opcode_toNat (w : Word) : 16 * (w.extractLsb' 28 4).toNat + (w.extractLsb' 24 4).toNat = (w.extractLsb' 24 8).toNat := by
  have hjoin : w.extractLsb' 28 4 ++ w.extractLsb' 24 4 = w.extractLsb' 24 8 := BitVec.extractLsb'_append_extractLsb'_eq_extractLsb' rfl
  rw [← hjoin, toNat_append_eq_add]
  omega

/-- Every word is made of its fields. -/
theorem mkWord_fields (w : Word) : mkWord (w.extractLsb' 24 8) (w.extractLsb' 18 6) (w.extractLsb' 9 9) (w.extractLsb' 0 9) = w := by
  unfold mkWord
  rw [BitVec.extractLsb'_append_extractLsb'_eq_extractLsb' (by rfl), BitVec.extractLsb'_append_extractLsb'_eq_extractLsb' (by rfl),
    BitVec.extractLsb'_append_extractLsb'_eq_extractLsb' (by rfl)]
  exact BitVec.extractLsb'_eq_self

/-! ### What decodes -/

/-- Nothing stands against an accepted form: no reserved bit is set, and its fields are well-formed. -/
theorem accept_eq_form {bad : List Nat} {i j : Instr} : accept bad i = .form [] j ↔ bad = [] ∧ i.wf = true ∧ i = j := by
  simp [accept, fieldFaults_eq_nil, and_assoc]

theorem decode_eq_ok {w : Word} {i : Instr} : decode w = .ok i ↔ parse w = .form [] i := by
  unfold decode
  cases parse w with
  | illop => simp
  | selector b => simp
  | form bad j => cases bad <;> simp

theorem decode_of_parse_illop {w : Word} (h : parse w = .illop) : decode w = .error .illop := by
  unfold decode
  rw [h]

/-- The word of a well-formed form parses to it. An occurrence has no word; for a form the opcode and the selector lead to its row, the
fields give back its operands, and nothing stands against them. -/
theorem parse_encode {i : Instr} {w : Word} (hwf : i.wf = true) (he : encode i = some w) : parse w = .form [] i := by
  cases i <;> cases he
  case fcmp cond ty c1 c0 =>
    rw [parse_mkWord]
    simp [decodeOp, decode7, accept_eq_form, tyOf_of_float hwf, hwf]
  all_goals
    rw [parse_mkWord]
    simp [decodeOp, decode0, decode1, decode2, decode3, decode4, decode7, decode8, decode9, decodeA, decodeB, decodeC, decodeD, decodeE,
      decodeF, accept_eq_form, hwf]

/-- What the map gives at an opcode is well-formed, and its word has that opcode and these fields: in each row and selector, the fields
that were read join up to X again, where no reserved bit of X is set. -/
theorem encode_of_decodeOp {hi lo : Nat} {x : BitVec 6} {c1 c0 : Cons} {i : Instr} (h : decodeOp hi lo x c1 c0 = .form [] i) :
    encode i = some (mkWord (BitVec.ofNat 8 (16 * hi + lo)) x c1 c0) ∧ i.wf = true := by
  unfold decodeOp at h
  split at h
  all_goals
    simp only [decode0, decode1, decode2, decode3, decode4, decode7, decode8, decode9, decodeA, decodeB, decodeC, decodeD, decodeE, decodeF,
      reduceCtorEq] at h
  all_goals
    repeat' split at h
  all_goals simp only [accept_eq_form, reduceCtorEq] at h
  all_goals
    obtain ⟨hbad, hwf, rfl⟩ := h
    refine ⟨?_, hwf⟩
    revert hbad
    simp +contextual [encode, *]

/-- An opcode that the map leaves unassigned has no form, whatever its fields. -/
theorem decodeOp_of_noOpcode {hi lo : Nat} {x : BitVec 6} {c1 c0 : Cons} (h : Claim.noOpcode (16 * hi + lo) = true) :
    decodeOp hi lo x c1 c0 = .illop := by
  unfold decodeOp
  split
  all_goals
    simp only [decode0, decode1, decode2, decode3, decode4, decode7, decode8, decode9, decodeA, decodeB, decodeC, decodeD, decodeE, decodeF]
  all_goals split <;> simp [Claim.noOpcode] at h ⊢

/-! ### The statements -/

/-- Settles O3, by the cases of the instruction: the word of each form parses to the form. -/
theorem decodeEncode : Obligations.DecodeEncode :=
  fun _ _ hwf he => decode_eq_ok.mpr (parse_encode hwf he)

theorem encodeDecode_says : Sys2Proof.Says.EncodeDecode := by
  intro i w h
  have hop := encode_of_decodeOp (decode_eq_ok.mp h)
  rwa [opcode_toNat, BitVec.ofNat_toNat, BitVec.setWidth_eq, mkWord_fields] at hop

theorem unassignedRefused_says : Sys2Proof.Says.UnassignedRefused := by
  intro w h
  rw [← opcode_toNat] at h
  exact decode_of_parse_illop (decodeOp_of_noOpcode h)

/-- Settles O4: what the map gives at an opcode has the word's opcode and fields, and an unassigned opcode gives no form. -/
theorem encodingIsExact : Obligations.EncodingIsExact :=
  ⟨encodeDecode_says, unassignedRefused_says⟩

/-- Settles O2, by running the decoder on the fourteen words. -/
theorem decodeWords : Obligations.DecodeWords := by
  unfold Obligations.DecodeWords Sys2Proof.Says.DecodeWords
  rfl

end Sys2Proof
end

section
/-!
PROOFS. What a step runs (R42, R105, R108), and the smithy with its escape forms (R66-R70).
-/
namespace Sys2Proof.Machine
open Sys2Proof.Claim

/-! ### The choice of a step -/

/-- A firing runs the instruction that its word decodes to, whatever its outcome. -/
theorem fire_eq_map_exec {old u : State} {f : Firing} {w : Word} {i : Instr} (hw : fetch? u f = some w) (hd : decode w = .ok i) :
    fire old f u = Outcome.map (exec i { u with cur := f }) (afterFiring old f (onLanes i)) := by
  simp only [fire, hw, hd]

theorem choose_of_issue {s : State} {f : Firing} {p : Plot} (hpower : s.power = true) (hissue : s.issue = some f)
    (hplot : Tab.at? s.plots f.plot = some p) (hlive : p.live = true) : choose s = .fire f { s with issue := none } := by
  have hl : plotLive s f.plot = true := by simp [plotLive, hplot, hlive]
  simp [choose, hpower, hissue, hl]

/-- With nothing to fire first, the next entry of the agenda that does not wait decides (notes/assumptions/4.md). -/
theorem choose_of_outside {s : State} {i : Instr} {rest : List Instr} (hpower : s.power = true) (hissue : s.issue = none)
    (hretry : s.retry = []) (hnext : nextOutside? s s.agenda = some (i, rest)) :
    choose s = if isForm i = true then ownChoice { s with agenda := rest } else .occur i { s with agenda := rest } := by
  simp [choose, hpower, hissue, hretry, hnext]

theorem nextOutside?_first {s : State} {i : Instr} {rest : List Instr} (h : outsideWaits s i = false) :
    nextOutside? s (i :: rest) = some (i, rest) := by
  simp [nextOutside?, h]

theorem nextOutside?_second {s : State} {i j : Instr} {rest : List Instr} (hi : outsideWaits s i = true) (hj : outsideWaits s j = false) :
    nextOutside? s (i :: j :: rest) = some (j, i :: rest) := by
  simp [nextOutside?, hi, hj]

/-- Settles O1: a step does what `choose` says, and `choose` looks at the issue first, then at the agenda. -/
theorem stepRuns : Obligations.StepRuns := by
  refine ⟨?_, fun _ _ _ h => step_of_occur h, fun _ _ h => step_of_cycle h, fun _ _ _ => choose_of_issue, ?_, ?_⟩
  · intro s u f w i hc hw hd
    rw [step_of_fire hc, fire_eq_map_exec hw hd]
  · intro s i rest hpower hissue hretry hagenda hw
    have hnext : nextOutside? s s.agenda = some (i, rest) := by rw [hagenda, nextOutside?_first hw]
    rw [choose_of_outside hpower hissue hretry hnext]
    exact ⟨fun hform => by simp [hform], fun hform => by simp [hform]⟩
  · intro s i j rest hpower hissue hretry hagenda hi hj hform
    have hnext : nextOutside? s s.agenda = some (j, i :: rest) := by rw [hagenda, nextOutside?_second hi hj]
    rw [choose_of_outside hpower hissue hretry hnext]
    simp [hform]

/-! ### Words and bytes of the escape forms -/

theorem byteOf_eq_extract (w : Word) (q : Nat) : byteOf w q = (w.extractLsb' (8 * q) 8).toNat := by
  rw [byteOf, BitVec.extractLsb'_toNat, Nat.shiftRight_eq_div_pow]

theorem sx_eq_toInt (b : Byte) : sx b.toNat 8 = b.toInt := by
  rw [sx, BitVec.toInt_eq_toNat_cond, Nat.mod_eq_of_lt b.isLt]
  simp only [Nat.reduceSub, Nat.reducePow]
  split <;> split <;> omega

theorem word32_eq_setWidth (x : Int) : word32 x = (BitVec.ofInt 32 x).setWidth 64 := BitVec.ofNat_toNat 64 _

/-- A word and the sum of four terms, as the words of the terms added one after another. -/
theorem word32_sum4 {t : Nat → Int} {f : Nat → Word} (z : Word) (h : ∀ q, BitVec.ofInt 32 (t q) = f q) :
    word32 (z.toNat + sum4 t) = ([0, 1, 2, 3].foldl (fun acc q => acc + f q) z).setWidth 64 := by
  simp [word32_eq_setWidth, sum4, BitVec.ofInt_add, h, BitVec.add_assoc]

/-- A word of four bytes, as the bytes in a row. -/
theorem ofBytes_eq_append {g : Nat → Nat} {v : Nat → Byte} (h : ∀ q, BitVec.ofNat 8 (g q) = v q) :
    ofBytes g = (v 3 ++ v 2 ++ v 1 ++ v 0).setWidth 64 := by
  have hv : ∀ q, g q % 256 = (v q).toNat := fun q => by rw [← h, BitVec.toNat_ofNat]
  rw [ofBytes, hv, hv, hv, hv, ← BitVec.ofNat_toNat]
  congr 1
  simp only [toNat_append_eq_add]
  omega

/-! ### The element of each escape form (R69, R70) -/

theorem ofInt_product (x y : Byte) : BitVec.ofInt 32 (sx x.toNat 8 * sx y.toNat 8) = x.signExtend 32 * y.signExtend 32 := by
  rw [sx_eq_toInt, sx_eq_toInt, BitVec.ofInt_mul]
  rfl

theorem ofInt_distance (x y : Byte) :
    BitVec.ofInt 32 (((x.toNat : Int) - y.toNat).natAbs : Int) = (if x.ult y = true then y - x else x - y).setWidth 32 := by
  apply BitVec.eq_of_toNat_eq
  have hx := x.isLt
  have hy := y.isLt
  simp only [BitVec.ofInt_natCast, BitVec.ult_eq_decide, decide_eq_true_eq, BitVec.toNat_ofNat, BitVec.toNat_setWidth]
  split <;> rw [BitVec.toNat_sub] <;> omega

/-- The mean of two bytes, the half rounded up. -/
def average (x y : Byte) : Byte := ((x.setWidth 9 + y.setWidth 9 + 1) >>> 1).setWidth 8

theorem ofNat_average (x y : Byte) : BitVec.ofNat 8 ((x.toNat + y.toNat + 1) / 2) = average x y := by
  apply BitVec.eq_of_toNat_eq
  simp only [average, BitVec.ofNat_eq_ofNat, BitVec.toNat_ofNat, BitVec.toNat_setWidth, BitVec.toNat_ushiftRight, BitVec.toNat_add, Nat.shiftRight_eq_div_pow]
  omega

theorem toInt_greater (a b : Word) : (if a.slt b = true then b else a).toInt = max a.toInt b.toInt := by
  simp only [BitVec.slt_iff_toInt_lt]
  split <;> omega

theorem toInt_lesser (m z : Word) : (if z.slt m = true then z else m).toInt = min m.toInt z.toInt := by
  simp only [BitVec.slt_iff_toInt_lt]
  split <;> omega

theorem word32_clamp (a b z : Word) :
    let low := if a.slt b = true then b else a
    word32 (min (max a.toInt b.toInt) z.toInt) = (if z.slt low = true then z else low).setWidth 64 := by
  rw [← toInt_greater, ← toInt_lesser, word32_eq_setWidth, BitVec.ofInt_toInt]

theorem swizzle_field (w : Word) (q : Nat) : field w (2 * q + 1) (2 * q) = (w.extractLsb' (2 * q) 2).toNat := by
  rw [field, BitVec.extractLsb'_toNat, Nat.add_assoc, Nat.add_sub_cancel_left]

theorem cvt8_lt (x : Nat) : cvt8 x < 2 ^ 32 := by
  unfold cvt8
  simp only [Bool.cond_eq_ite]
  split
  · decide
  · split <;> decide
  · simp only [blt_eq_decide, decide_eq_true_iff]
    split <;> split <;> omega

theorem dw_cvt8 (x : Nat) : dw (cvt8 x) = (BitVec.ofNat 32 (cvt8 x)).setWidth 64 :=
  (BitVec.setWidth_ofNat_of_le_of_lt (by decide) (cvt8_lt x)).symm

/-- An escape form is a firing at the smithy, with the results of the statement. -/
theorem exec_legacy {i : Instr} {s : State} {c : Ctx} {f : Nat → Word} (h : ∀ e, legacyElem c e i = some (f e)) :
    ∃ g, exec i s = fireSmithy g s ∧ ∀ e, g c e = (f e).setWidth 64 := by
  cases i
  case lgcDp4 c1 c0 =>
    refine ⟨_, rfl, fun e => ?_⟩
    rw [← Option.some.inj (h e)]
    exact word32_sum4 _ fun q => by rw [byteOf_eq_extract, byteOf_eq_extract, ofInt_product]
  case lgcSad c1 c0 =>
    refine ⟨_, rfl, fun e => ?_⟩
    rw [← Option.some.inj (h e)]
    exact word32_sum4 _ fun q => by rw [byteOf_eq_extract, byteOf_eq_extract, ofInt_distance]
  case lgcAvg c1 c0 =>
    refine ⟨_, rfl, fun e => ?_⟩
    rw [← Option.some.inj (h e)]
    exact ofBytes_eq_append (v := fun q => average ((c.low 0 e).extractLsb' (8 * q) 8) ((c.low 1 e).extractLsb' (8 * q) 8))
      fun q => by rw [byteOf_eq_extract, byteOf_eq_extract, ofNat_average]
  case lgcClamp c1 c0 =>
    refine ⟨_, rfl, fun e => ?_⟩
    rw [← Option.some.inj (h e)]
    exact word32_clamp _ _ _
  case lgcSwz c1 c0 =>
    refine ⟨_, rfl, fun e => ?_⟩
    rw [← Option.some.inj (h e)]
    exact ofBytes_eq_append (v := fun q => (c.low 0 e).extractLsb' (8 * ((c.low 1 e).extractLsb' (2 * q) 2).toNat) 8)
      fun q => by rw [byteOf_eq_extract, BitVec.ofNat_toNat, BitVec.setWidth_eq, swizzle_field]
  case lgcCvt8 c1 c0 =>
    refine ⟨_, rfl, fun e => ?_⟩
    rw [← Option.some.inj (h e)]
    exact dw_cvt8 _
  all_goals cases h 0

/-! ### The queue of a smithy (R67) -/

/-- With room in the queue of its die, the firing's request joins it, its results computed, and its elements are issued. -/
theorem fireSmithy_of_room {s : State} {c : Ctx} {es : List Nat} {g : Ctx → Nat → Dword} (hf : FiresAll s c es)
    (hroom : (Tab.atD s.smithy c.plot.die []).length < 64) :
    let r : SmithyReq := { firing := c.f, first := c.inst.first, vi := c.plot.vi, left := 32, out := mapElems c es (g c) }
    fireSmithy g s = .next (onPlot (addToll { s with smithy := Tab.set s.smithy c.plot.die (Tab.atD s.smithy c.plot.die [] ++ [r]) }
      c.plot.vi 9 1) c.f.plot (fun p => markIssued p c.f es)) := by
  obtain ⟨hc, he, hn⟩ := hf
  cases es with
  | nil => exact absurd rfl hn
  | cons e es => simp only [fireSmithy, hc, he, if_neg (Nat.not_le.mpr hroom)]

theorem fireSmithy_of_full {s : State} {c : Ctx} {es : List Nat} {g : Ctx → Nat → Dword} (hf : FiresAll s c es)
    (hfull : 64 ≤ (Tab.atD s.smithy c.plot.die []).length) : fireSmithy g s = .next (stallFiring s) := by
  obtain ⟨hc, he, hn⟩ := hf
  cases es with
  | nil => exact absurd rfl hn
  | cons e es => simp only [fireSmithy, hc, he, if_pos hfull]

/-- The oldest request delivers its results where its firing still stands, and the smithy rests. -/
theorem execSmithyComplete_next {s : State} {c : Ctx} {die : Nat} {r : SmithyReq} {rest : List SmithyReq}
    (hq : Tab.atD s.smithy die [] = r :: rest) (hc : ctxOf? s r.firing = some c) (hfirst : c.inst.first = r.first) :
    execSmithyComplete die s =
      .next (complete { s with smithy := Tab.put s.smithy die rest [], smithyRest := Tab.set s.smithyRest die 16 } c 0 (r.out.map (·.1))
        (both c.c1 c.c0 .r32 r.out)) := by
  have hctx : ctxOf? { s with smithy := Tab.put s.smithy die rest [], smithyRest := Tab.set s.smithyRest die 16 } r.firing = some c := hc
  simp only [execSmithyComplete, hq, hctx, hfirst, beq_self_eq_true, cond_true]

/-- Settles O27: the six escape forms compute the statement's words, and the queue takes the request, stalls the firing or delivers. -/
theorem smithy : Obligations.Smithy := by
  refine ⟨fun i s c es f hf hval => ?_, fun s c die r rest hq hc hfirst => execSmithyComplete_next hq hc hfirst⟩
  obtain ⟨g, hexec, hg⟩ := exec_legacy (s := s) hval
  have hout : mapElems c es (g c) = es.map (fun e => (e, if c.null e = true then Elem.null else .val ((f e).setWidth 64))) := by
    simp only [mapElems, hg, Bool.cond_eq_ite]
  rw [hexec]
  exact ⟨fun hroom => by rw [fireSmithy_of_room hf hroom, hout], fun hfull => fireSmithy_of_full hf hfull⟩

end Sys2Proof.Machine
end

section
/-!
PROOFS. A line stored in memory (R75, R262, R430).
-/
namespace Sys2Proof.Machine

/-! ### The bytes of a stored line -/

/-- One byte of a line written where the mask names it. -/
def storeByte (line : Nat) (d : Line) (mask : BitVec 128) (m : Memory) (o : Nat) : Memory :=
  bif mask.getLsbD o then writeByte m (128 * line + o) (lineByte d o) else m

/-- A line is stored byte by byte. -/
theorem setMemLine_eq_foldl (m : Memory) (line : Nat) (d : Line) (mask : BitVec 128) :
    setMemLine m line d mask = (List.range 128).foldl (storeByte line d mask) m := rfl

section
variable {m : Memory} (line : Nat) (d : Line) (mask : BitVec 128)

theorem storeByte_wf (h : Memory.wf m = true) (o : Nat) : Memory.wf (storeByte line d mask m o) = true := by
  unfold storeByte
  cases mask.getLsbD o
  · exact h
  · exact writeByte_wf h _ _

theorem readByte_storeByte (h : Memory.wf m = true) (o a : Nat) :
    readByte (storeByte line d mask m o) a = if mask.getLsbD o = true ∧ a = 128 * line + o then lineByte d o else readByte m a := by
  unfold storeByte
  cases mask.getLsbD o
  · simp
  · simp [readByte_writeByte h]

/-- A byte that no offset of the list names with its mask bit set stays as it was. -/
theorem readByte_storeBytes_other {a : Nat} (l : List Nat) (h : Memory.wf m = true)
    (ha : ∀ o ∈ l, mask.getLsbD o = true → a ≠ 128 * line + o) : readByte (l.foldl (storeByte line d mask) m) a = readByte m a := by
  induction l generalizing m with
  | nil => rfl
  | cons o l ih =>
    obtain ⟨ho, hl⟩ := List.forall_mem_cons.mp ha
    rw [List.foldl_cons, ih (storeByte_wf line d mask h o) hl, readByte_storeByte line d mask h, if_neg (fun hm => ho hm.1 hm.2)]

/-- A byte that some offset of the list names with its mask bit set is the line's, whatever stood there. -/
theorem readByte_storeBytes_masked {o : Nat} (l : List Nat) (h : Memory.wf m = true) (hm : mask.getLsbD o = true) (ho : o ∈ l) :
    readByte (l.foldl (storeByte line d mask) m) (128 * line + o) = lineByte d o := by
  induction l generalizing m with
  | nil => cases ho
  | cons x l ih =>
    have hx := storeByte_wf line d mask h x
    rw [List.foldl_cons]
    by_cases hl : o ∈ l
    · exact ih hx hl
    · obtain rfl : o = x := (List.mem_cons.mp ho).resolve_right hl
      have hne : ∀ y ∈ l, mask.getLsbD y = true → 128 * line + o ≠ 128 * line + y := by
        intro y hy _ he
        exact hl (Nat.add_left_cancel he ▸ hy)
      rw [readByte_storeBytes_other line d mask l hx hne, readByte_storeByte line d mask h, if_pos ⟨hm, rfl⟩]

/-- What a read finds after a line is stored: the masked bytes of the line, every other byte as before. -/
theorem readByte_setMemLine (h : Memory.wf m = true) (a : Nat) :
    readByte (setMemLine m line d mask) a =
      if a / 128 = line ∧ mask.getLsbD (a % 128) = true then lineByte d (a % 128) else readByte m a := by
  rw [setMemLine_eq_foldl]
  split
  · next hin =>
    obtain ⟨rfl, hm⟩ := hin
    have := readByte_storeBytes_masked (a / 128) d mask (List.range 128) h hm (List.mem_range.mpr (Nat.mod_lt a (by decide)))
    rwa [Nat.div_add_mod] at this
  · next hout =>
    refine readByte_storeBytes_other line d mask _ h fun o ho hm he => hout ?_
    have ho := List.mem_range.mp ho
    obtain rfl : a % 128 = o := by omega
    exact ⟨by omega, hm⟩

end

/-! ### The poison of a stored line -/

theorem storeMem_mem (s : State) (line : Nat) (d : Line) (mask : BitVec 128) :
    (storeMem s line d mask none).mem = setMemLine s.mem line d mask := by
  simp only [storeMem]

/-- A line written whole leaves the poisoned lines, one written in part stays among them. -/
theorem mem_storeMem_poison (s : State) (line x : Nat) (d : Line) (mask : BitVec 128) :
    x ∈ (storeMem s line d mask none).poison ↔ x ∈ s.poison ∧ (mask ≠ BitVec.allOnes 128 ∨ x ≠ line) := by
  change x ∈ (bif mask == BitVec.allOnes 128 then s.poison.filter (· != line) else s.poison) ↔ _
  by_cases h : mask = BitVec.allOnes 128
  · simp [h]
  · rw [beq_eq_false_iff_ne.mpr h]
    simp [-BitVec.reduceAllOnes, h]

/-- Settles O8: what a read finds after a line is stored, with the canonical form that every write keeps. -/
theorem memoryStores : Obligations.MemoryStores := by
  intro s line d mask h t
  have hmem : t.mem = setMemLine s.mem line d mask := storeMem_mem s line d mask
  refine ⟨storeMem_wf h line d mask none, ?_, ?_, rfl, fun x => mem_storeMem_poison s line x d mask, reset_mem_wf, fun _ => rfl⟩
  · intro a hline hmask
    rw [hmem, readByte_setMemLine line d mask h, if_pos ⟨hline, hmask⟩]
    rfl
  · intro a hout
    rw [hmem, readByte_setMemLine line d mask h, if_neg]
    rintro ⟨hline, hmask⟩
    simp [hline, hmask] at hout

end Sys2Proof.Machine
end

section
/-!
PROOFS. The patterns of the element formats (R78) and the rounding of a value that a pattern has (R86).
-/
namespace Sys2Proof.Machine

/-! ### Patterns (R78) -/

/-- The sign of a pattern. -/
def negOf (f : Fmt) (v : Nat) : Bool := v % 2 ^ f.width / 2 ^ (f.width - 1) == 1

/-- The magnitude of a pattern, all but its sign. -/
def magOf (f : Fmt) (v : Nat) : Nat := v % 2 ^ (f.width - 1)

/-- A pattern has the bits of the width of its format alone. -/
theorem decodeF_mod (f : Fmt) (v : Nat) : decodeF f (v % 2 ^ f.width) = decodeF f v := by simp [decodeF]

theorem magOf_mod (f : Fmt) (v : Nat) : magOf f (v % 2 ^ f.width) = magOf f v :=
  Nat.mod_mod_of_dvd v (Nat.pow_dvd_pow 2 (Nat.sub_le f.width 1))

/-- The four kinds of pattern: an infinity, a NaN, a subnormal with its exponent the least, a normal with the hidden bit. -/
theorem decodeF_cases (f : Fmt) (v : Nat) :
    (f.inf = some (magOf f v) ∧ decodeF f v = .inf (negOf f v)) ∨
    (f.inf ≠ some (magOf f v) ∧ f.maxFin < magOf f v ∧ decodeF f v = .nan) ∨
    (f.inf ≠ some (magOf f v) ∧ magOf f v ≤ f.maxFin ∧ magOf f v < 2 ^ (f.prec - 1) ∧
      decodeF f v = .fin (negOf f v) (magOf f v) f.emin) ∨
    (f.inf ≠ some (magOf f v) ∧ magOf f v ≤ f.maxFin ∧ 2 ^ (f.prec - 1) ≤ magOf f v ∧
      decodeF f v = .fin (negOf f v) (magOf f v % 2 ^ (f.prec - 1) + 2 ^ (f.prec - 1))
        (f.emin + (((magOf f v / 2 ^ (f.prec - 1) : Nat) : Int) - 1))) := by
  have hmag : v % 2 ^ f.width % 2 ^ (f.width - 1) = magOf f v := magOf_mod f v
  have hpos : 0 < 2 ^ (f.prec - 1) := Nat.two_pow_pos _
  unfold decodeF
  simp only [hmag, Nat.div_eq_zero_iff_lt hpos]
  by_cases hinf : f.inf = some (magOf f v)
  · exact .inl ⟨hinf, if_pos hinf⟩
  by_cases hmax : f.maxFin < magOf f v
  · exact .inr (.inl ⟨hinf, hmax, by rw [if_neg hinf, if_pos hmax]⟩)
  by_cases hsub : magOf f v < 2 ^ (f.prec - 1)
  · refine .inr (.inr (.inl ⟨hinf, Nat.not_lt.mp hmax, hsub, ?_⟩))
    rw [if_neg hinf, if_neg hmax, if_pos hsub, Nat.mod_eq_of_lt hsub]
    rfl
  · refine .inr (.inr (.inr ⟨hinf, Nat.not_lt.mp hmax, Nat.not_lt.mp hsub, ?_⟩))
    rw [if_neg hinf, if_neg hmax, if_neg hsub]
    rfl

/-- The two halves of the patterns of a format. -/
theorem two_pow_width {f : Fmt} (hw : f.width ≠ 0) : 2 ^ f.width = 2 ^ (f.width - 1) * 2 := by
  rw [← Nat.pow_succ, Nat.succ_eq_add_one, Nat.sub_add_cancel (Nat.one_le_iff_ne_zero.mpr hw)]

/-- A pattern is its sign bit and its magnitude. -/
theorem signBit_add_magOf {f : Fmt} (hw : f.width ≠ 0) (v : Nat) : signBit f (negOf f v) + magOf f v = v % 2 ^ f.width := by
  have hlt : v % 2 ^ f.width / 2 ^ (f.width - 1) < 2 := by
    rw [Nat.div_lt_iff_lt_mul (Nat.two_pow_pos _), Nat.mul_comm, ← two_pow_width hw]
    exact Nat.mod_lt v (Nat.two_pow_pos _)
  have hsplit := Nat.div_add_mod (v % 2 ^ f.width) (2 ^ (f.width - 1))
  rw [← magOf, magOf_mod] at hsplit
  unfold signBit negOf
  interval_cases hq : v % 2 ^ f.width / 2 ^ (f.width - 1)
  · simpa using hsplit
  · simpa using hsplit

/-! ### Rounding what is exact (R86) -/

section
variable {r : Rnd} (hr : r.word < 2 ^ 16)
include hr

/-- Where nothing remains, no mode rounds up: the stochastic word alone stays below 1. -/
theorem roundsUp_exact (neg : Bool) (k d : Nat) : roundsUp r neg k 0 d false = false := by
  obtain ⟨mode, word⟩ := r
  cases mode with
  | rne =>
    have h : (0 : Nat) ≠ 2 ^ d := (Nat.two_pow_pos d).ne
    simp [roundsUp, blt_eq_decide, h]
  | rz => rfl
  | rup => rfl
  | sr => simpa [roundsUp, ble_eq_decide] using hr

/-- A multiple of the step is kept. -/
theorem roundStep_exact (neg : Bool) (m : Nat) (e : Int) : roundStep r neg m e e false = m := by
  simp [roundStep, roundsUp_exact hr]

/-- A magnitude whose exponent is that of its rounding step is its own pattern. -/
theorem roundMag_exact {f : Fmt} {m : Nat} {e : Int} (sat neg : Bool) (hzero : m = 0 → e = f.emin)
    (hstep : max f.emin ((Nat.log2 m : Int) + e - ((f.prec : Int) - 1)) = e)
    (hmax : (e - f.emin).toNat * 2 ^ (f.prec - 1) + m ≤ f.maxFin) :
    roundMag f r sat neg m e false = signBit f neg + ((e - f.emin).toNat * 2 ^ (f.prec - 1) + m) := by
  unfold roundMag
  by_cases hm : m = 0
  · obtain rfl := hzero hm
    simp [hm, roundsUp_exact hr]
  · simp only [hm, if_false, hstep, roundStep_exact hr, if_neg (Nat.not_lt.mpr hmax)]

/-- A magnitude below the first normal one, with the least exponent. -/
theorem roundMag_subnormal {f : Fmt} {m : Nat} (sat neg : Bool) (hp : f.prec ≠ 0) (hm : m < 2 ^ (f.prec - 1)) (hmax : m ≤ f.maxFin) :
    roundMag f r sat neg m f.emin false = signBit f neg + m := by
  have hlog : Nat.log2 m ≤ f.prec - 1 := by
    by_cases h0 : m = 0
    · simp [h0]
    · exact Nat.le_of_lt ((Nat.log2_lt h0).mpr hm)
  have h := roundMag_exact hr (f := f) (m := m) (e := f.emin) sat neg (fun _ => rfl) (by omega) (by simpa using hmax)
  simpa using h

/-- A magnitude with its hidden bit, at the exponent of a field `k + 1`. -/
theorem roundMag_normal {f : Fmt} {m k : Nat} (sat neg : Bool) (hp : f.prec ≠ 0) (hm : m < 2 ^ (f.prec - 1))
    (hmax : (k + 1) * 2 ^ (f.prec - 1) + m ≤ f.maxFin) :
    roundMag f r sat neg (m + 2 ^ (f.prec - 1)) (f.emin + k) false = signBit f neg + ((k + 1) * 2 ^ (f.prec - 1) + m) := by
  have hpos : 0 < 2 ^ (f.prec - 1) := Nat.two_pow_pos _
  have hlog : Nat.log2 (m + 2 ^ (f.prec - 1)) = f.prec - 1 := by
    rw [Nat.log2_eq_iff (by omega), Nat.pow_succ]
    omega
  have hpat : (f.emin + k - f.emin).toNat * 2 ^ (f.prec - 1) + (m + 2 ^ (f.prec - 1)) = (k + 1) * 2 ^ (f.prec - 1) + m := by
    rw [add_sub_cancel_left, Int.toNat_natCast, Nat.succ_mul]
    omega
  rw [← hpat] at hmax ⊢
  exact roundMag_exact hr sat neg (by omega) (by rw [hlog]; omega) hmax

/-- The value of a pattern that is no NaN rounds to the pattern. -/
theorem roundF_decodeF {f : Fmt} (hp : f.prec ≠ 0) (hw : f.width ≠ 0) {v : Nat} (hv : v < 2 ^ f.width) (hnan : decodeF f v ≠ .nan) :
    roundF f r false (decodeF f v) = v := by
  have hpos : 0 < 2 ^ (f.prec - 1) := Nat.two_pow_pos _
  have hsum : signBit f (negOf f v) + magOf f v = v := by rw [signBit_add_magOf hw, Nat.mod_eq_of_lt hv]
  obtain ⟨hinf, hval⟩ | ⟨_, _, hval⟩ | ⟨_, hmax, hsub, hval⟩ | ⟨_, hmax, hnorm, hval⟩ := decodeF_cases f v
  · rw [hval]
    simpa [roundF, overflowF, hinf] using hsum
  · exact absurd hval hnan
  · rw [hval]
    exact (roundMag_subnormal hr false _ hp hsub hmax).trans hsum
  · obtain ⟨k, hk⟩ : ∃ k, magOf f v / 2 ^ (f.prec - 1) = k + 1 := Nat.exists_eq_succ_of_ne_zero (Nat.div_pos hnorm hpos).ne'
    have hmag : (k + 1) * 2 ^ (f.prec - 1) + magOf f v % 2 ^ (f.prec - 1) = magOf f v := by
      rw [← hk, Nat.mul_comm, Nat.div_add_mod]
    have hexp : f.emin + (((k + 1 : Nat) : Int) - 1) = f.emin + k := by omega
    rw [hval, hk, hexp]
    refine (roundMag_normal hr false _ hp (Nat.mod_lt _ hpos) (by rwa [hmag])).trans ?_
    rw [hmag, hsum]

end

/-- Settles O22, by the kinds of pattern: an infinity stays, a subnormal and a normal stand at the exponent of their rounding step. -/
theorem representableExact : Obligations.RepresentableExact := by
  intro f r p hf hr hp hnan
  have hfmt : f.prec ≠ 0 ∧ f.width ≠ 0 := by
    simp only [List.mem_cons, List.not_mem_nil, or_false] at hf
    rcases hf with rfl | rfl | rfl | rfl <;> decide
  exact roundF_decodeF hr hfmt.1 hfmt.2 hp hnan

end Sys2Proof.Machine
end

section
/-!
PROOFS. The floating-point forms: arithmetic, patterns, conversions and scaling (R78-R90, R181-R193).
-/
namespace Sys2Proof.Machine
open Sys2Proof.Claim

/-! ### Forms that map their elements -/

/-- An instruction that maps each element of a firing, and takes no unit: its time, its limit of elements, the width of its results. -/
def MapsElems (i : Instr) (s : State) (c : Ctx) (lat lim : Nat) (wide : Bool) (c1 c0 : Cons) (f : Nat → Dword) : Prop :=
  ∃ (u : Lat) (g : Ctx → Nat → Dword), u.per = 0 ∧ u.base = lat ∧ exec i s = fireMap s u lim c1 c0 wide g ∧ ∀ e, g c e = f e

/-- Such a firing resolves its elements and sends one result for each. -/
theorem MapsElems.next {i : Instr} {s : State} {c : Ctx} {lat lim : Nat} {wide : Bool} {c1 c0 : Cons} {f : Nat → Dword} {es : List Nat}
    (h : MapsElems i s c lat lim wide c1 c0 f) (hf : Fires s c lim es) :
    exec i s = .next (complete s c lat es (perElem c c1 c0 (if wide = true then .r64 else .r32) es f)) := by
  obtain ⟨u, g, hper, rfl, hexec, hg⟩ := h
  obtain ⟨hc, he, hn⟩ := hf
  have hout : both c1 c0 (runKind wide) (mapElems c es (g c)) = perElem c c1 c0 (if wide = true then .r64 else .r32) es f := by
    simp only [mapElems, hg, Bool.cond_eq_ite, perElem, runKind]
  rw [hexec, fireMap_next hc he hn, hout]
  simp [takeUnit, Lat.cycles, Lat.busy, hper]

/-! ### Operands and roundings -/

/-- The format of a floating-point type has the width of the type. -/
theorem fmtOf_width {ty : Ty} (h : isFloat ty = true) : (fmtOf ty).width = tyWidth ty := by
  cases ty <;> cases h <;> rfl

/-- A format of R78 has a sign bit. -/
theorem fmtOf_width_ne (ty : Ty) : (fmtOf ty).width ≠ 0 := by cases ty <;> decide

section
variable {ty : Ty} (h : isFloat ty = true) (c : Ctx) (port e : Nat)
include h

/-- The pattern of an element is the element at the width of its format. -/
theorem pat_eq : pat c ty port e = (c.val port e).toNat % 2 ^ (fmtOf ty).width := by rw [pat, fmtOf_width h]

theorem fval_eq : fval c ty port e = decodeF (fmtOf ty) (c.val port e).toNat := by rw [fval, pat_eq h, decodeF_mod]

end

theorem rndOf_eq_rounding (c : Ctx) (rm : Rm) (e : Nat) : rndOf c rm e = rounding c rm e := by
  cases rm <;> simp [rndOf, rounding]

/-! ### Arithmetic (R182) -/

theorem mapsElems_floatArith {i : Instr} {s : State} {c : Ctx} {f : Nat → Dword} {ty : Ty} {n lat : Nat} {wide : Bool} {c1 c0 : Cons}
    (hform : floatForm n i = some (lat, wide, c1, c0)) (hty : floatTy i = some ty) (hfl : isFloat ty = true)
    (hval : ∀ e, floatArith c e i = some (f e)) : MapsElems i s c lat 32 false c1 c0 f := by
  have hrd := fval_eq hfl c
  have hrnd := rndOf_eq_rounding c
  cases i
  case fadd | fsub | fmul | fma =>
    cases hform
    cases hty
    refine ⟨_, _, rfl, rfl, rfl, fun e => Option.some.inj (Eq.trans ?_ (hval e))⟩
    simp only [floatArith, rounded, hrd, ← hrnd]
    rfl
  all_goals cases hval 0

theorem floatArithmetic_says : Sys2Proof.Says.FloatArithmetic := by
  intro i s c es f ty lat wide c1 c0 hform hty hfl hf hval
  exact (mapsElems_floatArith hform hty hfl hval).next hf

/-! ### Signs (R78, R184) -/

theorem negOf_eq_mod {f : Fmt} (hw : f.width ≠ 0) (v : Nat) : negOf f v = (v / 2 ^ (f.width - 1) % 2 == 1) := by
  rw [negOf, two_pow_width hw, Nat.mod_mul_right_div_self]

/-- The negative patterns are the upper half. -/
theorem negOf_eq_decide {f : Fmt} (hw : f.width ≠ 0) (v : Nat) : negOf f v = decide (2 ^ (f.width - 1) ≤ v % 2 ^ f.width) := by
  have hmag : magOf f v < 2 ^ (f.width - 1) := Nat.mod_lt v (Nat.two_pow_pos _)
  rw [← signBit_add_magOf hw]
  cases negOf f v
  · simpa [signBit] using hmag
  · simp [signBit]

theorem two_pow_add_eq_xor {n y : Nat} (hy : y < 2 ^ n) : 2 ^ n + y = y ^^^ 2 ^ n := by
  apply Nat.eq_of_testBit_eq
  intro i
  have hsum := Nat.testBit_two_pow_mul_add 1 hy i
  rw [Nat.mul_one] at hsum
  rw [hsum, Nat.testBit_xor, Nat.testBit_two_pow]
  by_cases hi : i < n
  · simp [hi, Nat.ne_of_gt hi]
  · have hy' : y.testBit i = false := Nat.testBit_lt_two_pow (lt_of_lt_of_le hy (Nat.pow_le_pow_right (by decide) (Nat.not_lt.mp hi)))
    rw [if_neg hi, hy', Bool.false_xor, Bool.eq_iff_iff, Nat.testBit_one_eq_true_iff_self_eq_zero, decide_eq_true_iff]
    omega

/-- The other sign is the sign bit flipped. -/
theorem signBit_not_add_magOf {f : Fmt} (hw : f.width ≠ 0) (v : Nat) :
    signBit f (!negOf f v) + magOf f v = v % 2 ^ f.width ^^^ 2 ^ (f.width - 1) := by
  have hmag : magOf f v < 2 ^ (f.width - 1) := Nat.mod_lt v (Nat.two_pow_pos _)
  rw [← signBit_add_magOf hw]
  cases negOf f v
  · simpa [signBit] using two_pow_add_eq_xor hmag
  · simp [signBit, two_pow_add_eq_xor hmag]

/-- FABS and FNEG change the sign of a magnitude. -/
theorem signF_eq {f : Fmt} (hw : f.width ≠ 0) (g : Bool → Bool) (v : Nat) :
    signF g f v = if (decodeF f v).isNan = true then f.nan else signBit f (g (negOf f v)) + magOf f v := by
  rw [negOf_eq_mod hw]
  rfl

/-! ### Patterns (R183-R185) -/

theorem ltSigned_iff (x y : FVal) :
    ltSigned x y = true ↔ compareF x y = .lt ∨ (compareF x y = .eq ∧ x.neg = true ∧ y.neg = false) := by
  unfold ltSigned
  cases compareF x y <;> simp

/-- The mask of a class has the bit of the statement. -/
theorem classMask_eq {ty : Ty} (v : Nat) : classMask (fmtOf ty) v = 2 ^ classBit ty (v % 2 ^ (fmtOf ty).width) := by
  have hpos : 0 < 2 ^ ((fmtOf ty).prec - 1) := Nat.two_pow_pos _
  have hmag : v % 2 ^ (fmtOf ty).width % 2 ^ ((fmtOf ty).width - 1) = magOf (fmtOf ty) v := magOf_mod _ v
  unfold classMask classBit
  simp only [hmag, ← negOf_eq_decide (fmtOf_width_ne ty)]
  obtain ⟨hinf, hval⟩ | ⟨hinf, hmax, hval⟩ | ⟨hinf, hmax, hsub, hval⟩ | ⟨hinf, hmax, hnorm, hval⟩ := decodeF_cases (fmtOf ty) v
  · rw [hval, if_pos hinf]
    cases negOf (fmtOf ty) v <;> rfl
  · rw [hval, if_neg hinf, if_pos hmax]
  · rw [hval, if_neg hinf, if_neg (Nat.not_lt.mpr hmax)]
    by_cases hzero : magOf (fmtOf ty) v = 0
    · simp only [hzero, if_true]
      cases negOf (fmtOf ty) v <;> rfl
    · simp only [hzero, hsub, if_true, if_false]
      cases negOf (fmtOf ty) v <;> rfl
  · have hne : magOf (fmtOf ty) v ≠ 0 := by omega
    rw [hval, if_neg hinf, if_neg (Nat.not_lt.mpr hmax), if_neg hne, if_neg (Nat.not_lt.mpr hnorm)]
    simp only [Nat.add_eq_zero_iff, hpos.ne', and_false, if_false, if_neg (Nat.not_lt.mpr (Nat.le_add_left _ _))]
    cases negOf (fmtOf ty) v <;> rfl

section
variable {ty : Ty} (h : isFloat ty = true) (c : Ctx) (e : Nat)
include h

theorem pick_eq_minmaxF (less nanp : Bool) :
    pick less nanp c ty e = minmaxF less nanp (fmtOf ty) (c.val 0 e).toNat (c.val 1 e).toNat := by
  unfold pick minmaxF
  simp only [fval_eq h, pat_eq h, ← ltSigned_iff]
  generalize decodeF (fmtOf ty) (c.val 0 e).toNat = x
  generalize decodeF (fmtOf ty) (c.val 1 e).toNat = y
  cases x.isNan <;> cases y.isNan
  · cases less <;> cases ltSigned y x <;> rfl
  · cases nanp <;> rfl
  · cases nanp <;> rfl
  · rfl

theorem floatPick_fmin (nanp : Bool) (c1 c0 : Cons) :
    floatPick c e (.fmin nanp ty c1 c0) = some (patF (minmaxF true nanp (fmtOf ty) (c.val 0 e).toNat (c.val 1 e).toNat)) :=
  congrArg (fun v => some (dw v)) (pick_eq_minmaxF h c e true nanp)

theorem floatPick_fmax (nanp : Bool) (c1 c0 : Cons) :
    floatPick c e (.fmax nanp ty c1 c0) = some (patF (minmaxF false nanp (fmtOf ty) (c.val 0 e).toNat (c.val 1 e).toNat)) :=
  congrArg (fun v => some (dw v)) (pick_eq_minmaxF h c e false nanp)

theorem floatPick_fabs (c1 c0 : Cons) :
    floatPick c e (.fabs ty c1 c0) = some (patF (signF (fun _ => false) (fmtOf ty) (c.val 0 e).toNat)) := by
  simp only [floatPick, fval_eq h, pat_eq h, signF_eq (fmtOf_width_ne ty)]
  rw [← magOf, magOf_mod]
  simp [patF, signBit]

theorem floatPick_fneg (c1 c0 : Cons) :
    floatPick c e (.fneg ty c1 c0) = some (patF (signF (!·) (fmtOf ty) (c.val 0 e).toNat)) := by
  simp only [floatPick, fval_eq h, pat_eq h, signF_eq (fmtOf_width_ne ty), signBit_not_add_magOf (fmtOf_width_ne ty)]
  rfl

theorem floatPick_fclass (c1 c0 : Cons) :
    floatPick c e (.fclass ty c1 c0) = some (dw (classMask (fmtOf ty) (c.val 0 e).toNat)) := by
  rw [floatPick, pat_eq h, classMask_eq]

theorem floatPick_fcmp (cond : Cmp) (c1 c0 : Cons) :
    floatPick c e (.fcmp cond ty c1 c0) = some (flag (cmpFloat cond (rdF c (fmtOf ty) 0 e) (rdF c (fmtOf ty) 1 e))) := by
  rw [rdF, rdF, ← fval_eq h, ← fval_eq h]
  simp only [floatPick, cmpFloat]
  generalize fval c ty 0 e = x
  generalize fval c ty 1 e = y
  cases x.isNan || y.isNan
  · cases cond <;> simp [flag, Bool.cond_eq_ite]
  · cases cond <;> simp [flag]

end

theorem mapsElems_floatPick {i : Instr} {s : State} {c : Ctx} {f : Nat → Dword} {ty : Ty} {n lat : Nat} {wide : Bool} {c1 c0 : Cons}
    (hform : floatForm n i = some (lat, wide, c1, c0)) (hty : floatTy i = some ty) (hfl : isFloat ty = true)
    (hval : ∀ e, floatPick c e i = some (f e)) : MapsElems i s c lat 32 false c1 c0 f := by
  cases i
  case fmin | fmax | fabs | fneg | fclass | fcmp =>
    cases hform
    cases hty
    refine ⟨_, _, rfl, rfl, rfl, fun e => Option.some.inj (Eq.trans ?_ (hval e))⟩
    simp only [floatPick_fmin hfl, floatPick_fmax hfl, floatPick_fabs hfl, floatPick_fneg hfl, floatPick_fclass hfl, floatPick_fcmp hfl]
  all_goals cases hval 0

theorem floatPatterns_say : Sys2Proof.Says.FloatPatterns := by
  intro i s c es f ty lat wide c1 c0 hform hty hfl hf hval
  exact (mapsElems_floatPick hform hty hfl hval).next hf

/-! ### FRND, CVT and QNT (R186, R190-R192) -/

theorem laneLimit_eq_lanes (wide : Bool) : laneLimit wide = lanes wide := by cases wide <;> rfl

theorem convert_frnd {ty : Ty} (h : isFloat ty = true) (c : Ctx) (e : Nat) (rm : Rm) (c1 c0 : Cons) :
    convert c e (.frnd rm ty c1 c0) = some (patF (frndF (fmtOf ty) (rounding c rm e) (c.val 0 e).toNat)) := by
  simp only [convert, fval_eq h, pat_eq h, frndF, ← signBit_add_magOf (fmtOf_width_ne ty)]
  obtain ⟨hinf, hval⟩ | ⟨_, _, hval⟩ | ⟨_, _, _, hval⟩ | ⟨_, _, _, hval⟩ := decodeF_cases (fmtOf ty) (c.val 0 e).toNat
  · rw [hval, hinf]
    rfl
  all_goals
    rw [hval]
    rfl

/-- An integer of a type of at least 32 bits is written as its residue. -/
theorem wrInt_of_wide {t : IntTy} (h : 32 ≤ itWidth t) (x : Int) : wrInt t x = dw (x % (2 ^ itWidth t : Nat)).toNat := by
  have hnarrow : (itWidth t).blt 32 = false := by
    rw [blt_eq_decide]
    exact decide_eq_false (Nat.not_lt.mpr h)
  simp [wrInt, hnarrow]

/-- An integer in the range of i8 is written at 32 bits as it is. -/
theorem wrInt_i8 {x : Int} (hlo : -128 ≤ x) (hhi : x ≤ 127) : wrInt .i8 x = dw (x % 2 ^ 32).toNat := by
  have hsx : sx (x % 256).toNat 8 = x := by
    simp only [sx]
    split <;> omega
  change dw (sx (x % 256).toNat 8 % 2 ^ 32).toNat = _
  rw [hsx]

theorem toIntF_mem (r : Rnd) {lo hi : Int} (hlo : lo ≤ 0) (hhi : 0 ≤ hi) (v : FVal) : lo ≤ toIntF r lo hi v ∧ toIntF r lo hi v ≤ hi := by
  cases v with
  | nan => exact ⟨hlo, hhi⟩
  | inf neg =>
    simp only [toIntF]
    split <;> omega
  | fin neg m e =>
    simp only [toIntF, clamp]
    split
    · omega
    · split <;> omega

theorem wrInt_i8_toIntF (r : Rnd) (v : FVal) : wrInt .i8 (toIntF r (-128) 127 v) = dw (toIntF r (-128) 127 v % 2 ^ 32).toNat := by
  obtain ⟨hlo, hhi⟩ := toIntF_mem r (by decide : (-128 : Int) ≤ 0) (by decide : (0 : Int) ≤ 127) v
  exact wrInt_i8 hlo hhi

section
variable (c : Ctx) (e : Nat) (r : Rnd)

/-- A conversion between floating-point formats. -/
theorem cvtElem_float {cv : Nat} {src dst : Ty} (hcv : cv < 7 ∨ 12 < cv) (hfl : isFloat src = true) (hsrc : cvtSrc cv = fmtOf src)
    (hdst : cvtDst cv = fmtOf dst) :
    cvtElem cv r (c.kind 0) (c.val 0 e) = dw (roundF (fmtOf dst) r (cv == 3) (fval c src 0 e)) := by
  rw [fval_eq hfl, ← hsrc, ← hdst, cvtElem, if_neg (by omega), if_neg (by omega)]
  rfl

/-- A conversion to an integer. -/
theorem cvtElem_toInt {cv : Nat} (hcv : 7 ≤ cv ∧ cv ≤ 9) (hw : 32 ≤ itWidth (cvtInt cv)) :
    cvtElem cv r (c.kind 0) (c.val 0 e) =
      dw (toIntF r (itMin (cvtInt cv)) (itMax (cvtInt cv)) (fval c .f32 0 e) % (2 ^ itWidth (cvtInt cv) : Nat)).toNat := by
  rw [fval_eq rfl, cvtElem, if_pos hcv]
  exact wrInt_of_wide hw _

/-- A conversion from an integer. -/
theorem cvtElem_ofInt {cv : Nat} (hcv : 10 ≤ cv ∧ cv ≤ 12) :
    cvtElem cv r (c.kind 0) (c.val 0 e) = dw (roundF fmtF32 r false (ofInt (rdInt (cvtInt cv) (c.kind 0) (c.val 0 e)))) := by
  rw [cvtElem, if_neg (by omega), if_pos hcv]
  rfl

end

section
variable {c : Ctx} {e : Nat} {rm : Rm} {c1 c0 : Cons} {v : Dword}

theorem cvtElem_of_convert {cv : BitVec 4} (h : convert c e (.cvt rm cv c1 c0) = some v) :
    cvtElem cv.toNat (rounding c rm e) (c.kind 0) (c.val 0 e) = v := by
  simp only [convert] at h
  split at h
  case h_8 | h_9 | h_10 => exact (cvtElem_toInt c e _ (by decide) (by decide)).trans (Option.some.inj h)
  case h_11 | h_12 | h_13 => exact (cvtElem_ofInt c e _ (by decide)).trans (Option.some.inj h)
  case h_16 => cases h
  all_goals exact (cvtElem_float c e _ (by decide) rfl rfl rfl).trans (Option.some.inj h)

theorem qntElem_of_convert {ty : Ty} (h : convert c e (.qnt rm ty c1 c0) = some v) :
    qntElem ty (rounding c rm e) (c.val 0 e).toNat ((c.val 1 e).toNat % 256) = v := by
  simp only [convert] at h
  rw [fval_eq rfl] at h
  split at h
  case h_1 =>
    rw [← Option.some.inj h]
    rfl
  case h_2 =>
    rw [← Option.some.inj h]
    rfl
  case h_3 =>
    rw [← Option.some.inj h]
    simp only [toInt, ← wrInt_i8_toIntF]
    rfl
  case h_4 => cases h

end

theorem mapsElems_convert {i : Instr} {s : State} {c : Ctx} {f : Nat → Dword} {ty : Ty} {n lat : Nat} {wide : Bool} {c1 c0 : Cons}
    (hform : floatForm n i = some (lat, wide, c1, c0)) (hty : floatTy i = some ty) (hfl : isFloat ty = true)
    (hval : ∀ e, convert c e i = some (f e)) : MapsElems i s c lat (lanes (longForm i)) wide c1 c0 f := by
  rw [← laneLimit_eq_lanes]
  cases i
  case frnd rm ty' c1' c0' =>
    cases hform
    cases hty
    refine ⟨_, _, rfl, rfl, rfl, fun e => ?_⟩
    rw [rndOf_eq_rounding]
    exact Option.some.inj ((convert_frnd hfl c e rm _ _).symm.trans (hval e))
  case cvt rm cv c1' c0' =>
    cases hform
    refine ⟨_, _, rfl, rfl, rfl, fun e => ?_⟩
    rw [rndOf_eq_rounding]
    exact cvtElem_of_convert (hval e)
  case qnt rm ty' c1' c0' =>
    cases hform
    refine ⟨_, _, rfl, rfl, rfl, fun e => ?_⟩
    rw [rndOf_eq_rounding]
    exact qntElem_of_convert (hval e)
  all_goals cases hval 0

theorem floatConversions_say : Sys2Proof.Says.FloatConversions := by
  intro i s c es f ty lat wide c1 c0 hform hty hfl hf hval
  exact (mapsElems_convert hform hty hfl hval).next hf

/-- Settles O19: the model's rounding and patterns of each form are the statement's, and the form maps its elements. -/
theorem floatArithmetic : Obligations.FloatArithmetic :=
  ⟨floatArithmetic_says, floatPatterns_say⟩

/-! ### DQNT (R193, R82) -/

/-- Whether an element of DQNT is a bare marker of i4x. -/
def bareMarker (ty : Ty) (x : Nat) : Bool := decide (ty = .i4x ∧ x % 16 = 8)

/-- The value of an element of DQNT before it is scaled. -/
def dqntValue (ty : Ty) (x : Nat) : FVal :=
  match ty with
  | .i4x => if bareMarker ty x = true then .fin false 0 0 else ofInt (sx x 4)
  | .i8 => ofInt (sx x 8)
  | t => decodeF (fmtOf t) x

theorem dqntElem_eq (ty : Ty) (x scale : Nat) :
    dqntElem ty x scale =
      (if scale = 255 then 0x7FC00000 else dw (roundF fmtF32 rne false (scaleF ((scale : Int) - 127) (dqntValue ty x))),
        scale != 255 && bareMarker ty x) := by
  unfold dqntElem
  by_cases hs : scale = 255
  · simp only [hs]
    rfl
  · have hs' : (scale != 255) = true := by simpa using hs
    rw [if_neg hs, if_neg hs, hs', Bool.true_and]
    cases ty
    case i4x =>
      by_cases hx : x % 16 = 8
      · simp [bareI4x, dqntValue, bareMarker, hx, patF]
        rfl
      · simp [bareI4x, dqntValue, bareMarker, hx, patF]
    all_goals rfl

/-- A firing of DQNT: what its elements give, and the flag they set. -/
theorem execDqnt_next {s : State} {c : Ctx} {es : List Nat} (ty : Ty) (c1 c0 : Cons) (h : FiresAll s c es) :
    let one := fun e => dqntElem ty (c.val 0 e).toNat ((c.val 1 e).toNat % 256)
    execDqnt ty c1 c0 s = .next (complete
      (onPlot s c.f.plot (fun p => { p with numst := setFx p.numst (es.any (fun e => !c.null e && (one e).2)) })) c 4 es
      (both c1 c0 .r32 (mapElems c es (fun e => (one e).1)))) := by
  obtain ⟨hc, he, hn⟩ := h
  obtain ⟨x, xs, rfl⟩ := List.exists_cons_of_ne_nil hn
  unfold execDqnt
  simp only [hc, he]

theorem dequantise_says : Sys2Proof.Says.Dequantise := by
  intro s c es ty c1 c0 h scale bare8 value fx
  have hset : ∀ n : Dword, setFx n fx = if fx = true then n ||| 1 else n := fun n => Bool.cond_eq_ite fx _ _
  have hfx : es.any (fun e => !c.null e && (dqntElem ty (c.val 0 e).toNat (scale e)).2) = fx := by
    simp only [dqntElem_eq, ← Bool.and_assoc]
    rfl
  have hout : both c1 c0 .r32 (mapElems c es (fun e => (dqntElem ty (c.val 0 e).toNat (scale e)).1)) =
      perElem c c1 c0 .r32 es (fun e => if scale e = 255 then 0x7FC00000
        else dw (roundF fmtF32 rne false (scaleF ((scale e : Int) - 127) (value e)))) := by
    simp only [dqntElem_eq, mapElems, Bool.cond_eq_ite]
    rfl
  refine (execDqnt_next ty c1 c0 h : exec (.dqnt ty c1 c0) s = _).trans ?_
  simp only [← hset]
  rw [← hout, ← hfx]

/-- Settles O20: the model's rounding, conversion and scaling of an element are the statement's, and the form maps its elements. -/
theorem floatConversions : Obligations.FloatConversions :=
  ⟨floatConversions_say, dequantise_says⟩

end Sys2Proof.Machine
end

section
/-!
PROOFS. Reductions and scans: the window, the combination of the next tag, the emission of a result that is due (R94, R195-R197).
-/
namespace Sys2Proof.Machine
open Sys2Proof.Claim

/-! ### Elements enter the window (R94, R195) -/

theorem isLong_eq_decide (ty : Ty) : (ty == .i64 || ty == .n64) = decide (ty = .i64 ∨ ty = .n64) := by cases ty <;> rfl

theorem plainNan_eq (f : Fmt) (x : Nat) : plainNan f x = if decodeF f x = .nan then f.nan else x := by
  unfold plainNan
  cases decodeF f x <;> simp

/-- What an element brings, as the model reads it and as the statement says. -/
theorem redIn_eq (c : Ctx) (ty : Ty) (e : Nat) :
    (bif c.null e then RedIn.null else bif c.fed 3 && c.val 3 e == 0 then RedIn.skip
      else RedIn.val (redRead ty (c.kind 0) (c.val 0 e))) = redIn c ty e := by
  have hread : redRead ty (c.kind 0) (c.val 0 e) = (if ty.isInt = true then wrInt (tyInt ty) (rdInt (tyInt ty) (c.kind 0) (c.val 0 e))
      else dw (plainNan (fmtOf ty) ((c.val 0 e).toNat % 2 ^ tyWidth ty))) := Bool.cond_eq_ite ..
  simp only [redIn, hread, plainNan_eq, Bool.cond_eq_ite, Bool.and_eq_true, beq_iff_eq]

theorem fireRed_next {s : State} {c : Ctx} {es : List Nat} {ty : Ty} (hf : Fires s c (lanes (decide (ty = .i64 ∨ ty = .n64))) es)
    (hroom : c.inst.run < runOf c.blk.bounds (Tab.atD c.blk.reds c.f.slot Red.zero).next + 32) :
    let r := Tab.atD c.blk.reds c.f.slot Red.zero
    let r' : Red := { r with window := es.foldl (fun w e => Tab.set w (c.tag e) (redIn c ty e)) r.window }
    fireRed ty s = .next (inBlock (complete s c 2 es []) c (fun b => { b with reds := Tab.set b.reds c.f.slot r' })) := by
  obtain ⟨hc, he, hn⟩ := hf
  obtain ⟨x, xs, rfl⟩ := List.exists_cons_of_ne_nil hn
  rw [← isLong_eq_decide, ← laneLimit_eq_lanes] at he
  unfold fireRed
  simp only [hc, he, if_neg (Nat.not_le.mpr hroom), redIn_eq]
  rfl

theorem reductionWindow_says : Sys2Proof.Says.ReductionWindow := by
  intro i s c es ty hty hf r r' hroom
  cases i
  case redAdd | redMax | redMin | scanAdd =>
    cases hty
    exact fireRed_next hf hroom
  all_goals cases hty

/-! ### A change of one block -/

theorem Tab.upd_congr {α : Type} {t : Tab α} {k : Nat} {v : α} {g g' : α → α} (hv : Tab.at? t k = some v) (h : g v = g' v) :
    Tab.upd t k g = Tab.upd t k g' := by
  unfold Tab.upd
  simp only [hv, h]

/-- Two changes of a plot that agree on the plot there. -/
theorem onPlot_congr {s : State} {k : Nat} {p : Plot} {g g' : Plot → Plot} (hp : Tab.at? s.plots k = some p) (h : g p = g' p) :
    onPlot s k g = onPlot s k g' :=
  congrArg (fun plots => { s with plots := plots }) (Tab.upd_congr hp h)

/-- Two changes of a block that agree on the block there. -/
theorem onBlock_congr {p : Plot} {cell bidx : Nat} {b : Block} {g g' : Block → Block} (hb : blockAt? p cell bidx = some b)
    (h : g b = g' b) : onBlock p cell bidx g = onBlock p cell bidx g' := by
  unfold blockAt? at hb
  split at hb
  · cases hb
  · next c hc =>
    have hcell : ({ c with blocks := Tab.upd c.blocks bidx g } : Cell) = { c with blocks := Tab.upd c.blocks bidx g' } :=
      congrArg (fun blocks => { c with blocks := blocks }) (Tab.upd_congr hb h)
    exact congrArg (fun cells => { p with cells := cells }) (Tab.upd_congr
      (g := fun c => { c with blocks := Tab.upd c.blocks bidx g }) (g' := fun c => { c with blocks := Tab.upd c.blocks bidx g' }) hc hcell)

/-! ### The next tag is combined (R195-R197) -/

section
variable {b : Block} {f : RedForm} {slot : Nat} {r : Red} {x : RedIn}

theorem redInput?_of_eos (h : belowEos r.next (eosOfA b slot) = false) : redInput? b slot r = none := by simp [redInput?, h]

theorem redInput?_of_window (h : belowEos r.next (eosOfA b slot) = true) (hx : Tab.at? r.window r.next = some x) :
    redInput? b slot r = some x := by simp [redInput?, h, hx]

/-- Without an EOS, a tag that is not in the window brings nothing. -/
theorem redInput?_of_absent (hx : Tab.at? r.window r.next = none) (he : eosOf b slot = none) : redInput? b slot r = none := by
  simp [redInput?, hx, he, belowEos]

/-- A cycle does nothing where the next tag cannot be combined. -/
theorem combineSome_of_none (run n : Nat) (h : redInput? b slot r = none) : combineSome b f slot run n r = r := by
  cases n <;> simp [combineSome, canCombine, h]

/-- A cycle begins with the next tag of its run. -/
theorem combineSome_succ (n : Nat) (h : redInput? b slot r = some x) :
    combineSome b f slot (runOf b.bounds r.next) (n + 1) r =
      combineSome b f slot (runOf b.bounds r.next) n (combineNext b f slot r) := by
  simp [combineSome, canCombine, h]

/-- The next tag of a reduction joins the accumulator, and a scope that ends is closed. -/
theorem combineNext_eq (h : redInput? b slot r = some x) (hscan : f.scan = false) :
    combineNext b f slot r = scopeClosed b f { r with
      window := Tab.del r.window r.next, acc := accumulated f r.acc x, next := r.next + 1, left := 8 } := by
  unfold combineNext scopeClosed accumulated
  simp only [h, hscan, Bool.cond_eq_ite]
  cases x with
  | null => rfl
  | skip => rfl
  | val v => cases r.acc <;> rfl

theorem scopeClosed_window : (scopeClosed b f r).window = r.window := by
  unfold scopeClosed
  split <;> rfl

theorem scopeClosed_next : (scopeClosed b f r).next = r.next := by
  unfold scopeClosed
  split <;> rfl

/-- The tag that follows cannot be combined in the same cycle: it is not in the window, and no EOS has resolved it. -/
theorem redInput?_scopeClosed {acc : Option Dword} (hx : Tab.at? r.window (r.next + 1) = none) (he : eosOf b slot = none) :
    redInput? b slot (scopeClosed b f { r with window := Tab.del r.window r.next, acc := acc, next := r.next + 1, left := 8 }) = none := by
  refine redInput?_of_absent ?_ he
  rw [scopeClosed_window, scopeClosed_next]
  exact (Tab.at?_del_ne r.window (Nat.succ_ne_self r.next)).trans hx

/-- A cycle of a reduction: the next tag alone, where the form combines one tag in a cycle or the tag that follows is not there. -/
theorem combineSome_reduction (hbelow : belowEos r.next (eosOfA b slot) = true) (hx : Tab.at? r.window r.next = some x)
    (hone : f.slow = true ∨ (Tab.at? r.window (r.next + 1) = none ∧ eosOf b slot = none)) (hscan : f.scan = false) :
    combineSome b f slot (runOf b.bounds r.next) (bif f.slow then 1 else 32) r = scopeClosed b f { r with
      window := Tab.del r.window r.next, acc := accumulated f r.acc x, next := r.next + 1, left := 8 } := by
  have hin := redInput?_of_window hbelow hx
  cases hslow : f.slow
  case true => rw [cond_true, combineSome_succ 0 hin, combineSome, combineNext_eq hin hscan]
  case false =>
    obtain ⟨hgone, heos⟩ := hone.resolve_left (by simp [hslow])
    rw [cond_false, combineSome_succ 31 hin, combineNext_eq hin hscan]
    exact combineSome_of_none _ _ (redInput?_scopeClosed hgone heos)

/-- REDUCTION_COMBINE at a reducing slot leaves what a cycle of its combinations gives. -/
theorem exec_reductionCombine {s : State} {plot cell bidx : Nat} {p : Plot} {g : Block → Block} (hp : Tab.at? s.plots plot = some p)
    (hb : blockAt? p cell bidx = some b) (hf : redAt? b slot = some f) (hr : Tab.atD b.reds slot Red.zero = r)
    (hg : g b = { b with reds := Tab.set b.reds slot (combineSome b f slot (runOf b.bounds r.next) (bif f.slow then 1 else 32) r) }) :
    exec (.reductionCombine plot cell bidx slot) s = .next (onPlot s plot (fun p => onBlock p cell bidx g)) := by
  change execReductionCombine plot cell bidx slot s = _
  unfold execReductionCombine
  refine congrArg Host.Outcome.next (onPlot_congr hp (onBlock_congr hb ?_))
  rw [hg, hf, ← hr]

/-! ### A result that is due is emitted (R196, R197) -/

/-- Where no EOS closes a scope, and every result that is due lies below it, a reducing slot stands as it is. -/
theorem closeEos_of_below (hdue : ∀ d ∈ r.due, belowEos d.2.1 (eosOfA b slot) = true) (hopen : eosCloses b f slot r = false) :
    closeEos b f slot r = r := by
  have hall : r.due.filter (fun x => belowEos x.2.1 (eosOfA b slot)) = r.due := List.filter_eq_self.mpr hdue
  unfold closeEos
  simp only [hall, hopen, cond_false]

end

/-- Settles O13: the window takes what the elements bring, a cycle combines the next tag, and the oldest result that is due goes out. -/
theorem reductions : Obligations.Reductions := by
  refine ⟨reductionWindow_says, ?_⟩
  intro s plot cell bidx slot p b f x hp hb hf r
  refine ⟨fun hbelow => ?_, fun hbelow hx hone hscan => ?_, fun first es rest hdue hbelow hopen => ?_⟩
  · exact exec_reductionCombine hp hb hf rfl (by rw [combineSome_of_none _ _ (redInput?_of_eos hbelow)])
  · exact exec_reductionCombine hp hb hf rfl (by rw [combineSome_reduction hbelow hx hone hscan])
  · change execReductionEmit plot cell bidx slot s = _
    unfold execReductionEmit
    refine congrArg Host.Outcome.next (onPlot_congr hp ?_)
    have hclose : closeEos b f slot (Tab.atD b.reds slot Red.zero) = r := closeEos_of_below hbelow hopen
    simp only [hb, hf, hclose, hdue, Bool.cond_eq_ite]
    rfl

end Sys2Proof.Machine
end

section
/-!
PROOFS. Named storage: what a read and a write find in a header (R146, R147, R150), LDN, STN, KILL and the forms that deliver tile handles
(R153, R159, R163, R254), and the slots of on-chip folds (R140).
-/
namespace Sys2Proof.Machine
open Sys2Proof.Claim

/-! ### What a read and a write find (R147, R150) -/

section
variable {h : Dword} {ord : Nat}

theorem readCase_of_delivers (hd : delivers h ord) : readCase h ord = .deliver := by
  obtain ⟨hocc, hfull | hdead⟩ := hd
  · simp [readCase, unclaimed, hocc, hfull]
  · simp [readCase, unclaimed, hocc, hdead]

theorem readCase_of_overwritten (hlt : ord < hdrOcc h) (hc : ¬(hdrState h = 0 ∧ hdrReaders h = 0)) : readCase h ord = .expired 0 := by
  simp [readCase, unclaimed, hlt, hc]

theorem writeCase_of_overwritten (adj : Bool) (hlt : ord < hdrOcc h) (hc : ¬(hdrState h = 0 ∧ hdrReaders h = 0)) :
    writeCase h ord adj = .expired := by
  simp [writeCase, unclaimed, hlt, hc]

theorem writeCase_of_overwrites (adj : Bool) (ho : overwrites h ord) : writeCase h ord adj = .write := by
  obtain ⟨hempty, hnone⟩ | ⟨hle, hdead | hpoison⟩ := ho
  · simp [writeCase, unclaimed, hempty, hnone]
  · simp [writeCase, unclaimed, Nat.not_lt.mpr hle, hdead]
  · simp [writeCase, unclaimed, Nat.not_lt.mpr hle, hpoison]

/-- A full adjoint name takes what is stored as a summand (R150). -/
theorem writeCase_of_full_adjoint (hocc : hdrOcc h = ord) (hfull : hdrState h = 1) : writeCase h ord true = .add := by
  simp [writeCase, unclaimed, hocc, hfull]

theorem dropReader_eq_oneReaderFewer (h : Dword) : dropReader h = oneReaderFewer h := by
  simp only [dropReader, oneReaderFewer, Bool.cond_eq_ite, beq_iff_eq]

end

/-! ### Payloads (R153, R159) -/

theorem mkHandle_eq_handle (f : Fold) (keep : Bool) (ord : Nat) : mkHandle f.sid f.gen keep ord = handle f keep ord := by
  cases keep <;> simp [mkHandle, handle, at_, Nat.shiftLeft_eq]

theorem hdrOcc_mod (h : Dword) : hdrOcc h % 1099511627776 = hdrOcc h := Nat.mod_eq_of_lt (hdrOcc_lt h)

/-- TINFO of a read that finds its name gone (R159). -/
theorem infoFold_read (sid cls why nidx : Nat) (h : Dword) :
    infoFold sid cls false false why nidx (hdrOcc h) = dw (sid * 2 ^ 52 + cls * 2 ^ 50 + why * 2 ^ 45 + nidx * 2 ^ 40 + hdrOcc h) := by
  simp [infoFold, at_, Nat.shiftLeft_eq, hdrOcc_mod]

/-- TINFO of a write that finds its name gone (R159). -/
theorem infoFold_write (sid cls why nidx : Nat) (h : Dword) :
    infoFold sid cls true false why nidx (hdrOcc h) =
      dw (sid * 2 ^ 52 + cls * 2 ^ 50 + 1 * 2 ^ 49 + why * 2 ^ 45 + nidx * 2 ^ 40 + hdrOcc h) := by
  simp [infoFold, at_, Nat.shiftLeft_eq, hdrOcc_mod]

/-! ### A firing on a name (R148) -/

section
variable {s s' : State} {c : Ctx} {e lat : Nat} {c1 c0 : Cons} {kind : Kind} {body : State → Ctx → Nat → ElemRes}

/-- The one element of a firing on a name is offered to its home. -/
theorem offered_of_firesName (hf : FiresName s c e) : offered true s (todoElems s.again c.blk c.inst c.f.slot) = [e] := by
  obtain ⟨⟨-, hagain, hready, -⟩, hamong⟩ := hf
  simp [offered, todoElems, hagain, hready, hamong]

theorem fireNames_value {v : Dword} (hf : FiresName s c e) (hb : body s c e = .done s' (some v)) :
    fireNames s lat c1 c0 kind body = .next (complete s' c lat [e] (both c1 c0 kind [(e, .val v)])) := by
  have ho := offered_of_firesName hf
  obtain ⟨⟨hc, -, -, hnull⟩, -⟩ := hf
  exact fireElems_done hc ho hnull hb

/-- A form without consumers sends nothing. -/
theorem complete_of_noCons (s : State) (c : Ctx) (es : List Nat) (kind : Kind) (l : Tab Elem) :
    complete s c 2 es (both 0x1FF#9 0x1FF#9 kind l) = complete s c 2 es [] := rfl

theorem fireNames_silent (hf : FiresName s c e) (hb : body s c e = .done s' none) :
    fireNames s 2 0x1FF#9 0x1FF#9 kind body = .next (complete s' c 2 [e] []) := by
  have ho := offered_of_firesName hf
  obtain ⟨⟨hc, -, -, hnull⟩, -⟩ := hf
  rw [← complete_of_noCons s' c [e] kind []]
  exact fireElems_done hc ho hnull hb

theorem fireNames_trap {cause : Cause} {tag : Nat} {info : Dword} (hf : FiresName s c e) (hb : body s c e = .trap cause tag info) :
    fireNames s lat c1 c0 kind body = .next (trapFiring s c.f cause tag info) := by
  have ho := offered_of_firesName hf
  obtain ⟨⟨hc, -, -, hnull⟩, -⟩ := hf
  exact fireElems_trap hc ho hnull hb

end

/-! ### LDN (R147, R163) -/

section
variable {s s1 s2 s3 s4 : State} {c : Ctx} {e nidx v : Nat} {keep : Bool} {x : Named} {h : Dword}

/-- A name that an element accesses lies in its statement's domain. -/
theorem nameOf?_of_named? (hx : named? s c e nidx = some x) : ∃ j, nameOf? (plotNow s c) c.blk (c.name nidx) (c.tag e) = some j := by
  unfold named? at hx
  dsimp only at hx
  split at hx
  · next hj _ => exact ⟨_, hj⟩
  · cases hx

/-- A read that counts no reader down: one that keeps, or of a dead name, or of a far one that is not to be written (R147, R156). -/
theorem ldnElem_keeps (hx : named? s c e nidx = some x) (hg : getHdr s c x.f x.slot = .ok (s1, h)) (hd : delivers h x.ord)
    (hdata : getData s1 c x.f x.slot (tyWidth (nameTy (c.name nidx)) / 8) = .ok (s2, some v))
    (hk : keep = true ∨ hdrState h ≠ 1 ∨ readOnly s2 c.plot x.f = true) :
    ldnElem keep nidx s c e = .done s2 (some (widenLoad (nameTy (c.name nidx)) v)) := by
  obtain ⟨j, hj⟩ := nameOf?_of_named? hx
  unfold ldnElem
  simp only [hj, hx, hg, readCase_of_delivers hd, hdata, if_pos hk]

/-- A read that counts a reader down. -/
theorem ldnElem_counts (hx : named? s c e nidx = some x) (hg : getHdr s c x.f x.slot = .ok (s1, h)) (hd : delivers h x.ord)
    (hdata : getData s1 c x.f x.slot (tyWidth (nameTy (c.name nidx)) / 8) = .ok (s2, some v))
    (hk : ¬(keep = true ∨ hdrState h ≠ 1 ∨ readOnly s2 c.plot x.f = true)) (hturn : writeTurn s2 c e x.f = .ok s3)
    (hput : putHdr s3 c x.f x.slot (dropReader h) = .ok s4) :
    ldnElem keep nidx s c e = .done s4 (some (widenLoad (nameTy (c.name nidx)) v)) := by
  obtain ⟨j, hj⟩ := nameOf?_of_named? hx
  unfold ldnElem
  simp only [hj, hx, hg, readCase_of_delivers hd, hdata, if_neg hk, hturn, hput]

/-- A read that finds its data uncorrectable (R158). -/
theorem ldnElem_lost (hx : named? s c e nidx = some x) (hg : getHdr s c x.f x.slot = .ok (s1, h)) (hd : delivers h x.ord)
    (hdata : getData s1 c x.f x.slot (tyWidth (nameTy (c.name nidx)) / 8) = .ok (s2, none)) :
    ldnElem keep nidx s c e = .trap .expired (c.tag e) (infoFold x.f.sid x.f.cls false false 2 nidx (hdrOcc h)) := by
  obtain ⟨j, hj⟩ := nameOf?_of_named? hx
  unfold ldnElem
  simp only [hj, hx, hg, readCase_of_delivers hd, hdata]

/-- A read that finds its name overwritten. -/
theorem ldnElem_overwritten (hx : named? s c e nidx = some x) (hg : getHdr s c x.f x.slot = .ok (s1, h)) (hlt : x.ord < hdrOcc h)
    (hc : ¬(hdrState h = 0 ∧ hdrReaders h = 0)) :
    ldnElem keep nidx s c e = .trap .expired (c.tag e) (infoFold x.f.sid x.f.cls false false 0 nidx (hdrOcc h)) := by
  obtain ⟨j, hj⟩ := nameOf?_of_named? hx
  unfold ldnElem
  simp only [hj, hx, hg, readCase_of_overwritten hlt hc]

end

/-- LDN is the firing on a name of the context at hand. -/
theorem execLdn_eq {s : State} {c : Ctx} {e : Nat} (keep : Bool) (nidx : BitVec 5) (c1 c0 : Cons) (hf : FiresName s c e) :
    execLdn keep nidx c1 c0 s = fireNames s (c.nameLat nidx.toNat) c1 c0
      (if tyWidth (nameTy (c.name nidx.toNat)) = 64 then .r64 else .r32) (ldnElem keep nidx.toNat) := by
  obtain ⟨⟨hc, -⟩, -⟩ := hf
  unfold execLdn
  simp only [hc, runKind, Bool.cond_eq_ite, beq_iff_eq]

theorem loadName_says : Sys2Proof.Says.LoadName := by
  intro s s1 s2 s3 s4 c e v keep nidx c1 c0 x h hf hx hg hd ty kind out
  have hexec : exec (.ldn keep nidx c1 c0) s = fireNames s (c.nameLat nidx.toNat) c1 c0 kind (ldnElem keep nidx.toNat) :=
    execLdn_eq keep nidx c1 c0 hf
  rw [hexec]
  refine ⟨fun hdata => ⟨fun hk => ?_, fun hkeep hfull hrw hturn hput => ?_⟩, fun hlost => ?_⟩
  · have hk' : keep = true ∨ hdrState h ≠ 1 ∨ readOnly s2 c.plot x.f = true :=
      hk.imp_right (Or.imp_left fun hdead => by simp [hdead])
    exact fireNames_value hf (ldnElem_keeps hx hg hd hdata hk')
  · rw [← dropReader_eq_oneReaderFewer] at hput
    exact fireNames_value hf (ldnElem_counts hx hg hd hdata (by simp [hkeep, hfull, hrw]) hturn hput)
  · rw [← infoFold_read]
    exact fireNames_trap hf (ldnElem_lost hx hg hd hlost)

/-! ### Stores and claims (R147, R150, R254) -/

section
variable {s s1 s2 s3 s4 : State} {c : Ctx} {e nidx : Nat} {x : Named} {h : Dword}

/-- A store or a claim that finds its name overwritten. -/
theorem writeName_overwritten (data : Option (Nat × Nat)) (hrw : readOnly s c.plot x.f = false)
    (hg : getHdr s c x.f x.slot = .ok (s1, h)) (hlt : x.ord < hdrOcc h) (hc : ¬(hdrState h = 0 ∧ hdrReaders h = 0)) :
    writeName s c e nidx x data = .error (.trap .expired (infoFold x.f.sid x.f.cls true false 1 nidx (hdrOcc h))) := by
  unfold writeName
  simp only [hrw, Bool.false_eq_true, if_false, hg, writeCase_of_overwritten _ hlt hc]

/-- A claim of a slot that may be overwritten leaves it empty, with its readers (R153). -/
theorem writeName_claims (hrw : readOnly s c.plot x.f = false) (hg : getHdr s c x.f x.slot = .ok (s1, h)) (ho : overwrites h x.ord)
    (hturn : writeTurn s1 c e x.f = .ok s2) :
    writeName s c e nidx x none = putHdr s2 c x.f x.slot (mkHdr x.ord 0 x.f.readers x.f.gen) := by
  unfold writeName
  simp only [hrw, Bool.false_eq_true, if_false, hg, writeCase_of_overwrites _ ho, hturn]

/-- A store into a slot that may be overwritten fills it. -/
theorem writeName_fills (bytes v : Nat) (hrw : readOnly s c.plot x.f = false) (hg : getHdr s c x.f x.slot = .ok (s1, h))
    (ho : overwrites h x.ord) (hturn : writeTurn s1 c e x.f = .ok s2) :
    writeName s c e nidx x (some (bytes, v)) = putSlot s2 c x.f x.slot (x.f.storeBytes bytes) v (mkHdr x.ord 1 x.f.readers x.f.gen) := by
  unfold writeName
  simp only [hrw, Bool.false_eq_true, if_false, hg, writeCase_of_overwrites _ ho, hturn]

/-- A store into a full adjoint name adds. -/
theorem writeName_adds {old : Nat} (bytes v : Nat) (hrw : readOnly s c.plot x.f = false) (hg : getHdr s c x.f x.slot = .ok (s1, h))
    (hocc : hdrOcc h = x.ord) (hfull : hdrState h = 1) (hadj : x.f.adj = true) (hturn : writeTurn s1 c e x.f = .ok s2)
    (hdata : getData s2 c x.f x.slot 4 = .ok (s3, some old)) :
    writeName s c e nidx x (some (bytes, v)) =
      putSlot s3 c x.f x.slot 4 (roundF fmtF32 rne false (addF (decodeF fmtF32 old) (decodeF fmtF32 (v % 2 ^ 32)))) h := by
  unfold writeName
  simp only [hrw, Bool.false_eq_true, if_false, hg, hadj, Option.isSome_some, Bool.and_true, writeCase_of_full_adjoint hocc hfull, hturn,
    hdata, Option.getD_some]

/-- STN stores the low bytes of its operand. -/
theorem stnElem_done (hx : named? s c e nidx = some x)
    (hw : writeName s c e nidx x (some (tyWidth (nameTy (c.name nidx)) / 8,
      (c.wide 0 e).toNat % 2 ^ (8 * (tyWidth (nameTy (c.name nidx)) / 8)))) = .ok s1) : stnElem nidx s c e = .done s1 none := by
  unfold stnElem
  simp only [hx, hw]

theorem stnElem_trap {cause : Cause} {info : Dword} (hx : named? s c e nidx = some x)
    (hw : writeName s c e nidx x (some (tyWidth (nameTy (c.name nidx)) / 8,
      (c.wide 0 e).toNat % 2 ^ (8 * (tyWidth (nameTy (c.name nidx)) / 8)))) = .error (.trap cause info)) :
    stnElem nidx s c e = .trap cause (c.tag e) info := by
  unfold stnElem
  simp only [hx, hw, Halt.elem]

end

theorem nameExpired_says : Sys2Proof.Says.NameExpired := by
  intro s s1 c e keep nidx c1 c0 x h hf hx hg hlt hc info
  have hread : infoFold x.f.sid x.f.cls false false 0 nidx.toNat (hdrOcc h) = info 0 :=
    (infoFold_read ..).trans (by simp [info])
  have hwrite : infoFold x.f.sid x.f.cls true false 1 nidx.toNat (hdrOcc h) = info 1 := infoFold_write ..
  refine ⟨?_, fun hrw => ?_⟩
  · rw [← hread]
    exact (execLdn_eq keep nidx c1 c0 hf).trans (fireNames_trap hf (ldnElem_overwritten hx hg hlt hc))
  · rw [← hwrite]
    exact fireNames_trap hf (stnElem_trap hx (writeName_overwritten _ hrw hg hlt hc))

/-- The bytes that a store into a fold's slot writes, as the statement has them. -/
theorem storeBytes_eq (f : Fold) (bytes : Nat) : f.storeBytes bytes = if f.adj = true then max bytes f.slotBytes else bytes :=
  Bool.cond_eq_ite ..

theorem storeName_says : Sys2Proof.Says.StoreName := by
  intro s s1 s2 s3 s4 c e nidx x h hf hx hrw hg hturn bytes v all
  refine ⟨fun ho hput => ?_, fun old hocc hfull hadj hdata hput => ?_⟩
  · have hw := writeName_fills (nidx := nidx.toNat) bytes v hrw hg ho hturn
    rw [storeBytes_eq, hput] at hw
    exact fireNames_silent hf (stnElem_done hx hw)
  · have hw := writeName_adds (nidx := nidx.toNat) bytes v hrw hg hocc hfull hadj hturn hdata
    rw [hput] at hw
    exact fireNames_silent hf (stnElem_done hx hw)

/-! ### KILL (R147) -/

theorem killName_says : Sys2Proof.Says.KillName := by
  intro s s1 s2 s3 c e nidx x h hf hx hrw hg
  refine ⟨fun hocc hst hturn hput => fireNames_silent hf ?_, fun hkeeps => fireNames_silent hf ?_⟩
  · unfold killElem
    simp only [hx, hrw, Bool.false_eq_true, if_false, hg, if_pos (And.intro hocc hst), hturn, hput]
  · have hn : ¬(hdrOcc h = x.ord ∧ (hdrState h = 1 ∨ hdrState h = 3)) := by omega
    unfold killElem
    simp only [hx, hrw, Bool.false_eq_true, if_false, hg, if_neg hn]

/-! ### LDN.T and STN.T (R153) -/

/-- A form that fires once, not tried again, fires on all that is ready. -/
theorem todoWhole_of_firesOnce {s : State} {c : Ctx} {es : List Nat} {e : Nat} (hf : FiresOnce s c es e) :
    todoWhole s.again c.blk c.inst c.f.slot = es := by
  obtain ⟨-, hagain, hready, -⟩ := hf
  simp [todoWhole, hagain, hready]

theorem tileHandles_say : Sys2Proof.Says.TileHandles := by
  intro s s1 s2 s3 c es e keep nidx c1 c0 x h hf hx hg
  have htodo := todoWhole_of_firesOnce hf
  obtain ⟨hc, -, -, hfind⟩ := hf
  refine ⟨fun hd => fireOnce_doneIn hc htodo hfind ?_, fun ho hrw hturn hput => fireOnce_doneIn hc htodo hfind ?_⟩
  · obtain ⟨j, hj⟩ := nameOf?_of_named? hx
    simp only [hj, hx, hg, readCase_of_delivers hd, mkHandle_eq_handle]
    rfl
  · simp only [hx, writeName_claims hrw hg ho hturn, hput, mkHandle_eq_handle]
    rfl

/-- Settles O24: LDN's element is what its header and data decide, and the tile forms deliver the handle of what they find. -/
theorem nameReads : Obligations.NameReads :=
  ⟨loadName_says, nameExpired_says, tileHandles_say⟩

/-! ### On-chip slots (R140) -/

section
variable {α : Type}

/-- An entry set twice is the later one. -/
theorem Tab.set_set (t : Tab α) (k : Nat) (v w : α) : Tab.set (Tab.set t k v) k w = Tab.set t k w := by
  induction t with
  | nil => simp [Tab.set, Tab.set_cons]
  | cons x t ih =>
    obtain ⟨k', v'⟩ := x
    rw [Tab.set_cons, Tab.set_cons]
    split
    · simp [Tab.set_cons]
    · split
      · simp [Tab.set_cons]
      · next hlt hne => rw [Tab.set_cons, if_neg hlt, if_neg hne, ih]

/-- Two changes of an entry are one change. -/
theorem Tab.upd_upd (t : Tab α) (k : Nat) (f g : α → α) : Tab.upd (Tab.upd t k f) k g = Tab.upd t k (fun v => g (f v)) := by
  cases h : Tab.at? t k with
  | none => simp [Tab.upd, h]
  | some v => simp [Tab.upd, h, Tab.set_set]

end

theorem onPlot_onPlot (s : State) (k : Nat) (f g : Plot → Plot) : onPlot (onPlot s k f) k g = onPlot s k (fun p => g (f p)) := by
  simp only [onPlot, Tab.upd_upd]

theorem onChipSlot_says : Sys2Proof.Says.OnChipSlot := by
  intro s c f n bytes v h hc hfar hf put
  have hnow : plotNow s c = c.plot := plotNow_eq (s := { s with cur := c.f }) hc
  refine ⟨?_, ?_, ?_, ?_⟩
  · simp [getHdr, hfar, hnow, hf]
  · simp [getData, hfar, hnow, Fold.slotAt]
  · simp only [putHdr, hfar]
    rfl
  · simp only [putSlot, putHdr, hfar, Bool.false_eq_true, if_false, onPlot_onPlot]
    rfl

/-- Settles O25: a store writes what its header decides, KILL changes a header that holds the ordinal, an on-chip slot is read and written
in its class's bytes. -/
theorem nameWrites : Obligations.NameWrites :=
  ⟨storeName_says, killName_says, onChipSlot_says⟩

end Sys2Proof.Machine
end

section
/-!
PROOFS. FOLD and REFOLD, which declare a fold (R144, R145, R165), and PROBE and FOLDQ, which answer what it holds (R166).
-/
namespace Sys2Proof.Machine
open Sys2Proof.Claim

/-! ### A fold put in place (R145, R165) -/

section
variable {s s1 s2 : State} {c : Ctx} {es : List Nat} {e : Nat} {c1 c0 : Cons} {kind : Kind} {body : Ctx → Nat → Res} {f : Fold}

/-- A form that fires once with a result has its effect and delivers. -/
theorem fireOnce_of_done {out : List Emit} (hf : FiresOnce s c es e) (hb : body c e = .done s1 out) :
    fireOnce s c1 c0 kind body = .next (complete s1 c 2 es out) := by
  have htodo := todoWhole_of_firesOnce hf
  obtain ⟨hc, -, -, hfind⟩ := hf
  exact fireOnce_done hc htodo hfind hb

theorem installFold_kept (h : f.far = false ∨ f.adopt = true) : installFold s c e f = .done (setFold s c f) [] := by
  have hn : ¬(f.far = true ∧ f.adopt = false) := by
    rintro ⟨hfar, hadopt⟩
    simp [hfar, hadopt] at h
  unfold installFold
  rw [if_neg hn]
  rfl

theorem installFold_far (hfar : f.far = true) (hadopt : f.adopt = false) (hput : farPutHdrs s c f [] = .ok s1) :
    installFold s c e f = .done (setFold s1 c f) [] := by
  unfold installFold
  rw [if_pos ⟨hfar, hadopt⟩, hput]
  rfl

/-! ### FOLD of a record without fault -/

variable {ws : List Dword} {old : Fold} {t : Tab Dword}

theorem foldWith_undeclared (hcheck : checkFold? s (plotNow s c) (foldOf ws 0 0) = none)
    (hnone : Tab.at? (plotNow s c).folds (foldOf ws 0 0).sid = none) : foldWith s c e ws = installFold s c e (foldOf ws 0 0) := by
  unfold foldWith
  simp only [hcheck, hnone]

theorem foldWith_freed (hcheck : checkFold? s (plotNow s c) (foldOf ws 0 0) = none)
    (hold : Tab.at? (plotNow s c).folds (foldOf ws 0 0).sid = some old) (hall : allHdrs s c old = .ok (s1, t))
    (hfree : ∀ x ∈ t, hdrKept x.2 = false) : foldWith s c e ws = installFold s1 c e { foldOf ws 0 0 with gen := old.gen + 1 } := by
  have hany : t.any (fun x => hdrKept x.2) = false := by simpa using hfree
  unfold foldWith
  simp only [hcheck, hold, hall, hany, Bool.false_eq_true, if_false]

theorem foldWith_kept (hcheck : checkFold? s (plotNow s c) (foldOf ws 0 0) = none)
    (hold : Tab.at? (plotNow s c).folds (foldOf ws 0 0).sid = some old) (hall : allHdrs s c old = .ok (s1, t))
    (hkept : ∃ x ∈ t, hdrKept x.2 = true) : foldWith s c e ws = .trap .foldsize (c.tag e)
      (infoFold (foldOf ws 0 0).sid (foldOf ws 0 0).cls false false 2 0 0) := by
  have hany : t.any (fun x => hdrKept x.2) = true := by simpa using hkept
  unfold foldWith
  simp only [hcheck, hold, hall, hany, if_true, foldTrap]

/-- FOLD, and REFOLD of an undeclared statement, have the effect of the fold's declaration. -/
theorem exec_fold_done {n : BitVec 4} {out : List Emit} (hf : FiresOnce s c es e) (hrec : goodRecord s s1 c e n.toNat ws)
    (hw : foldWith s1 c e ws = .done s2 out) : exec (.fold n) s = .next (complete s2 c 2 es out) :=
  fireOnce_of_done hf (by simp only [hrec, hw])

theorem exec_refold_done {n : BitVec 4} {out : List Emit} (hf : FiresOnce s c es e) (hrec : goodRecord s s1 c e n.toNat ws)
    (hnone : Tab.at? (plotNow s1 c).folds (foldOf ws 0 0).sid = none) (hw : foldWith s1 c e ws = .done s2 out) :
    exec (.refold n) s = .next (complete s2 c 2 es out) := by
  have hsid : Tab.at? (plotNow s1 c).folds (field ((ws[0]?).getD 0 : Dword) 63 52) = none := hnone
  exact fireOnce_of_done hf (by simp only [hrec, hsid, hw])

end

theorem foldForms_say : Sys2Proof.Says.FoldForms := by
  intro s s1 s2 c es e n ws i hi hf hrec f hcheck hnone
  have hdone : ∀ {u : State}, installFold s1 c e f = .done u [] → exec i s = .next (complete u c 2 es []) := by
    intro u hu
    have hw : foldWith s1 c e ws = .done u [] := (foldWith_undeclared hcheck hnone).trans hu
    obtain rfl | rfl := hi
    · exact exec_fold_done hf hrec hw
    · exact exec_refold_done hf hrec hnone hw
  exact ⟨fun h => hdone (installFold_kept h), fun hfar hadopt hput => hdone (installFold_far hfar hadopt hput)⟩

theorem foldAgain_says : Sys2Proof.Says.FoldAgain := by
  intro s s1 s2 s3 c es e n ws old t hf hrec f hcheck hold next hhdrs
  have hall : allHdrs s1 c old = .ok (s2, t) := by
    rw [← hhdrs]
    by_cases hfar : old.far = true <;> simp [allHdrs, hfar]
  have hfold : ∀ {u : State}, (∀ x ∈ t, hdrKept x.2 = false) → installFold s2 c e next = .done u [] →
      exec (.fold n) s = .next (complete u c 2 es []) := fun hfree hu =>
    exec_fold_done hf hrec ((foldWith_freed hcheck hold hall hfree).trans hu)
  refine ⟨fun hfree h => hfold hfree (installFold_kept h),
    fun hfree hfar hadopt hput => hfold hfree (installFold_far hfar hadopt hput), fun hkept => ?_⟩
  have htodo := todoWhole_of_firesOnce hf
  obtain ⟨hc, -, -, hfind⟩ := hf
  have hinfo : infoFold f.sid f.cls false false 2 0 0 = dw (f.sid * 2 ^ 52 + f.cls * 2 ^ 50 + 2 * 2 ^ 45) := by
    simp [infoFold, at_, Nat.shiftLeft_eq]
  rw [← hinfo]
  refine fireOnce_trap (tag := c.tag e) hc htodo hfind ?_
  simp only [hrec]
  exact foldWith_kept hcheck hold hall hkept

/-! ### PROBE and FOLDQ (R166) -/

/-- A word below 2^lo has no bit set from there on. -/
theorem lowestFrom_of_lt {v lo : Nat} (n : Nat) (h : v < 2 ^ lo) : lowestFrom v lo n = none := by
  unfold lowestFrom
  rw [List.find?_eq_none]
  intro b hb
  obtain ⟨i, -, rfl⟩ := List.mem_map.mp hb
  have hlt : v < 2 ^ (lo + i) := lt_of_lt_of_le h (Nat.pow_le_pow_right (by decide) (Nat.le_add_right lo i))
  simp [Nat.testBit_lt_two_pow hlt]

theorem probe_says : Sys2Proof.Says.Probe := by
  intro s s1 c es e which n c1 c0 f h t hf hk out
  have hlow : lowestFrom (c.k n.toNat).toNat 12 20 = none := lowestFrom_of_lt 20 hk
  have hsid : field (c.k n.toNat) 11 0 = (c.k n.toNat).toNat := Nat.mod_eq_of_lt hk
  refine ⟨fun hnone => fireOnce_of_done hf ?_, fun hfold => ⟨fun hout => fireOnce_of_done hf ?_, fun hin hg => fireOnce_of_done hf ?_,
    fireOnce_of_done hf ?_, fireOnce_of_done hf ?_, fun hall => fireOnce_of_done hf ?_⟩⟩
  · simp only [hlow, hsid, hnone]
    rfl
  · simp only [hlow, hsid, hfold]
    exact if_pos hout
  · simp only [hlow, hsid, hfold]
    refine (if_neg (Nat.not_le.mpr hin)).trans ?_
    rw [hg]
    rfl
  · simp only [hlow, hsid, hfold]
    rfl
  · simp only [hlow, hsid, hfold]
    rfl
  · have hlive : (fun x : Nat × Dword => hdrLive x.2) = fun x => decide (hdrReaders x.2 ≠ 0) := by
      funext x
      rw [Bool.eq_iff_iff]
      simp [hdrLive]
    simp only [hlow, hsid, hfold, hall]
    rw [← hlive]
    rfl

/-- The word of a fold that FOLDQ's selector names. -/
theorem foldWord_eq (f : Fold) (sel : Nat) :
    (match sel with
      | 0 => f.w0
      | 1 => f.w1
      | 2 => f.w2
      | 3 => f.w3
      | 4 => f.w4
      | 5 => dw f.gen.toNat
      | _ => 0) = ([f.w0, f.w1, f.w2, f.w3, f.w4, dw f.gen.toNat][sel]?).getD 0 := by
  rcases sel with _ | _ | _ | _ | _ | _ | sel <;> rfl

theorem foldQuery_says : Sys2Proof.Says.FoldQuery := by
  intro s c es e n c1 c0 hf hk sel v
  have hlow : lowestFrom (c.k n.toNat).toNat 15 17 = none := lowestFrom_of_lt 17 hk
  have hsel : field (c.k n.toNat) 14 12 = sel := by
    have hlt : (c.k n.toNat).toNat / 2 ^ 12 < 2 ^ 3 := by omega
    rw [field, Nat.shiftRight_eq_div_pow]
    exact Nat.mod_eq_of_lt hlt
  have hsid : field (c.k n.toNat) 11 0 = (c.k n.toNat).toNat % 2 ^ 12 := rfl
  refine fireOnce_of_done hf ?_
  cases hfold : Tab.at? c.plot.folds ((c.k n.toNat).toNat % 2 ^ 12) with
  | none =>
    have hv : v = 0 := by simp only [v, hfold]
    simp only [hlow, hsid, hfold, hv]
    rfl
  | some f =>
    have hv : v = ([f.w0, f.w1, f.w2, f.w3, f.w4, dw f.gen.toNat][sel]?).getD 0 := by simp only [v, hfold]
    simp only [hlow, hsid, hfold, hsel, hv, ← foldWord_eq]
    rfl

/-- Settles O26: a sound record declares its fold unless a slot is kept; PROBE and FOLDQ answer from the fold that their constant names. -/
theorem folds : Obligations.Folds :=
  ⟨foldForms_say, foldAgain_says, probe_says, foldQuery_says⟩

end Sys2Proof.Machine
end

section
/-!
PROOFS. ADJSEED (R250), the reversal of a record (R241-R245) and the reread of a far header (R156), and the state that refutes O30: a REC
of an earlier round that stands at the slot of a firing which waits.
-/
namespace Sys2Proof.Machine
open Sys2Proof.Claim

/-! ### ADJSEED (R250) -/

/-- ADJSEED's checks pass, whether its source is a scalar, a name or a raw reference, and it enters the array. -/
theorem adjointSeed_says : Sys2Proof.Says.AdjointSeed := by
  intro s c es e ks f hf
  dsimp only
  intro hfree hbad htile hfold hadj hcls hroom hkind hsrc hraw hsrcs hdst
  have hnow : plotNow s c = c.plot := plotNow_eq hf.1
  have htodo := todoWhole_of_firesOnce hf
  obtain ⟨hc, -, -, hfind⟩ := hf
  have hbeq : (c.kind 0 == Kind.s32) = decide (c.kind 0 = .s32) := rfl
  have hnear : (f.cls == 1 || f.cls == 2) = true := by simpa using hcls
  refine fireOnce_issued (s' := holdArray s c _) hc htodo hfind ?_
  simp only [hnow, hbeq]
  generalize c.k (8 + ks.toNat) = tc at *
  generalize 32 * tileCols (tcTA tc) (tcSH tc) = n at *
  generalize n * tileWidth (tcTA tc) / 8 = ext at *
  generalize seedRef c tc e ext = a at *
  have hfit : ¬f.slotBytes < 4 * n := Nat.not_lt.mpr hroom
  cases hs : decide (c.kind 0 = .s32) with
  | true => simp [hfree, hbad, htile, hfold, hadj, hnear, hfit, hdst, firstStop]
  | false =>
    have hkindOk := hkind hs
    cases hr : a.raw with
    | true =>
      have hrawOk := hraw hs hr
      simp [hfree, hbad, htile, hfold, hadj, hnear, hfit, hdst, firstStop, hkindOk, hrawOk]
    | false =>
      obtain ⟨g, hg, hgcls, hgroom⟩ := hsrc hs hr
      have hgnear : (g.cls == 1 || g.cls == 2) = true := by simpa using hgcls
      have hgfit : ¬g.slotBytes < ext := Nat.not_lt.mpr hgroom
      have hread : sourceStop? c c.plot true (a.sid, a.ord, a.keep) = none := by
        simpa [hs, hr, List.filterMap_eq_nil_iff] using hsrcs
      simp [hfree, hbad, htile, hfold, hadj, hnear, hfit, hdst, firstStop, hkindOk, hg, hgnear, hgfit, hread]

/-! ### A record reversed (R241-R245) -/

section
variable {s : State} {plot : Nat} {p : Plot} {r : Reversal} {c : Ctx} {seg : List LogRec} {q : LogRec}
  (hp : Tab.at? s.plots plot = some p) (hr : p.rev = some r) (hc : ctxIn? p r.firing = some c)
  (hgo : ¬(c.inst.run ≠ r.run ∨ Tab.atD c.inst.issued c.f.slot 0 = 0)) (hseg : readRecs s c p r.recs = .ok seg)
  (hq : nextRecord? p (seg.filter (fun q => !r.done.contains q.off)) = some q)

include hp hr hc hgo hseg hq

/-- The next record begins on a free array of a live plot. -/
theorem exec_recordReversal_starts (hnext : r.next ≠ some q.off) (hlive : p.live = true) (hfree : arrayFree p q.cell = true) :
    exec (.recordReversal plot) s = .next (onPlot s plot (fun p => startRecord p r q (reversalTime p seg q))) := by
  change execRecordReversal plot s = _
  unfold execRecordReversal
  simp only [hp, hr, hc, if_neg hgo, hseg, hq, if_pos hnext, hlive, hfree, Bool.and_self, cond_true]

/-- A record whose time has passed takes effect whole, where it is not the last. -/
theorem exec_recordReversal_effect {p1 : Plot} {tolls : List (Nat × Nat)} (hnext : r.next = some q.off) (hleft : r.left = 0)
    (hrev : reverseRecord s c p seg q = .ok (p1, tolls)) (hmore : r.done.length + 1 < r.recs.length) :
    exec (.recordReversal plot) s = .next (tolls.foldl (fun s x => bif x.2 == 0 then s else addToll s p.vi x.1 x.2)
      { s with
        plots := Tab.set s.plots plot { p1 with
          rev := some { r with done := r.done ++ [q.off], next := none }, logseg := mkSeg (logMark p) (logDone p + 1), fired := true },
        ctr := s.ctr + 65536 }) := by
  have hlen : (r.done ++ [q.off]).length < r.recs.length := by simpa using hmore
  change execRecordReversal plot s = _
  unfold execRecordReversal
  simp only [hp, hr, hc, if_neg hgo, hseg, hq, hnext, hleft, hrev, ne_eq, not_true, if_false, if_pos hlen]

/-- A record whose reversal traps is a trap of the REVERSE. -/
theorem exec_recordReversal_trap {cause : Cause} {info : Dword} (hnext : r.next = some q.off) (hleft : r.left = 0)
    (hrev : reverseRecord s c p seg q = .error (.halt (.trap cause info))) :
    exec (.recordReversal plot) s = .next (trapOnce s r.firing cause info) := by
  change execRecordReversal plot s = _
  unfold execRecordReversal
  simp only [hp, hr, hc, if_neg hgo, hseg, hq, hnext, hleft, hrev, ne_eq, not_true, if_false]

end

/-! ### A far header read again (R156) -/

section
variable {s : State} {plot : Nat} {p : Plot}

/-- Whether the slice of a watched line has reported a write to it. -/
def reported (plot : Nat) (w : Watch) : Bool := w.plot == plot && w.hit

theorem exec_farHeaderReread_reported (hp : Tab.at? s.plots plot = some p)
    (hw : ∃ k pc, (k, pc) ∈ s.pcells ∧ pc.watches.any (reported plot) = true) :
    exec (.farHeaderReread plot) s = .next (retryHeld { s with
      pcells := s.pcells.map (fun x => (x.1, { x.2 with watches := x.2.watches.filter (fun w => !reported plot w) })) } plot p) := by
  obtain ⟨k, pc, hmem, hany⟩ := hw
  have hdue : s.pcells.any (fun x => x.2.watches.any (reported plot)) = true := List.any_eq_true.mpr ⟨_, hmem, hany⟩
  change execFarHeaderReread plot s = _
  unfold execFarHeaderReread
  simp only [hp]
  exact if_pos hdue

/-- Elements that wait at the home of a name are among those tried again, but where a REC is to take effect at their slot. -/
theorem mem_heldFirings {cell bidx frame slot : Nat} {k : Cell} {b : Block} {i : Inst} {m : Word} (hk : (cell, k) ∈ p.cells)
    (hb : (bidx, b) ∈ k.blocks) (hi : (frame, i) ∈ b.insts) (hm : (slot, m) ∈ i.held) (hne : m ≠ 0)
    (hrec : recWaits p cell bidx frame slot = false) :
    (({ plot := plot, cell := cell, bidx := bidx, slot := slot, frame := frame, round := p.round } : Firing), m) ∈ heldFirings plot p := by
  refine List.mem_flatMap.mpr ⟨_, hk, List.mem_flatMap.mpr ⟨_, hb, List.mem_flatMap.mpr ⟨_, hi, ?_⟩⟩⟩
  exact List.mem_map.mpr ⟨_, List.mem_filter.mpr ⟨hm, by simpa [hrec] using hne⟩, rfl⟩

/-- A reread has every firing tried again that waits at a slot where no REC is to take effect. -/
theorem exec_farHeaderReread_retries {cell bidx frame slot : Nat} {k : Cell} {b : Block} {i : Inst} {m : Word}
    (hp : Tab.at? s.plots plot = some p) (hw : ∃ k pc, (k, pc) ∈ s.pcells ∧ pc.watches.any (reported plot) = true)
    (hk : (cell, k) ∈ p.cells) (hb : (bidx, b) ∈ k.blocks) (hi : (frame, i) ∈ b.insts) (hm : (slot, m) ∈ i.held) (hne : m ≠ 0)
    (hrec : recWaits p cell bidx frame slot = false) : ∃ t, exec (.farHeaderReread plot) s = .next t ∧
      (({ plot := plot, cell := cell, bidx := bidx, slot := slot, frame := frame, round := p.round } : Firing), m) ∈ t.retry :=
  ⟨_, exec_farHeaderReread_reported hp hw, List.mem_append_right _ (mem_heldFirings hk hb hi hm hne hrec)⟩

end

/-! ### A REC of an earlier round -/

/-- A run whose REVERSE in slot 0 is issued and whose slot 1 waits at the home of a name. -/
def waitingInst : Inst :=
  { run := 0, first := 0, len := 1, ops := [], done := [], issued := [(0, 1)], held := [(1, 1)], stalled := [], nulls := [] }

/-- The firing of a slot of that run in a round of plot 0. -/
def waitingSlot (slot round : Nat) : Firing := { plot := 0, cell := 0, bidx := 0, slot := slot, frame := 0, round := round }

/-- A plot in round 1 that reverses the one record of its log, a TZERO's, while a REC of round 0 stands at slot 1. -/
def staleRecPlot : Plot :=
  { Plot.empty 0 0 0 4 4 0 0 .graph [] with
    running := true, round := 1, cells := [(0, { Cell.empty with blocks := [(0, { fetchBlock 0 with insts := [(0, waitingInst)] })] })],
    near := [(1, [(3, 0x0F), (7, 0xAF)])], logs := [(0, 64)], logst := dw (5 * 2 ^ 60 + 64), logpos := mkPos 32 0,
    rev := some { firing := waitingSlot 0 1, run := 0, recs := [0], done := [], next := none, left := 0, srseed := 0 },
    recQ := [(4, waitingSlot 1 0)] }

/-- A state with that plot, whose P-cell 0 watches a header line to which a write was reported. -/
def staleRec : State :=
  { State.reset with plots := [(0, staleRecPlot)], pcells := [(0, { PCell.reset with watches := [{ plot := 0, line := 0, hit := true }] })] }

/-- The context of its REVERSE. -/
def staleRecCtx : Ctx :=
  { f := waitingSlot 0 1, plot := staleRecPlot, blk := { fetchBlock 0 with insts := [(0, waitingInst)] }, inst := waitingInst }

/-- The record of its log. -/
def zeroRec : LogRec := { off := 0, w0 := dw (0xAF * 2 ^ 56 + 0xF * 2 ^ 24), w1 := 0, w2 := 0, w3 := 0 }

theorem staleRec_readRecs : readRecs staleRec staleRecCtx staleRecPlot [0] = .ok [zeroRec] := by rfl

theorem staleRec_nextRecord : nextRecord? staleRecPlot [zeroRec] = some zeroRec := by rfl

/-- The REC of round 0 hides the firing of round 1. -/
theorem staleRec_heldFirings : heldFirings 0 staleRecPlot = [] := by rfl

/-- Refutes O30: Reversing asks that a far header read again has every firing tried again that waits at a slot, unless a REC of the same
firing, plot and round included, is to take effect. The model passes over a slot by its cell, block, frame and number alone (recWaits). In staleRec
the REC that stands at slot 1 is of round 0 and the plot is in round 1, so the firing that waits at slot 1 is not tried again. The
machine's rounds start with recQ empty, so no run is expected to reach such a state, but the statement takes every state. The rest of O30 holds:
adjointSeed_says, the three clauses on records (exec_recordReversal_starts, _effect and _trap), and the reread where no REC stands at
the slot (exec_farHeaderReread_retries). -/
theorem not_reversal : ¬ Obligations.Reversal := by
  rintro ⟨-, hrev⟩
  obtain ⟨-, -, -, -, hreread⟩ := hrev staleRec 0 staleRecPlot _ staleRecCtx _ zeroRec rfl rfl rfl rfl (by decide) staleRec_readRecs
    staleRec_nextRecord
  have hw : ∃ k pc, (k, pc) ∈ staleRec.pcells ∧ pc.watches.any (reported 0) = true := ⟨0, _, List.mem_singleton_self _, rfl⟩
  obtain ⟨t, ht, -, -, hretry⟩ := hreread hw
  have hnone : t.retry = [] := by
    rw [← Host.Outcome.next.inj ((exec_farHeaderReread_reported rfl hw).symm.trans ht)]
    exact staleRec_heldFirings
  have hmem := hretry 0 _ 0 _ 0 waitingInst 1 1 (List.mem_singleton_self _) (List.mem_singleton_self _) (List.mem_singleton_self _)
    (List.mem_singleton_self _) (by decide) (by decide)
  rw [hnone] at hmem
  cases hmem

end Sys2Proof.Machine
end

section
/-!
PROOFS. Words as the numbers they stand for: the integer operations of R175-R178 on numbers and on words.
-/
namespace Sys2Proof.Machine
open Sys2Proof.Claim

/-- A word as the number it stands for, of a signed or an unsigned type (R77). -/
def wordVal (signed : Bool) {w : Nat} (x : BitVec w) : Int := if signed = true then x.toInt else x.toNat

/-- The sign extension of a number's low bits is the signed value of the word of these bits. -/
theorem sx_eq_toInt_ofNat (v w : Nat) : sx v w = (BitVec.ofNat w v).toInt := by
  rcases w with _ | w
  · simp [sx, Nat.mod_one, BitVec.toInt_zero_length]
  · have hhalf : 2 ^ (w + 1) = 2 * 2 ^ w := Nat.pow_succ'
    have hcast : (2 : Int) ^ (w + 1) = ((2 ^ (w + 1) : Nat) : Int) := by push_cast; rfl
    rw [BitVec.toInt_eq_toNat_cond, BitVec.toNat_ofNat, sx, Nat.add_sub_cancel]
    refine ite_congr (propext ?_) (fun _ => rfl) (fun _ => by rw [hcast])
    omega

section
variable {w : Nat} (signed : Bool) (x y z : BitVec w)

@[simp] theorem ofInt_wordVal : BitVec.ofInt w (wordVal signed x) = x := by
  cases signed <;> simp [wordVal]

/-- The pattern of a word's value is the word. -/
@[simp] theorem wordVal_emod : (wordVal signed x % (2 ^ w : Nat)).toNat = x.toNat := by
  rw [← BitVec.toNat_ofInt, ofInt_wordVal]

theorem wordVal_inj : wordVal signed x = wordVal signed y ↔ x = y :=
  ⟨fun h => by rw [← ofInt_wordVal signed x, h, ofInt_wordVal], fun h => by rw [h]⟩

theorem wordVal_eq_zero : wordVal signed x = 0 ↔ x = 0 := by
  rw [← wordVal_inj signed]
  cases signed <;> simp [wordVal]

theorem ofInt_sub_wordVal : BitVec.ofInt w (wordVal signed x - wordVal signed y) = x - y := by
  rw [sub_eq_add_neg, BitVec.ofInt_add, BitVec.ofInt_neg, ofInt_wordVal, ofInt_wordVal, BitVec.sub_eq_add_neg]

theorem ofInt_abs_wordVal :
    BitVec.ofInt w (if wordVal signed x < 0 then -wordVal signed x else wordVal signed x) = if signed = true then x.abs else x := by
  rw [apply_ite (BitVec.ofInt w), BitVec.ofInt_neg, ofInt_wordVal]
  cases signed with
  | false => simp [wordVal]
  | true => simp [wordVal, BitVec.abs_eq, BitVec.msb_eq_toInt]

/-- The high half of a number of twice the width. -/
theorem ofInt_ediv_two_pow (v : Int) : BitVec.ofInt w (v / (2 ^ w : Nat)) = (BitVec.ofInt (2 * w) v).extractLsb' w w := by
  have hpos : (0 : Int) < 2 ^ w := by positivity
  have hhigh : v / 2 ^ w % 2 ^ w = v % (2 ^ w * 2 ^ w) / 2 ^ w % 2 ^ w := by
    conv_lhs => rw [← Int.emod_add_mul_ediv v (2 ^ w * 2 ^ w), mul_assoc, Int.add_mul_ediv_left _ _ hpos.ne', Int.add_mul_emod_self_left]
  have hmod : 0 ≤ v % (2 ^ w * 2 ^ w) := Int.emod_nonneg _ (by positivity)
  apply BitVec.eq_of_toNat_eq
  rw [BitVec.extractLsb'_toNat, BitVec.toNat_ofInt, BitVec.toNat_ofInt, Nat.shiftRight_eq_div_pow, two_mul, Nat.pow_add]
  zify
  rw [Int.toNat_of_nonneg hmod, Int.toNat_of_nonneg (Int.emod_nonneg _ hpos.ne'), hhigh]

theorem ofInt_mulh_wordVal :
    BitVec.ofInt w (wordVal signed x * wordVal signed y / (2 ^ w : Nat)) =
      if signed = true then (x.signExtend (2 * w) * y.signExtend (2 * w)).extractLsb' w w
      else (x.setWidth (2 * w) * y.setWidth (2 * w)).extractLsb' w w := by
  rw [ofInt_ediv_two_pow, BitVec.ofInt_mul]
  cases signed with
  | true => rfl
  | false => simp [wordVal]

theorem ofInt_tdiv_wordVal :
    BitVec.ofInt w (if wordVal signed y = 0 then 0 else (wordVal signed x).tdiv (wordVal signed y)) =
      if signed = true then x.sdiv y else x / y := by
  have hzero : (if wordVal signed y = 0 then 0 else (wordVal signed x).tdiv (wordVal signed y)) =
      (wordVal signed x).tdiv (wordVal signed y) := ite_eq_right_iff.mpr fun h => by rw [h, Int.tdiv_zero]
  rw [hzero]
  cases signed with
  | true =>
    apply BitVec.eq_of_toInt_eq
    simp [wordVal, BitVec.toInt_sdiv]
  | false => exact (BitVec.ofInt_natCast w (x.toNat / y.toNat)).trans BitVec.udiv_def.symm

theorem ofInt_tmod_wordVal :
    BitVec.ofInt w (if wordVal signed y = 0 then wordVal signed x else
        wordVal signed x - (wordVal signed x).tdiv (wordVal signed y) * wordVal signed y) =
      if signed = true then x.srem y else x % y := by
  have hzero : (if wordVal signed y = 0 then wordVal signed x else
      wordVal signed x - (wordVal signed x).tdiv (wordVal signed y) * wordVal signed y) = (wordVal signed x).tmod (wordVal signed y) := by
    rw [Int.tmod_def, Int.mul_comm]
    exact ite_eq_right_iff.mpr fun h => by simp [h]
  rw [hzero]
  cases signed with
  | true => simp [wordVal, ← BitVec.toInt_srem]
  | false => exact (BitVec.ofInt_natCast w (x.toNat % y.toNat)).trans BitVec.umod_def.symm

/-! ### Logic and shifts on patterns (R175, R176) -/

@[simp] theorem ofNat_toNat_self : BitVec.ofNat w x.toNat = x := by rw [BitVec.ofNat_toNat, BitVec.setWidth_eq]

theorem xor_and_eq_andn : x ^^^ (x &&& y) = x &&& ~~~y := by
  ext i hi
  simp only [BitVec.getElem_xor, BitVec.getElem_and, BitVec.getElem_not]
  cases x[i] <;> cases y[i] <;> rfl

theorem ofNat_mul_two_pow (v n : Nat) : BitVec.ofNat w (v * 2 ^ n) = BitVec.ofNat w v <<< n := by
  apply BitVec.eq_of_toNat_eq
  simp [Nat.shiftLeft_eq]

theorem ofNat_div_two_pow (n : Nat) : BitVec.ofNat w (x.toNat / 2 ^ n) = x >>> n := by
  rw [← Nat.shiftRight_eq_div_pow, ← BitVec.toNat_ushiftRight, ofNat_toNat_self]

theorem ofNat_shl_toNat (n : Nat) :
    BitVec.ofNat w (if n < w then x.toNat * 2 ^ n else 0) = if n < w then x <<< n else 0 := by
  rw [apply_ite (BitVec.ofNat w), ofNat_mul_two_pow, ofNat_toNat_self]
  rfl

theorem ofNat_shr_toNat (n : Nat) :
    BitVec.ofNat w (if n < w then x.toNat / 2 ^ n else 0) = if n < w then x >>> n else 0 := by
  rw [apply_ite (BitVec.ofNat w), ofNat_div_two_pow]
  rfl

theorem ofInt_sar_toInt (n : Nat) :
    BitVec.ofInt w (if n < w then x.toInt / (2 ^ n : Nat) else if x.toInt < 0 then -1 else 0) =
      if n < w then x.sshiftRight n else if x.msb = true then BitVec.allOnes w else 0 := by
  have hsign : x.msb = true ↔ x.toInt < 0 := by rw [BitVec.msb_eq_toInt, decide_eq_true_iff]
  have hones : BitVec.ofInt w (-1) = BitVec.allOnes w := by rw [← BitVec.neg_one_eq_allOnes, BitVec.ofInt_neg]; rfl
  simp only [apply_ite (BitVec.ofInt w), hsign, hones, ← Int.shiftRight_eq_div_pow]
  rfl

/-! ### Limits (R175) -/

theorem wordVal_le : wordVal signed x ≤ wordVal signed y ↔ (if signed = true then x.sle y else x.ule y) = true := by
  cases signed <;> simp [wordVal, BitVec.sle_iff_toInt_le, BitVec.ule_iff_le, BitVec.le_def]

theorem wordVal_lt : wordVal signed x < wordVal signed y ↔ (if signed = true then x.slt y else x.ult y) = true := by
  cases signed <;> simp [wordVal, BitVec.slt_iff_toInt_lt, BitVec.ult_iff_lt, BitVec.lt_def]

theorem ofInt_min_wordVal :
    BitVec.ofInt w (if wordVal signed x ≤ wordVal signed y then wordVal signed x else wordVal signed y) =
      if (if signed = true then x.sle y else x.ule y) = true then x else y := by
  simp only [apply_ite (BitVec.ofInt w), ofInt_wordVal, wordVal_le]

theorem ofInt_max_wordVal :
    BitVec.ofInt w (if wordVal signed x ≥ wordVal signed y then wordVal signed x else wordVal signed y) =
      if (if signed = true then y.sle x else y.ule x) = true then x else y := by
  simp only [apply_ite (BitVec.ofInt w), ofInt_wordVal, ge_iff_le, wordVal_le]

theorem ofInt_clamp (v lo hi : Int) :
    BitVec.ofInt w (clamp v lo hi) = if v < lo then BitVec.ofInt w lo else if hi < v then BitVec.ofInt w hi else BitVec.ofInt w v := by
  simp only [clamp, apply_ite (BitVec.ofInt w)]

theorem ofInt_neg_two_pow : BitVec.ofInt w (-2 ^ (w - 1)) = BitVec.intMin w := BitVec.intMin_eq_neg_two_pow.symm

theorem ofInt_intMax : BitVec.ofInt w (2 ^ (w - 1) - 1) = BitVec.intMax w := by
  rw [← BitVec.toInt_intMax, BitVec.ofInt_toInt]

theorem ofInt_two_pow_sub_one : BitVec.ofInt w (2 ^ w - 1) = BitVec.allOnes w := by
  have hones : (2 ^ w - 1 : Int) = (BitVec.allOnes w).toNat := by
    rw [BitVec.toNat_allOnes, Nat.cast_sub Nat.one_le_two_pow]
    push_cast
    rfl
  rw [hones, BitVec.ofInt_natCast, ofNat_toNat_self]

/-- A signed value clamped to its type: the limit on the side of the first operand where the exact result overflows. -/
theorem ofInt_clamp_signed {v : Int} (hneg : v < -2 ^ (w - 1) → x.toInt < 0) (hpos : 2 ^ (w - 1) ≤ v → ¬x.toInt < 0) :
    BitVec.ofInt w (clamp v (-2 ^ (w - 1)) (2 ^ (w - 1) - 1)) =
      if (decide (v ≥ 2 ^ (w - 1)) || decide (v < -2 ^ (w - 1))) = true then
        if x.msb = true then BitVec.intMin w else BitVec.intMax w
      else BitVec.ofInt w v := by
  rw [ofInt_clamp, ofInt_neg_two_pow, ofInt_intMax, BitVec.msb_eq_toInt]
  by_cases hlo : v < -2 ^ (w - 1)
  · simp [hlo, hneg hlo]
  · by_cases hhi : 2 ^ (w - 1) ≤ v
    · simp [hlo, hhi, hpos hhi]
    · simp [hlo, hhi]

theorem ofInt_addsat_signed :
    BitVec.ofInt w (clamp (x.toInt + y.toInt) (-2 ^ (w - 1)) (2 ^ (w - 1) - 1)) =
      if BitVec.saddOverflow x y = true then (if x.msb = true then BitVec.intMin w else BitVec.intMax w) else x + y := by
  have hylo := BitVec.le_toInt y
  have hyhi := BitVec.toInt_lt (x := y)
  rw [ofInt_clamp_signed x (by omega) (by omega), BitVec.ofInt_add, BitVec.ofInt_toInt, BitVec.ofInt_toInt]
  rfl

theorem ofInt_subsat_signed :
    BitVec.ofInt w (clamp (x.toInt - y.toInt) (-2 ^ (w - 1)) (2 ^ (w - 1) - 1)) =
      if BitVec.ssubOverflow x y = true then (if x.msb = true then BitVec.intMin w else BitVec.intMax w) else x - y := by
  have hylo := BitVec.le_toInt y
  have hyhi := BitVec.toInt_lt (x := y)
  rw [ofInt_clamp_signed x (by omega) (by omega), ← ofInt_sub_wordVal true]
  rfl

theorem ofInt_addsat_unsigned :
    BitVec.ofInt w (clamp ((x.toNat : Int) + y.toNat) 0 (2 ^ w - 1)) =
      if BitVec.uaddOverflow x y = true then BitVec.allOnes w else x + y := by
  have hlo : ¬ (x.toNat : Int) + y.toNat < 0 := by omega
  have hhi : (2 ^ w - 1 < (x.toNat : Int) + y.toNat) ↔ BitVec.uaddOverflow x y = true := by
    simp only [BitVec.uaddOverflow, decide_eq_true_eq]
    zify
    omega
  simp only [ofInt_clamp, hlo, hhi, if_false, ofInt_two_pow_sub_one, BitVec.ofInt_add, BitVec.ofInt_natCast, ofNat_toNat_self]

theorem ofInt_subsat_unsigned :
    BitVec.ofInt w (clamp ((x.toNat : Int) - y.toNat) 0 (2 ^ w - 1)) =
      if BitVec.usubOverflow x y = true then 0 else x - y := by
  have hlo : (x.toNat : Int) - y.toNat < 0 ↔ BitVec.usubOverflow x y = true := by
    simp only [BitVec.usubOverflow, decide_eq_true_eq]
    omega
  have hhi : ¬ 2 ^ w - 1 < (x.toNat : Int) - y.toNat := by
    have := x.isLt
    zify at this
    omega
  simp only [ofInt_clamp, hlo, hhi, if_false]
  rw [← ofInt_sub_wordVal false]
  rfl

/-! ### Counts and the order of bits (R175) -/

/-- The zeros above a word's highest one. -/
theorem ofNat_clz : BitVec.ofNat w (if x.toNat = 0 then w else w - 1 - Nat.log2 x.toNat) = x.clz := by
  by_cases hx : x = 0#w
  · subst hx
    simpa using (BitVec.clz_eq_iff_eq_zero.mpr rfl).symm
  · have hne : x.toNat ≠ 0 := fun h => hx (BitVec.eq_of_toNat_eq (by simpa using h))
    have hw : 0 < w := Nat.pos_of_ne_zero fun h => hx (by subst h; exact BitVec.of_length_zero)
    have hlt : x.clz.toNat < w := by
      have h := BitVec.clz_lt_iff_ne_zero.mpr hx
      rw [BitVec.lt_def] at h
      exact lt_of_lt_of_le h (by simp)
    have hhigh : x.toNat < 2 ^ (w - 1 - x.clz.toNat + 1) := by
      have h := BitVec.toNat_lt_two_pow_sub_clz (x := x)
      rwa [show w - 1 - x.clz.toNat + 1 = w - x.clz.toNat by omega]
    have hlog : Nat.log2 x.toNat = w - 1 - x.clz.toNat :=
      (Nat.log2_eq_iff hne).mpr ⟨BitVec.two_pow_sub_clz_le_toNat_of_ne_zero hw hx, hhigh⟩
    rw [if_neg hne, hlog, Nat.sub_sub_self (by omega), ofNat_toNat_self]

/-- The bits of a number below `w` in the reverse order. -/
def revBits (w u : Nat) : Nat := (List.range w).foldl (fun v i => bif u.testBit i then v + 2 ^ (w - 1 - i) else v) 0

theorem foldl_cond_add {p : Nat → Bool} {g h : Nat → Nat} {k : Nat} {l : List Nat} (hl : ∀ i ∈ l, h i = k * g i) (a : Nat) :
    l.foldl (fun v i => bif p i then v + h i else v) (k * a) = k * l.foldl (fun v i => bif p i then v + g i else v) a := by
  induction l generalizing a with
  | nil => rfl
  | cons i l ih =>
    have hstep : (bif p i then k * a + h i else k * a) = k * (bif p i then a + g i else a) := by
      cases p i
      · rfl
      · simp [hl i, Nat.mul_add]
    rw [List.foldl_cons, List.foldl_cons, hstep, ih fun j hj => hl j (List.mem_cons_of_mem i hj)]

theorem revBits_succ (w u : Nat) : revBits (w + 1) u = 2 * revBits w u + (u.testBit w).toNat := by
  have hdouble : ∀ i ∈ List.range w, 2 ^ (w - i) = 2 * 2 ^ (w - 1 - i) := by
    intro i hi
    rw [← Nat.pow_succ', show w - i = w - 1 - i + 1 by have := List.mem_range.mp hi; omega]
  have hbelow := foldl_cond_add (p := u.testBit) hdouble 0
  rw [revBits, List.range_succ, List.foldl_append, Nat.add_sub_cancel, ← Nat.mul_zero 2, hbelow]
  cases h : u.testBit w <;> simp [h, revBits]

theorem revBits_congr {w u v : Nat} (h : ∀ i < w, u.testBit i = v.testBit i) : revBits w u = revBits w v := by
  refine List.foldl_ext _ _ _ fun a i hi => ?_
  rw [h i (List.mem_range.mp hi)]

theorem revBits_toNat : revBits w x.toNat = x.reverse.toNat := by
  induction w with
  | zero => rw [BitVec.of_length_zero (x := x.reverse)]; rfl
  | succ w ih =>
    have hlow : revBits w x.toNat = revBits w (x.setWidth w).toNat := revBits_congr fun i hi => by simp [hi]
    rw [revBits_succ, hlow, ih, BitVec.reverse, BitVec.toNat_concat, BitVec.msb_eq_getLsbD_last, Nat.add_sub_cancel,
      BitVec.testBit_toNat, Nat.mul_comm]

/-! ### Fields (R177, R178) -/

theorem ofInt_wordVal_extract (pos len : Nat) : BitVec.ofInt w (wordVal signed (x.extractLsb' pos len)) = fieldOf signed x pos len := by
  cases signed with
  | true => rfl
  | false => exact (BitVec.ofInt_natCast w _).trans (BitVec.ofNat_toNat w _)

/-- A field of a pattern, extended by the signedness of its type. -/
theorem fieldVal_eq_wordVal (pos len : Nat) :
    (if len = 0 then 0 else if signed = true then sx (x.toNat / 2 ^ pos % 2 ^ len) len else ((x.toNat / 2 ^ pos % 2 ^ len : Nat) : Int)) =
      wordVal signed (x.extractLsb' pos len) := by
  have hpat : BitVec.ofNat len (x.toNat / 2 ^ pos % 2 ^ len) = x.extractLsb' pos len := by
    apply BitVec.eq_of_toNat_eq
    simp [Nat.shiftRight_eq_div_pow]
  by_cases hlen : len = 0
  · subst hlen
    cases signed <;> simp [wordVal, BitVec.toInt_zero_length]
  · simp only [hlen, if_false, sx_eq_toInt_ofNat, hpat, wordVal, BitVec.extractLsb'_toNat, Nat.shiftRight_eq_div_pow]

theorem ofNat_mask (len : Nat) : BitVec.ofNat w (2 ^ len - 1) = (BitVec.allOnes len).setWidth w := by
  rw [← BitVec.toNat_allOnes, BitVec.ofNat_toNat]

theorem ofNat_insBits (n : Nat) :
    BitVec.ofNat w (insBits x.toNat y.toNat n) =
      let mask := (BitVec.allOnes (fieldLen n)).setWidth w <<< fieldPos n
      x &&& ~~~mask ||| y <<< fieldPos n &&& mask := by
  have hkept : BitVec.ofNat w (x.toNat ^^^ (x.toNat &&& (2 ^ fieldLen n - 1) * 2 ^ fieldPos n)) =
      x &&& ~~~((BitVec.allOnes (fieldLen n)).setWidth w <<< fieldPos n) := by
    rw [BitVec.ofNat_xor, BitVec.ofNat_and, ofNat_mul_two_pow, ofNat_mask, ofNat_toNat_self, xor_and_eq_andn]
  have hput : BitVec.ofNat w (y.toNat % 2 ^ fieldLen n * 2 ^ fieldPos n) =
      y <<< fieldPos n &&& (BitVec.allOnes (fieldLen n)).setWidth w <<< fieldPos n := by
    rw [ofNat_mul_two_pow, ← Nat.and_two_pow_sub_one_eq_mod, BitVec.ofNat_and, ofNat_mask, ofNat_toNat_self, BitVec.shiftLeft_and_distrib]
  rw [insBits, BitVec.ofNat_or, hkept, hput]

theorem ofInt_sx_toNat (n : Nat) : BitVec.ofInt w (sx x.toNat n) = (x.setWidth n).signExtend w := by
  rw [sx_eq_toInt_ofNat, BitVec.ofNat_toNat]
  rfl

theorem ofNat_mod_two_pow (n : Nat) : BitVec.ofNat w (x.toNat % 2 ^ n) = (x.setWidth n).setWidth w := by
  rw [← BitVec.toNat_setWidth, BitVec.ofNat_toNat]

end

end Sys2Proof.Machine
end

section
/-!
PROOFS. The integer forms: the operands as words, and the result of each form (R167-R180).
-/
namespace Sys2Proof.Machine
open Sys2Proof.Claim

/-! ### Operands and results (R167, R168, R172) -/

section
variable (ty : IntTy)

/-- A type that is not of 64 bits reads the low half of an element alone. -/
theorem itWidth_le (h : itWidth ty ≠ 64) : itWidth ty ≤ 32 := by
  cases ty
  case i64 | n64 => exact absurd rfl h
  all_goals decide

theorem widen_eq (signed : Bool) (k : Kind) (v : Dword) :
    widen signed k v =
      if k.wide = true then v else if signed = true then (v.setWidth 32).signExtend 64 else (v.setWidth 32).setWidth 64 := by
  have hsx : BitVec.ofInt 64 (sx v.toNat 32) = (v.setWidth 32).signExtend 64 := by
    rw [sx_eq_toInt_ofNat, BitVec.ofNat_toNat]
    rfl
  simp only [widen, Bool.cond_eq_ite, hsx, dw_low32]

/-- The low bits of an element, however it is widened. -/
theorem rdBits_of_narrow (h : itWidth ty ≤ 32) (k : Kind) (v : Dword) : rdBits ty k v = v.setWidth _ := by
  ext i hi
  have h32 : i < 32 := lt_of_lt_of_le hi h
  have h64 : i < 64 := by omega
  unfold rdBits
  split
  · rfl
  · split <;> simp [BitVec.getElem_setWidth, BitVec.getElem_signExtend, h32, h64]

theorem rdBits_eq (k : Kind) (v : Dword) :
    rdBits ty k v = (bif itWidth ty == 64 then widen (itSigned ty) k v else v).setWidth _ := by
  by_cases h : itWidth ty = 64
  · simp only [h, beq_self_eq_true, cond_true, widen_eq]
    rfl
  · rw [rdBits_of_narrow ty (itWidth_le ty h), beq_eq_false_iff_ne.mpr h, cond_false]

/-- An element is read as the number that its word stands for. -/
theorem rdInt_eq (k : Kind) (v : Dword) : rdInt ty k v = wordVal (itSigned ty) (rdBits ty k v) := by
  have hword : (bif itWidth ty == 64 then (widen (itSigned ty) k v).toNat else v.toNat) % 2 ^ itWidth ty = (rdBits ty k v).toNat := by
    rw [rdBits_eq, BitVec.toNat_setWidth]
    cases itWidth ty == 64 <;> rfl
  rw [rdInt, hword, sx_eq_toInt_ofNat, ofNat_toNat_self, wordVal, Bool.cond_eq_ite]

/-- A number is written as the word of its residue. -/
theorem wrInt_eq (x : Int) : wrInt ty x = wrBits ty (BitVec.ofInt _ x) := by
  have hword : BitVec.ofNat (itWidth ty) (x % (2 ^ itWidth ty : Nat)).toNat = BitVec.ofInt _ x := by
    rw [← BitVec.toNat_ofInt, ofNat_toNat_self]
  have hext : dw (sx (x % (2 ^ itWidth ty : Nat)).toNat (itWidth ty) % (2 ^ 32 : Nat)).toNat =
      ((BitVec.ofInt (itWidth ty) x).signExtend 32).setWidth 64 := by
    rw [sx_eq_toInt_ofNat, hword, ← BitVec.toNat_ofInt]
    exact BitVec.ofNat_toNat 64 _
  have hzero : dw (x % (2 ^ itWidth ty : Nat)).toNat = (BitVec.ofInt (itWidth ty) x).setWidth 64 := by
    rw [← BitVec.toNat_ofInt]
    exact BitVec.ofNat_toNat 64 _
  simp only [wrInt, wrBits, hext, hzero, Bool.cond_eq_ite, Bool.and_eq_true, blt_eq_decide, decide_eq_true_eq]

variable (c : Ctx) (b : BitVec 3) (port e : Nat)

theorem rdPort_eq : rdPort c ty port e = wordVal (itSigned ty) (opnd c ty port e) := rdInt_eq ty _ _

/-- The pair of constant words is one word above the other. -/
theorem pair_eq_append (lo hi : Word) : pair lo hi = (hi ++ lo : BitVec 64) := by
  apply BitVec.eq_of_toNat_eq
  have hlo := lo.isLt
  have hhi := hi.isLt
  rw [BitVec.toNat_append, Nat.shiftLeft_eq, Nat.mul_comm, ← Nat.two_pow_add_eq_or_of_lt hlo, pair, BitVec.toNat_ofNat]
  omega

/-- The operand that BSRC governs is the number that its word stands for. -/
theorem bsrcInt_eq : bsrcInt c b ty port e = wordVal (itSigned ty) (opndB c b ty port e) := by
  by_cases hb : b = 0
  · subst hb
    exact rdInt_eq ty _ _
  · have hword : (bif itWidth ty == 64 then c.k2 (b.toNat - 1) else zx32 (c.k (b.toNat - 1))) =
        ((if itWidth ty = 64 then c.k b.toNat else 0) ++ c.k (b.toNat - 1) : BitVec 64) := by
      have hnext : b.toNat - 1 + 1 = b.toNat := Nat.sub_add_cancel (Nat.pos_of_ne_zero fun h => hb (BitVec.eq_of_toNat_eq h))
      by_cases hw : itWidth ty = 64
      · simp only [hw, beq_self_eq_true, cond_true, if_true, Ctx.k2, hnext, pair_eq_append]
      · rw [beq_eq_false_iff_ne.mpr hw, if_neg hw, cond_false, ← pair_eq_append]
        simp [zx32, pair]
    have hconst : bsrcInt c b ty port e = rdInt ty .r64 (bif itWidth ty == 64 then c.k2 (b.toNat - 1) else zx32 (c.k (b.toNat - 1))) := by
      rw [bsrcInt, show (b == 0#3) = false from beq_eq_false_iff_ne.mpr hb, cond_false]
    rw [hconst, hword, rdInt_eq, opndB, if_neg hb]
    rfl

end

/-! ### Forms that map their elements in a unit (R170) -/

/-- An instruction that maps each element of a firing in the time of a unit, to results of a width. -/
def MapsIn (u : Lat) (i : Instr) (s : State) (c : Ctx) (lim : Nat) (wide : Bool) (c1 c0 : Cons) (f : Nat → Dword) : Prop :=
  ∃ g : Ctx → Nat → Dword, exec i s = fireMap s u lim c1 c0 wide g ∧ ∀ e, g c e = f e

/-- Such a firing resolves its elements, sends one result for each and takes the unit. -/
theorem MapsIn.next {u : Lat} {i : Instr} {s : State} {c : Ctx} {lim : Nat} {wide : Bool} {c1 c0 : Cons} {f : Nat → Dword} {es : List Nat}
    (h : MapsIn u i s c lim wide c1 c0 f) (hf : Fires s c lim es) :
    exec i s = .next (takeUnit (complete s c (u.cycles es.length) es (perElem c c1 c0 (if wide = true then .r64 else .r32) es f)) c u
      es.length) := by
  obtain ⟨g, hexec, hg⟩ := h
  obtain ⟨hc, he, hn⟩ := hf
  have hout : both c1 c0 (runKind wide) (mapElems c es (g c)) = perElem c c1 c0 (if wide = true then .r64 else .r32) es f := by
    simp only [mapElems, hg, Bool.cond_eq_ite, perElem, runKind]
  rw [hexec, fireMap_next hc he hn, hout]

/-- The cycles of a unit that takes `per` elements in a cycle. -/
theorem Lat.cycles_of_per {base per n : Nat} (h : per ≠ 0) : Lat.cycles ⟨base, per⟩ n = base + ((n + per - 1) / per - 1) := by
  simp [Lat.cycles, Lat.busy, beq_eq_false_iff_ne.mpr h]

/-- A firing has elements. -/
theorem length_ne_zero_of_fires {s : State} {c : Ctx} {lim : Nat} {es : List Nat} (hf : Fires s c lim es) : es.length ≠ 0 :=
  mt List.eq_nil_of_length_eq_zero hf.2.2

/-! ### A firing of an integer form (R168-R170) -/

/-- The time of an integer form (R170). -/
def intUnit (ty : IntTy) : Instr → Lat
  | .mul .. | .mulh .. | .mad .. => mulLat ty
  | .div .. | .rem .. => divLat ty
  | _ => lat2

theorem mulLat_eq (ty : IntTy) : mulLat ty = ⟨if itWidth ty = 64 then 4 else 2, 0⟩ := by cases ty <;> rfl

theorem divLat_eq (ty : IntTy) : divLat ty = if itWidth ty = 64 then ⟨24, 4⟩ else ⟨12, 8⟩ := by cases ty <;> rfl

theorem divLat_cycles (ty : IntTy) {n : Nat} (hn : n ≠ 0) :
    (divLat ty).cycles n = if itWidth ty = 64 then 24 + (n + 3) / 4 - 1 else 12 + (n + 7) / 8 - 1 := by
  rw [divLat_eq]
  split
  · rw [Lat.cycles_of_per (by decide)]
    omega
  · rw [Lat.cycles_of_per (by decide)]
    omega

/-- The unit that a form of these takes, and its cycles, are the statement's. -/
theorem takeUnit_intUnit {i : Instr} {ty : IntTy} {lat n : Nat} {c1 c0 : Cons} (h : intForm n i = some (ty, lat, c1, c0)) (hn : n ≠ 0) :
    (intUnit ty i).cycles n = lat ∧ ∀ (s : State) (c : Ctx), takeUnit s c (intUnit ty i) n =
      if divides i = true then sfBusy s c (if itWidth ty = 64 then (n + 3) / 4 else (n + 7) / 8) else s := by
  cases i
  case div | rem =>
    cases h
    refine ⟨divLat_cycles ty hn, fun s c => ?_⟩
    simp only [intUnit, divLat_eq]
    split <;> rfl
  case mul | mulh | mad =>
    cases h
    simp only [intUnit, mulLat_eq]
    exact ⟨rfl, fun _ _ => rfl⟩
  all_goals cases h
  all_goals exact ⟨rfl, fun _ _ => rfl⟩

/-- An integer form that maps each element of a firing to a result of the width of its type. -/
abbrev MapsInts (i : Instr) (s : State) (c : Ctx) (ty : IntTy) (c1 c0 : Cons) (f : Nat → Dword) : Prop :=
  MapsIn (intUnit ty i) i s c (lanes (itWidth ty == 64)) (itWidth ty == 64) c1 c0 f

/-- Such a firing leaves the state of the statement. -/
theorem MapsInts.next {i : Instr} {s : State} {c : Ctx} {ty : IntTy} {lat : Nat} {c1 c0 : Cons} {f : Nat → Dword} {es : List Nat}
    (h : MapsInts i s c ty c1 c0 f) (hform : intForm es.length i = some (ty, lat, c1, c0)) (hf : Fires s c (lanes (itWidth ty == 64)) es) :
    exec i s = .next (intNext i s c ty lat c1 c0 es f) := by
  obtain ⟨rfl, hunit⟩ := takeUnit_intUnit hform (length_ne_zero_of_fires hf)
  rw [MapsIn.next h hf, hunit]
  simp only [beq_iff_eq]
  rfl

/-! ### Sums, products and quotients (R175) -/

theorem mapsInts_arith {i : Instr} {s : State} {c : Ctx} {f : Nat → Dword} {ty : IntTy} {n lat : Nat} {c1 c0 : Cons}
    (hform : intForm n i = some (ty, lat, c1, c0)) (hval : ∀ e, arith c e i = some (f e)) : MapsInts i s c ty c1 c0 f := by
  cases i
  case add | sub | mul | mulh | mad | div | rem | abs | neg =>
    cases hform
    refine ⟨_, by rw [← laneLimit_eq_lanes]; rfl, fun e => Option.some.inj (Eq.trans ?_ (hval e))⟩
    simp only [arith, wrInt_eq, rdPort_eq, bsrcInt_eq, BitVec.ofInt_add, BitVec.ofInt_mul, BitVec.ofInt_neg, ofInt_wordVal,
      ofInt_sub_wordVal, ofInt_mulh_wordVal, ofInt_tdiv_wordVal, ofInt_tmod_wordVal, ofInt_abs_wordVal]
  all_goals cases hval 0

/-- Settles O14: each form's exact result, at the width of its type, is the statement's operation on words. -/
theorem integerArithmetic : Obligations.IntegerArithmetic := by
  intro i s c es f ty lat c1 c0 hform hf hval
  exact (mapsInts_arith hform hval).next hform hf

/-! ### Logic and shifts (R175, R176) -/

theorem pattern_wordVal (ty : IntTy) (x : BitVec (itWidth ty)) : pattern ty (wordVal (itSigned ty) x) = x.toNat := wordVal_emod _ x

theorem mapsInts_logic {i : Instr} {s : State} {c : Ctx} {f : Nat → Dword} {ty : IntTy} {n lat : Nat} {c1 c0 : Cons}
    (hform : intForm n i = some (ty, lat, c1, c0)) (hval : ∀ e, logic c e i = some (f e)) : MapsInts i s c ty c1 c0 f := by
  cases i
  case and | or | xor | andn | shl | shr | sar | rot =>
    cases hform
    refine ⟨_, by rw [← laneLimit_eq_lanes]; rfl, fun e => Option.some.inj (Eq.trans ?_ (hval e))⟩
    simp only [logic, wrInt_eq, rdPort_eq, bsrcInt_eq, pattern_wordVal, BitVec.ofInt_natCast, sx_eq_toInt_ofNat, ofNat_toNat_self,
      BitVec.ofNat_and, BitVec.ofNat_or, BitVec.ofNat_xor, xor_and_eq_andn, ofNat_shl_toNat, ofNat_shr_toNat, ofInt_sar_toInt,
      ofNat_mul_two_pow, ofNat_div_two_pow, ← BitVec.rotateLeft_def]
  all_goals cases hval 0

/-! ### Minima, maxima and saturation (R175) -/

section
variable {ty : IntTy} (x y : BitVec (itWidth ty))

theorem itMin_eq (ty : IntTy) : itMin ty = if itSigned ty = true then -2 ^ (itWidth ty - 1) else 0 := by
  simp [itMin, Bool.cond_eq_ite]

theorem itMax_eq (ty : IntTy) : itMax ty = if itSigned ty = true then 2 ^ (itWidth ty - 1) - 1 else 2 ^ itWidth ty - 1 := by
  simp [itMax, Bool.cond_eq_ite]

theorem ofInt_addsat_wordVal :
    BitVec.ofInt _ (clamp (wordVal (itSigned ty) x + wordVal (itSigned ty) y) (itMin ty) (itMax ty)) =
      if itSigned ty = true then
        if BitVec.saddOverflow x y = true then (if x.msb = true then BitVec.intMin _ else BitVec.intMax _) else x + y
      else if BitVec.uaddOverflow x y = true then BitVec.allOnes _ else x + y := by
  rw [itMin_eq, itMax_eq]
  cases itSigned ty
  · exact ofInt_addsat_unsigned x y
  · exact ofInt_addsat_signed x y

theorem ofInt_subsat_wordVal :
    BitVec.ofInt _ (clamp (wordVal (itSigned ty) x - wordVal (itSigned ty) y) (itMin ty) (itMax ty)) =
      if itSigned ty = true then
        if BitVec.ssubOverflow x y = true then (if x.msb = true then BitVec.intMin _ else BitVec.intMax _) else x - y
      else if BitVec.usubOverflow x y = true then 0 else x - y := by
  rw [itMin_eq, itMax_eq]
  cases itSigned ty
  · exact ofInt_subsat_unsigned x y
  · exact ofInt_subsat_signed x y

end

theorem mapsInts_minmax {i : Instr} {s : State} {c : Ctx} {f : Nat → Dword} {ty : IntTy} {n lat : Nat} {c1 c0 : Cons}
    (hform : intForm n i = some (ty, lat, c1, c0)) (hval : ∀ e, minmaxForm c e i = some (f e)) : MapsInts i s c ty c1 c0 f := by
  cases i
  case min | max | addsat | subsat =>
    cases hform
    refine ⟨_, by rw [← laneLimit_eq_lanes]; rfl, fun e => Option.some.inj (Eq.trans ?_ (hval e))⟩
    simp only [minmaxForm, comparing, wrInt_eq, rdPort_eq, bsrcInt_eq, ofInt_min_wordVal, ofInt_max_wordVal, ofInt_addsat_wordVal,
      ofInt_subsat_wordVal]
  all_goals cases hval 0

/-- Settles O15: the forms act on the patterns, or on the values, of their operands as the statement's operations on words. -/
theorem integerLogic : Obligations.IntegerLogic := by
  constructor
  · intro i s c es f ty lat c1 c0 hform hf hval
    exact (mapsInts_logic hform hval).next hform hf
  · intro i s c es f ty lat c1 c0 hform hf hval
    exact (mapsInts_minmax hform hval).next hform hf

/-! ### Counts, fields and addresses (R175, R177, R178) -/

section
variable (c : Ctx) (b : BitVec 3) (port e : Nat)

theorem bsrcBits_eq : bsrcBits c b port e = (wholeB c b port e).toNat := by
  by_cases hb : b = 0#3
  · subst hb
    rfl
  · rw [bsrcBits, beq_eq_false_iff_ne.mpr hb, cond_false, wholeB, if_neg (show ¬b = 0 from hb)]
    exact (BitVec.toNat_setWidth_of_le (by decide)).symm

theorem fieldPos_toNat (y : Dword) : fieldPos y.toNat = (y.extractLsb' 0 6).toNat := by
  rw [BitVec.extractLsb'_toNat]
  rfl

theorem fieldLen_toNat (y : Dword) : fieldLen y.toNat = (y.extractLsb' 8 6).toNat := by
  rw [BitVec.extractLsb'_toNat, Nat.shiftRight_eq_div_pow]
  rfl

end

theorem ofInt_extBits (ty : IntTy) (x : BitVec (itWidth ty)) (y : Dword) :
    BitVec.ofInt _ (extBits ty x.toNat y.toNat) = fieldOf (itSigned ty) x (y.extractLsb' 0 6).toNat (y.extractLsb' 8 6).toNat := by
  rw [← ofInt_wordVal_extract, ← fieldVal_eq_wordVal, extBits, fieldPos_toNat, fieldLen_toNat]

theorem ofNat_insBits_toNat {w : Nat} (x y : BitVec w) (z : Dword) :
    BitVec.ofNat w (insBits x.toNat y.toNat z.toNat) =
      let mask := (BitVec.allOnes (z.extractLsb' 8 6).toNat).setWidth w <<< (z.extractLsb' 0 6).toNat
      x &&& ~~~mask ||| y <<< (z.extractLsb' 0 6).toNat &&& mask := by
  rw [ofNat_insBits, fieldPos_toNat, fieldLen_toNat]

/-- The width that WID names (R172). -/
theorem widBits_eq (wid : BitVec 3) : widBits wid = 4 <<< wid.toNat := (Nat.shiftLeft_eq 4 _).symm

theorem ofInt_addr (x : Dword) (y : Word) (n : Nat) :
    BitVec.ofInt 64 (wordVal false x + wordVal true y * (2 ^ n : Nat)) = x + y.signExtend 64 <<< n := by
  have hpow : BitVec.ofNat 64 (2 ^ n) = BitVec.twoPow 64 n := BitVec.eq_of_toNat_eq (by simp)
  rw [BitVec.ofInt_add, ofInt_wordVal, BitVec.ofInt_mul, BitVec.ofInt_natCast, BitVec.shiftLeft_eq_mul_twoPow, hpow]
  rfl

theorem wrBits_n64 (x : Dword) : wrBits .n64 x = x := BitVec.setWidth_eq x

theorem opnd_n64 (c : Ctx) (port e : Nat) : opnd c .n64 port e = rd64 (c.kind port) (c.val port e) := BitVec.setWidth_eq _

theorem mapsInts_fields {i : Instr} {s : State} {c : Ctx} {f : Nat → Dword} {ty : IntTy} {n lat : Nat} {c1 c0 : Cons}
    (hform : intForm n i = some (ty, lat, c1, c0)) (hval : ∀ e, fields c e i = some (f e)) : MapsInts i s c ty c1 c0 f := by
  cases i
  case addr b scale c1' c0' =>
    cases hform
    refine ⟨_, by rw [← laneLimit_eq_lanes]; rfl, fun e => Option.some.inj (Eq.trans ?_ (hval e))⟩
    have hsum := ofInt_addr (opnd c .n64 0 e) (opndB c b .i32 1 e) scale.toNat
    rw [opnd_n64] at hsum
    simp only [fields, wrInt_eq, rdPort_eq, bsrcInt_eq, opnd_n64]
    exact congrArg (fun x => some (wrBits .n64 x)) hsum
  case brev ty' c1' c0' =>
    cases hform
    refine ⟨_, by rw [← laneLimit_eq_lanes]; rfl, fun e => Option.some.inj (Eq.trans ?_ (hval e))⟩
    change some (wrInt ty (revBits (itWidth ty) (pattern ty (rdPort c ty 0 e)) : Nat)) = some (wrBits ty (opnd c ty 0 e).reverse)
    rw [wrInt_eq, rdPort_eq, pattern_wordVal, revBits_toNat, BitVec.ofInt_natCast, ofNat_toNat_self]
  case popc ty' c1' c0' =>
    cases hform
    refine ⟨_, by rw [← laneLimit_eq_lanes]; rfl, fun e => Option.some.inj (Eq.trans ?_ (hval e))⟩
    simp only [wrInt_eq, rdPort_eq, pattern_wordVal, BitVec.ofInt_natCast]
    rfl
  case clz | ext | ins | sext | zext =>
    cases hform
    refine ⟨_, by rw [← laneLimit_eq_lanes]; rfl, fun e => Option.some.inj (Eq.trans ?_ (hval e))⟩
    simp only [fields, wrInt_eq, rdPort_eq, pattern_wordVal, bsrcBits_eq, BitVec.ofInt_natCast, ofNat_clz, ofInt_extBits,
      ofNat_insBits_toNat, widBits_eq, ofInt_sx_toNat, ofNat_mod_two_pow]
  all_goals cases hval 0

/-- Settles O16: the counts, fields and extensions of a pattern are the statement's operations on the word. -/
theorem integerFields : Obligations.IntegerFields := by
  intro i s c es f ty lat c1 c0 hform hf hval
  exact (mapsInts_fields hform hval).next hform hf

/-! ### CMP and ADDC (R179, R180) -/

theorem flag_of_iff {b : Bool} {p : Prop} [Decidable p] (h : b = true ↔ p) : flag b = if p then 1 else 0 := by
  simp only [flag, Bool.cond_eq_ite, h]

theorem flag_of_iff_not {b : Bool} {p : Prop} [Decidable p] (h : b = true ↔ ¬p) : flag b = if p then 0 else 1 := by
  rw [flag_of_iff h, ite_not]

/-- The conditions of CMP on words are those on the numbers they stand for. -/
theorem flag_of_comparing {c : Ctx} {e : Nat} {cond : Cmp} {ty : IntTy} {c1 c0 : Cons} {v : Dword}
    (h : comparing c e (.cmp cond ty c1 c0) = some v) : flag (cmpInt cond (rdPort c ty 0 e) (rdPort c ty 1 e)) = v := by
  simp only [comparing, ← wordVal_lt, ← wordVal_inj (itSigned ty), ← rdPort_eq] at h
  cases cond
  case eq | lt => exact (flag_of_iff decide_eq_true_iff).trans (Option.some.inj h)
  case le => exact (flag_of_iff (decide_eq_true_iff.trans le_iff_lt_or_eq)).trans (Option.some.inj h)
  case ne => exact (flag_of_iff_not decide_eq_true_iff).trans (Option.some.inj h)
  case ge => exact (flag_of_iff_not (decide_eq_true_iff.trans not_lt.symm)).trans (Option.some.inj h)
  case gt => exact (flag_of_iff_not (decide_eq_true_iff.trans (not_le.symm.trans (not_congr le_iff_lt_or_eq)))).trans (Option.some.inj h)
  case un | ord => cases h

/-- Settles O17: the operands compare as the numbers that they stand for. -/
theorem compare : Obligations.Compare := by
  intro s c es f cond ty c1 c0 hf hval
  have hmap : MapsElems (.cmp cond ty c1 c0) s c 2 (lanes (itWidth ty == 64)) false c1 c0 f :=
    ⟨lat2, _, rfl, rfl, by rw [← laneLimit_eq_lanes]; rfl, fun e => flag_of_comparing (hval e)⟩
  exact hmap.next hf

section
variable {ty : IntTy} (hu : itSigned ty = false)
include hu

theorem wrInt_unsigned (n : Nat) : wrInt ty n = dw (n % 2 ^ itWidth ty) := by
  rw [wrInt, hu, Bool.false_and, cond_false]
  exact congrArg dw (Int.toNat_natCast _)

/-- An exact sum of an unsigned type with its carry is a number. -/
theorem addcSum_eq (c : Ctx) (b : BitVec 3) (e : Nat) :
    rdPort c ty 0 e + rdPort c ty 1 e + (if bsrcInt c b ty 2 e = 0 then 0 else 1) =
      (((opnd c ty 0 e).toNat + (opnd c ty 1 e).toNat + (if opndB c b ty 2 e = 0 then 0 else 1) : Nat) : Int) := by
  have hcarry : bsrcInt c b ty 2 e = 0 ↔ opndB c b ty 2 e = 0 := by rw [bsrcInt_eq, wordVal_eq_zero]
  simp only [rdPort_eq, hcarry, wordVal, hu]
  push_cast
  rfl

end

theorem carryOut_natCast (w n : Nat) : carryOut w n = dw (n / 2 ^ w) := BitVec.ofInt_natCast 64 (n / 2 ^ w)

/-- Settles O18: of an unsigned type the exact sum is a number, whose low part and whose carry are sent. -/
theorem addWithCarry : Obligations.AddWithCarry := by
  constructor
  · intro s c es b ty c1 c0 hu hf sum out
    obtain ⟨hc, he, hn⟩ := hf
    refine (fireLanes_next hc (by rw [laneLimit_eq_lanes]; exact he) hn : execAddc b ty c1 c0 s = _).trans ?_
    simp only [addcSum_eq hu, wrInt_unsigned hu, carryOut_natCast, mapElems, Bool.cond_eq_ite, runKind, beq_iff_eq]
    rfl
  · intro p cell bidx first kind es
    rfl

end Sys2Proof.Machine
end

section
/-!
PROOFS. The special functions (R187, R188) and their unit (R170).
-/
namespace Sys2Proof.Machine
open Sys2Proof.Claim

/-- A special function has the pattern of its format alone. -/
theorem funcF_mod (g : Func) (f : Fmt) (r : Rnd) (x : Nat) : funcF g f r (x % 2 ^ f.width) = funcF g f r x := by
  simp only [funcF, decodeF_mod]

theorem funcF_pat {ty : Ty} (h : isFloat ty = true) (c : Ctx) (e : Nat) (g : Func) (r : Rnd) :
    funcF g (fmtOf ty) r (pat c ty 0 e) = funcF g (fmtOf ty) r (c.val 0 e).toNat := by rw [pat_eq h, funcF_mod]

/-- RCPA has the mantissa of RCP cleared but for a special operand. -/
theorem floatFunc_rcpa (c : Ctx) (e : Nat) (ty : Ty) (c1 c0 : Cons) :
    floatFunc c e (.rcpa ty c1 c0) = some (patF (rcpaF (c.val 0 e).toNat)) := by
  have hfun : funcF .rcp fmtF32 { mode := .rz, word := 0 } (pat c .f32 0 e) =
      funcF .rcp fmtF32 { mode := .rz, word := 0 } (c.val 0 e).toNat :=
    funcF_pat (ty := .f32) rfl c e _ _
  have hval : fval c .f32 0 e = decodeF fmtF32 (c.val 0 e).toNat := fval_eq rfl c 0 e
  simp only [floatFunc, rcpaF, hfun, hval, ← Nat.div_mul_self_eq_mod_sub_self]
  cases decodeF fmtF32 (c.val 0 e).toNat with
  | nan => rfl
  | inf neg => rfl
  | fin neg m x =>
    cases m with
    | zero => rfl
    | succ m => rfl

/-- The time of the special-function unit (R170). -/
def specialUnit : Lat := ⟨12, 8⟩

theorem specialUnit_cycles {n : Nat} (hn : n ≠ 0) : specialUnit.cycles n = 12 + (n + 7) / 8 - 1 := by
  rw [specialUnit, Lat.cycles_of_per (by decide)]
  omega

theorem mapsIn_floatFunc {i : Instr} {s : State} {c : Ctx} {f : Nat → Dword} {ty : Ty} {n lat : Nat} {wide : Bool} {c1 c0 : Cons}
    (hform : floatForm n i = some (lat, wide, c1, c0)) (hty : floatTy i = some ty) (hfl : isFloat ty = true)
    (hval : ∀ e, floatFunc c e i = some (f e)) : lat = 12 + (n + 7) / 8 - 1 ∧ MapsIn specialUnit i s c 32 false c1 c0 f := by
  cases i
  case exp2 | log2 | rcp | rsqrt | sqrt | sin | cos | tanh | sigm =>
    cases hform
    cases hty
    refine ⟨rfl, _, rfl, fun e => Option.some.inj (Eq.trans ?_ (hval e))⟩
    simp only [floatFunc, funcF_pat hfl, rndOf_eq_rounding]
    rfl
  case rcpa ty' c1' c0' =>
    cases hform
    exact ⟨rfl, _, rfl, fun e => Option.some.inj ((floatFunc_rcpa c e ty' _ _).symm.trans (hval e))⟩
  all_goals cases hval 0

/-- Settles O21: each form gives the function of the operand's pattern, and RCPA the cleared reciprocal, in the unit's time. -/
theorem floatFunctions : Obligations.FloatFunctions := by
  intro i s c es f ty lat wide c1 c0 hform hty hfl hf hval
  obtain ⟨rfl, hmap⟩ := mapsIn_floatFunc (s := s) hform hty hfl hval
  rw [hmap.next hf, specialUnit_cycles (length_ne_zero_of_fires hf)]
  rfl

end Sys2Proof.Machine
end

section
/-!
PROOFS. RAND and the journal of a job (R201, R435-R438).
-/
namespace Sys2Proof.Machine
open Sys2Proof.Claim

/-! ### The journal (R435-R438) -/

theorem journal_says : Sys2Proof.Says.Journal := by
  intro s s1 key j w0 w1 w2 value hj
  refine ⟨fun hmode hroom hput => ?_, fun hmode hfull => ?_, fun i v hmode hfind => ?_, fun hmode hfind => ?_⟩
  · have hble : j.jsize.ble j.jcount = false := by rw [ble_eq_decide, decide_eq_false_iff_not]; omega
    simp only [journal, hj, hmode, hble, cond_false, hput]
  · have hble : j.jsize.ble j.jcount = true := Nat.ble_eq.mpr hfull
    simp only [journal, hj, hmode, hble, cond_true]
  · simp only [journal, hj, hmode, hfind]
  · simp only [journal, hj, hmode, hfind]

section
variable {s : State} {c : Ctx}

/-- A job in neither mode keeps no journal. -/
theorem journal_of_unjournalled {key : Nat} (h : ∀ j, Tab.at? s.jobs key = some j → j.jmode ≠ 1 ∧ j.jmode ≠ 2)
    (w0 w1 w2 value : Dword) :
    journal s key w0 w1 w2 value = (s, value) := by
  unfold journal
  split
  · rfl
  · next j hj =>
    obtain ⟨h1, h2⟩ := h j hj
    split
    · next hm => exact absurd hm h1
    · next hm => exact absurd hm h2
    · rfl

theorem journalFiring_of_unjournalled (h : unjournalled s c) (kind tag : Nat) (value : Dword) :
    journalFiring s c kind tag value = (s, value) := by
  unfold journalFiring
  split
  · rfl
  · next k r hr => exact journal_of_unjournalled (fun j hj => h k r j hr hj) _ _ _ _

/-- Drawing leaves the records and jobs, and so whether a firing keeps a journal. -/
theorem unjournalled_draw (h : unjournalled s c) : unjournalled { s with ctr := s.ctr + 1 } c := h

/-! ### RAND (R201) -/

theorem randElem_done (h : unjournalled s c) (ty : Ty) (e : Nat) :
    randElem ty s c e = .done { s with ctr := s.ctr + 1 } (some (randValue ty (Config.entropy s.ctr))) := by
  simp only [randElem, draw, journalFiring_of_unjournalled (unjournalled_draw h)]

/-- A firing of RAND on one element. -/
theorem execRand_next {e : Nat} (hf : FiresOn s c e) (h : unjournalled s c) (ty : Ty) (c1 c0 : Cons) :
    execRand ty c1 c0 s = .next (complete { s with ctr := s.ctr + 1 } c 4 [e]
      (both c1 c0 (runKind (ty == .n64)) [(e, .val (randValue ty (Config.entropy s.ctr)))])) := by
  obtain ⟨hc, _, he, hnull⟩ := hf
  have hlim : [e].take (laneLimit (ty == .n64)) = [e] := by cases ty == .n64 <;> rfl
  unfold execRand
  simp only [hc, he, hlim]
  simp [eachOf, eachElem, eachDone, hnull, randElem_done h]

end

theorem randomWords_say : Sys2Proof.Says.RandomWords := by
  intro s c e ty c1 c0 hf h g out
  refine ⟨?_, ?_, ?_⟩
  · rintro rfl
    exact execRand_next hf h .n64 c1 c0
  · rintro rfl
    have hlow : randValue .n32 g = (g.setWidth 32).setWidth 64 := by simp [randValue, zx32, lo32, ← dw_low32]
    rw [← hlow]
    exact execRand_next hf h .n32 c1 c0
  · rintro rfl
    have hfield : field g 63 40 = (g.extractLsb' 40 24).toNat := by
      rw [BitVec.extractLsb'_toNat]
      rfl
    have hround : randValue .f32 g = dw (roundF fmtF32 rne false (.fin false (g.extractLsb' 40 24).toNat (-24))) := by
      rw [← hfield]
      rfl
    rw [← hround]
    exact execRand_next hf h .f32 c1 c0

/-- Settles O23: RAND of a job without a journal draws one word, and the journal acts by the mode of its job. -/
theorem randomAndJournal : Obligations.RandomAndJournal := ⟨randomWords_say, journal_says⟩

end Sys2Proof.Machine
end

section
/-!
PROOFS. The tile forms at their issue (R214, R216, R218-R231), and what the matrix array does when one is done (R214-R217).
-/
namespace Sys2Proof.Machine
open Sys2Proof.Claim

/-! ### Issue (R214, R216, stages 1 to 3) -/

/-- Every tile form is a firing of its operation, with its save modes and its control word. -/
theorem exec_of_tileForm {i : Instr} {op : TOp} {sa sb : Save} {ks : BitVec 2} (h : tileForm i = some (op, sa, sb, ks)) (s : State) :
    ∃ c1 c0, exec i s = fireTile op sa sb ks c1 c0 s := by
  unfold tileForm at h
  split at h <;> cases h <;> exact ⟨_, _, rfl⟩

section
variable {s s1 : State} {c : Ctx} {es : List Nat} {e : Nat} {c1 c0 : Cons} {kind : Kind} {body : Ctx → Nat → Res}

/-- A form that fires once and stays in a unit has its effect, its elements issued. -/
theorem fireOnce_of_issued (hf : FiresOnce s c es e) (hb : body c e = .issued s1) :
    fireOnce s c1 c0 kind body = .next (onPlot s1 c.f.plot (fun p => markIssued p c.f es)) := by
  have htodo := todoWhole_of_firesOnce hf
  obtain ⟨hc, -, -, hfind⟩ := hf
  exact fireOnce_issued hc htodo hfind hb

/-- The job that a tile form puts into the array: its result is that of its sources as they stand at issue. -/
def tileJob (c : Ctx) (e : Nat) (op : TOp) (tc : Word) (refs : List TRef) (t : Staged) : TileJob :=
  let r := tileResult c.plot c.f.cell op tc c.inst.first refs
  { firing := c.f, reads := readsNow c.plot (tileSources c.plot op tc refs), raws := rawSources tc refs, logged := t.logged, kept := t.kept,
    seed := 0, fault := none, raw := tcRD tc, dst := c.val 2 e, bytes := extentD op tc, data := r.1, fx := r.2.1,
    toll := (macsOf op tc).1, macs := r.2.2 * (macsOf op tc).2, occ := occupancy op tc, left := occupancy op tc + 7 }

/-- A tile form with a free array, whose checks pass and whose names are ready, enters the array once its record is made. -/
theorem fireTile_next {op : TOp} {sa sb : Save} {ks : BitVec 2} {t : Staged} {tc : Word} {refs : List TRef}
    (hf : FiresOnce s c es e) (htc : c.k (8 + ks.toNat) = tc) (hrefs : tileRefs op tc c e = refs)
    (hfree : arrayFree c.plot c.f.cell = true) (hchecks : tileChecks op tc c c.plot refs = none)
    (hsrcs : sourceStops c c.plot op tc refs = [])
    (hdest : refs.filterMap (fun o => if o.role = 2 then destStop? c.plot o else none) = [])
    (hrec : recordFiring s c op tc refs sa sb = .ok t) :
    fireTile op sa sb ks c1 c0 s = .next (inArray t.s c es (tileJob c e op tc refs t)) := by
  have hplot : plotNow s c = c.plot := plotNow_eq hf.1
  have hstops : firstStop (sourceStops c c.plot op tc refs ++
      refs.filterMap (fun o => bif o.role == 2 then destStop? c.plot o else none)) = none := by
    simp only [Bool.cond_eq_ite, beq_iff_eq, hsrcs, hdest, List.append_nil, firstStop]
  refine fireOnce_of_issued (s1 := holdArray t.s c (tileJob c e op tc refs t)) hf ?_
  simp only [hplot, htc, hrefs, hfree, hchecks, hstops, hrec]
  rfl

end

theorem tileIssue_says : Sys2Proof.Says.TileIssue := by
  intro i s t c es e op sa sb ks hf hform tc refs srcs hfree hchecks hsrcs hdest hrec r
  obtain ⟨c1, c0, hexec⟩ := exec_of_tileForm hform s
  rw [hexec]
  exact fireTile_next hf rfl rfl hfree hchecks hsrcs hdest hrec

/-! ### Completion (R214-R217) -/

/-- FX is set where a result sets it, and otherwise stands. -/
theorem setFx_eq_ite (numst : Dword) (fx : Bool) : setFx numst fx = if fx = true then numst ||| 1 else numst := Bool.cond_eq_ite ..

/-- A firing without an error in its sources, whose destination keeps its claim, completes. -/
theorem jobStop?_eq_none {p : Plot} {j : TileJob} (hfault : j.fault = none) (hclaim : lostClaim? p j = none) : jobStop? p j = none := by
  simp [jobStop?, hfault, hclaim]

theorem tileCompletes_says : Sys2Proof.Says.TileCompletes := by
  intro s plot cell p k j hp hk hdue hfault hclaim free write s1 s2 r
  have hcell : Tab.atD p.cells cell Cell.empty = k := by simp [Tab.atD, hk]
  change execTileComplete plot cell s = _
  unfold execTileComplete
  simp only [hp, hcell, tileDue?, hdue, jobStop?_eq_none hfault hclaim, onPlot_onPlot, setFx_eq_ite, Bool.cond_eq_ite, beq_iff_eq]
  rfl

/-- Settles O28: a tile form that passes its checks enters the array with its result, and one that is done has its whole effect. -/
theorem tiles : Obligations.Tiles := ⟨tileIssue_says, tileCompletes_says⟩

end Sys2Proof.Machine
end

section
/-!
PROOFS. The furrow's recording: REC.ON, REC.OFF and REC.MARK at issue and in their fourth cycle (R248), LOGQ (R251), LOGEXT (R251) and
REVERSE (R240, R249).
-/
namespace Sys2Proof.Machine
open Sys2Proof.Claim

/-! ### REC forms, at issue and four cycles later (R248) -/

section
variable {s s' : State} {c : Ctx} {es : List Nat} {e lat : Nat} {c1 c0 : Cons} {kind : Kind} {body : Ctx → Nat → Res} {r : Res}

/-- A REC firing at its issue joins its plot's queue, to take effect in the fourth cycle. -/
theorem recEffect_at_issue (hagain : s.again = false) :
    recEffect s c r = .hold (onPlot s c.f.plot (fun p => { p with recQ := p.recQ ++ [(4, c.f)] })) := by
  rw [recEffect, hagain, cond_false]

theorem recEffect_in_turn (hagain : s.again = true) : recEffect s c r = r := by rw [recEffect, hagain, cond_true]

/-- A REC form at its issue waits for its turn with the elements that it fires on, whatever its effect is to be. -/
theorem fireOnce_rec_waits (hf : FiresOnce s c es e) (hb : body c e = recEffect s c r) :
    fireOnce s c1 c0 kind body = .next (onPlot (onPlot s c.f.plot (fun p => { p with recQ := p.recQ ++ [(4, c.f)] })) c.f.plot
      (fun p => markHeld p c.f es)) := by
  have htodo := todoWhole_of_firesOnce hf
  obtain ⟨hc, hagain, -, hfind⟩ := hf
  exact fireOnce_hold hc htodo hfind (hb.trans (recEffect_at_issue hagain))

/-- A REC form whose turn has come acts on the elements that it was issued on. -/
theorem fireOnce_rec_acts {out : List Emit} (hf : RecTakesEffect s c es e) (hb : body c e = recEffect s c r) (hr : r = .doneIn lat s' out) :
    fireOnce s c1 c0 kind body = .next (complete s' c lat es out) := by
  obtain ⟨hc, hagain, hheld, hfind⟩ := hf
  have htodo : todoWhole s.again c.blk c.inst c.f.slot = es := by rw [todoWhole, hagain, cond_true, hheld]
  exact fireOnce_doneIn hc htodo hfind (hb.trans ((recEffect_in_turn hagain).trans hr))

end

/-! ### REC.ON -/

section
variable {s : State} {c : Ctx} {es : List Nat} {e : Nat} {fresh : Bool} {log : BitVec 3} {c1 c0 : Cons}

/-- A far log with an owner in the plot does not stop REC.ON. -/
theorem not_unowned {d : Dword × Dword} {size : Nat} (h : descFar d = true → (logOwner? s c.plot d size).isSome = true) :
    ¬(descFar d = true ∧ logOwner? s c.plot d size = none) := by
  rintro ⟨hfar, hnone⟩
  simpa [hnone] using h hfar

/-- REC.ON that selects a log begins it anew. -/
theorem exec_recordOn_switches (hf : RecTakesEffect s c es e) (hrev : logRev c.plot = false)
    (hswitch : fresh = true ∨ logOpen c.plot = false ∨ (log.toNat ≠ logIdx c.plot ∧ logTail c.plot = 0))
    (howned : descFar (logDesc c.plot log.toNat) = true →
      (logOwner? s c.plot (logDesc c.plot log.toNat) (descSize (logDesc c.plot log.toNat))).isSome = true) :
    exec (.recordOn fresh log c1 c0) s = .next (complete (onPlot s c.f.plot (fun p => { p with
      logst := setBit (setBit (setBit (withLog p log.toNat (descSize (logDesc c.plot log.toNat))) 63 true) 60 true) 61 false,
      logpos := mkPos 0 noOff, logseg := mkSeg noOff (logDone p) })) c 0 es (scalar32 c1 c0 0)) := by
  have hnow : plotNow s c = c.plot := plotNow_eq hf.1
  have hsw : (fresh || !logOpen c.plot || (log.toNat != logIdx c.plot && logTail c.plot == 0)) = true := by
    simpa [or_assoc] using hswitch
  refine fireOnce_rec_acts hf rfl ?_
  simp only [hnow, hsw, Bool.true_or, cond_true, if_neg (not_unowned howned), hrev, Bool.false_eq_true, if_false, if_true]
  rfl

/-- REC.ON of the log that is open goes on with it. -/
theorem exec_recordOn_resumes (hf : RecTakesEffect s c es e) (hrev : logRev c.plot = false) (hopen : logOpen c.plot = true)
    (hidx : log.toNat = logIdx c.plot)
    (howned : descFar (logDesc c.plot log.toNat) = true →
      (logOwner? s c.plot (logDesc c.plot log.toNat) (logSize c.plot)).isSome = true) :
    exec (.recordOn false log c1 c0) s = .next (complete (onPlot s c.f.plot (fun p => { p with
      logst := setBit (setBit p.logst 63 true) 60 true })) c 0 es (scalar32 c1 c0 (logTail c.plot))) := by
  have hnow : plotNow s c = c.plot := plotNow_eq hf.1
  have hsame : (log.toNat != logIdx c.plot) = false := by simp [hidx]
  refine fireOnce_rec_acts hf rfl ?_
  simp only [hnow, hopen, hsame, Bool.not_true, Bool.false_and, Bool.or_self, cond_false, if_neg (not_unowned howned), hrev,
    Bool.false_eq_true, if_false, if_neg (not_not.mpr hidx)]
  rfl

/-! ### REC.MARK -/

/-- The words of a mark record (R239), as the statement has them. -/
theorem markWords_eq (prev mark : Nat) :
    [dw (at_ 0xC2 56 + at_ (prev % 2 ^ 12) 12), dw mark, 0, 0] = [dw (0xC2 * 2 ^ 56 + prev % 2 ^ 12 * 2 ^ 12), dw mark, 0, 0] := by
  simp only [at_, Nat.shiftLeft_eq]

/-- REC.MARK appends a mark record to the open log and begins a segment after it. -/
theorem exec_recordMark_appends {s1 : State} (hf : RecTakesEffect s c es e) (hopen : logOpen c.plot = true)
    (happend : appendRecord s c (fun prev => [dw (0xC2 * 2 ^ 56 + prev % 2 ^ 12 * 2 ^ 12), dw (logMark c.plot), 0, 0]) = .ok s1) :
    exec (.recordMark c1 c0) s = .next (complete (onPlot s1 c.f.plot (fun p => { p with
      logst := setBit p.logst 61 false, logseg := mkSeg (logTail c.plot) (logDone p) })) c 0 es (scalar32 c1 c0 (logTail c.plot))) := by
  have hnow : plotNow s c = c.plot := plotNow_eq hf.1
  refine fireOnce_rec_acts hf rfl ?_
  simp only [hnow, hopen, Bool.true_eq_false, if_false, markWords_eq, happend]
  rfl

end

theorem recordForms_say : Sys2Proof.Says.RecordForms := by
  intro s s1 c es e c1 c0 fresh log
  refine ⟨fun hf => ⟨fireOnce_rec_waits hf rfl, fireOnce_rec_waits hf rfl, fireOnce_rec_waits hf rfl⟩,
    fun hf => ⟨fun hrev => ⟨?_, ?_⟩, fireOnce_rec_acts hf rfl rfl, ?_⟩⟩
  · exact fun hswitch howned => exec_recordOn_switches hf hrev hswitch howned
  · rintro rfl hopen hidx howned
    exact exec_recordOn_resumes hf hrev hopen hidx howned
  · exact fun hopen happend => exec_recordMark_appends hf hopen happend

/-! ### LOGQ and LOGEXT (R251) -/

section
variable {s : State} {c : Ctx} {es : List Nat} {e : Nat} {c1 c0 : Cons}

/-- LOGQ answers a register of the log, or the bytes that are left in it. -/
theorem exec_logq (hf : FiresOnce s c es e) (which : BitVec 3) :
    exec (.logq which c1 c0) s = .next (complete s c 2 es (both c1 c0 .s64 [(0, .val (match which.toNat with
      | 0 => c.plot.logst
      | 1 => c.plot.logpos
      | 2 => c.plot.logseg
      | _ => dw (logSize c.plot - logTail c.plot)))])) :=
  (fireOnce_of_done hf rfl : execLogq which c1 c0 s = _)

/-- A plot of a graph extends its own log. -/
theorem logTarget_of_graph (hrole : c.plot.role = .graph) : logTarget s c = (c.f.plot, c.plot) := by
  simp only [logTarget, hrole]

/-- LOGEXT extends the open log where its space or its region holds the new size. -/
theorem exec_logext_extends (hf : FiresOnce s c es e) (hrole : c.plot.role = .graph) (hopen : logOpen c.plot = true)
    (halign : (c.low 0 e).toNat % 32 = 0) {size base : Nat} (hsize : logSize c.plot + (c.low 0 e).toNat = size)
    (hbase : descBase (logDesc c.plot (logIdx c.plot)) = base) (hlt : size < 2 ^ 32)
    (hnear : descFar (logDesc c.plot (logIdx c.plot)) = false → inLogSpace c.plot base (base + size) = true)
    (hfar : descFar (logDesc c.plot (logIdx c.plot)) = true → ∃ r b n, regionOf? (viOf s c.plot.vi) base = some r ∧
      Tab.at? (viOf s c.plot.vi).regions r = some (b, n) ∧ base + size ≤ b + n) :
    exec (.logext c1 c0) s = .next (complete (onPlot s c.f.plot (fun p => { p with logst := withLog c.plot (logIdx c.plot) size })) c 2 es
      (scalar32 c1 c0 size)) := by
  have hown : onPlot s c.f.plot (fun p => { p with logst := withLog c.plot (logIdx c.plot) size }) =
      onPlot s c.f.plot (fun p => { p with logst := withLog p (logIdx p) size }) := onPlot_congr (at?_ctx hf.1) rfl
  rw [hown]
  refine fireOnce_of_done hf ?_
  simp only [logTarget_of_graph hrole, hopen, halign, hsize, hbase, Nat.not_le.mpr hlt, Bool.true_eq_false, ne_eq, not_true, or_false,
    if_false]
  refine if_neg ?_
  cases hd : descFar (logDesc c.plot (logIdx c.plot)) with
  | false => simp only [cond_false, hnear hd, Bool.true_eq_false, not_false_iff]
  | true =>
    obtain ⟨r, b, n, hr, hb, hle⟩ := hfar hd
    simp only [cond_true, hr, hb, Nat.ble_eq_true_of_le hle, Bool.true_eq_false, not_false_iff]

end

/-! ### REVERSE (R240, R249) -/

section
variable {s s1 : State} {c : Ctx} {es : List Nat} {e : Nat} {seg : List LogRec} {c1 c0 : Cons}
  (hf : FiresOnce s c es e) (hopen : logOpen c.plot = true) (hidle : c.plot.rev = none) (hrev : logRev c.plot = false)
  (hon : logOn c.plot = false) (htrunc : logTrunc c.plot = false) (hseg : openSegment s c c.plot = .ok (s1, seg))
  (hscan : scanFault? c.plot seg [] seg = none) (hroom : logTail c.plot + 16 * seg.length ≤ logSize c.plot)

include hf hopen hidle hrev hon htrunc hseg hscan hroom

/-- REVERSE of an empty segment ends it at once. -/
theorem exec_reverse_empty {s2 : State} (hempty : seg = []) (hend : endReversal s1 c c.f.plot c.plot = .ok s2) :
    exec (.reverse c1 c0) s = .next (complete s2 c 2 es (scalar32 c1 c0 0)) := by
  have hnow : plotNow s c = c.plot := plotNow_eq hf.1
  have hnil : seg.isEmpty = true := List.isEmpty_iff.mpr hempty
  refine fireOnce_of_done hf ?_
  simp only [hnow, hopen, hidle, hon, hrev, htrunc, hseg, hscan, if_neg (Nat.not_lt.mpr hroom), hnil, hend, Bool.true_eq_false,
    Bool.false_eq_true, or_self, if_false, if_true]
  rfl

/-- REVERSE of a segment with records begins its reversal, with its progress table after the log's tail. -/
theorem exec_reverse_begins {s3 : State} (hsome : seg ≠ [])
    (htable : logWrite { s1 with ctr := s1.ctr + 2 * seg.length } c c.f.plot c.plot (logTail c.plot)
      ((List.range (2 * seg.length)).map (fun i => Config.freeWord (s1.ctr + i))) = .ok s3) :
    exec (.reverse c1 c0) s = .next (onPlot (onPlot s3 c.f.plot (fun p => { p with
      rev := some (startReversal p c.f c.inst.run (seg.map (·.off))), logst := setBit p.logst 62 true })) c.f.plot
      (fun p => markIssued p c.f es)) := by
  have hnow : plotNow s c = c.plot := plotNow_eq hf.1
  have hcons : seg.isEmpty = false := List.isEmpty_eq_false_iff.mpr hsome
  refine fireOnce_of_issued hf ?_
  simp only [hnow, hopen, hidle, hon, hrev, htrunc, hseg, hscan, if_neg (Nat.not_lt.mpr hroom), hcons, htable, Bool.true_eq_false,
    Bool.false_eq_true, or_self, if_false]

end

theorem logForms_say : Sys2Proof.Says.LogForms := by
  intro s s1 s2 s3 c es e which seg c1 c0 hf
  refine ⟨exec_logq hf which, ?_, fun hopen hidle hrev hon htrunc hseg hscan hroom => ⟨?_, ?_⟩⟩
  · intro hrole hopen halign size base hlt hnear hfar
    exact exec_logext_extends hf hrole hopen halign rfl rfl hlt hnear hfar
  · exact fun hempty hend => exec_reverse_empty hf hopen hidle hrev hon htrunc hseg hscan hroom hempty hend
  · exact fun hsome htable => exec_reverse_begins hf hopen hidle hrev hon htrunc hseg hscan hroom hsome htable

/-- Settles O29: a REC form waits at its issue and has its whole effect in its turn; LOGQ and LOGEXT answer, and REVERSE of a sound
segment begins its reversal or, where it has no record, ends it. -/
theorem recording : Obligations.Recording := ⟨recordForms_say, logForms_say⟩

end Sys2Proof.Machine
end

section
/-!
PROOFS. The slice hash (R295) with SLICEOF, the partition forms (R308-R312), and the way masks and window quotas (R299, R305, R309).
-/
namespace Sys2Proof.Machine
open Sys2Proof.Claim

/-! ### Fields -/

/-- A field of a word, by its lowest bit and its width. -/
theorem field_eq_extractLsb' {n : Nat} (v : BitVec n) (hi lo : Nat) : field v hi lo = (v.extractLsb' lo (hi + 1 - lo)).toNat :=
  (BitVec.extractLsb'_toNat ..).symm

/-- A word below 2^lo has nothing in a field that begins at `lo`. -/
theorem field_eq_zero_of_lt {n : Nat} {v : BitVec n} {lo : Nat} (hi : Nat) (h : v.toNat < 2 ^ lo) : field v hi lo = 0 := by
  rw [field, Nat.shiftRight_eq_div_pow, Nat.div_eq_of_lt h, Nat.zero_mod]

/-- A word of at least 2^lo has a bit in the field from `lo` to its top. -/
theorem field_ne_zero_of_le {n : Nat} {v : BitVec n} {hi lo : Nat} (hn : n = hi + 1) (hlo : lo ≤ n) (h : 2 ^ lo ≤ v.toNat) :
    field v hi lo ≠ 0 := by
  have hlt : v.toNat / 2 ^ lo < 2 ^ (hi + 1 - lo) := by
    rw [Nat.div_lt_iff_lt_mul (Nat.two_pow_pos lo), ← Nat.pow_add, ← hn, Nat.sub_add_cancel hlo]
    exact v.isLt
  rw [field, Nat.shiftRight_eq_div_pow, Nat.mod_eq_of_lt hlt]
  exact (Nat.div_pos h (Nat.two_pow_pos lo)).ne'

/-! ### The home slice (R295) -/

/-- The parity of the bits that two words share. -/
theorem parity_and_eq_decide (pa : Nat) (m : Dword) :
    parity (pa &&& m.toNat) = decide (((List.range 64).filter (fun b => pa.testBit b && m.getLsbD b)).length % 2 = 1) := by
  have hbits : (pa &&& m.toNat).testBit = fun b => pa.testBit b && m.getLsbD b := funext fun b => Nat.testBit_and ..
  rw [parity, hbits]
  rfl

/-- A fold that adds a number for each key that meets a condition, as a sum. -/
theorem foldl_cond_eq_sum (q : Nat → Bool) (g : Nat → Nat) (l : List Nat) (a : Nat) :
    l.foldl (fun h k => bif q k then h + g k else h) a = a + (l.map (fun k => if q k = true then g k else 0)).sum := by
  induction l generalizing a with
  | nil => rfl
  | cons k l ih =>
    rw [List.foldl_cons, ih, List.map_cons, List.sum_cons]
    cases q k <;> simp [Nat.add_assoc]

theorem homeIn_eq_sum (s : State) (p pa : Nat) :
    homeIn s p pa = ((partOf s p).extractLsb' 45 6).toNat + ((List.range ((partOf s p).extractLsb' 51 3).toNat).map (fun k =>
      if parity (pa &&& (Tab.atD s.hmask (8 * p + k) 0).toNat) = true then 2 ^ k else 0)).sum := by
  rw [homeIn, foldl_cond_eq_sum, field_eq_extractLsb', field_eq_extractLsb']

theorem homeSlice?_of_part {s : State} {v p pa : Nat} (hp : viPart? s v = some p) (hr : paRemote s pa = false) :
    homeSlice? s v pa = some (homeIn s p pa) := by
  simp only [homeSlice?, hr, hp, cond_false]

/-- The request of a VI in a partition for a line of this module carries the partition and its generation. -/
theorem mkReq_of_part {s : State} {v p line : Nat} (port : Nat) (k : ReqKind) (hp : viPart? s v = some p)
    (hr : paRemote s (128 * line) = false) :
    (mkReq s port v line k).part = p ∧ (mkReq s port v line k).hgen = ((partOf s p).extractLsb' 54 8).toNat := by
  simp only [mkReq, homeSlice?_of_part hp hr, hp, field_eq_extractLsb', and_self]

/-- SLICEOF of an element with a home slice (R281). -/
theorem sliceElem_done {s0 s : State} {c : Ctx} {e port pa home : Nat} (hport : homePort? c.plot c.f.cell = some port)
    (ht : translate s0 (c.via port 0) (vaOf (c.wide 0 e)) .none = .ok s pa) (hres : paReserved s pa = false)
    (hhome : homeSlice? s c.plot.vi pa = some home) : sliceElem s0 c e = .done s (some (dw home)) := by
  simp only [sliceElem, hport, ht, hres, hhome, cond_false]

/-- An element-wise form that is not on names acts on its one element whatever its home offers. -/
theorem offered_of_firesOn {s : State} {c : Ctx} {e : Nat} (hf : FiresOn s c e) :
    offered false s (todoElems s.again c.blk c.inst c.f.slot) = [e] := by
  obtain ⟨-, hagain, hready, -⟩ := hf
  simp [offered, todoElems, hagain, hready]

/-- An element-wise form that fires on one element with a result has its effect and delivers. -/
theorem fireEach_of_done {s s' : State} {c : Ctx} {e lat : Nat} {c1 c0 : Cons} {kind : Kind} {body : State → Ctx → Nat → ElemRes}
    {v : Dword} (hf : FiresOn s c e) (hb : body s c e = .done s' (some v)) :
    fireEach s lat c1 c0 kind body = .next (complete s' c lat [e] (both c1 c0 kind [(e, .val v)])) := by
  have ho := offered_of_firesOn hf
  obtain ⟨hc, -, -, hnull⟩ := hf
  exact fireElems_done hc ho hnull hb

theorem homeSlice_says : Sys2Proof.Says.HomeSlice := by
  intro s v p pa hp hr cfg odd home
  have hhome : homeSlice? s v pa = some home := by
    rw [homeSlice?_of_part hp hr, homeIn_eq_sum]
    simp only [parity_and_eq_decide]
    rfl
  refine ⟨hhome, fun port line k hline => mkReq_of_part port k hp hline, fun s0 c e port c1 c0 hf hv hport hres ht => ?_⟩
  have hsent : sliceElem s0 c e = .done s (some (dw home)) := sliceElem_done hport ht hres (hv.symm ▸ hhome)
  exact (fireEach_of_done hf hsent : execSliceof c1 c0 s0 = _)

/-- Settles O40: the model's fold over the index bits is the statement's sum, and SLICEOF answers it. -/
theorem homeSlice : Obligations.HomeSlice := homeSlice_says

/-! ### Forms that fire once: a trap and a wait -/

section
variable {s s1 : State} {c : Ctx} {es : List Nat} {e : Nat} {c1 c0 : Cons} {kind : Kind} {body : Ctx → Nat → Res}

/-- A form that fires once and traps has no other effect. -/
theorem fireOnce_of_trap {cause : Cause} {tag : Nat} {info : Dword} (hf : FiresOnce s c es e) (hb : body c e = .trap cause tag info) :
    fireOnce s c1 c0 kind body = .next (trapFiring s c.f cause c.inst.first info) := by
  have htodo := todoWhole_of_firesOnce hf
  obtain ⟨hc, -, -, hfind⟩ := hf
  exact fireOnce_trap hc htodo hfind hb

/-- A form that fires once and cannot go on waits. -/
theorem fireOnce_of_stall (hf : FiresOnce s c es e) (hb : body c e = .stall s1) :
    fireOnce s c1 c0 kind body = .next (stallFiring s1) := by
  have htodo := todoWhole_of_firesOnce hf
  obtain ⟨hc, -, -, hfind⟩ := hf
  exact fireOnce_stall hc htodo hfind hb

/-- A form that fires once and meets a SYSREG of R312. -/
theorem fireOnce_of_partTrap {why p : Nat} (hf : FiresOnce s c es e) (hb : body c e = partTrap c e why p) :
    fireOnce s c1 c0 kind body = .next (partStop s c why p) := by
  rw [partStop, ← Nat.shiftLeft_eq]
  exact fireOnce_of_trap hf hb

end

/-! ### The partition that a form names (R309, R310) -/

section
variable {s : State} {c : Ctx} {e : Nat} (k : Nat → Res)

theorem withPart_of_not_reeve (h : c.plot.role ≠ .reeve) : withPart s c e k = .trap .priv (c.tag e) (infoPriv c) := if_pos h

theorem withPart_of_reserved (h : c.plot.role = .reeve) (hp : 64 ≤ (c.low 0 e).toNat) :
    withPart s c e k = partTrap c e 5 ((c.low 0 e).toNat % 64) := by
  have hbits : field (c.low 0 e) 31 6 ≠ 0 := field_ne_zero_of_le rfl (by decide) hp
  rw [withPart, if_neg (not_not.mpr h), if_pos hbits]
  rfl

/-- Of a partition below 64 the form waits for those before it, or goes on. -/
theorem withPart_of_reeve (h : c.plot.role = .reeve) (hp : (c.low 0 e).toNat < 64) :
    withPart s c e k = if sethashBefore s c (c.low 0 e).toNat = true then .stall s else k (c.low 0 e).toNat := by
  have hbits : field (c.low 0 e) 31 6 = 0 := field_eq_zero_of_lt 31 hp
  have hname : field (c.low 0 e) 5 0 = (c.low 0 e).toNat := Nat.mod_eq_of_lt hp
  rw [withPart, if_neg (not_not.mpr h), if_neg (not_not.mpr hbits), hname]
  rfl

theorem withPart_waits (h : c.plot.role = .reeve) (hp : (c.low 0 e).toNat < 64) (hb : sethashBefore s c (c.low 0 e).toNat = true) :
    withPart s c e k = .stall s := by rw [withPart_of_reeve k h hp, if_pos hb]

theorem withPart_goes (h : c.plot.role = .reeve) (hp : (c.low 0 e).toNat < 64) (hb : sethashBefore s c (c.low 0 e).toNat = false) :
    withPart s c e k = k (c.low 0 e).toNat := by rw [withPart_of_reeve k h hp, hb, if_neg Bool.false_ne_true]

end

/-- What a partition form does with the partition it names: all but PART.SETHASH refuse one that is not valid. -/
theorem exec_of_partForm {i : Instr} {c1 c0 : Cons} (h : partForm i = some (c1, c0)) (s : State) :
    ∃ k : Ctx → Nat → Nat → Res, exec i s = fireOnce s c1 c0 .s64 (fun c e => withPart s c e (k c e)) ∧
      ((∀ c1 c0, i ≠ .partSethash c1 c0) → ∀ c e p, partValid s p = false → k c e p = partTrap c e 0 p) := by
  unfold partForm at h
  split at h <;> cases h
  case h_1 => exact ⟨_, rfl, fun _ c e p hv => if_neg (by simp [hv])⟩
  case h_2 | h_3 | h_5 => exact ⟨_, rfl, fun _ c e p hv => if_pos hv⟩
  case h_4 => exact ⟨_, rfl, fun hne => absurd rfl (hne _ _)⟩

/-! ### The VI that a form names (R309, R312) -/

section
variable {c : Ctx} {e : Nat} (k : Nat → Nat → Res)

theorem withVi_of_not_vi0 (h : isVi0 c.plot = false) : withVi c e k = .trap .priv (c.tag e) (infoPriv c) := if_pos h

theorem withVi_goes (h : isVi0 c.plot = true) (hv : (c.low 0 e).toNat < 512) (hb : (c.wide 1 e).toNat < 2 ^ 16) :
    withVi c e k = k (c.low 0 e).toNat (c.wide 1 e).toNat := by
  have ha : field (c.low 0 e) 31 9 = 0 := field_eq_zero_of_lt 31 hv
  have hhigh : field (c.wide 1 e) 63 16 = 0 := field_eq_zero_of_lt 63 hb
  have hname : field (c.low 0 e) 8 0 = (c.low 0 e).toNat := Nat.mod_eq_of_lt hv
  have hlow : field (c.wide 1 e) 15 0 = (c.wide 1 e).toNat := Nat.mod_eq_of_lt hb
  rw [withVi, if_neg (by simp [h]), if_neg (by simp [ha, hhigh]), hname, hlow]

end

theorem partitionPrivilege_says : Sys2Proof.Says.PartitionPrivilege := by
  intro i s c es e c1 c0 hf hform
  obtain ⟨k, hexec, hinvalid⟩ := exec_of_partForm hform s
  rw [hexec]
  refine ⟨fun hrole => ?_, fun hrole hp => ?_, fun hrole hp hv hne hb => ?_, fun hrole hp hb => ?_, fun h0 => ⟨?_, ?_⟩⟩
  · exact fireOnce_of_trap hf (withPart_of_not_reeve _ hrole)
  · exact fireOnce_of_partTrap hf (withPart_of_reserved _ hrole hp)
  · exact fireOnce_of_partTrap hf ((withPart_goes _ hrole hp hb).trans (hinvalid hne c e _ hv))
  · exact fireOnce_of_stall hf (withPart_waits _ hrole hp hb)
  · exact (fireOnce_of_trap hf (withVi_of_not_vi0 _ h0) : execWaymaskSet c1 c0 s = _)
  · exact (fireOnce_of_trap hf (withVi_of_not_vi0 _ h0) : execWquotaSet c1 c0 s = _)

/-! ### QUIESCE, WB, INV and RESUME (R308, R310) -/

theorem inRange_eq_overlaps (l : L2Line) (b n : Nat) : inRange l b n = overlaps b n l := by
  simp only [inRange, overlaps, blt_eq_decide, Bool.decide_or, Bool.decide_and]
  rfl

section
variable {s : State} {c : Ctx} {e : Nat} (k : Nat → Res)
  (hrole : c.plot.role = .reeve) (hp : (c.low 0 e).toNat < 64) (hb : sethashBefore s c (c.low 0 e).toNat = false)
  (hv : partValid s (c.low 0 e).toNat = true)

include hrole hp hb hv

theorem withQuiesced_of_normal (hq : partQui s (c.low 0 e).toNat = false) :
    withQuiesced s c e k = partTrap c e 1 (c.low 0 e).toNat := by
  rw [withQuiesced, withPart_goes _ hrole hp hb, if_neg (by simp [hv]), if_pos hq]

theorem withQuiesced_goes (hq : partQui s (c.low 0 e).toNat = true) : withQuiesced s c e k = k (c.low 0 e).toNat := by
  rw [withQuiesced, withPart_goes _ hrole hp hb, if_neg (by simp [hv]), if_neg (by simp [hq])]

end

theorem partitionForms_say : Sys2Proof.Says.PartitionForms := by
  intro s c es e c1 c0 hf hrole hp p range wb inv gone hv hb
  refine ⟨?_, fun hq => ?_, fun hq => ?_⟩
  · refine (fireOnce_of_done hf ?_ : execPartQuiesce c1 c0 s = _)
    rw [withPart_goes _ hrole hp hb, if_pos hv]
    rfl
  · have hnormal := fun k => withQuiesced_of_normal k hrole hp hb hv hq
    exact ⟨(fireOnce_of_partTrap hf (hnormal _) : execPartWb c1 c0 s = _), (fireOnce_of_partTrap hf (hnormal _) : execPartInv c1 c0 s = _),
      (fireOnce_of_partTrap hf (hnormal _) : execPartResume c1 c0 s = _)⟩
  · have hgoes := fun k => withQuiesced_goes k hrole hp hb hv hq
    refine ⟨(fireOnce_of_done hf ((hgoes _).trans ?_) : execPartWb c1 c0 s = _),
      (fireOnce_of_done hf ((hgoes _).trans ?_) : execPartInv c1 c0 s = _),
      (fireOnce_of_done hf ((hgoes _).trans rfl) : execPartResume c1 c0 s = _)⟩
    all_goals
      simp only [inRange_eq_overlaps]
      rfl

/-! ### SETHASH (R309, R311) -/

/-- The slices that a SETHASH descriptor lists. -/
def hashSlices (d : List Dword) : List Nat :=
  (List.range (2 ^ (((d[0]?).getD 0).extractLsb' 6 3).toNat)).map ((((d[0]?).getD 0).extractLsb' 0 6).toNat + ·)

/-- The slices that are a partition's, where it is valid. -/
def slicesBefore (s : State) (p : Nat) : List Nat := if partValid s p = true then partSlices s p else []

/-- Whether a SETHASH of a partition waits: a request of the partition is queued, or a window of one of its streams has stores on their way. -/
def partBusy (s : State) (p : Nat) : Prop :=
  (∃ x ∈ s.slices, ∃ r ∈ x.2.queue, r.part = p) ∨ ∃ x ∈ partWindows s p, x.2.2.sent ≠ 0

/-- The dirty lines of some slices. -/
def dirtyLines (s : State) (ns : List Nat) : List (Nat × Nat × L2Line) := (linesOf s ns).filter (fun l => l.2.2.dirty)

/-- The machine with a partition's windows ended, its dirty lines written back and the lines of the slices that leave it gone. -/
def partEmptied (s : State) (p : Nat) (d : List Dword) : State :=
  let s2 := (partWindows s p).foldl endWindow s
  let s3 := cleanLines s2 (dirtyLines s2 (slicesBefore s p))
  dropLines s3 (linesOf s3 ((slicesBefore s p).filter (fun k => !(((d[0]?).getD 0).getLsbD 63 && (hashSlices d).contains k))))

/-- The lines that a SETHASH writes back: dirty lines and written lines of windows. -/
def hashWritten (s : State) (p : Nat) : Nat :=
  (dirtyLines s (slicesBefore s p)).length +
    (partWindows s p).foldl (fun n x => n + (x.2.2.wlines.filter (fun l => l.2.mask != 0)).length) 0

theorem partBusy_iff (s : State) (p : Nat) :
    (s.slices.any (fun x => x.2.queue.any (fun r => r.part == p)) = true ∨ (partWindows s p).any (fun x => x.2.2.sent != 0) = true) ↔
      partBusy s p := by
  simp [partBusy]

/-- The slices that a descriptor lists, by the fields of its first word. -/
theorem hashSlices_eq (d : List Dword) :
    (List.range (2 ^ field ((d[0]?).getD 0) 8 6)).map (field ((d[0]?).getD 0) 5 0 + ·) = hashSlices d := by
  rw [field_eq_extractLsb', field_eq_extractLsb']
  rfl

/-- A descriptor that meets R311 passes the model's checks of the partition, the slices and the VIs. -/
theorem hashChecks_pass {s : State} {p : Nat} {d : List Dword} (hquiet : partValid s p = true → partQui s p = true)
    (hfree : ((d[0]?).getD 0).getLsbD 63 = true → ∀ n ∈ hashSlices d, sliceFree s p n = true)
    (hmov : ∀ v ∈ hashVis d, viMovable s p v = true) :
    ¬(partValid s p = true ∧ partQui s p = false) ∧
      ¬(((d[0]?).getD 0).getLsbD 63 = true ∧ (hashSlices d).all (sliceFree s p) = false) ∧
      ¬((hashVis d).all (viMovable s p) = false) := by
  refine ⟨?_, ?_, ?_⟩
  · rintro ⟨hv, hq⟩
    simp [hquiet hv] at hq
  · rintro ⟨hset, hno⟩
    rw [List.all_eq_true.mpr (hfree hset)] at hno
    cases hno
  · rw [List.all_eq_true.mpr hmov]
    exact Bool.noConfusion

section
variable {s s1 : State} {c : Ctx} {es : List Nat} {e : Nat} {c1 c0 : Cons} {d : List Dword} (hf : FiresOnce s c es e)
  (hrole : c.plot.role = .reeve) (hp : (c.low 0 e).toNat < 64) (hb : sethashBefore s c (c.low 0 e).toNat = false)
  (hread : cellRead s c e 4 (vaOf (c.wide 1 e)) 16 = .ok s1 d) (hva : vaOf (c.wide 1 e) % 128 = 0) (hfields : hashFieldsOk d = true)

include hf hrole hp hb hread hva hfields

/-- A SETHASH of a partition that is valid and not quiesced is refused. -/
theorem exec_partSethash_normal (hv : partValid s1 (c.low 0 e).toNat = true) (hq : partQui s1 (c.low 0 e).toNat = false) :
    exec (.partSethash c1 c0) s = .next (partStop s c 1 (c.low 0 e).toNat) := by
  refine (fireOnce_of_partTrap hf ((withPart_goes _ hrole hp hb).trans ?_) : execPartSethash c1 c0 s = _)
  simp [hread, hva, hfields, hv, hq]

variable (hquiet : partValid s1 (c.low 0 e).toNat = true → partQui s1 (c.low 0 e).toNat = true)
  (hfree : ((d[0]?).getD 0).getLsbD 63 = true → ∀ n ∈ hashSlices d, sliceFree s1 (c.low 0 e).toNat n = true)
  (hmov : ∀ v ∈ hashVis d, viMovable s1 (c.low 0 e).toNat v = true)

include hquiet hfree hmov

/-- Behind its checks, SETHASH waits while its partition is busy. -/
theorem exec_partSethash_waits (hbusy : partBusy s1 (c.low 0 e).toNat) : exec (.partSethash c1 c0) s = .next (stallFiring s1) := by
  refine (fireOnce_of_stall hf ((withPart_goes _ hrole hp hb).trans ?_) : execPartSethash c1 c0 s = _)
  obtain ⟨hstate, hslices, hvis⟩ := hashChecks_pass hquiet hfree hmov
  simp only [hread, hva, hfields, hashSlices_eq, hstate, hslices, hvis, partBusy_iff, hbusy, ne_eq, not_true, Bool.true_eq_false, if_true, if_false]

/-- Behind its checks, SETHASH of a partition that is not busy has its whole effect. -/
theorem exec_partSethash_installs (hidle : ¬partBusy s1 (c.low 0 e).toNat) :
    exec (.partSethash c1 c0) s = .next (complete (installHash (partEmptied s1 (c.low 0 e).toNat d) (c.low 0 e).toNat d) c 2 es
      (scalar64 c1 c0 (hashWritten s1 (c.low 0 e).toNat))) := by
  refine (fireOnce_of_done hf ((withPart_goes _ hrole hp hb).trans ?_) : execPartSethash c1 c0 s = _)
  obtain ⟨hstate, hslices, hvis⟩ := hashChecks_pass hquiet hfree hmov
  simp only [hread, hva, hfields, hashSlices_eq, hstate, hslices, hvis, partBusy_iff, hidle, ne_eq, not_true, Bool.true_eq_false, if_false,
    Bool.cond_eq_ite]
  rfl

end

theorem setHash_says : Sys2Proof.Says.SetHash := by
  intro s s1 c es e c1 c0 d hf hrole hp p w0 new mine dirty wins hb hread hva hfields
  refine ⟨fun hv hq => ?_, fun hquiet hfree hmov hqueue hsent => ?_, fun hquiet hfree hmov hbusy => ?_⟩
  · exact exec_partSethash_normal hf hrole hp hb hread hva hfields hv hq
  · have hidle : ¬partBusy s1 p := by
      rintro (⟨x, hx, r, hr, hpart⟩ | ⟨x, hx, hne⟩)
      · exact hqueue x hx r hr hpart
      · exact hne (hsent x hx)
    exact exec_partSethash_installs hf hrole hp hb hread hva hfields hquiet hfree hmov hidle
  · exact exec_partSethash_waits hf hrole hp hb hread hva hfields hquiet hfree hmov hbusy

/-! ### Way masks and window quotas (R298, R299, R305) -/

theorem waymOf_toNat (drain mask : BitVec 16) : waymOf drain mask = dw (drain.toNat * 2 ^ 16 + mask.toNat) := by
  rw [waymOf, at_, Nat.shiftLeft_eq]

/-- A mask with nothing draining. -/
theorem waymOf_zero (mask : BitVec 16) : waymOf 0 mask = mask.setWidth 64 := by
  have hdrain : (0 : BitVec 16).toNat = 0 := rfl
  rw [waymOf_toNat, hdrain, Nat.zero_mul, Nat.zero_add, dw, BitVec.ofNat_toNat]

/-- A value of 16 bits is its low half-word, widened. -/
theorem dw_toNat_of_lt {b : Dword} (h : b.toNat < 2 ^ 16) : dw b.toNat = (b.setWidth 16).setWidth 64 := by
  apply BitVec.eq_of_toNat_eq
  simp only [BitVec.toNat_ofNat, BitVec.toNat_setWidth]
  omega

section
variable {s : State} {c : Ctx} {es : List Nat} {e : Nat} {c1 c0 : Cons} (hf : FiresOnce s c es e) (h0 : isVi0 c.plot = true)
  (hv : (c.low 0 e).toNat < 512) (hm : (c.wide 1 e).toNat < 2 ^ 16)

include hf h0 hv hm

/-- WQUOTA.SET replaces the quota and leaves what is held. -/
theorem exec_wquotaSet : exec (.wquotaSet c1 c0) s = .next (complete (onVi s (c.low 0 e).toNat (fun vi => { vi with
    wquota := dw ((vi.wquota.extractLsb' 32 16).toNat * 2 ^ 32 + ((c.wide 1 e).setWidth 16).toNat) })) c 2 es
    (both c1 c0 .s64 [(0, .val 0)])) := by
  refine (fireOnce_of_done hf ((withVi_goes _ h0 hv hm).trans ?_) : execWquotaSet c1 c0 s = _)
  have hlow : ((c.wide 1 e).setWidth 16).toNat = (c.wide 1 e).toNat := by rw [BitVec.toNat_setWidth, Nat.mod_eq_of_lt hm]
  simp only [hlow, field_eq_extractLsb', at_, Nat.shiftLeft_eq]
  rfl

end

/-- Whether a way that a mask adds is still being emptied of another VI's lines (R299). -/
def waysBusy (s : State) (v : Nat) (new : BitVec 16) : Bool :=
  s.vis.any (fun x => x.1 != v && (x.2.waym.extractLsb' 16 16 &&& new &&& ~~~wayMask s v) != 0)

theorem waysBusy_eq_false {s : State} {v : Nat} {new : BitVec 16}
    (h : ∀ x ∈ s.vis, x.1 ≠ v → x.2.waym.extractLsb' 16 16 &&& new &&& ~~~wayMask s v = 0) : waysBusy s v new = false := by
  rw [waysBusy, List.any_eq_false]
  intro x hx
  by_cases hv : x.1 = v
  · simp [hv]
  · simp [h x hx hv]

section
variable {s : State} {c : Ctx} {es : List Nat} {e v : Nat} {new : BitVec 16} {c1 c0 : Cons} (hf : FiresOnce s c es e)
  (h0 : isVi0 c.plot = true) (hlow : (c.low 0 e).toNat = v) (hv : v < 512) (hm : (c.wide 1 e).toNat < 2 ^ 16)
  (hnew : (c.wide 1 e).setWidth 16 = new) (hset : (viOf s v).wayset = none) (hb : waymaskBefore s c v = false)
  (hbusy : waysBusy s v new = false)

include hset hb hbusy in
/-- Where no drain is in progress, no form comes before and no added way drains, WAYMASK.SET does not wait. -/
theorem not_waymaskWaits : ¬(waysBusy s v new = true ∨ waymaskBefore s c v = true ∨ (viOf s v).wayset.isSome = true) := by
  simp [hset, hb, hbusy]

include hf h0 hlow hv hm hnew hset hb hbusy

/-- A WAYMASK.SET that takes no way away completes at once. -/
theorem exec_waymaskSet_adds (hnone : wayMask s v &&& ~~~new = 0) :
    exec (.waymaskSet c1 c0) s =
      .next (complete (onVi s v (fun vi => { vi with waym := new.setWidth 64 })) c 2 es (scalarOut c1 c0 .s64 0)) := by
  subst hlow hnew
  refine (fireOnce_of_done hf ((withVi_goes _ h0 hv hm).trans ?_) : execWaymaskSet c1 c0 s = _)
  rw [← waymOf_zero]
  exact (if_neg (not_waymaskWaits hset hb hbusy)).trans (if_pos hnone)

/-- A WAYMASK.SET that takes ways away drains them first, and keeps the mask that it is to leave. -/
theorem exec_waymaskSet_drains (hsome : wayMask s v &&& ~~~new ≠ 0) :
    exec (.waymaskSet c1 c0) s = .next (issuedOn (onVi s v (fun vi => { vi with
      waym := dw ((wayMask s v &&& ~~~new).toNat * 2 ^ 16 + (wayMask s v &&& new).toNat), wayset := some (c.f, new.setWidth 64) })) c es) := by
  subst hlow hnew
  refine (fireOnce_of_issued hf ((withVi_goes _ h0 hv hm).trans ?_) : execWaymaskSet c1 c0 s = _)
  rw [← waymOf_toNat, ← dw_toNat_of_lt hm]
  exact (if_neg (not_waymaskWaits hset hb hbusy)).trans (if_neg hsome)

end

theorem waysAndQuotas_say : Sys2Proof.Says.WaysAndQuotas := by
  intro s c es e c1 c0 hf h0 hv hm v new old
  refine ⟨exec_wquotaSet hf h0 hv hm, fun hset hb hfree => ?_⟩
  have hbusy := waysBusy_eq_false hfree
  exact ⟨exec_waymaskSet_adds hf h0 rfl hv hm rfl hset hb hbusy, exec_waymaskSet_drains hf h0 rfl hv hm rfl hset hb hbusy⟩

theorem waysDrained_says : Sys2Proof.Says.WaysDrained := by
  intro s v p f m hset hp drain ls dirty
  change execWaymaskDrainDone v s = _
  simp only [execWaymaskDrainDone, hset, hp, waymOf_zero]
  rfl

/-- Settles O39: a form refuses whoever may not issue it and a partition that is not there; otherwise the model's conditions and counts are the
statement's. -/
theorem partitions : Obligations.Partitions :=
  ⟨partitionPrivilege_says, partitionForms_say, setHash_says, waysAndQuotas_say, waysDrained_says⟩

end Sys2Proof.Machine
end

section
/-!
PROOFS. SYNC.CODE and HALT (R322, R443), VIRQ, TIMER and the journal forms (R445).
-/
namespace Sys2Proof.Machine
open Sys2Proof.Claim

section
variable {s s1 : State} {c : Ctx} {es : List Nat} {e : Nat} {c1 c0 : Cons}

/-! ### SYNC.CODE (R322, R443) -/

/-- A SYNC.CODE of no bytes drops nothing and waits for nothing. -/
theorem exec_syncCode_empty (hf : FiresOnce s c es e) (hb : (c.wide 1 e).toNat = 0) :
    exec (.syncCode c1 c0) s = .next (complete s c 2 es (zero32 c1 c0)) := by
  have hlow : lowestFrom (c.wide 1 e).toNat 32 32 = none := lowestFrom_of_lt 32 (hb ▸ Nat.two_pow_pos 32)
  have hz : c.wide 1 e = 0 := BitVec.eq_of_toNat_eq hb
  refine (fireOnce_of_done hf ?_ : execSyncCode c1 c0 s = _)
  simp only [hlow]
  exact if_pos hz

section
variable (hf : FiresOnce s c es e) (hpos : 0 < (c.wide 1 e).toNat) (hlt : (c.wide 1 e).toNat < 2 ^ 32)

include hf hpos hlt

/-- A SYNC.CODE of a range waits while a write of its VI, once sent, is not performed. -/
theorem exec_syncCode_waits (hw : viWrites (flushVi s c.plot.vi) c.plot.vi = true) :
    exec (.syncCode c1 c0) s = .next (stallFiring (flushVi s c.plot.vi)) := by
  have hz : c.wide 1 e ≠ 0 := fun h => hpos.ne' (congrArg BitVec.toNat h)
  refine (fireOnce_of_stall hf ?_ : execSyncCode c1 c0 s = _)
  simp only [lowestFrom_of_lt 32 hlt]
  exact (if_neg hz).trans (if_pos hw)

/-- A SYNC.CODE of a range drops its code once every write of its VI is performed. -/
theorem exec_syncCode_drops (hw : viWrites (flushVi s c.plot.vi) c.plot.vi = false) :
    exec (.syncCode c1 c0) s = .next (complete (dropCode (flushVi s c.plot.vi) c.plot.vi
      ((recOf? (flushVi s c.plot.vi) c.plot).bind (fun x => (Tab.at? (flushVi s c.plot.vi).jobs x.2.job).map (·.queue)))
      (vaOf (c.wide 0 e)) (c.wide 1 e).toNat) c 2 es (zero32 c1 c0)) := by
  have hz : c.wide 1 e ≠ 0 := fun h => hpos.ne' (congrArg BitVec.toNat h)
  refine (fireOnce_of_done hf ?_ : execSyncCode c1 c0 s = _)
  simp only [lowestFrom_of_lt 32 hlt]
  exact (if_neg hz).trans (if_neg (Bool.eq_false_iff.mp hw))

end

/-! ### HALT (R443) -/

/-- HALT ends the round of its plot, also a round of a handler, and leaves EXITC 7. -/
theorem exec_halt (hf : FiresOnce s c es e) :
    exec .halt s = .next (complete (onPlot s c.f.plot (fun p => { discardRound p with exitc := 7 })) c 2 es []) :=
  (fireOnce_of_done hf rfl : execHalt s = _)

/-! ### VIRQ (R445) -/

/-- A vector is what the six bits of its word give. -/
theorem dw_vector_mod (vec : BitVec 6) : (dw vec.toNat).toNat % 64 = vec.toNat := by
  have hlt : vec.toNat < 64 := vec.isLt
  rw [dw, BitVec.toNat_ofNat, Nat.mod_eq_of_lt (by omega : vec.toNat < 2 ^ 64), Nat.mod_eq_of_lt hlt]

/-- A VIRQ with no earlier write to release raises its own vector, where no journal gives it another. -/
theorem exec_virq_raises (hf : FiresOnce s c es e) (hrel : releaseFirst s c = (s1, false)) (h : unjournalled s1 c) (vec : BitVec 6) :
    exec (.virq vec) s = .next (complete (raiseIrq s1 c.plot.vi vec.toNat) c 2 es []) := by
  refine (fireOnce_of_done hf ?_ : execVirq vec s = _)
  simp only [hrel, Bool.false_eq_true, if_false]
  cases hr : recOf? s1 c.plot with
  | none => simp only [dw_vector_mod]
  | some kr =>
    obtain ⟨k, r⟩ := kr
    simp only [journal_of_unjournalled (fun j hj => h k r j hr hj), dw_vector_mod]

/-! ### TIMER and JNL.NOTE (R445) -/

theorem exec_timer (hf : FiresOnce s c es e) (h : unjournalled s c) :
    exec (.timer c1 c0) s = .next (complete s c 2 es (both c1 c0 .s64 [(0, .val s.time)])) := by
  refine (fireOnce_of_done hf ?_ : execTimer c1 c0 s = _)
  simp only [journalFiring_of_unjournalled h]
  rfl

theorem exec_jnlNote (hf : FiresOnce s c es e) (h : unjournalled s c) :
    exec (.jnlNote c1 c0) s = .next (complete s c 2 es (both c1 c0 .s64 [(0, .val (c.wide 0 e))])) := by
  refine (fireOnce_of_done hf ?_ : execJnlNote c1 c0 s = _)
  simp only [journalFiring_of_unjournalled h]
  rfl

/-! ### JNL.Q (R445) -/

/-- The journal state of a job that keeps none is 0. -/
theorem journalState_eq_ite (j : Job) : journalState j = if j.jmode = 0 then 0 else journalState j := by
  split
  · next hmode => simp [journalState, hmode]
  · rfl

/-- JNL.Q answers for the job of its plot, in whatever mode. -/
theorem exec_jnlQ (hf : FiresOnce s c es e) :
    exec (.jnlQ c1 c0) s = .next (complete s c 2 es (both c1 c0 .s64 [(0, .val (
      match (recOf? s c.plot).bind (fun x => Tab.at? s.jobs x.2.job) with
      | some j => if j.jmode = 0 then 0 else journalState j
      | none => 0))])) := by
  simp only [← journalState_eq_ite]
  exact (fireOnce_of_done hf rfl : execJnlQ c1 c0 s = _)

end

theorem systemForms_say : Sys2Proof.Says.SystemForms := by
  intro s s1 c es e c1 c0 vec hf b t
  exact ⟨exec_syncCode_empty hf, exec_syncCode_waits hf, exec_syncCode_drops hf, exec_halt hf,
    fun hrel h => exec_virq_raises hf hrel h vec, fun h => ⟨exec_timer hf h, exec_jnlNote hf h, exec_jnlQ hf⟩⟩

/-- Settles O53: SYNC.CODE goes by its length and the writes of its VI, HALT and JNL.Q always complete, and in a job without a journal VIRQ, TIMER
and JNL.NOTE keep their own values. -/
theorem systemForms : Obligations.SystemForms := systemForms_say

end Sys2Proof.Machine
end

section
/-!
PROOFS. The handles of groups (R347, R349, R367), the groups made, freed and counted (R363, R369, R375), their members (R371, R372).
-/
namespace Sys2Proof.Machine
open Sys2Proof.Claim

/-! ### Handles (R347, R349) -/

/-- TINFO of R367, in numbers. -/
theorem infoGroup_eq (h : Word) (why : Nat) : infoGroup h why = dw (h.toNat * 2 ^ 32 + why * 2 ^ 28) := by
  simp only [infoGroup, at_, Nat.shiftLeft_eq]

theorem handleOf_eq_groupOperand (c : Ctx) (e : Nat) (hk : Bool) (n : BitVec 4) : handleOf c e hk n.toNat 0 = groupOperand c e hk n := by
  cases hk <;> rfl

section
variable {s : State} {c : Ctx} {es : List Nat} {e : Nat} {c1 c0 : Cons} {kind : Kind} {body : Ctx → Nat → Res} {h : Word}

/-- A form that fires once and meets a trap of R367. -/
theorem fireOnce_of_groupTrap {cause : Cause} {why : Nat} (hf : FiresOnce s c es e) (hb : body c e = groupTrap c e cause h why) :
    fireOnce s c1 c0 kind body =
      .next (trapFiring s c.f cause c.inst.first (dw (h.toNat * 2 ^ 32 + why * 2 ^ 28))) := by
  rw [← infoGroup_eq]
  exact fireOnce_of_trap hf hb

/-- The fields of a handle (R347). -/
theorem field_handle_vi (h : Word) : field h 31 23 = h.toNat / 2 ^ 23 := by
  have hlt : h.toNat / 2 ^ 23 < 2 ^ (31 + 1 - 23) := Nat.div_lt_of_lt_mul h.isLt
  rw [field, Nat.shiftRight_eq_div_pow, Nat.mod_eq_of_lt hlt]

theorem field_handle_index (h : Word) : field h 22 11 = h.toNat / 2 ^ 11 % 2 ^ 12 := by rw [field, Nat.shiftRight_eq_div_pow]

theorem field_handle_gen (h : Word) : field h 10 0 = h.toNat % 2 ^ 11 := rfl

variable (k : Nat → Group → Res)

theorem withGroup_otherVi (hv : h.toNat / 2 ^ 23 ≠ c.plot.vi) : withGroup s c e h k = groupTrap c e .gperm h 0 := by
  rw [← field_handle_vi] at hv
  exact if_pos hv

section
variable (hv : h.toNat / 2 ^ 23 = c.plot.vi)
include hv

theorem withGroup_beyond (hi : 1024 ≤ h.toNat / 2 ^ 11 % 2 ^ 12) : withGroup s c e h k = groupTrap c e .gdead h 1 := by
  simp only [withGroup, field_handle_vi, field_handle_index, hv, hi, ne_eq, not_true, if_true, if_false]

theorem withGroup_none (hg : Tab.at? s.groups (1024 * c.plot.vi + h.toNat / 2 ^ 11 % 2 ^ 12) = none) :
    withGroup s c e h k = groupTrap c e .gdead h 1 := by
  simp only [withGroup, groupKey, field_handle_vi, field_handle_index, hv, hg, ne_eq, not_true, if_false, ite_self]

theorem withGroup_oldGen {g : Group} (hi : h.toNat / 2 ^ 11 % 2 ^ 12 < 1024)
    (hg : Tab.at? s.groups (1024 * c.plot.vi + h.toNat / 2 ^ 11 % 2 ^ 12) = some g) (hgen : g.gen ≠ h.toNat % 2 ^ 11) :
    withGroup s c e h k = groupTrap c e .gdead h 0 := by
  simp only [withGroup, groupKey, field_handle_vi, field_handle_index, field_handle_gen, hv, hg, Nat.not_le.mpr hi, hgen, ne_eq, not_true,
    not_false_eq_true, if_true, if_false]

end

/-- A handle that names a group passes the checks. -/
theorem withGroup_goes {key : Nat} {g : Group} (hn : namesGroup s c h key g) : withGroup s c e h k = k key g := by
  obtain ⟨hv, hi, rfl, hg, hgen⟩ := hn
  simp only [withGroup, groupKey, field_handle_vi, field_handle_index, field_handle_gen, hv, hg, Nat.not_le.mpr hi, hgen, ne_eq, not_true,
    if_false]

end

/-- The forms on a group that take its handle from a constant word or the operand a. -/
def handleForm (hk : Bool) (n : BitVec 4) (c1 c0 : Cons) (i : Instr) : Prop :=
  i = .gfree hk n c1 c0 ∨ i = .gjoin hk n c1 c0 ∨ i = .gleave hk n c1 c0 ∨ i = .ready hk n c1 c0 ∨ i = .unready hk n c1 c0 ∨
    i = .gpound hk n c1 c0

/-- Every form on a group checks its handle first. -/
theorem exec_of_handleForm {hk : Bool} {n : BitVec 4} {c1 c0 : Cons} {i : Instr} (hi : handleForm hk n c1 c0 i) (s : State) :
    ∃ (kind : Kind) (k : Ctx → Nat → Nat → Group → Res), exec i s = fireOnce s c1 c0 kind (fun c e => withGroup s c e (groupOperand c e hk n) (k c e)) := by
  rcases hi with rfl | rfl | rfl | rfl | rfl | rfl <;> (simp only [← handleOf_eq_groupOperand]; exact ⟨_, _, rfl⟩)

theorem groupHandles_say : Sys2Proof.Says.GroupHandles := by
  intro i s c es e hk n c1 c0 hf hi h traps
  obtain ⟨kind, k, hexec⟩ := exec_of_handleForm hi s
  rw [hexec]
  refine ⟨fun hv => ?_, fun hv hbeyond => ?_, fun hv hnone => ?_, fun g hv hlt hg hgen => ?_⟩
  · exact fireOnce_of_groupTrap hf (withGroup_otherVi _ hv)
  · exact fireOnce_of_groupTrap hf (withGroup_beyond _ hv hbeyond)
  · exact fireOnce_of_groupTrap hf (withGroup_none _ hv hnone)
  · exact fireOnce_of_groupTrap hf (withGroup_oldGen _ hv hlt hg hgen)

/-! ### GMAKE (R348, R369) -/

/-- What every step of a fold keeps, the fold keeps. -/
theorem foldl_keeps {α β γ : Type} {g : α → β → α} (f : α → γ) (h : ∀ a b, f (g a b) = f a) (l : List β) (a : α) : f (l.foldl g a) = f a := by
  induction l generalizing a with
  | nil => rfl
  | cons b l ih => rw [List.foldl_cons, ih, h]

theorem markEntry_groupGens (bits : Dword) (v : Nat) (s : State) (pa : Nat) : (markEntry bits v s pa).groupGens = s.groupGens := by
  unfold markEntry
  cases h : (newestWord s pa &&& bits == bits) <;> simp [h, writeAll]

theorem markUsed_groupGens (s : State) (v : Nat) (w : Walked) (write : Bool) : (markUsed s v w write).groupGens = s.groupGens := by
  have hkeep := fun bits => foldl_keeps State.groupGens (markEntry_groupGens bits v)
  cases write
  · exact hkeep ..
  · exact (hkeep ..).trans (hkeep ..)

/-- A translation of the hub sets bits of table entries only. -/
theorem translateHub_groupGens {s s1 : State} {v va pa : Nat} {n : Need} (h : translateHub s v va n = .ok s1 pa) :
    s1.groupGens = s.groupGens := by
  unfold translateHub at h
  split at h
  · cases h
  · split at h
    · cases h
    · cases h
      exact markUsed_groupGens ..

theorem pinPound_groupGens (s : State) (key v va bytes : Nat) : (pinPound s key v va bytes).groupGens = s.groupGens := by
  refine foldl_keeps State.groupGens (fun u i => ?_) _ _
  split
  · next h => exact (translateHub_groupGens h :)
  · rfl

/-- A group as GMAKE makes it. -/
def freshGroup (gen va bytes : Nat) : Group :=
  { gen := gen, va := va, units := bytes / 64, head := 0, pound := [], nodes := [], members := [], nmem := 0, gdel := 0, snaps := 0 }

/-- The machine with a group made at a key, its pound's pages pinned. -/
def groupMade (s : State) (key v va bytes : Nat) : State :=
  pinPound { s with groups := Tab.set s.groups key (freshGroup (Tab.atD s.groupGens key 1) va bytes) } key v va bytes

theorem groupMade_groupGens (s : State) (key v va bytes : Nat) : (groupMade s key v va bytes).groupGens = s.groupGens := pinPound_groupGens ..

theorem makeGroup?_makes {s : State} {v i : Nat} (va bytes : Nat)
    (hi : (List.range 1024).find? (fun i => !Tab.has s.groups (1024 * v + i)) = some i) (hlen : s.groups.length < 4096) :
    makeGroup? s v va bytes = some (groupMade s (1024 * v + i) v va bytes, 1024 * v + i) := by
  have hroom : Nat.ble 4096 s.groups.length = false := by rw [ble_eq_decide, decide_eq_false (Nat.not_le.mpr hlen)]
  unfold makeGroup?
  split
  · next hnone => cases hi.symm.trans hnone
  · next j hj =>
    cases hi.symm.trans hj
    rw [hroom]
    rfl

theorem makeGroup?_full {s : State} {v : Nat} (va bytes : Nat)
    (h : 4096 ≤ s.groups.length ∨ ∀ i < 1024, Tab.has s.groups (1024 * v + i) = true) : makeGroup? s v va bytes = none := by
  unfold makeGroup?
  split
  · rfl
  · next i hi =>
    rcases h with hlen | hall
    · rw [ble_eq_decide, decide_eq_true hlen, cond_true]
    · have hfree := List.find?_some hi
      rw [groupKey, hall i (List.mem_range.mp (List.mem_of_find?_eq_some hi))] at hfree
      cases hfree

section
variable {s : State} {c : Ctx} {es : List Nat} {e : Nat} {c1 c0 : Cons} (hf : FiresOnce s c es e)
include hf

theorem exec_gmake_makes {i : Nat} (n : BitVec 4) (hok : poundOk s c.plot.vi (vaOf (c.k2 n.toNat)) (c.low 0 e).toNat = true)
    (hi : (List.range 1024).find? (fun i => !Tab.has s.groups (1024 * c.plot.vi + i)) = some i) (hlen : s.groups.length < 4096) :
    exec (.gmake n c1 c0) s = .next (complete (groupMade s (1024 * c.plot.vi + i) c.plot.vi (vaOf (c.k2 n.toNat)) (c.low 0 e).toNat) c 2 es
      (Claim.word32 c1 c0 (groupHandle (1024 * c.plot.vi + i) (Tab.atD s.groupGens (1024 * c.plot.vi + i) 1)))) := by
  refine (fireOnce_of_done hf ?_ : execGmake n c1 c0 s = _)
  simp only [hok, Bool.true_eq_false, if_false, makeGroup?_makes _ _ hi hlen, groupGen, groupMade_groupGens, zx32, dw, BitVec.ofNat_toNat]
  rfl

theorem exec_gmake_full (n : BitVec 4) (hok : poundOk s c.plot.vi (vaOf (c.k2 n.toNat)) (c.low 0 e).toNat = true)
    (hfull : 4096 ≤ s.groups.length ∨ ∀ i < 1024, Tab.has s.groups (1024 * c.plot.vi + i) = true) :
    exec (.gmake n c1 c0) s = .next (complete s c 2 es (Claim.word32 c1 c0 0)) := by
  refine (fireOnce_of_done hf ?_ : execGmake n c1 c0 s = _)
  simp only [hok, Bool.true_eq_false, if_false, makeGroup?_full _ _ hfull]
  rfl

theorem exec_gmake_refused (n : BitVec 4) (hok : poundOk s c.plot.vi (vaOf (c.k2 n.toNat)) (c.low 0 e).toNat = false) :
    exec (.gmake n c1 c0) s = .next (trapFiring s c.f .gperm c.inst.first (dw (2 * 2 ^ 28))) :=
  (fireOnce_of_groupTrap hf (if_pos hok) : execGmake n c1 c0 s = _)

/-! ### GFREE, GPOUND, GCOUNT.SNAPCLR (R363, R375) -/

theorem exec_gfree {key : Nat} {g : Group} (hk : Bool) (n : BitVec 4) (hn : namesGroup s c (groupOperand c e hk n) key g) :
    exec (.gfree hk n c1 c0) s = .next (complete (freeGroup s key true).1 c 2 es (raw32 c1 c0 (freeGroup s key true).2)) := by
  refine (fireOnce_of_done hf ?_ : execGfree hk n c1 c0 s = _)
  rw [handleOf_eq_groupOperand, withGroup_goes _ hn]
  rfl

omit hf in
theorem poundUsed_eq_sum (g : Group) : poundUsed g = (g.pound.map (fun m => msgBytes m / 64)).sum := by
  rw [poundUsed, List.sum_eq_foldl, List.foldl_map]

/-- The readiness that GPOUND reports: the sum of the hub's counts. -/
def hubReady (g : Group) : Int :=
  match Tab.at? g.nodes 0 with
  | some t => t.counts.foldl (fun a x => a + x.2) 0
  | none => 0

theorem exec_gpound {key : Nat} {g : Group} (hk : Bool) (n : BitVec 4) (hn : namesGroup s c (groupOperand c e hk n) key g) :
    exec (.gpound hk n c1 c0) s = .next (complete s c 2 es (scalar64 c1 c0 ((hubReady g).toNat % 2 ^ 20 * 2 ^ 44 + g.pound.length * 2 ^ 24 +
      (g.units - (g.pound.map (fun m => msgBytes m / 64)).sum)))) := by
  refine (fireOnce_of_done hf ?_ : execGpound hk n c1 c0 s = _)
  rw [handleOf_eq_groupOperand, withGroup_goes _ hn]
  simp only [at_, Nat.shiftLeft_eq, poundUsed_eq_sum]
  rfl

theorem exec_gcountSnapclr {key : Nat} {g : Group} {s1 : State} {l : List Dword} (n : BitVec 4) (hn : namesGroup s c (c.low 0 e) key g)
    (hva : vaOf (c.k2 n.toNat) % 64 = 0) (hpages : hubWritable s c.plot.vi (snapWords key g).length (vaOf (c.k2 n.toNat)) = true)
    (hw : cellWrite s c e 4 (vaOf (c.k2 n.toNat)) (snapWords key g) = .ok s1 l) :
    exec (.gcountSnapclr n c1 c0) s = .next (complete (onGroup s1 key (fun g => { g with
      gdel := 0, snaps := g.snaps + 1, members := (g.members.filter (fun x => x.2.state == 1)).map (fun x => (x.1, { x.2 with del := 0 })) }))
      c 2 es (both c1 c0 .s64 [(0, .val g.gdel)])) := by
  refine (fireOnce_of_done hf ?_ : execGcountSnapclr n c1 c0 s = _)
  rw [withGroup_goes _ hn]
  simp only [hva, hpages, hw, ne_eq, not_true, Bool.true_eq_false, or_self, if_false]
  rfl

end

theorem groupForms_say : Sys2Proof.Says.GroupForms := by
  intro s s1 c es e hk n c1 c0 hf bytes va
  refine ⟨fun hok => ⟨fun i hi hlen => exec_gmake_makes hf n hok hi hlen, exec_gmake_full hf n hok⟩, exec_gmake_refused hf n,
    fun key g hn => ⟨exec_gfree hf hk n hn, fun t ht _ => ?_, fun hnone => ?_⟩,
    fun key g hn hva hpages hw => exec_gcountSnapclr hf n hn hva hpages hw⟩
  · simpa only [hubReady, ht] using exec_gpound hf hk n hn
  · simpa only [hubReady, hnone, Int.toNat_zero, Nat.zero_mod, Nat.zero_mul, Nat.zero_add] using exec_gpound hf hk n hn

/-! ### Members (R371, R372) -/

theorem onGroup_onGroup (s : State) (key : Nat) (f g : Group → Group) : onGroup (onGroup s key f) key g = onGroup s key (fun u => g (f u)) := by
  simp only [onGroup, Tab.upd_upd]

/-- Two changes of a group that agree on the group there. -/
theorem onGroup_congr {s : State} {key : Nat} {u : Group} {f f' : Group → Group} (hu : Tab.at? s.groups key = some u) (h : f u = f' u) :
    onGroup s key f = onGroup s key f' :=
  congrArg (fun groups => { s with groups := groups }) (Tab.upd_congr hu h)

theorem withEndpoint_goes {c : Ctx} {e ep : Nat} {h : Word} {x : Endpoint} (k : Nat → Endpoint → Res)
    (hx : endpointOf? c.plot c.f.cell = some (ep, x)) : withEndpoint c e h k = k ep x := by
  simp only [withEndpoint, hx]

/-- A group as a plot at a path joins it at an index: the entries that its nodes have none of, and the member. -/
def enteredBy (s : State) (g : Group) (path : List Nat) (midx : Nat) (me : Member) (u : Group) : Group :=
  { u with
    nodes := path.foldl (fun t nd =>
      if Tab.has t nd = true then t else Tab.set t nd { counts := [], park := g.pound != [], made := s.nextDelta }) u.nodes,
    members := Tab.set u.members midx me, nmem := Nat.max u.nmem (midx + 1) }

theorem makeEntries_then_join {s : State} {key : Nat} {g : Group} (path : List Nat) (midx : Nat) (me : Member)
    (hg : Tab.at? s.groups key = some g) :
    onGroup (makeEntries s key path) key (fun u => { u with members := Tab.set u.members midx me, nmem := Nat.max u.nmem (midx + 1) }) =
      onGroup { s with nextDelta := s.nextDelta + 1 } key (enteredBy s g path midx me) := by
  rw [makeEntries, onGroup_onGroup]
  refine onGroup_congr hg ?_
  simp only [Bool.cond_eq_ite]
  rfl

/-- The fields of READY's operand, where it is below 256. -/
theorem readyFields (b : Word) (hlt : b.toNat < 256) : field b 31 8 = 0 ∧ field b 7 0 = b.toNat :=
  ⟨field_eq_zero_of_lt 31 hlt, Nat.mod_eq_of_lt hlt⟩

section
variable {s : State} {c : Ctx} {es : List Nat} {e key ep : Nat} {hk : Bool} {n : BitVec 4} {c1 c0 : Cons} {g : Group} {x : Endpoint}
  (hf : FiresOnce s c es e) (hn : namesGroup s c (groupOperand c e hk n) key g) (hx : endpointOf? c.plot c.f.cell = some (ep, x))
include hf hn hx

section
variable {m : Membership} (hm : Tab.at? x.members key = some m)
include hm

theorem exec_gjoin_again : exec (.gjoin hk n c1 c0) s = .next (complete s c 2 es (raw32 c1 c0 m.midx)) := by
  refine (fireOnce_of_done hf ?_ : execGjoin hk n c1 c0 s = _)
  simp only [handleOf_eq_groupOperand, withGroup_goes _ hn, withEndpoint_goes _ hx, hm]
  rfl

theorem exec_gleave_member :
    exec (.gleave hk n c1 c0) s = .next (complete (leaveGroup s key c.f.plot ep) c 2 es (raw32 c1 c0 m.midx)) := by
  refine (fireOnce_of_done hf ?_ : execGleave hk n c1 c0 s = _)
  simp only [handleOf_eq_groupOperand, withGroup_goes _ hn, withEndpoint_goes _ hx, hm]
  rfl

theorem exec_unready_member :
    exec (.unready hk n c1 c0) s = .next (complete (withdraw s key c.f.plot ep) c 2 es (raw32 c1 c0 m.ready)) := by
  refine (fireOnce_of_done hf ?_ : execUnready hk n c1 c0 s = _)
  simp only [handleOf_eq_groupOperand, withGroup_goes _ hn, withEndpoint_goes _ hx, hm]
  rfl

/-- READY of nothing. -/
theorem exec_ready_zero (hb : (c.low 1 e).toNat = 0) :
    exec (.ready hk n c1 c0) s =
      .next (trapFiring s c.f .gperm c.inst.first (dw ((groupOperand c e hk n).toNat * 2 ^ 32 + 4 * 2 ^ 28))) := by
  obtain ⟨hhigh, hlow⟩ := readyFields (c.low 1 e) (hb ▸ Nat.zero_lt_succ 255)
  refine (fireOnce_of_groupTrap hf ?_ : execReady hk n c1 c0 s = _)
  simp only [handleOf_eq_groupOperand, withGroup_goes _ hn, withEndpoint_goes _ hx, hm, hhigh, hlow, hb, ne_eq, not_true, true_or, if_false,
    if_true]

section
variable (hpos : (c.low 1 e).toNat ≠ 0) (hlt : (c.low 1 e).toNat < 256) (hsum : m.ready + (c.low 1 e).toNat < 256)
  (hring : 320 * (c.low 1 e).toNat ≤ x.size)
include hpos hlt hsum hring

theorem exec_ready_advertises (hroom : x.used + x.reserved + 320 * (c.low 1 e).toNat ≤ x.size) :
    exec (.ready hk n c1 c0) s = .next (complete (changeReady (onEndpoint s c.f.plot ep (fun x => { x with
        reserved := x.reserved + 320 * (c.low 1 e).toNat,
        members := Tab.upd x.members key (fun m => { m with ready := m.ready + (c.low 1 e).toNat }) })) key g c.f.plot c.plot ep (c.low 1 e).toNat)
      c 2 es (raw32 c1 c0 (m.ready + (c.low 1 e).toNat))) := by
  obtain ⟨hhigh, hlow⟩ := readyFields (c.low 1 e) hlt
  have hcount : ¬((c.low 1 e).toNat = 0 ∨ 255 < m.ready + (c.low 1 e).toNat) := by omega
  refine (fireOnce_of_done hf ?_ : execReady hk n c1 c0 s = _)
  simp only [handleOf_eq_groupOperand, withGroup_goes _ hn, withEndpoint_goes _ hx, hm, hhigh, hlow, hcount, Nat.not_lt.mpr hring,
    Nat.not_lt.mpr hroom, ne_eq, not_true, if_false]
  rfl

theorem exec_ready_waits (hfull : x.size < x.used + x.reserved + 320 * (c.low 1 e).toNat) :
    exec (.ready hk n c1 c0) s = .next (stallFiring s) := by
  obtain ⟨hhigh, hlow⟩ := readyFields (c.low 1 e) hlt
  have hcount : ¬((c.low 1 e).toNat = 0 ∨ 255 < m.ready + (c.low 1 e).toNat) := by omega
  refine (fireOnce_of_stall hf ?_ : execReady hk n c1 c0 s = _)
  simp only [handleOf_eq_groupOperand, withGroup_goes _ hn, withEndpoint_goes _ hx, hm, hhigh, hlow, hcount, Nat.not_lt.mpr hring, hfull, ne_eq,
    not_true, if_false, if_true]

end
end

/-! An endpoint that is no member. -/

section
variable (hm : Tab.at? x.members key = none)
include hm

theorem exec_gleave_none : exec (.gleave hk n c1 c0) s = .next (complete s c 2 es (raw32 c1 c0 (2 ^ 32 - 1))) := by
  refine (fireOnce_of_done hf ?_ : execGleave hk n c1 c0 s = _)
  simp only [handleOf_eq_groupOperand, withGroup_goes _ hn, withEndpoint_goes _ hx, hm]
  rfl

theorem exec_ready_none : exec (.ready hk n c1 c0) s =
    .next (trapFiring s c.f .gperm c.inst.first (dw ((groupOperand c e hk n).toNat * 2 ^ 32 + 7 * 2 ^ 28))) := by
  refine (fireOnce_of_groupTrap hf ?_ : execReady hk n c1 c0 s = _)
  simp only [handleOf_eq_groupOperand, withGroup_goes _ hn, withEndpoint_goes _ hx, hm]

theorem exec_unready_none : exec (.unready hk n c1 c0) s =
    .next (trapFiring s c.f .gperm c.inst.first (dw ((groupOperand c e hk n).toNat * 2 ^ 32 + 7 * 2 ^ 28))) := by
  refine (fireOnce_of_groupTrap hf ?_ : execUnready hk n c1 c0 s = _)
  simp only [handleOf_eq_groupOperand, withGroup_goes _ hn, withEndpoint_goes _ hx, hm]

/-- A group with every index taken takes no member. -/
theorem exec_gjoin_full (hfull : ∀ i < 4096, Tab.has g.members i = true) :
    exec (.gjoin hk n c1 c0) s = .next (complete s c 2 es (raw32 c1 c0 (2 ^ 32 - 1))) := by
  have hfree : (List.range 4096).find? (fun i => !Tab.has g.members i) = none := by
    rw [List.find?_eq_none]
    intro i hi
    rw [hfull i (List.mem_range.mp hi)]
    exact Bool.false_ne_true
  refine (fireOnce_of_done hf ?_ : execGjoin hk n c1 c0 s = _)
  simp only [handleOf_eq_groupOperand, withGroup_goes _ hn, withEndpoint_goes _ hx, hm, hfree]
  rfl

theorem exec_gjoin_enters {midx : Nat} (hfree : (List.range 4096).find? (fun i => !Tab.has g.members i) = some midx)
    (hroom : ∀ nd ∈ pathOf c.plot c.f.plot, Tab.has g.nodes nd = true ∨ nodeLoad s nd < 4096) :
    exec (.gjoin hk n c1 c0) s = .next (complete (onEndpoint (onGroup { s with nextDelta := s.nextDelta + 1 } key
        (enteredBy s g (pathOf c.plot c.f.plot) midx
          { state := 1, die := c.plot.die, x := c.plot.x, y := c.plot.y, ep := ep, plot := c.f.plot, del := 0 })) c.f.plot ep
        (fun x => { x with members := Tab.set x.members key { gen := g.gen, midx := midx, ready := 0 } })) c 2 es (raw32 c1 c0 midx)) := by
  have hall : (pathOf c.plot c.f.plot).all (fun nd => Tab.has g.nodes nd || (nodeLoad s nd).blt 4096) = true := by
    simpa only [List.all_eq_true, Bool.or_eq_true, Nat.blt_eq] using hroom
  have hg : Tab.at? s.groups key = some g := hn.2.2.2.1
  refine (fireOnce_of_done hf ?_ : execGjoin hk n c1 c0 s = _)
  simp only [handleOf_eq_groupOperand, withGroup_goes _ hn, withEndpoint_goes _ hx, hm, hfree, hall, makeEntries_then_join _ _ _ hg]
  rfl

end
end

theorem groupMembers_say : Sys2Proof.Says.GroupMembers := by
  intro s c es e key ep hk n c1 c0 g x hf hn hx h traps b out
  refine ⟨fun m hm => ⟨exec_gjoin_again hf hn hx hm, exec_gleave_member hf hn hx hm, exec_unready_member hf hn hx hm,
      fun hpos hlt hsum hring => ⟨exec_ready_advertises hf hn hx hm hpos hlt hsum hring, exec_ready_waits hf hn hx hm hpos hlt hsum hring⟩,
      exec_ready_zero hf hn hx hm⟩,
    fun hm => ⟨exec_gleave_none hf hn hx hm, exec_ready_none hf hn hx hm, exec_unready_none hf hn hx hm,
      fun midx hfree hroom => exec_gjoin_enters hf hn hx hm hfree hroom⟩,
    fun hm hfull => exec_gjoin_full hf hn hx hm hfull⟩

/-- Settles O43: every form on a group passes its handle's checks first; behind them each has the effect of its rule, by whether the
endpoint is a member. -/
theorem groupForms : Obligations.GroupForms := ⟨groupHandles_say, groupForms_say, groupMembers_say⟩

end Sys2Proof.Machine
end

section
/-!
PROOFS. Messages of groups: sends (R352, R373), takes (R374), steering and bounces (R355), the pound (R357), counts and outcomes (R354, R356, R358,
R359).
-/
namespace Sys2Proof.Machine
open Sys2Proof.Claim

/-! ### GSEND (R373) -/

/-- What sending the buffers of a P-cell leaves as it is. -/
theorem flushBuffer_recs (s : State) (port line : Nat) : (flushBuffer s port line).recs = s.recs := by
  unfold flushBuffer
  split <;> rfl

theorem flushBuffer_nextFlight (s : State) (port line : Nat) : (flushBuffer s port line).nextFlight = s.nextFlight := by
  unfold flushBuffer
  split <;> rfl

theorem flushAll_recs (s : State) (port : Nat) : (flushAll s port).recs = s.recs :=
  foldl_keeps State.recs (fun u (x : Nat × CLine) => flushBuffer_recs u port x.1) (portOf s port).lines s

theorem flushAll_nextFlight (s : State) (port : Nat) : (flushAll s port).nextFlight = s.nextFlight :=
  foldl_keeps State.nextFlight (fun u (x : Nat × CLine) => flushBuffer_nextFlight u port x.1) (portOf s port).lines s

theorem recOf?_congr {s s1 : State} (h : s1.recs = s.recs) (p : Plot) : recOf? s1 p = recOf? s p := by
  simp only [recOf?, h]

/-- The place behind the last word that is present, of the first `m`. -/
def wordsPresent (g : Nat → Option Word) (m : Nat) : Nat :=
  ((List.range m).map g).zipIdx.foldl (fun m (w, i) => if w.isSome then i + 1 else m) 0

theorem wordsPresent_succ (g : Nat → Option Word) (m : Nat) :
    wordsPresent g (m + 1) = if (g m).isSome = true then m + 1 else wordsPresent g m := by
  simp [wordsPresent, List.range_succ, List.zipIdx_append]

theorem wordsPresent_eq {g : Nat → Option Word} {n m : Nat} (hpos : 0 < n) (hle : n ≤ m) (hlast : (g (n - 1)).isSome = true)
    (hnone : ∀ i, n ≤ i → i < m → g i = none) : wordsPresent g m = n := by
  induction m with
  | zero => omega
  | succ m ih =>
    rw [wordsPresent_succ]
    rcases Nat.lt_or_ge m n with hlt | hge
    · obtain rfl : n = m + 1 := by omega
      exact if_pos hlast
    · rw [hnone m hge (Nat.lt_succ_self m), if_neg (by simp)]
      exact ih hge (fun i hi hm => hnone i hi (Nat.lt_succ_of_lt hm))

theorem sender_eq (die x y : Nat) : at_ die 12 + at_ x 6 + y = die * 2 ^ 12 + x * 2 ^ 6 + y := by
  simp only [at_, Nat.shiftLeft_eq]

/-- The machine with a message put in flight at its gate, its cell's SSEQ advanced. -/
def sentFrom (s : State) (c : Ctx) (m : GMsg) : State :=
  let s2 := onPlot s c.f.plot (fun p => onCell p c.f.cell (fun k => { k with sseq := m.sseq }))
  { s2 with flights := Tab.set s2.flights s2.nextFlight (Flight.mk m (.climb (gateOf c.plot c.f.plot)) false 0), nextFlight := s2.nextFlight + 1 }

section
variable {s : State} {c : Ctx} {key : Nat} {g : Group} {ws : List Word} {try1 : Bool} {k : Cell}

/-- The first send of a plot without a record whose writes are performed. -/
theorem sendGroup_climbs (hrec : recOf? s c.plot = none) (hk : Tab.at? c.plot.cells c.f.cell = some k)
    (hidle : ∀ x ∈ s.flights, x.2.msg.group = key → ∀ f, x.2.msg.firing = some f → ¬(f.plot = c.f.plot ∧ f.cell = c.f.cell))
    (hw : ¬writesBefore (flushAll s c.port) c) :
    sendGroup s c key g ws try1 = .issued (sentFrom (flushAll s c.port) c
      { id := s.nextFlight, group := key, gen := g.gen, words := ws, sseq := k.sseq + 1,
        sender := c.plot.die * 2 ^ 12 + (siteOf c.plot c.f.cell).1 * 2 ^ 6 + (siteOf c.plot c.f.cell).2, bounces := 0, firing := some c.f,
        try1 := try1, src := none }) := by
  have hbusy : (s.flights.any (fun (_, f) => f.msg.group == key && (match f.msg.firing with
      | some x => x.plot == c.f.plot && x.cell == c.f.cell
      | none => false))) = false := by
    rw [List.any_eq_false]
    intro x hx
    cases hfir : x.2.msg.firing with
    | none => simp [hfir]
    | some f =>
      have := hidle x hx
      simp only [hfir, Option.some.injEq, forall_eq'] at this
      simpa [hfir] using this
  have hprior : priorWrites (flushAll s c.port) c = false := by simpa [priorWrites, writesBefore] using hw
  have hrec1 : recOf? (flushAll s c.port) c.plot = none := by rw [recOf?_congr (flushAll_recs ..), hrec]
  unfold sendGroup
  refine (if_neg ?_).trans ?_
  · rintro (h | h)
    · cases hbusy.symm.trans h
    · cases hprior.symm.trans h
  · simp only [hrec1, hk, sender_eq, flushAll_nextFlight]
    rfl

end

theorem groupSend_says : Sys2Proof.Says.GroupSend := by
  intro s c es e key n try1 hk kn c1 c0 h g ws k hc hagain hready hh hp hnulls hn hrec hcell s1 gate m s2 hidle hw
  obtain ⟨hpos, hle, hlast, hnone, hws⟩ := hp
  have hcount : ((List.range 64).map (sendWord? c)).zipIdx.foldl (fun m (w, i) => if w.isSome then i + 1 else m) 0 = n :=
    wordsPresent_eq hpos hle hlast hnone
  have hwords : (((List.range 64).map (sendWord? c)).take n).map (·.getD 0) = ws := by
    rw [← List.map_take, List.take_range, Nat.min_eq_left hle, List.map_map, hws]
    rfl
  have hgo : ¬(n = 0 ∨ Tab.atD c.inst.nulls c.f.slot 0 ≠ 0) := by
    rintro (rfl | hne)
    · exact Nat.lt_irrefl 0 hpos
    · exact hne hnulls
  change execGsend try1 hk kn c1 c0 s = _
  unfold execGsend
  simp only [hc, hready, hh, hcount, hwords, if_neg hgo, withGroup_goes _ hn, sendGroup_climbs hrec hcell hidle hw]
  rfl

/-! ### GTAKE (R374) -/

section
variable {s : State} {c : Ctx} {es : List Nat} {e ep : Nat} {c1 c0 : Cons} {x : Endpoint} {m : InMsg} {rest : List InMsg}
  (hf : FiresOnce s c es e) (hx : endpointOf? c.plot c.f.cell = some (ep, x)) (hm : x.msgs = m :: rest)
include hf hx hm

theorem exec_gtake_waits (hc : m.counted = false) : exec (.gtake c1 c0) s = .next (stallFiring s) := by
  refine (fireOnce_of_stall hf ?_ : execGtake c1 c0 s = _)
  simp only [withEndpoint_goes _ hx, hm, hc, if_true]

/-- A word of a message, at its place in the ring. -/
def takenWord (c : Ctx) (x : Endpoint) (m : InMsg) (i : Nat) : Word :=
  BitVec.ofNat 32 (readN (nearOf c.plot x.scell) 4 (x.off + (m.off + 4 * i) % x.size))

/-- The 32 words of a message from one on, null beyond its last. -/
def takenRun (c : Ctx) (x : Endpoint) (m : InMsg) (first : Nat) : Tab Elem :=
  (List.range c.inst.len).map (fun e => (e, if first + e < (takenWord c x m 0).toNat / 2 ^ 26 + 1
    then Elem.val ((takenWord c x m (16 + first + e)).setWidth 64) else Elem.null))

theorem exec_gtake_takes (hc : m.counted = true) : exec (.gtake c1 c0) s =
    .next (complete (readsAnew (onEndpoint s c.f.plot ep (fun x => { x with msgs := rest })) c.f.plot) c 2 es
      [{ cons := c0, kind := .r32, elems := takenRun c x m 0 }, { cons := c1, kind := .r32, elems := takenRun c x m 32 }]) := by
  have hcount : field (ringWord (nearOf c.plot x.scell) x m.off 0) 31 26 = (takenWord c x m 0).toNat / 2 ^ 26 := by
    have hlt : (takenWord c x m 0).toNat / 2 ^ 26 < 2 ^ (31 + 1 - 26) := Nat.div_lt_of_lt_mul (takenWord c x m 0).isLt
    exact (congrArg (· % _) (Nat.shiftRight_eq_div_pow ..)).trans (Nat.mod_eq_of_lt hlt)
  refine (fireOnce_of_done hf ?_ : execGtake c1 c0 s = _)
  simp only [withEndpoint_goes _ hx, hm, hc, Bool.true_eq_false, if_false, hcount, zx32, dw, BitVec.ofNat_toNat]
  rfl

end

theorem groupTake_says : Sys2Proof.Says.GroupTake := by
  intro s c es e ep c1 c0 x m rest hf hx hm near word count run
  exact ⟨exec_gtake_waits hf hx hm, exec_gtake_takes hf hx hm⟩

/-! ### One move of a message (R355, R356) -/

section
variable {s : State} {k node turn since child : Nat} {fl : Flight} {g : Group} (hfl : Tab.at? s.flights k = some fl)
  (hg : Tab.at? s.groups fl.msg.group = some g)

/-- Whether a message that climbs is to go to the pound: its node has PARK set, or messages wait in the pound at the hub. -/
def nodeParks (g : Group) (node : Nat) : Prop := (∃ t, Tab.at? g.nodes node = some t ∧ t.park = true) ∨ (node = 0 ∧ g.pound ≠ [])

theorem nodeParks_iff (g : Group) (node : Nat) :
    ((match Tab.at? g.nodes node with
      | some e => e.park
      | none => false) || (node == hubNode && !g.pound.isEmpty)) = true ↔ nodeParks g node := by
  cases h : Tab.at? g.nodes node <;> simp [nodeParks, h, hubNode]

theorem climbStep_parks (hp : nodeParks g node) : climbStep s k fl fl.msg.group g node = goPound s k fl fl.msg.group node :=
  if_pos ((nodeParks_iff g node).mpr hp)

/-- A climbing message that is not to be parked goes by the count of its node's children. -/
theorem climbStep_child (hp : ¬nodeParks g node) (hchild : positiveChild? s g node = some child) :
    climbStep s k fl fl.msg.group g node = steerDown s k fl fl.msg.group g node node child := by
  refine (if_neg (mt (nodeParks_iff g node).mp hp)).trans ?_
  rw [hchild]

theorem climbStep_none (hp : ¬nodeParks g node) (hchild : positiveChild? s g node = none) :
    climbStep s k fl fl.msg.group g node = if node = 0 then goPound s k fl fl.msg.group node
      else setFlight (if parentNode node = 0 then chargeHub s fl.msg.group fl.msg else s) k fl (.climb (parentNode node)) := by
  refine (if_neg (mt (nodeParks_iff g node).mp hp)).trans ?_
  rw [hchild]
  rfl

theorem goPound_of_free (s : State) (k key node : Nat) {fl : Flight} (hpark : fl.parked = false) :
    goPound s k fl key node = setFlight (if node = 0 then s else chargeHub s key fl.msg) k fl .toPound := by
  simp only [goPound, hpark, cond_false]
  rfl

include hfl hg

theorem exec_steer_climb (hat : fl.at_ = .climb node) :
    exec (.groupMessageSteer k) s = .next (climbStep s k fl fl.msg.group g node) := by
  change execGroupMessageSteer k s = _
  simp only [execGroupMessageSteer, hfl, hg, hat]

theorem exec_steer_down (hat : fl.at_ = .down node turn since) (hhead : node = 0 → headFirst s fl.msg.group g = false)
    (hchild : positiveChild? s g node = some child) :
    exec (.groupMessageSteer k) s = .next (steerDown s k fl fl.msg.group g node turn child) := by
  have hno : ¬(node = hubNode ∧ headFirst s fl.msg.group g = true) := fun ⟨h0, h1⟩ => by simp [hhead h0] at h1
  change execGroupMessageSteer k s = _
  simp only [execGroupMessageSteer, hfl, hg, hat, if_neg hno, hchild]

/-- A message that steers down and finds no count bounces. -/
theorem exec_steer_bounces (hat : fl.at_ = .down node turn since) (hnode : node ≠ 0) (hchild : positiveChild? s g node = none) :
    exec (.groupMessageSteer k) s = .next (bounceUp s k fl fl.msg.group node turn since) := by
  have hno : ¬(node = hubNode ∧ headFirst s fl.msg.group g = true) := fun h => hnode h.1
  change execGroupMessageSteer k s = _
  have hne : ¬node = hubNode := hnode
  simp only [execGroupMessageSteer, hfl, hg, hat, if_neg hno, hchild, if_neg hne]

theorem exec_steer_toPound (hat : fl.at_ = .toPound) :
    exec (.groupMessageSteer k) s = .next (reachPound s k fl fl.msg.group g) := by
  change execGroupMessageSteer k s = _
  simp only [execGroupMessageSteer, hfl, hg, hat]

end

theorem groupSteering_says : Sys2Proof.Says.GroupSteering := by
  intro s k node turn since child fl g hfl hg key crossing goes steer parks
  refine ⟨fun hat hp => ⟨fun hchild => ?_, fun hchild hnode => ?_⟩, fun hat hp hpark => ?_, fun hat hhead hchild => ?_⟩
  · rw [exec_steer_climb hfl hg hat, climbStep_child hp hchild]
    rfl
  · rw [exec_steer_climb hfl hg hat, climbStep_none hp hchild, if_neg hnode]
    rfl
  · have hgoes : climbStep s k fl key g node = goPound s k fl key node := by
      by_cases hparks : nodeParks g node
      · exact climbStep_parks hparks
      · obtain ⟨hnode, hchild⟩ := hp.resolve_left hparks
        rw [climbStep_none hparks hchild, if_pos hnode]
    rw [exec_steer_climb hfl hg hat, hgoes, goPound_of_free _ _ _ _ hpark]
    rfl
  · rw [exec_steer_down hfl hg hat hhead hchild]
    rfl

/-! ### Bounces (R355, R352) -/

/-- A message once more bounced. -/
def bounced (fl : Flight) : Flight :=
  { fl with tries := fl.tries + 1, msg := { fl.msg with bounces := min 255 (fl.msg.bounces + 1) } }

/-- The machine with a unit returned at the parent of a node that a message bounces from, and the message on the hub link where it goes there. -/
def unitReturned (s : State) (fl : Flight) (key node since : Nat) : State :=
  let refunded := onGroup s key (fun g => addCountSince g (parentNode node) (childOf node) since 1)
  if parentNode node = 0 then chargeHub refunded key fl.msg else refunded

section
variable {s : State} {k key node turn since : Nat} {fl : Flight}

theorem bounceUp_pound (htries : 7 ≤ fl.tries) (hpark : fl.parked = false) :
    bounceUp s k fl key node turn since =
      let s2 := refund (unitReturned s fl key node since) key (parentNode node) turn since
      setFlight (if parentNode node = 0 then s2 else chargeHub s2 key fl.msg) k (bounced fl) .toPound := by
  have h8 : 8 ≤ fl.tries + 1 := Nat.succ_le_succ htries
  refine (if_pos h8).trans ?_
  exact goPound_of_free _ _ _ _ hpark

variable (htries : fl.tries < 7)
include htries

theorem bounceUp_hub (hup : parentNode node = 0) :
    bounceUp s k fl key node turn since = setFlight (unitReturned s fl key node since) k (bounced fl)
      (.down 0 0 (unitReturned s fl key node since).nextDelta) := by
  have h8 : ¬8 ≤ fl.tries + 1 := by omega
  exact (if_neg h8).trans (if_pos hup)

variable {g1 : Group} (hup : parentNode node ≠ 0) (hg1 : Tab.at? (unitReturned s fl key node since).groups key = some g1)
include hup hg1

theorem bounceUp_child {child : Nat} (hchild : positiveChild? (unitReturned s fl key node since) g1 (parentNode node) = some child) :
    bounceUp s k fl key node turn since =
      steerDown (unitReturned s fl key node since) k (bounced fl) key g1 (parentNode node) (higher turn (parentNode node)) child := by
  have h8 : ¬8 ≤ fl.tries + 1 := by omega
  have hne : ¬parentNode node = hubNode := hup
  rw [unitReturned, if_neg hup] at hg1 hchild ⊢
  simp only [bounceUp, if_neg h8, if_neg hne, hg1, hchild]
  rfl

/-- A message that finds no count at the parent either goes on up, and the units that it took above return. -/
theorem bounceUp_none (hchild : positiveChild? (unitReturned s fl key node since) g1 (parentNode node) = none) :
    bounceUp s k fl key node turn since =
      let top := parentNode (parentNode node)
      let s3 := refund (unitReturned s fl key node since) key (parentNode node)
        (if levelOf turn < levelOf top then parentNode node else top) since
      let s4 := if top = 0 then chargeHub s3 key fl.msg else s3
      setFlight s4 k (bounced fl) (.down top (higher (higher turn (parentNode node)) top) s4.nextDelta) := by
  have h8 : ¬8 ≤ fl.tries + 1 := by omega
  have hne : ¬parentNode node = hubNode := hup
  rw [unitReturned, if_neg hup] at hg1 hchild ⊢
  simp only [bounceUp, if_neg h8, if_neg hne, hg1, hchild, blt_eq_decide, Bool.cond_decide]
  rfl

end

theorem groupBounces_say : Sys2Proof.Says.GroupBounces := by
  intro s k node turn since fl g hfl hg hat hnode hnone key up back crossing goes refunded s1 s2
  rw [exec_steer_bounces hfl hg hat hnode hnone]
  refine ⟨fun htries hpark => ?_, fun htries hup => ?_, fun g1 child htries hup hg1 hchild => ?_, fun g1 htries hup hg1 hchild => ?_⟩
  · exact congrArg Host.Outcome.next (bounceUp_pound htries hpark)
  · exact congrArg Host.Outcome.next (bounceUp_hub htries hup)
  · exact congrArg Host.Outcome.next (bounceUp_child htries hup hg1 hchild)
  · exact congrArg Host.Outcome.next (bounceUp_none htries hup hg1 hchild)

/-! ### The pound (R357, R373) -/

/-- A message without a job in the journal has none to replay. -/
theorem replayJob?_of_src_none {m : GMsg} (s : State) (h : m.src = none) : replayJob? s m = none := by simp only [replayJob?, h]

theorem replayEntry?_of_none {s : State} {m : GMsg} (h : replayJob? s m = none) (kind : Nat) : replayEntry? s m kind = none := by
  simp only [replayEntry?, h]

theorem journalMsg_of_src_none {m : GMsg} (s : State) (kind midx : Nat) (h : m.src = none) : journalMsg s m kind midx = s := by
  simp only [journalMsg, h]

theorem journalPark_of_src_none {m : GMsg} (s : State) (h : m.src = none) : journalPark s m = s := by
  simp only [journalPark, replayJob?_of_src_none s h, journalMsg_of_src_none s _ _ h, Option.isSome_none, Bool.false_and, cond_false]

theorem insertWaiting_ne_nil (k since : Nat) (fl : Flight) (l : List (Nat × Nat × Flight)) : insertWaiting k since fl l ≠ [] := by
  cases l with
  | nil => simp [insertWaiting]
  | cons x t => cases h : since.blt x.2.1 <;> simp [insertWaiting, h]

/-- One flight put among those that wait, where it is of the group. -/
def gatherWaiting (key : Nat) (l : List (Nat × Nat × Flight)) (x : Nat × Flight) : List (Nat × Nat × Flight) :=
  match x.2.at_ with
  | .waiting since => bif x.2.msg.group == key then insertWaiting x.1 since x.2 l else l
  | _ => l

theorem waitingOf_eq_foldl (s : State) (key : Nat) : waitingOf s key = s.flights.foldl (gatherWaiting key) [] := rfl

theorem gatherWaiting_eq_nil {key : Nat} {l : List (Nat × Nat × Flight)} {x : Nat × Flight} :
    gatherWaiting key l x = [] ↔ l = [] ∧ (x.2.msg.group = key → ∀ since, x.2.at_ ≠ .waiting since) := by
  obtain ⟨k, f⟩ := x
  cases h : f.at_
  case waiting since =>
    by_cases hk : f.msg.group = key <;> simp [gatherWaiting, h, hk, insertWaiting_ne_nil, Bool.cond_eq_ite]
  all_goals simp [gatherWaiting, h]

theorem gatherWaiting_foldl_eq_nil (key : Nat) (fs : Tab Flight) (l : List (Nat × Nat × Flight)) :
    fs.foldl (gatherWaiting key) l = [] ↔ l = [] ∧ ∀ x ∈ fs, x.2.msg.group = key → ∀ since, x.2.at_ ≠ .waiting since := by
  induction fs generalizing l with
  | nil => simp
  | cons x fs ih => rw [List.foldl_cons, ih, gatherWaiting_eq_nil, List.forall_mem_cons, and_assoc]

/-- No message of a group waits at the hub. -/
theorem waitingOf_eq_nil {s : State} {key : Nat} :
    waitingOf s key = [] ↔ ∀ x ∈ s.flights, x.2.msg.group = key → ∀ since, x.2.at_ ≠ .waiting since := by
  rw [waitingOf_eq_foldl, gatherWaiting_foldl_eq_nil]
  exact and_iff_right rfl

theorem poundFits_eq (g : Group) (m : GMsg) :
    poundFits g m = decide ((g.pound.map (fun m => msgBytes m / 64)).sum + msgBytes m / 64 ≤ g.units) := by
  rw [poundFits, ble_eq_decide, poundUsed_eq_sum]

section
variable {s : State} {k key : Nat} {fl : Flight} {g : Group} (hsrc : fl.msg.src = none)
include hsrc

theorem reachPound_appends (hroom : (g.pound.map (fun m => msgBytes m / 64)).sum + msgBytes fl.msg / 64 ≤ g.units)
    (hfirst : waitingOf s key = []) :
    reachPound s k fl key g =
      setFlight (onGroup (writePound s (key / 1024) g (g.head + (g.pound.map (fun m => msgBytes m / 64)).sum) (msgWords fl.msg 0)) key
        (fun g => setPark { g with pound := g.pound ++ [{ fl.msg with firing := none }] } true)) k fl (.outcome false none) := by
  simp only [reachPound, poundFits_eq, hroom, hfirst, decide_true, List.isEmpty_nil, Bool.and_self, cond_true, parkMsg,
    journalPark_of_src_none _ hsrc, poundUsed_eq_sum]
  rfl

variable (hfull : g.units < (g.pound.map (fun m => msgBytes m / 64)).sum + msgBytes fl.msg / 64)
include hfull

theorem reachPound_fails (htry : fl.msg.try1 = true) : reachPound s k fl key g = setFlight s k fl (.outcome true none) := by
  simp only [reachPound, poundFits_eq, Nat.not_le.mpr hfull, htry, replayJob?_of_src_none s hsrc, decide_false, Bool.false_and, cond_false,
    Option.isNone_none, Bool.and_self, cond_true]
  rfl

omit hsrc in
theorem reachPound_waits (htry : fl.msg.try1 = false) :
    reachPound s k fl key g = setFlight { s with nextDelta := s.nextDelta + 1 } k fl (.waiting s.nextDelta) := by
  simp only [reachPound, poundFits_eq, Nat.not_le.mpr hfull, htry, decide_false, Bool.false_and, cond_false]
  rfl

end

theorem poundFills_say : Sys2Proof.Says.PoundFills := by
  intro s k fl g hfl hg hat hsrc key held goes first
  rw [exec_steer_toPound hfl hg hat]
  refine ⟨fun hroom hfirst => ?_, fun hfull htry => ?_, fun hfull htry => ?_⟩
  · exact congrArg Host.Outcome.next (reachPound_appends hsrc hroom (waitingOf_eq_nil.mpr hfirst))
  · exact congrArg Host.Outcome.next (reachPound_fails hsrc hfull htry)
  · exact congrArg Host.Outcome.next (reachPound_waits hfull htry)

/-! ### Counts and outcomes (R354, R356, R358) -/

theorem addCountSince_eq_ite (g : Group) (n c since : Nat) (d : Int) [Decidable (∃ x, Tab.at? g.nodes n = some x ∧ x.made < since)] :
    addCountSince g n c since d = if ∃ x, Tab.at? g.nodes n = some x ∧ x.made < since then addCount g n c d else g := by
  have hiff : (Tab.at? g.nodes n).any (fun e => e.made.blt since) = true ↔ ∃ x, Tab.at? g.nodes n = some x ∧ x.made < since := by
    simp only [Option.any_eq_true, Nat.blt_eq]
  simp only [addCountSince, Bool.cond_eq_ite, hiff]

section
variable {s : State} {k : Nat}

section
variable {d : Delta} (hd : Tab.at? s.deltas k = some d)
include hd

/-- A change of counts of a group that is there changes its node's count and goes on to the parent, from the hub to none. -/
theorem exec_readinessCountUpdate {g : Group} (hg : Tab.at? s.groups d.group = some g) (hgen : g.gen = d.gen) :
    exec (.readinessCountUpdate k) s = .next (
      let s1 := onGroup { s with deltas := Tab.del s.deltas k } d.group (fun g => addCountSince g d.node d.child d.born d.by_)
      if d.node = 0 then s1 else sendDelta s1 d.group d.gen (parentNode d.node) (childOf d.node) d.born d.by_) := by
  change execReadinessCountUpdate k s = _
  simp only [execReadinessCountUpdate, hd, hg, hgen, ne_eq, not_true, if_false]
  rfl

theorem exec_readinessCountUpdate_stale (hgen : ∀ g, Tab.at? s.groups d.group = some g → g.gen ≠ d.gen) :
    exec (.readinessCountUpdate k) s = .next { s with deltas := Tab.del s.deltas k } := by
  change execReadinessCountUpdate k s = _
  cases hg : Tab.at? s.groups d.group with
  | none => simp only [execReadinessCountUpdate, hd, hg]
  | some g => simp only [execReadinessCountUpdate, hd, hg, hgen g hg, ne_eq, not_false_eq_true, if_true]

end

theorem answerSend_of_plain {m : GMsg} {f : Firing} (s : State) (failed : Bool) (hf : m.firing = some f) (hsrc : m.src = none) :
    answerSend s m failed = finishAnywhere s f .s32 (if failed = true then 1 else 0) := by
  cases failed <;> simp only [answerSend, hf, hsrc] <;> rfl

variable {fl : Flight} {f : Firing} (hfl : Tab.at? s.flights k = some fl) (hf : fl.msg.firing = some f) (hsrc : fl.msg.src = none)
include hfl hf hsrc

/-- The outcome of a message that was delivered to no inbox. -/
theorem exec_gsendOutcome_undelivered {failed : Bool} (hat : fl.at_ = .outcome failed none) :
    exec (.gsendOutcome k) s =
      .next (finishAnywhere { s with flights := Tab.del s.flights k } f .s32 (if failed = true then 1 else 0)) := by
  change execGsendOutcome k s = _
  simp only [execGsendOutcome, hfl, hat, Option.any_none, Bool.false_eq_true, if_false, answerSend_of_plain _ failed hf hsrc]

/-- The outcome of a message that its inbox's earlier ones do not hold back. -/
theorem exec_gsendOutcome_delivered {plot ep id midx : Nat} (hat : fl.at_ = .outcome false (some (plot, ep, id, midx)))
    (hnext : countsNext s plot ep id = true) :
    exec (.gsendOutcome k) s =
      .next (finishAnywhere (countDelivery { s with flights := Tab.del s.flights k } fl plot ep id midx) f .s32 0) := by
  change execGsendOutcome k s = _
  simp only [execGsendOutcome, hfl, hat, Option.any_some, hnext, Bool.not_true, Bool.false_eq_true, if_false,
    answerSend_of_plain _ false hf hsrc]

end

theorem groupCounts_say : Sys2Proof.Says.GroupCounts := by
  intro s
  refine ⟨fun k d g hd hg hgen => ?_, fun k d hd hgen => exec_readinessCountUpdate_stale hd hgen,
    fun k fl failed f hfl hat hf hsrc => exec_gsendOutcome_undelivered hfl hf hsrc hat,
    fun k fl plot ep id midx f hfl hat hf hsrc hnext => exec_gsendOutcome_delivered hfl hf hsrc hat hnext⟩
  simp only [exec_readinessCountUpdate hd hg hgen, addCountSince_eq_ite]
  exact ⟨fun hnode => congrArg Host.Outcome.next (if_pos hnode), fun hnode => congrArg Host.Outcome.next (if_neg hnode)⟩

/-! ### A delivery counted (R359, R361) -/

/-- The machine with the messages of a number in an inbox counted. -/
def markCounted (s : State) (plot ep id : Nat) : State :=
  onEndpoint s plot ep (fun x => { x with msgs := x.msgs.map (fun m => if m.id = id then { m with counted := true } else m) })

theorem onEndpointAnywhere_counted {s : State} {plot : Nat} (ep id : Nat) (h : Tab.has s.plots plot = true) :
    onEndpointAnywhere s plot ep (fun x => { x with msgs := x.msgs.map (fun m => bif m.id == id then { m with counted := true } else m) }) =
      markCounted s plot ep id := by
  simp only [onEndpointAnywhere, h, Bool.cond_eq_ite, beq_iff_eq]
  rfl

section
variable {s : State} {fl : Flight} {plot ep id midx : Nat} {g : Group} (hplot : Tab.has s.plots plot = true)
  (hg : Tab.at? s.groups fl.msg.group = some g)
include hplot hg

theorem countDelivery_live (hsrc : fl.msg.src = none) (hpark : fl.parked = false) (hgen : g.gen = fl.msg.gen) :
    countDelivery s fl plot ep id midx = onGroup (markCounted s plot ep id) fl.msg.group (fun g => { g with
      gdel := g.gdel + 1, members := Tab.upd g.members midx (fun m => { m with del := satInc m.del }) }) := by
  have hg1 : Tab.at? (markCounted s plot ep id).groups fl.msg.group = some g := hg
  simp only [countDelivery, onEndpointAnywhere_counted ep id hplot, hg1, hgen, beq_self_eq_true, Bool.not_true, cond_false,
    journalMsg_of_src_none _ _ _ hsrc, hpark]

theorem countDelivery_stale (hgen : g.gen ≠ fl.msg.gen) : countDelivery s fl plot ep id midx = markCounted s plot ep id := by
  have hg1 : Tab.at? (markCounted s plot ep id).groups fl.msg.group = some g := hg
  have hne : (g.gen == fl.msg.gen) = false := beq_eq_false_iff_ne.mpr hgen
  simp only [countDelivery, onEndpointAnywhere_counted ep id hplot, hg1, hne, Bool.not_false, cond_true]

end

theorem deliveryCounted_says : Sys2Proof.Says.DeliveryCounted := by
  intro s fl plot ep id midx g hplot hg hsrc hpark seen
  exact ⟨countDelivery_live hplot hg hsrc hpark, countDelivery_stale hplot hg⟩

/-! ### The pound drains (R357, R365) -/

/-- What the hub reads back of a message keeps its place in the journal. -/
theorem poundMessages_src {s : State} {v : Nat} {g : Group} {unit : Nat} {l : List GMsg} {m : GMsg} (h : m ∈ poundMessages s v g unit l) :
    ∃ x ∈ l, m.src = x.src := by
  induction l generalizing unit with
  | nil => simp [poundMessages] at h
  | cons x l ih =>
    rw [poundMessages, List.mem_cons] at h
    rcases h with rfl | h
    · exact ⟨x, List.mem_cons_self .., rfl⟩
    · obtain ⟨y, hy, hsrc⟩ := ih h
      exact ⟨y, List.mem_cons_of_mem _ hy, hsrc⟩

theorem replayJob?_congr {s : State} {m x : GMsg} (h : m.src = x.src) : replayJob? s m = replayJob? s x := by simp only [replayJob?, h]

/-- The journal forces nothing on a message without a job to replay. -/
theorem forced?_of_no_replay {s : State} {m : GMsg} (key : Nat) (g : Group) (h : replayJob? s m = none) : forced? s key g m = none := by
  simp only [forced?, h]

section
variable {s : State} {key : Nat} {g : Group} (hg : Tab.at? s.groups key = some g) (haway : headAway s key = false)
include hg haway

/-- The flight of a message that leaves the pound. -/
def poundFlight (s : State) (m : GMsg) : Flight := { msg := m, at_ := .down 0 0 s.nextDelta, parked := true, tries := 0 }

theorem exec_poundDrain_head {m : GMsg} {rest : List GMsg} {child : Nat} (hpound : g.pound = m :: rest)
    (hlive : ∀ x ∈ g.pound, replayJob? s x = none) (hwait : ∀ w ∈ waitingOf s key, replayJob? s w.2.2.msg = none)
    (hchild : positiveChild? s g 0 = some child) :
    exec (.poundDrain key) s = .next (steerDown { s with nextFlight := s.nextFlight + 1 } s.nextFlight
      (poundFlight s (fromPound s (key / 1024) g g.head m)) key g 0 0 child) := by
  have hnone : (poundMessages s (key / 1024) g g.head g.pound).find? (fun m => (forced? s key g m).isSome) = none := by
    rw [List.find?_eq_none]
    intro x hx
    obtain ⟨y, hy, hsrc⟩ := poundMessages_src hx
    simp [forced?_of_no_replay key g ((replayJob?_congr hsrc).trans (hlive y hy))]
  have hwaits : (waitingOf s key).find? (fun w => (forced? s key g w.2.2.msg).isSome) = none := by
    rw [List.find?_eq_none]
    intro w hw
    simp [forced?_of_no_replay key g (hwait w hw)]
  have hentry : replayEntry? s (fromPound s (key / 1024) g g.head m) 1 = none :=
    replayEntry?_of_none (hlive m (hpound ▸ List.mem_cons_self ..)) 1
  change execPoundDrain key s = _
  simp only [execPoundDrain, hg, haway, Bool.false_eq_true, if_false, hnone, hwaits]
  simp only [hpound, hentry, Option.isSome_none, Bool.false_eq_true, if_false, hubNode, hchild]
  rfl

theorem exec_poundDrain_forced {m : GMsg} {plot ep : Nat} {p : Plot}
    (hfind : (poundMessages s (key / 1024) g g.head g.pound).find? (fun x => (forced? s key g x).isSome) = some m)
    (hto : forced? s key g m = some (plot, ep, p)) :
    exec (.poundDrain key) s = .next (deliverForced { s with nextFlight := s.nextFlight + 1 } s.nextFlight (poundFlight s m) key g
      (plot, ep, p)) := by
  change execPoundDrain key s = _
  simp only [execPoundDrain, hg, haway, Bool.false_eq_true, if_false, hfind, hto]
  rfl

end

theorem poundDrains_says : Sys2Proof.Says.PoundDrains := by
  intro s key g m hg haway s1 flight
  refine ⟨fun rest child hpound hlive hwait hchild => exec_poundDrain_head hg haway hpound hlive hwait hchild,
    fun plot ep p hfind hto => exec_poundDrain_forced hg haway hfind hto⟩

/-- Settles O44: a send goes in flight, each move of a message follows the counts of its node, and the hub counts, parks and returns in the
order of its rules. -/
theorem groupMessages : Obligations.GroupMessages :=
  ⟨groupSend_says, groupTake_says, groupSteering_says, groupBounces_say, poundFills_say, groupCounts_say, deliveryCounted_says, poundDrains_says⟩

end Sys2Proof.Machine
end

section
/-!
PROOFS. The task forms: SPAWN, SPAWNR and JOIN (R388, R399), WSDECL (R392, R400), YIELD, CANCEL, JOBDONE and TASKQ (R401).
-/
namespace Sys2Proof.Machine
open Sys2Proof.Claim

/-! ### Fields -/

theorem field_zero_eq_mod {n : Nat} (v : BitVec n) (hi : Nat) : field v hi 0 = v.toNat % 2 ^ (hi + 1) := rfl

/-- A field that must be zero and is has no offending bit. -/
theorem badZero?_of_extract {w : Dword} {hi lo : Nat} (h : w.extractLsb' lo (hi + 1 - lo) = 0) : badZero? w hi lo = none := by
  rw [badZero?, lowestFrom, List.find?_eq_none]
  intro b hb
  obtain ⟨i, hi', rfl⟩ := List.mem_map.mp hb
  have hbit := congrArg (fun x => x.getLsbD i) h
  simpa [BitVec.getLsbD_extractLsb', List.mem_range.mp hi', BitVec.getLsbD] using hbit

/-! ### SPAWN, SPAWNR and JOIN (R399, R388) -/

section
variable {s s1 s2 s3 : State} {c : Ctx} {e rk k : Nat} {run : Rec} {im : JobImage} {build : Nat → Rec} {also : State → State} {c1 c0 : Cons}

/-- A placement of a live job with a free slot. -/
theorem placeFor_places (hrun : recOf? s1 c.plot = some (rk, run)) (hrel : releaseFirst s1 c = (s2, false))
    (hlive : ∀ j, Tab.at? s2.jobs run.job = some j → j.cause = none) (him : jobImage s2 run.job (build run.job).code = .ok s3 im)
    (hslot : slotFor? s3 c.plot.vi im c.plot.die (build run.job).anydie = some k) :
    placeFor s1 c e build also c1 c0 = .done (settleRec (also (placeAt s3 k (build run.job))) k)
      (both c1 c0 .s64 [(0, .val (taskHandle (also (placeAt s3 k (build run.job))) k))]) := by
  have hcause : ((Tab.at? s2.jobs run.job).bind (·.cause)).isSome = false := by
    cases hj : Tab.at? s2.jobs run.job with
    | none => rfl
    | some j => simp [hlive j hj]
  simp only [placeFor, hrun, hrel, hcause, him, hslot, Bool.false_eq_true, if_false]
  rfl

end

theorem spawning_says : Sys2Proof.Says.Spawning := by
  intro i s s1 s2 s3 c es e rk k ws run r n c1 c0 im hf hrun hplaced hok ht hrel hlive him hslot s4 s5
  rw [hrun] at hplaced
  unfold placedBy at hplaced
  split at hplaced <;> cases hplaced
  case h_1 pb =>
    refine (fireOnce_of_done hf ?_ : execSpawn pb n c1 c0 s = _)
    simp only [ht, Bool.cond_eq_ite]
    exact placeFor_places hrun hrel hlive him hslot
  case h_2 pb =>
    have hrange : ¬(c.wide 1 e).toNat % 2 ^ 40 < (c.wide 0 e).toNat % 2 ^ 40 := Nat.not_lt.mpr (of_decide_eq_true hok)
    refine (fireOnce_of_done hf ?_ : execSpawnr pb n c1 c0 s = _)
    simp only [ht, field_zero_eq_mod, Bool.cond_eq_ite, if_neg hrange]
    exact placeFor_places hrun hrel hlive him hslot
  case h_3 inh =>
    have hcount : ¬2 ^ 24 ≤ (c.wide 0 e).toNat := Nat.not_le.mpr (of_decide_eq_true hok)
    refine (fireOnce_of_done hf ?_ : execJoin inh n c1 c0 s = _)
    simp only [ht, hrun, Bool.cond_eq_ite, if_neg hcount]
    refine placeFor_places (im := im) hrun hrel hlive ?_ ?_
    · exact him
    · exact hslot

/-! ### WSDECL (R392, R400) -/

section
variable {s s1 s2 s3 : State} {c : Ctx} {es : List Nat} {e : Nat} {n : BitVec 4} {c1 c0 : Cons} {t ps : List Dword} {d0 d1 : Dword}

theorem exec_wsdecl (hf : FiresOnce s c es e) (ht : cellRead s c e 4 (vaOf (c.k2 n.toNat)) 8 = .ok s1 t)
    (hd : cellRead s1 c e 4 (vaOf (c.wide 1 e)) 2 = .ok s2 [d0, d1]) (hva : vaOf (c.k2 n.toNat) % 64 = 0) (hfrom : vaOf (c.wide 1 e) % 16 = 0)
    (hwsd : vaOf ((t[6]?).getD 0) ≠ 0) (ha : (c.low 0 e).toNat < 4) (hzero : d0.extractLsb' 57 5 = 0)
    (hnear : d0.getLsbD 62 = true → d0.getLsbD 63 = true) (hlow : d1.toNat % 256 = 0)
    (hst : cellStores s2 c e 4 [(vaOf ((t[6]?).getD 0) + 16 * (c.low 0 e).toNat, d0), (vaOf ((t[6]?).getD 0) + 16 * (c.low 0 e).toNat + 8, d1),
      (vaOf (c.k2 n.toNat) + 32, dw (((t[4]?).getD 0).toNat / 8 * 8 + max (((t[4]?).getD 0).toNat % 8) ((c.low 0 e).toNat + 1)))] = .ok s3 ps) :
    exec (.wsdecl n c1 c0) s = .next (complete (storeTriples s3 c ps) c 2 es (zero32 c1 c0)) := by
  have hreserved : badZero? d0 61 57 = none := badZero?_of_extract hzero
  have hform : badUnless? (!d0.getLsbD 62 || d0.getLsbD 63) 62 = none := by
    cases h62 : d0.getLsbD 62 with
    | false => rfl
    | true => rw [hnear h62]; rfl
  have hd1 : badZero? d1 7 0 = none := badZero?_of_extract (BitVec.eq_of_toNat_eq (by simpa using hlow))
  have hwsd' : ¬field ((t[6]?).getD 0) 56 0 = 0 := hwsd
  have hst' : cellStores s2 c e 4 [(field ((t[6]?).getD 0) 56 0 + 16 * (c.low 0 e).toNat, d0), (field ((t[6]?).getD 0) 56 0 + 16 * (c.low 0 e).toNat + 8, d1),
      (vaOf (c.k2 n.toNat) + 32, dw (((t[4]?).getD 0).toNat / 8 * 8 + Nat.max (field ((t[4]?).getD 0) 2 0) ((c.low 0 e).toNat + 1)))] = .ok s3 ps := hst
  have hnone : lowestBit [none, none] = none := rfl
  refine (fireOnce_of_done hf ?_ : execWsdecl n c1 c0 s = _)
  simp only [ht, hd, hva, hfrom, ne_eq, not_true, if_false, List.getElem?_cons_zero, List.getElem?_cons_succ, Option.getD_some, hreserved, hform,
    hd1, if_neg hwsd', Nat.not_le.mpr ha, hst', hnone]
  rfl

end

theorem declares_say : Sys2Proof.Says.Declares := by
  intro s s1 s2 s3 c es e n c1 c0 t ps d0 d1 hf va a wsd w4 ht hd hva hfrom hwsd ha hzero hnear hlow hst
  exact exec_wsdecl hf ht hd hva hfrom hwsd ha hzero hnear hlow hst

/-! ### YIELD, CANCEL, JOBDONE and TASKQ (R401) -/

/-- A word widened with zeros. -/
theorem zx32_eq_setWidth (w : Word) : zx32 w = w.setWidth 64 :=
  BitVec.eq_of_toNat_eq (by simp [zx32, dw])

theorem taskForms_say : Sys2Proof.Says.TaskForms := by
  intro s s1 c es e which c1 c0 hf
  refine ⟨?_, ?_, ?_, ?_, ?_, ?_⟩
  · exact (fireOnce_of_done hf rfl : execYield c1 c0 s = _)
  · intro hlive
    refine (fireOnce_of_done hf ?_ : execCancel c1 c0 s = _)
    simp only [hlive]
    rfl
  · intro k r hlive hrun
    refine (fireOnce_of_done hf ?_ : execCancel c1 c0 s = _)
    simp only [hlive, hrun, if_true]
    rfl
  · intro k r hlive hrun gone
    refine (fireOnce_of_done hf ?_ : execCancel c1 c0 s = _)
    simp only [hlive, hrun, Bool.false_eq_true, if_false]
    rfl
  · intro k r hrel hrec
    have hrec' : recOf? (reachScope s1 c.plot.vi 5#3) c.plot = some (k, r) := hrec
    refine (fireOnce_of_done hf ?_ : execJobdone s = _)
    simp only [hrel, Bool.false_eq_true, if_false, Bool.cond_eq_ite, hrec']
    rfl
  · intro k r hrec
    refine (fireOnce_of_done hf ?_ : execTaskq which c1 c0 s = _)
    simp only [hrec, Bool.cond_eq_ite, zx32_eq_setWidth]
    generalize which.toNat = field
    match field with
    | 0 | 1 | 2 | 3 | 4 | 5 | _ + 6 => rfl

/-- Settles O45: each form's body, on the operands the statement names, runs to the completion it states. -/
theorem spawning : Obligations.Spawning := ⟨spawning_says, declares_say, taskForms_say⟩

end Sys2Proof.Machine
end

section
/-!
PROOFS. Jobs: a queue's record becomes a job (R380-R384), and a job with nothing live completes in its ring (R388, R389, R469).
-/
namespace Sys2Proof.Machine
open Sys2Proof.Claim

/-! ### A record taken (R380-R384) -/

theorem jobQueues_say : Sys2Proof.Says.JobQueues := by
  intro s s1 v q ws htakes hreeve hslot tag
  have hgo : ¬(queueTakes s v q = false ∨ (v = 0 ∧ q = 15)) := by simp [htakes, hreeve]
  have hdie : ∀ w : Dword, field w 6 5 = (w.extractLsb' 5 2).toNat := fun w => field_eq_extractLsb' w 6 5
  have hcode : ∀ key, (recOf ws key).code = vaOf ((ws[0]?).getD 0) := fun _ => rfl
  refine ⟨fun hbad => ?_, fun s2 key s3 im k hbad htake him hfree => ?_, fun s2 key s3 im hbad htake him hfree => ?_⟩
  all_goals
    change execJobRecordTake v q s = _
    simp only [execJobRecordTake, if_neg hgo, hslot, hbad, if_true, Bool.false_eq_true, if_false]
  · rfl
  all_goals
    simp only [tag] at htake
    simp only [htake, hcode, him, hdie, hfree]

/-! ### A job ended (R388, R389, R469) -/

/-- The completion entry of a job, with its status as a choice of three. -/
theorem completionWords_eq (j : Job) : completionWords j = [j.tag,
    dw ((if j.bad = true then 2 else if j.cause.isSome = true then 1 else 0) * 2 ^ 56 + j.cause.getD 0 * 2 ^ 48 + j.queue * 2 ^ 44 + j.code.toNat),
    j.index.setWidth 64, if j.jd = true then 1 else 0] := by
  have hjd : dw (if j.jd = true then 1 else 0) = if j.jd = true then 1 else 0 := by cases j.jd <;> rfl
  simp only [completionWords, hjd, zx32_eq_setWidth, Bool.cond_eq_ite, at_, Nat.shiftLeft_eq]

theorem jobEnds_say : Sys2Proof.Says.JobEnds := by
  intro s s1 job j hj hmode q status entry
  have hentry : completionWords j = entry := completionWords_eq j
  refine ⟨fun hlive => ?_, fun hlive hwrites hs1 => ?_⟩
  · have hne : (j.live != 0) = true := bne_iff_ne.mpr hlive
    change execJobComplete job s = _
    simp only [execJobComplete, hj, hne, cond_true]
  · have hreplay : (j.jmode == 2) = false := by rw [hmode]; rfl
    have hrun : exec (.jobComplete job) s = .next (writeCompletion s1 job j) := by
      change execJobComplete job s = _
      simp only [execJobComplete, hj, hlive, bne_self_eq_false, cond_false, hwrites, hreplay, Bool.false_and, hs1]
      rfl
    have hput : ∀ t, ringPut? s1 j.vi (ringBase q.cring) (2 ^ (q.cring.toNat % 16 + 7)) 32 q.cprod q.ccons entry = t →
        ringPut? s1 j.vi (ringBase q.cring) (2 ^ (field q.cring 3 0 + 7)) 32 q.cprod q.ccons (completionWords j) = t := by
      intro t ht
      rw [hentry]
      exact ht
    refine ⟨fun s2 hfits => ?_, fun hfull => ?_⟩
    · rw [hrun, writeCompletion, hput _ hfits]
    · rw [hrun, writeCompletion, hput _ hfull]

/-- Settles O47: a record's job and a job's completion entry follow from the queue's registers and the words of the record. -/
theorem jobs : Obligations.Jobs := ⟨jobQueues_say, jobEnds_say⟩

end Sys2Proof.Machine
end

section
/-!
PROOFS. Staging: the admission of a declaration (R392) and the reads of its lines (R393, R396).
-/
namespace Sys2Proof.Machine
open Sys2Proof.Claim

section
variable {s s1 : State} {k : Nat} {r : Rec} {w : WorkSet}

/-! ### Admission (R392) -/

/-- A declaration is admitted on its own terms where it is stageable and none before it is to be. -/
theorem exec_stageDeclaration (hr : Tab.at? s.recs k = some r) (hstage : stageable s k r = true)
    (hfirst : ∀ x ∈ stagedBefore s k r, stageable s x.1 x.2 = true → admitted? s x.1 x.2 = none) :
    exec (.stageDeclaration k) s = .next ((admitted? s k r).getD s) := by
  have hbefore : (stagedBefore s k r).any (fun (j, q) => stageable s j q && (admitted? s j q).isSome) = false := by
    refine List.any_eq_false.mpr (fun x hx => ?_)
    cases hs : stageable s x.1 x.2 with
    | false =>
      simp only [hs, Bool.false_and]
      exact Bool.false_ne_true
    | true => simp [hfirst x hx hs]
  change execStageDeclaration k s = _
  simp [execStageDeclaration, hr, hstage, hbefore]

/-- A far declaration takes its units of the quota, or waits for room. -/
theorem admitted?_far (hset : currentSet s k r = .set s1 w) (hfar : w.near = false) :
    admitted? s k r = if field (viOf s1 (recVi k)).squota 15 0 < field (viOf s1 (recVi k)).squota 47 32 + (w.bytes + 65535) / 65536 then none
      else some (admitStage (addUsed s1 (recVi k) ((w.bytes + 65535) / 65536 : Nat)) k (fun r => { r with charged := r.charged + (w.bytes + 65535) / 65536 })) := by
  simp only [admitted?, hset, hfar, Bool.false_eq_true, if_false]

/-- A near declaration of a frozen range binds the record to an idle plot with room for it. -/
theorem admitted?_near {key : Nat} (hset : currentSet s k r = .set s1 w) (hnear : w.near = true) (hfrozen : w.frozen = true)
    (hplot : nearPlot? s1 k r w = some key) :
    admitted? s k r = some (admitStage s1 k (fun r => { r with bound := some key, areas := w.area :: r.areas })) := by
  simp only [admitted?, hset, hnear, hfrozen, hplot, if_true]

end

/-! ### Admissions and the reads of the lines (R393) -/

theorem staging_says : Sys2Proof.Says.Staging := by
  intro s s1 k r w hr hset
  dsimp only
  have hquota : ∀ q : Dword, field q 15 0 = (q.extractLsb' 0 16).toNat := fun q => field_eq_extractLsb' q 15 0
  have hused : ∀ q : Dword, field q 47 32 = (q.extractLsb' 32 16).toNat := fun q => field_eq_extractLsb' q 47 32
  constructor
  · intro hstage hfirst
    rw [exec_stageDeclaration hr hstage hfirst]
    refine ⟨fun hfar hroom => ?_, fun hfar hfull => ?_, fun key hnear hfrozen hplot => ?_⟩
    · rw [admitted?_far hset hfar, hquota, hused, if_neg (Nat.not_lt.mpr hroom)]
      rfl
    · rw [admitted?_far hset hfar, hquota, hused, if_pos hfull]
      rfl
    · rw [admitted?_near hset hnear hfrozen hplot]
      rfl
  · intro port hport hready hopen hturn hslot
    have hgo : ¬(r.ready s = false ∨ r.open_ = false ∨ firstStaged s k r = false ∨ stageSlot s (recDie k) (recVi k) = false) := by
      simp [hready, hopen, hturn, hslot]
    refine ⟨fun hdone => ?_, fun s2 why hmore hfault => ?_, fun s2 pa hmore hpa hthere hhere hready => ?_⟩
    · change execStagingRead k s = _
      simp only [execStagingRead, hr, hport, if_neg hgo, hset, if_pos hdone]
      rfl
    · change execStagingRead k s = _
      simp only [execStagingRead, hr, hport, if_neg hgo, hset, if_neg (Nat.not_le.mpr hmore), hfault]
      rfl
    · have hreach : ¬(paReserved s2 pa = true ∨ paRemote s2 pa = true ∧ (viOf s2 (recVi k)).featm.getLsbD 6 = true) := by simp [hthere, hhere]
      have hline : ¬lineReady s2 port (recVi k) (pa / 128) = false := ne_false_of_eq_true hready
      refine ⟨fun hfar => ?_, fun key hnear hbound => ?_⟩
      · change execStagingRead k s = _
        simp only [execStagingRead, hr, hport, if_neg hgo, hset, if_neg (Nat.not_le.mpr hmore), hpa, if_neg hreach, if_neg hline, hfar]
        rfl
      · change execStagingRead k s = _
        simp only [execStagingRead, hr, hport, if_neg hgo, hset, if_neg (Nat.not_le.mpr hmore), hpa, if_neg hreach, if_neg hline, hnear, hbound]
        rfl

/-- Settles O48: the admission of a declaration and the read of a line, each on what staging finds at the declaration it has reached. -/
theorem staging : Obligations.Staging := staging_says

end Sys2Proof.Machine
end

section
/-!
PROOFS. Fair shares and tolls: the tick of the deficits and pre-emption (R396-R398), the tick of toll 6 (R432), TOLLRD and TOLLSIG (R434, R442).
-/
namespace Sys2Proof.Machine
open Sys2Proof.Claim

/-! ### VIs changed one after another -/

theorem viOf_onVi_same (s : State) (v : Nat) (g : Vi → Vi) : viOf (onVi s v g) v = g (viOf s v) := by simp [viOf, onVi]

theorem viOf_onVi_ne (s : State) {v u : Nat} (g : Vi → Vi) (h : u ≠ v) : viOf (onVi s v g) u = viOf s u := Tab.atD_updD_ne _ _ _ _ h

theorem viOf_onVi (s : State) (u v : Nat) (g : Vi → Vi) : viOf (onVi s u g) v = if v = u then g (viOf s u) else viOf s v := by
  split
  · next h => rw [h, viOf_onVi_same]
  · next h => exact viOf_onVi_ne s g h

/-- Where each step changes one VI by its own function, a run over different VIs changes each of them once. -/
theorem viOf_foldl {f : State → Nat → State} {g : Nat → Vi → Vi} (hstep : ∀ t u v, viOf (f t u) v = if v = u then g u (viOf t u) else viOf t v)
    (v : Nat) {l : List Nat} (hnodup : l.Nodup) (t : State) : viOf (l.foldl f t) v = if v ∈ l then g v (viOf t v) else viOf t v := by
  induction l generalizing t with
  | nil => rfl
  | cons u l ih =>
    obtain ⟨hnotin, hl⟩ := List.nodup_cons.mp hnodup
    rw [List.foldl_cons, ih hl, hstep]
    by_cases hv : v = u
    · subst hv
      rw [if_neg hnotin, if_pos rfl, if_pos List.mem_cons_self]
    · simp [hv]

/-! ### The deficits (R397) -/

/-- The deficit of an active VI after a tick: grown where it holds less than its share and a record of it waits. -/
def tickedDeficit (s : State) (v : Nat) (vi : Vi) : Vi :=
  let sum := (activeVis s).foldl (fun n v => n + weightOf s v) 0
  { vi with fsdef := bif underShare s sum v && (oldestWaiting? s v).isSome then satInc vi.fsdef else 0 }

/-- The step of FAIR_SHARE_TICK at an active VI. -/
def shareStep (s t : State) (v : Nat) : State := onVi t v (tickedDeficit s v)

/-- The machine after FAIR_SHARE_TICK. -/
def shareTicked (s : State) : State := (activeVis s).foldl (shareStep s) { s with usShare := s.time.toNat }

theorem exec_fairShareTick (s : State) : exec .fairShareTick s = .next (shareTicked s) := rfl

theorem shareTicked_usShare (s : State) : (shareTicked s).usShare = s.time.toNat := by
  rw [shareTicked, foldl_keeps (g := shareStep s) State.usShare (fun t v => onVi_usShare t v _)]

theorem viOf_shareTicked (s : State) {v : Nat} (hv : v < 512) :
    viOf (shareTicked s) v = if viActive s v = true then tickedDeficit s v (viOf s v) else viOf s v := by
  have hmem : v ∈ activeVis s ↔ viActive s v = true := by simp [activeVis, hv]
  have hnodup : (activeVis s).Nodup := List.nodup_range.filter _
  rw [shareTicked, viOf_foldl (f := shareStep s) (fun t u v => viOf_onVi t u v (tickedDeficit s u)) v hnodup]
  simp only [hmem]
  rfl

/-! ### Pre-emption (R397) -/

theorem fairShare_says : Sys2Proof.Says.FairShare := by
  intro s
  refine ⟨⟨shareTicked s, exec_fairShareTick s, shareTicked_usShare s, ?_⟩, fun v k r shape pin key hover hidle hrec hshape => ?_, fun v hunder => ?_⟩
  · intro v hv sum
    have hsum : sum = (activeVis s).foldl (fun n v => n + weightOf s v) 0 := rfl
    rw [viOf_shareTicked s hv, hsum]
    refine ⟨fun hoff => ?_, fun hon hless hwait => ?_, fun hon hshare => ?_⟩
    · rw [hoff]; rfl
    · rw [if_pos hon, tickedDeficit, hwait]
      simp [underShare, blt_eq_decide, hless]
    · rw [if_pos hon, tickedDeficit]
      have hstop : (underShare s ((activeVis s).foldl (fun n v => n + weightOf s v) 0) v && (oldestWaiting? s v).isSome) = false := by
        rcases hshare with hfull | hnone
        · simp [underShare, blt_eq_decide, Nat.not_lt.mpr hfull]
        · simp [hnone]
      simp only [hstop, cond_false]
  · have hgo : ¬((viOf s v).fsdef.toNat ≤ s.quantum.toNat % 2 ^ (31 + 1) ∨ preempting s = true) := by
      rw [hidle]
      simpa using hover
    refine ⟨fun hplace => ?_, fun hplace hvictim => ?_⟩
    · change execFairSharePreempt v s = _
      simp only [execFairSharePreempt, field_zero_eq_mod, if_neg hgo, hrec, hshape, if_pos (Option.isSome_iff_ne_none.mpr hplace)]
    · change execFairSharePreempt v s = _
      simp only [execFairSharePreempt, field_zero_eq_mod, if_neg hgo, hrec, hshape, hplace, Option.isSome_none, Bool.false_eq_true, if_false,
        hvictim, preempt, Bool.cond_eq_ite, beq_iff_eq]
  · change execFairSharePreempt v s = _
    simp only [execFairSharePreempt, field_zero_eq_mod]
    exact if_pos (Or.inl hunder)

/-! ### Toll 6 (R306, R432) -/

/-- A VI after a microsecond of toll 6. -/
def tollTicked (s : State) (v : Nat) (vi : Vi) : Vi :=
  if wayMicros s v = 0 then vi else { vi with tolls := Tab.updD vi.tolls 6 0 (· + dw (wayMicros s v)) }

/-- The step of TOLL_TICK at a VI. -/
def tollStep (s t : State) (v : Nat) : State := if wayMicros s v = 0 then t else addToll t v 6 (wayMicros s v)

theorem viOf_tollStep (s t : State) (u v : Nat) : viOf (tollStep s t u) v = if v = u then tollTicked s u (viOf t u) else viOf t v := by
  by_cases h0 : wayMicros s u = 0
  · simp only [tollStep, tollTicked, if_pos h0]
    split
    · next h => rw [h]
    · rfl
  · simp only [tollStep, tollTicked, if_neg h0]
    exact viOf_onVi ..

/-- What TOLL_TICK leaves of the machine but the VIs. -/
theorem tollStep_keeps {γ : Type} (f : State → γ) (h : ∀ t v g, f (onVi t v g) = f t) (s t : State) (v : Nat) : f (tollStep s t v) = f t := by
  rw [tollStep]
  split
  · rfl
  · exact h ..

/-- The machine after TOLL_TICK. -/
def tollTickDone (s : State) : State := (List.range 512).foldl (tollStep s) { s with usToll := s.time.toNat }

theorem exec_tollTick (s : State) : exec .tollTick s = .next (tollTickDone s) := by
  change execTollTick s = _
  simp only [execTollTick, tollTickDone, Bool.cond_eq_ite, beq_iff_eq]
  rfl

theorem viOf_tollTickDone (s : State) {v : Nat} (hv : v < 512) : viOf (tollTickDone s) v = tollTicked s v (viOf s v) := by
  rw [tollTickDone, viOf_foldl (viOf_tollStep s) v List.nodup_range, if_pos (List.mem_range.mpr hv)]
  rfl

/-- The ways of a mask counted bit by bit. -/
theorem ones16_or (w : Dword) :
    ones16 (field w 15 0 ||| field w 31 16) = ((List.range 16).filter (fun i => w.getLsbD i || w.getLsbD (16 + i))).length := by
  rw [ones16]
  refine congrArg List.length (List.filter_congr (fun i hi => ?_))
  have hlt : i < 16 := List.mem_range.mp hi
  simp only [field, Nat.testBit_or, Nat.testBit_mod_two_pow, Nat.testBit_shiftRight, BitVec.getLsbD, Nat.zero_add]
  simp [hlt]

theorem tollTick_says : Sys2Proof.Says.TollTick := by
  intro s
  refine ⟨tollTickDone s, exec_tollTick s, ?_, ?_, ?_, ?_⟩
  · rw [tollTickDone, foldl_keeps State.usToll (tollStep_keeps _ onVi_usToll s)]
  · rw [tollTickDone, foldl_keeps State.plots (tollStep_keeps _ onVi_plots s)]
  · rw [tollTickDone, foldl_keeps State.mem (tollStep_keeps _ onVi_mem s)]
  · intro v hv i hi
    rw [viOf_tollTickDone s hv]
    have hsix : Tab.atD (tollTicked s v (viOf s v)).tolls 6 0 = Tab.atD (viOf s v).tolls 6 0 + dw (wayMicros s v) := by
      rw [tollTicked]
      split
      · next h0 => simp [h0, dw]
      · simp
    refine ⟨?_, fun hnone => ?_, fun p hpart => ?_⟩
    · rw [tollTicked]
      split
      · rfl
      · dsimp only
        exact Tab.atD_updD_ne _ _ _ _ hi
    · rw [hsix, wayMicros, hnone]
      simp [dw]
    · rw [hsix, wayMicros, hpart]
      simp only [ones16_or, field_eq_extractLsb' _ 47 32, field_eq_extractLsb' _ 53 51]

/-! ### TOLLRD and TOLLSIG (R434, R442) -/

section
variable {s s1 : State} {c : Ctx} {es : List Nat} {e : Nat} {c1 c0 : Cons} {kind : Kind} {body : Ctx → Nat → Res}

/-- A form that fires once and meets a SYSREG of R413. -/
theorem fireOnce_of_sysTrap {why : Nat} {a : Dword} (hf : FiresOnce s c es e) (hb : body c e = sysTrap c e why a) :
    fireOnce s c1 c0 kind body = .next (sysStop s c why a) := by
  rw [sysStop, ← Nat.shiftLeft_eq]
  exact fireOnce_of_trap hf hb

end

theorem tollWhy?_none {c : Ctx} {rsv vi : Nat} {bad : Bool} (hrsv : rsv = 0) (hvi : vi = c.plot.vi ∨ isVi0 c.plot = true) (hbad : bad = false) :
    tollWhy? c rsv vi bad = none := by
  have hreach : ¬(vi ≠ c.plot.vi ∧ isVi0 c.plot = false) := by
    rintro ⟨hne, hno⟩
    rcases hvi with h | h
    · exact hne h
    · simp [h] at hno
  simp only [tollWhy?, hrsv, ne_eq, not_true, if_false, if_neg hreach, hbad, Bool.false_eq_true]

theorem tollWhy?_other {c : Ctx} {rsv vi : Nat} {bad : Bool} (hrsv : rsv = 0) (hvi : vi ≠ c.plot.vi) (hplain : isVi0 c.plot = false) :
    tollWhy? c rsv vi bad = some 1 := by
  simp only [tollWhy?, hrsv, ne_eq, not_true, if_false, if_pos (And.intro hvi hplain)]

/-- A field whose bits are 0. -/
theorem field_eq_zero_of_extract {m : Nat} {w : BitVec m} {hi lo : Nat} (h : w.extractLsb' lo (hi + 1 - lo) = 0) : field w hi lo = 0 := by
  rw [field_eq_extractLsb', h]
  rfl

theorem tollWords_eq_tollRecord (s : State) (v g : Nat) (nonce : Dword) : tollWords s v g nonce = tollRecord s v g nonce := by
  simp only [tollWords, tollRecord, at_, Nat.shiftLeft_eq, Bool.cond_eq_ite, blt_eq_decide, decide_eq_true_eq]
  rfl

theorem lo32_eq_setWidth (v : Dword) : lo32 v = v.setWidth 32 := BitVec.eq_of_toNat_eq (by simp [lo32])

theorem tollForms_say : Sys2Proof.Says.TollForms := by
  intro s s1 c es e n c1 c0 l hf
  dsimp only
  refine ⟨fun hzero hreach hi => ?_, fun hzero hother hplain => ?_, fun hzero hreach hg halign hwrite => ?_⟩
  · have hwhy : tollWhy? c (field (c.low 0 e) 31 13) (field (c.low 0 e) 12 4) (Nat.ble 11 (field (c.low 0 e) 3 0)) = none :=
      tollWhy?_none (field_eq_zero_of_extract hzero) hreach ((ble_eq_decide ..).trans (decide_eq_false (Nat.not_le.mpr hi)))
    refine (fireOnce_of_done hf ?_ : execTollrd c1 c0 s = _)
    simp only [hwhy]
    rfl
  · have hwhy : tollWhy? c (field (c.low 0 e) 31 13) (field (c.low 0 e) 12 4) (Nat.ble 11 (field (c.low 0 e) 3 0)) = some 1 :=
      tollWhy?_other (field_eq_zero_of_extract hzero) hother hplain
    refine (fireOnce_of_sysTrap hf ?_ : execTollrd c1 c0 s = _)
    simp only [hwhy, zx32_eq_setWidth]
  · have hwhy : tollWhy? c (field (c.low 0 e) 31 11) (field (c.low 0 e) 10 2) (field (c.low 0 e) 1 0 == 3) = none :=
      tollWhy?_none (field_eq_zero_of_extract hzero) hreach (beq_false_of_ne (Nat.ne_of_lt hg))
    have hwrite' : cellWrite s c e 4 (vaOf (c.k2 n.toNat)) (tollWords s (field (c.low 0 e) 10 2) (field (c.low 0 e) 1 0) (c.wide 1 e) ++
        digestDwords (hmac64 Config.deviceKey (tollWords s (field (c.low 0 e) 10 2) (field (c.low 0 e) 1 0) (c.wide 1 e)))) = .ok s1 l := by
      rw [tollWords_eq_tollRecord]
      exact hwrite
    refine (fireOnce_of_done hf ?_ : execTollsig n c1 c0 s = _)
    simp only [hwhy, hwrite', halign, ne_eq, not_true, if_false, lo32_eq_setWidth, zx32_eq_setWidth]
    rfl

/-- Settles O49: a tick changes each VI once, by what it holds and waits for; the forms read and sign the counters as they are. -/
theorem accounting : Obligations.Accounting := ⟨fairShare_says, tollTick_says, tollForms_say⟩

end Sys2Proof.Machine
end

section
/-!
PROOFS. The state after reset (R412, R294, R465).
-/
namespace Sys2Proof.Machine
open Sys2Proof.Claim

/-- No VI has an entry at reset. -/
theorem viOf_reset (v : Nat) : viOf State.reset v = Vi.reset := rfl

/-- Partitions 0 to 3 have 16 slices each. -/
theorem partOf_reset {p : Nat} (hp : p < 4) : partOf State.reset p = dw (2 ^ 63 + 4 * 2 ^ 51 + 16 * p * 2 ^ 45) := by
  interval_cases p <;> rfl

theorem partOf_reset_of_le {p : Nat} (hp : 4 ≤ p) : partOf State.reset p = 0 := by
  match p, hp with
  | _ + 4, _ => rfl

theorem resetValues_say : Sys2Proof.Says.ResetValues := by
  refine ⟨rfl, rfl, rfl, rfl, rfl, rfl, rfl, fun p hp => partOf_reset hp, fun p hp => partOf_reset_of_le hp, fun v => ?_⟩
  rw [viOf_reset]
  exact ⟨rfl, rfl, rfl, rfl, rfl, rfl, rfl, rfl, rfl, rfl, rfl, fun _ => rfl⟩

theorem resetHubHasTraps_says : Sys2Proof.Says.ResetHubHasTraps := by
  intro k p r hplot
  cases hplot

/-- Settles O5: the values stand in the reset state, in which no VI has an entry and no plot is configured. -/
theorem resetState : Obligations.ResetState := ⟨resetValues_say, resetHubHasTraps_says⟩

end Sys2Proof.Machine
end

section
/-!
PROOFS. Doorbells and the register window of the host (R381, R384, R458, R459).
-/
namespace Sys2Proof.Machine
open Sys2Proof.Claim

/-! ### A write of the host that arrives (R465, R466) -/

section
variable {s : State} {v : Nat} {g : State → State}

theorem hostOk_iff : hostOk s v = true ↔ reachable s v := by
  simp only [hostOk, hostUp, reachable, blt_eq_decide, Bool.and_eq_true, decide_eq_true_eq, Bool.not_eq_true']
  tauto

theorem hostWrite_of_reachable (h : reachable s v) : hostWrite s v g = .next (g s) := by
  rw [hostWrite, hostOk_iff.mpr h, cond_true]

theorem hostWrite_of_not_reachable (h : ¬reachable s v) : hostWrite s v g = .next s := by
  rw [hostWrite, Bool.eq_false_iff.mpr (fun hok => h (hostOk_iff.mp hok)), cond_false]

end

/-! ### Writes of registers (R412, R458) -/

/-- A word may be written to each register whose writable bits are its low 32. -/
theorem valueOk_word {r : Nat} (w : Word) (hr : r ∈ [0x043, 0x04D, 0x065, 0x067, 0x06A]) : valueOk r (w.setWidth 64) = true := by
  have hbits : w.toNat ||| (2 ^ 32 - 1) = 2 ^ 32 - 1 := by
    have hand : w.toNat &&& (2 ^ 32 - 1) = w.toNat := by rw [Nat.and_two_pow_sub_one_eq_mod, Nat.mod_eq_of_lt w.isLt]
    refine Nat.eq_of_testBit_eq (fun i => ?_)
    have hi := congrArg (·.testBit i) hand
    simp only [Nat.testBit_and, Nat.testBit_or] at hi ⊢
    cases hw : w.toNat.testBit i <;> simp_all
  have hval : (w.setWidth 64).toNat = w.toNat := BitVec.toNat_setWidth_of_le (by omega)
  fin_cases hr <;> simpa [valueOk, writable, hval] using hbits

theorem windowWrite_of_reachable {s : State} {v r n : Nat} {w : Dword} (h : reachable s v) :
    windowWrite s v r n w = .next (if valueOk r w = true then writeViReg s v r n w else s) := by
  rw [windowWrite, hostWrite_of_reachable h, Bool.cond_eq_ite]

/-- A consumer count of a VI written by the host. -/
theorem countWrite_of_reachable {s : State} {v r : Nat} {w : Word} (h : reachable s v) (hr : r ∈ [0x043, 0x04D, 0x065, 0x067, 0x06A]) :
    hostWrite s v (fun s => writeViReg s v r 0 (zx32 w)) =
      .next (if valueOk r (w.setWidth 64) = true then writeViReg s v r 0 (w.setWidth 64) else s) := by
  rw [hostWrite_of_reachable h, zx32_eq_setWidth, if_pos (valueOk_word w hr)]

theorem ringWrite_of_reachable {s : State} {v n : Nat} {ring : Ring} {w : Dword} (h : reachable s v)
    (hn : n < if (ringReg ring).2 = true then 16 else 1) :
    execRingBaseWrite v ring n w s = .next (if valueOk (ringReg ring).1 w = true then writeViReg s v (ringReg ring).1 n w else s) := by
  rw [execRingBaseWrite, Bool.cond_eq_ite, Bool.cond_eq_ite, blt_eq_decide, if_pos (decide_eq_true hn), windowWrite_of_reachable h]

theorem exec_hostForm {i : Instr} {s : State} {v r n : Nat} {w : Dword} (hform : hostForm i = some (v, r, n, w)) (h : reachable s v) (hn : n < 16) :
    exec i s = .next (if valueOk r w = true then writeViReg s v r n w else s) := by
  unfold hostForm at hform
  split at hform <;> cases hform
  case h_1 => exact (countWrite_of_reachable h (by decide) : execFrcons _ _ s = _)
  case h_2 => exact (countWrite_of_reachable h (by decide) : execStresume _ _ s = _)
  case h_3 => exact (countWrite_of_reachable h (by decide) : execGercons _ _ s = _)
  case h_4 => exact (countWrite_of_reachable h (by decide) : execTrcons _ _ s = _)
  case h_5 => exact (countWrite_of_reachable h (by decide) : execHrcons _ _ s = _)
  case h_6 => exact (windowWrite_of_reachable h : execTraprsp _ _ s = _)
  case h_7 => exact (windowWrite_of_reachable h : execImask _ _ s = _)
  case h_8 => exact ringWrite_of_reachable (ring := .tring) h Nat.one_pos
  case h_9 => exact ringWrite_of_reachable (ring := .hring) h Nat.one_pos
  case h_10 => exact ringWrite_of_reachable (ring := .fring) h Nat.one_pos
  case h_11 => exact ringWrite_of_reachable (ring := .gering) h Nat.one_pos
  case h_12 => exact ringWrite_of_reachable (ring := .jqbase) h hn
  case h_13 => exact ringWrite_of_reachable (ring := .jcring) h hn

theorem exec_hostFunction {i : Instr} {s : State} {v : Nat} (hfn : hostFunction i = some v) (h : ¬reachable s v) : exec i s = .next s := by
  unfold hostFunction at hfn
  split at hfn <;> cases hfn
  case h_1 => exact (hostWrite_of_not_reachable h : execJqtail _ _ _ s = _)
  case h_2 => exact (hostWrite_of_not_reachable h : execJccons _ _ _ s = _)
  case h_3 => exact (hostWrite_of_not_reachable h : execJqfence _ _ s = _)
  case h_4 => exact (hostWrite_of_not_reachable h : execFrcons _ _ s = _)
  case h_5 => exact (hostWrite_of_not_reachable h : execStresume _ _ s = _)
  case h_6 => exact (hostWrite_of_not_reachable h : execGercons _ _ s = _)
  case h_7 => exact (hostWrite_of_not_reachable h : execTrcons _ _ s = _)
  case h_8 => exact (hostWrite_of_not_reachable h : execHrcons _ _ s = _)
  case h_9 => exact (hostWrite_of_not_reachable h : execTraprsp _ _ s = _)
  case h_10 => exact (hostWrite_of_not_reachable h : execImask _ _ s = _)
  case h_11 => exact (hostWrite_of_not_reachable h : execRegisterWrite _ _ _ s = _)
  case h_12 => exact (hostWrite_of_not_reachable h : execVireset _ _ s = _)
  case h_13 => exact (hostWrite_of_not_reachable h : execRst _ s = _)

theorem hostWrites_say : Sys2Proof.Says.HostWrites :=
  fun _ _ => ⟨fun _ _ _ _ hform h hn => exec_hostForm hform h hn, fun _ hfn h => exec_hostFunction hfn h⟩

/-! ### The doorbells (R380-R384, R322) -/

/-- A bit of a word cleared. -/
theorem setBit_false (w : Dword) (i : Nat) : setBit w i false = w &&& ~~~dw (2 ^ i) := rfl

theorem bounded_eq (j : JobQueue) : j.bounded =
    if 2 ^ ((j.base.extractLsb' 0 4).toNat + 4) < (j.tail - j.head).toNat then { j with err := 1, base := j.base &&& ~~~0x10#64 } else j := by
  have hbit : dw (2 ^ 4) = 0x10#64 := rfl
  simp only [JobQueue.bounded, Bool.cond_eq_ite, blt_eq_decide, decide_eq_true_eq, setBit_false, hbit, field_eq_extractLsb' j.base 3 0]

/-- A mask and a fence as words of 16 bits. -/
theorem field_and_eq_zero (w : Dword) (m : BitVec 16) : (field w 15 0 &&& m.toNat == 0) = decide (w.setWidth 16 &&& m = 0#16) := by
  rw [Bool.eq_iff_iff, beq_iff_eq, decide_eq_true_iff, ← BitVec.toNat_inj, BitVec.toNat_and]
  simp [field]

theorem fenced_eq (fence mask : Nat) : fenced fence mask = if mask &&& fence ≠ 0 then mask ||| fence else mask := by
  simp only [fenced, Bool.cond_eq_ite, beq_iff_eq, ite_not]

/-- A job queue after a JQFENCE (R322). -/
def fenceQueue (m : BitVec 16) (q : Nat) (j : JobQueue) : JobQueue :=
  { j with cache := bif m.getLsbD q then j.cache.filter (fun x => field ((x.2.head?).getD 0) 15 0 &&& m.toNat == 0)
                    else j.cache.map (fenceItem m.toNat) }

/-- A plot after a JQFENCE of a VI (R322). -/
def fencePlot (v : Nat) (m : BitVec 16) (p : Plot) : Plot := bif p.vi == v then { p with stale := fenced m.toNat p.stale } else p

/-- The machine after a JQFENCE. -/
def jqfenced (s : State) (v : Nat) (m : BitVec 16) : State :=
  let s := onVi s v (fun vi => { vi with queues := vi.queues.map (fun (q, j) => (q, fenceQueue m q j)) })
  { s with plots := s.plots.map (fun (k, p) => (k, fencePlot v m p)) }

theorem exec_jqfence {s : State} {v : Nat} {m : BitVec 16} (h : reachable s v) : exec (.jqfence v m) s = .next (jqfenced s v m) :=
  (hostWrite_of_reachable h : execJqfence v m s = _)

theorem jqfenced_queues (s : State) (v : Nat) (m : BitVec 16) :
    (viOf (jqfenced s v m) v).queues = (viOf s v).queues.map (fun (q, j) => (q, fenceQueue m q j)) :=
  congrArg Vi.queues (viOf_onVi_same s v (fun vi => { vi with queues := vi.queues.map (fun (q, j) => (q, fenceQueue m q j)) }))

theorem fencePlot_eq (v : Nat) (m : BitVec 16) (p : Plot) :
    fencePlot v m p = if p.vi = v ∧ p.stale &&& m.toNat ≠ 0 then { p with stale := p.stale ||| m.toNat } else p := by
  by_cases hv : p.vi = v
  · by_cases hm : p.stale &&& m.toNat = 0
    · subst hv
      simp [fencePlot, fenced, hm]
    · simp [fencePlot, fenced_eq, hv, hm]
  · rw [fencePlot, beq_false_of_ne hv, cond_false, if_neg (fun h => hv h.1)]

theorem doorbells_say : Sys2Proof.Says.Doorbells := by
  intro s v q w m h hq size
  have hqueue : q.blt 16 = true := (blt_eq_decide q 16).trans (decide_eq_true hq)
  refine ⟨?_, ?_, jqfenced s v m, exec_jqfence h, fun k j hj => ?_, fun k p hp => ?_⟩
  · refine (hostWrite_of_reachable h : execJqtail v q w s = _).trans ?_
    simp only [hqueue, cond_true, writeTail, bounded_eq]
    rfl
  · refine (hostWrite_of_reachable h : execJccons v q w s = _).trans ?_
    simp only [hqueue, cond_true]
  · rw [jqfenced_queues, Tab.at?_map _ (fenceQueue m) k, hj, Option.map_some]
    simp only [fenceQueue, Bool.cond_eq_ite, field_and_eq_zero]
  · refine (Tab.at?_map s.plots (fun _ => fencePlot v m) k).trans ?_
    rw [hp, Option.map_some, fencePlot_eq]

/-! ### The doorbell page (R381, R458) -/

theorem hostWhole_eq_false {size off : Nat} : hostWhole size off = false ↔ size ≠ 8 ∨ off % 8 ≠ 0 := by
  simp only [hostWhole, Bool.and_eq_false_iff, beq_eq_false_iff_ne]

theorem hostWhole_of_mod {off : Nat} (h : off % 8 = 0) : ¬hostWhole 8 off = false := by
  simp [hostWhole, h]

theorem doorbellWrite_outside {v size off : Nat} {w : Dword} {s : State} (h : size ≠ 8 ∨ off % 8 ≠ 0 ∨ 0x120 ≤ off) :
    doorbellWrite v size off w s = .next s := by
  unfold doorbellWrite
  split
  · rfl
  · next hwhole =>
    have hoff : 0x120 ≤ off := by
      rcases h with hsize | hmod | hle
      · exact absurd (hostWhole_eq_false.mpr (.inl hsize)) hwhole
      · exact absurd (hostWhole_eq_false.mpr (.inr hmod)) hwhole
      · exact hle
    rw [if_neg (by omega), if_neg (by omega)]
    split
    · omega
    · omega
    · omega
    · omega
    · rfl

theorem extractLsb'_zero_eq_setWidth {m : Nat} (w : BitVec m) (n : Nat) : w.extractLsb' 0 n = w.setWidth n :=
  BitVec.eq_of_toNat_eq (by simp)

/-- All ones, as the number below 2^64 (R458). -/
theorem allOnes_eq : BitVec.allOnes 64 = 2 ^ 64 - 1 := by
  have hzero : (2 : BitVec 64) ^ 64 = 0 := by
    rw [show 64 = 8 * 8 from rfl, pow_mul]
    rfl
  rw [hzero]
  rfl

theorem doorbellPage_says : Sys2Proof.Says.DoorbellPage := by
  intro s v size off w write
  refine ⟨doorbellWrite_outside, fun q hq => ⟨?_, ?_⟩, ?_, ?_, ?_, ?_, fun h => ?_, fun h hready => ?_⟩
  · have hdiv : 8 * q / 8 = q := by omega
    change doorbellWrite v 8 (8 * q) w s = execJqtail v q (w.setWidth 32) s
    unfold doorbellWrite
    rw [if_neg (hostWhole_of_mod (by omega)), if_pos (by omega), hdiv, lo32_eq_setWidth]
  · have hdiv : (0x80 + 8 * q - 0x080) / 8 = q := by omega
    change doorbellWrite v 8 (0x80 + 8 * q) w s = execJccons v q (w.setWidth 32) s
    unfold doorbellWrite
    rw [if_neg (hostWhole_of_mod (by omega)), if_neg (by omega), if_pos (by omega), hdiv, lo32_eq_setWidth]
  · change execJqfence v (w.extractLsb' 0 16) s = execJqfence v (w.setWidth 16) s
    rw [extractLsb'_zero_eq_setWidth]
  · change execFrcons v (lo32 w) s = execFrcons v (w.setWidth 32) s
    rw [lo32_eq_setWidth]
  · change execStresume v (lo32 w) s = execStresume v (w.setWidth 32) s
    rw [lo32_eq_setWidth]
  · change execGercons v (lo32 w) s = execGercons v (w.setWidth 32) s
    rw [lo32_eq_setWidth]
  · refine if_neg ?_
    rintro ⟨hready, hpart⟩
    have hbad := hostWhole_eq_false.mp hpart
    rcases h with ⟨hsize, hmod⟩ | hoff
    · omega
    · simp [hready] at hoff
  · rw [doorbellRead, if_pos ⟨hready, hostWhole_eq_false.mpr h⟩, allOnes_eq]

end Sys2Proof.Machine
end

section
/-!
PROOFS. The register window of the host (R459).
-/
namespace Sys2Proof.Machine
open Sys2Proof.Claim

/-! ### The register window (R459) -/

/-- The VI whose registers a function's window shows: VI 0's shows the one that VISEL names. -/
def shownVi (s : State) (fn : Nat) : Nat := if fn = 0 then s.visel.toNat else fn

/-- The selector of index `n` of the VI register `0x040 + r`. -/
def viSelector (v r n : Nat) : Dword := dw (2 ^ 59 + v * 2 ^ 50 + (0x040 + r) * 2 ^ 40 + n)

theorem windowSel?_vi {s : State} {fn off r n : Nat} (hoff : off = 0x2000 + 128 * r + 8 * n) (hr : r < 60) (hn : n < 16) :
    windowSel? s fn off = some (viSelector (shownVi s fn) r n) := by
  have hreg : (off - 0x2000) / 128 = r := by omega
  have hindex : off % 128 / 8 = n := by omega
  rw [windowSel?, if_pos (by omega)]
  simp only [hreg, hindex, viSelector, shownVi, at_, Nat.shiftLeft_eq, Nat.one_mul, Bool.cond_eq_ite, beq_iff_eq]

section
variable {v r n : Nat}

theorem selReg_viSelector (hr : r < 60) (hn : n < 16) : selReg (viSelector v r n) = 0x040 + r := by
  simp only [selReg, viSelector, field, dw, BitVec.toNat_ofNat, Nat.shiftRight_eq_div_pow]
  omega

theorem selIndex_viSelector (hn : n < 16) : selIndex (viSelector v r n) = n := by
  simp only [selIndex, viSelector, field, dw, BitVec.toNat_ofNat, Nat.shiftRight_eq_div_pow]
  omega

theorem selVi_viSelector (hv : v < 512) (hr : r < 60) (hn : n < 16) : selVi (viSelector v r n) = v := by
  simp only [selVi, viSelector, field, dw, BitVec.toNat_ofNat, Nat.shiftRight_eq_div_pow]
  omega

end

/-- The registers of the VI scope. -/
theorem regInfo?_viScope {r : Nat} {i : RegInfo} (hlo : 0x040 ≤ r) (hhi : r < 0x100) (h : regInfo? r = some i) : i.scope = 1 := by
  rw [regInfo?, if_neg (Nat.not_lt.mpr hlo), if_pos hhi] at h
  unfold viReg? at h
  split at h <;> cases h <;> rfl

/-- An access that R413 lets through is of a register, in its scope. -/
theorem scope_of_accessWhy? {vi0 : Bool} {v : Nat} {a : Dword} {w : Option Dword} (h : accessWhy? vi0 v a w = none) :
    ∃ i, regInfo? (selReg a) = some i ∧ selScope a = i.scope := by
  unfold accessWhy? at h
  split at h
  · cases h
  · next i hi =>
    split at h
    · cases h
    · next hscope => exact ⟨i, hi, not_not.mp (fun hne => hscope (.inr hne))⟩

/-- An access of a VI register that is let through is of VI scope. -/
theorem selScope_viSelector {vi0 : Bool} {u v r n : Nat} {w : Option Dword} (hr : r < 60) (hn : n < 16)
    (h : accessWhy? vi0 u (viSelector v r n) w = none) : (selScope (viSelector v r n) == 1) = true := by
  obtain ⟨i, hi, hscope⟩ := scope_of_accessWhy? h
  rw [selReg_viSelector hr hn] at hi
  rw [hscope, regInfo?_viScope (by omega) (by omega) hi]
  rfl

section
variable {s : State} {fn off : Nat} {a w : Dword}

theorem writeWindow_sel (hmod : off % 8 = 0) (hvisel : off ≠ 0x3F00) (hstatus : off ≠ 0x3F08) (hsel : windowSel? s fn off = some a)
    (hok : accessWhy? (fn == 0) fn a (some w) = none) (hscope : (selScope a == 1) = true) :
    writeWindow s fn 8 off w = writeViReg s (selVi a) (selReg a) (selIndex a) w := by
  unfold writeWindow
  rw [if_neg (hostWhole_of_mod hmod), if_neg hvisel, if_neg hstatus]
  simp only [hsel, hok, hscope, cond_true]

theorem writeWindow_refused {why : Nat} (hmod : off % 8 = 0) (hvisel : off ≠ 0x3F00) (hstatus : off ≠ 0x3F08) (hsel : windowSel? s fn off = some a)
    (hbad : accessWhy? (fn == 0) fn a (some w) = some why) : writeWindow s fn 8 off w = s := by
  unfold writeWindow
  rw [if_neg (hostWhole_of_mod hmod), if_neg hvisel, if_neg hstatus]
  simp only [hsel, hbad]

end

theorem exec_registerWrite {s : State} {fn : Nat} {off w : Dword} (h : reachable s fn) :
    exec (.registerWrite fn off w) s = .next (writeWindow s fn 8 off.toNat w) :=
  (hostWrite_of_reachable h : execRegisterWrite fn off w s = _)

theorem exec_rst {s : State} {w : Dword} (h : reachable s 0) : exec (.rst w) s = .next (writeWindow s 0 8 0x3F08 w) :=
  (hostWrite_of_reachable h : execRst w s = _)

theorem writeWindow_part {s : State} {fn size off : Nat} {w : Dword} (h : size ≠ 8 ∨ off % 8 ≠ 0) : writeWindow s fn size off w = s :=
  if_pos (hostWhole_eq_false.mpr h)

/-- MSTATUS (R464) written through VI 0's window. -/
theorem writeWindow_mstatus {s : State} {w : Dword} : writeWindow s 0 8 0x3F08 w =
    bif field w 63 4 == 0 && w.getLsbD 1 then moduleReset s else s := rfl

theorem writeWindow_visel {s : State} {w : Dword} : writeWindow s 0 8 0x3F00 w =
    bif field w 63 9 == 0 then { s with visel := w.extractLsb' 0 9 } else s := rfl

theorem field_high_eq_zero {w : Dword} {lo : Nat} (h : w.toNat < 2 ^ lo) : (field w 63 lo == 0) = true :=
  beq_iff_eq.mpr (field_eq_zero_of_lt (hi := 63) h)

theorem registerWindow_says : Sys2Proof.Says.RegisterWindow := by
  intro s fn off w h
  refine ⟨fun hfn hoff hw => ?_, fun hfn hoff hw hbit => ?_, fun hfn hbit => ?_, fun hmod => ?_, fun size hsize => ?_, fun r n hoff hr hn => ?_⟩
  · subst hfn hoff
    rw [exec_registerWrite h]
    change Host.Outcome.next (writeWindow s 0 8 0x3F00 w) = _
    rw [writeWindow_visel, field_high_eq_zero (lo := 9) hw, cond_true, extractLsb'_zero_eq_setWidth]
  · subst hfn hoff
    have hreset : writeWindow s 0 8 0x3F08 w = moduleReset s := by
      rw [writeWindow_mstatus, field_high_eq_zero (lo := 4) hw, hbit]
      rfl
    exact ⟨(exec_registerWrite h).trans (congrArg Host.Outcome.next hreset), (exec_rst h).trans (congrArg Host.Outcome.next hreset)⟩
  · subst hfn
    rw [exec_rst h, writeWindow_mstatus, hbit, Bool.and_false, cond_false]
  · rw [exec_registerWrite h, writeWindow_part (.inr hmod)]
  · exact writeWindow_part (.inl hsize)
  · intro v a
    have hv : shownVi s fn < 512 := by
      rw [shownVi]
      split
      · exact s.visel.isLt
      · exact h.1
    have hmod : off.toNat % 8 = 0 := by omega
    have hvisel : off.toNat ≠ 0x3F00 := by omega
    have hstatus : off.toNat ≠ 0x3F08 := by omega
    have hsel := windowSel?_vi (s := s) (fn := fn) hoff hr hn
    refine ⟨fun hok => ?_, fun why hbad => ?_⟩
    · rw [exec_registerWrite h, writeWindow_sel hmod hvisel hstatus hsel hok (selScope_viSelector hr hn hok), selVi_viSelector hv hr hn,
        selReg_viSelector hr hn, selIndex_viSelector hn]
      rfl
    · rw [exec_registerWrite h, writeWindow_refused hmod hvisel hstatus hsel hbad]

/-! ### Reads of the window (R458, R464, R465) -/

theorem mstatus_eq (s : State) :
    mstatus s = dw ((if s.ready = true then 1 else 0) + (if s.thr = true then 4 else 0) + (if s.booterr = true then 8 else 0)) := by
  rw [mstatus]
  cases s.ready <;> cases s.thr <;> cases s.booterr <;> rfl

section
variable {s : State} {fn size off : Nat} {a : Dword}

/-- A read that is not one of MSTATUS, once the module is up and the access is whole. -/
theorem windowRead_sel (hmod : off % 8 = 0) (hvisel : off ≠ 0x3F00) (hstatus : off ≠ 0x3F08) (hready : s.ready = true)
    (hsel : windowSel? s fn off = some a) (hok : accessWhy? (fn == 0) fn a none = none) (hscope : (selScope a == 1) = true) :
    windowRead s fn 8 off = viRegValue (viOf s (selVi a)) (selReg a) (selIndex a) := by
  unfold windowRead
  rw [if_neg (fun h => hstatus h.1), hready, if_neg Bool.true_eq_false.mp, if_neg (hostWhole_of_mod hmod), if_neg (fun h => hvisel h.1)]
  simp only [hsel, hok, hscope, cond_true]

theorem windowRead_refused {why : Nat} (hmod : off % 8 = 0) (hvisel : off ≠ 0x3F00) (hstatus : off ≠ 0x3F08) (hready : s.ready = true)
    (hsel : windowSel? s fn off = some a) (hbad : accessWhy? (fn == 0) fn a none = some why) : windowRead s fn 8 off = 0 := by
  unfold windowRead
  rw [if_neg (fun h => hstatus h.1), hready, if_neg Bool.true_eq_false.mp, if_neg (hostWhole_of_mod hmod), if_neg (fun h => hvisel h.1)]
  simp only [hsel, hbad]

/-- Nothing is mapped behind the VI registers in the window of another function than VI 0's. -/
theorem windowSel?_beyond (hfn : fn ≠ 0) (hoff : 0x3E00 ≤ off) : windowSel? s fn off = none := by
  rw [windowSel?, if_neg (by omega), if_neg (by omega)]

theorem windowRead_beyond (hfn : fn ≠ 0) (hoff : 0x3E00 ≤ off) (hmod : off % 8 = 0) : windowRead s fn 8 off = 0 := by
  unfold windowRead
  rw [if_neg (fun h => hfn h.2.1)]
  split
  · rfl
  · rw [if_neg (hostWhole_of_mod hmod), if_neg (fun h => hfn h.2)]
    simp only [windowSel?_beyond hfn hoff]

end

theorem windowReads_say : Sys2Proof.Says.WindowReads := by
  intro s fn size off
  refine ⟨fun hfn => ?_, fun hother hready => ?_, fun hpart hready => ?_, fun hready => ?_, fun r n hoff hr hn hready => ?_, windowRead_beyond⟩
  · rw [← mstatus_eq]
    exact if_pos ⟨rfl, hfn, rfl⟩
  · unfold windowRead
    rw [if_neg (by rintro ⟨hoff, hfn, hsize⟩; simp [hoff, hfn, hsize] at hother), if_pos hready]
  · unfold windowRead
    rw [if_neg (by rintro ⟨hoff, -, hsize⟩; omega), hready, if_neg Bool.true_eq_false.mp, if_pos (hostWhole_eq_false.mpr hpart), allOnes_eq]
  · unfold windowRead
    rw [if_neg (by omega), hready, if_neg Bool.true_eq_false.mp, if_neg (hostWhole_of_mod (by omega)), if_pos ⟨rfl, rfl⟩]
  · intro v a
    have hmod : off % 8 = 0 := by omega
    have hvisel : off ≠ 0x3F00 := by omega
    have hstatus : off ≠ 0x3F08 := by omega
    have hsel := windowSel?_vi (s := s) (fn := fn) hoff hr hn
    exact ⟨fun hok => windowRead_sel hmod hvisel hstatus hready hsel hok (selScope_viSelector hr hn hok),
      fun why hbad => windowRead_refused hmod hvisel hstatus hready hsel hbad⟩

/-- Settles O56: a host write that arrives is the write of its register, and the offsets of the page and of the window name the registers. -/
theorem hostRegisters : Obligations.HostRegisters :=
  ⟨hostWrites_say, doorbells_say, doorbellPage_says, registerWindow_says, windowReads_say⟩

end Sys2Proof.Machine
end

section
/-!
PROOFS. Images (R444): an IMGLOAD that fires on an element which is not the first of its firing set, and whose read traps.
-/
namespace Sys2Proof.Machine
open Sys2Proof.Claim

/-- A firing set of two elements with one operand: element 0 is null, element 1 is the plot word of a 4 × 4 plot at (4, 0) of die 0. -/
def nullFirstInst : Inst :=
  { run := 0, first := 0, len := 2, ops := [(portKey 0 0, { kind := .r64, elems := [(0, .null), (1, .val 0x100104)] })],
    done := [], issued := [], held := [], stalled := [], nulls := [] }

/-- The block of an IMGLOAD of the address 0 that waits on that firing set. -/
def nullFirstBlock : Block := { fetchBlock 0xF8000000 with insts := [(0, nullFirstInst)] }

/-- A plot of VI 0 at (0, 0) with that block in its cell (0, 0). -/
def nullFirstPlot : Plot := { fetchPlot 0 with cells := [(0, { Cell.empty with blocks := [(0, nullFirstBlock)] })] }

/-- A machine with that plot, whose VI 0 has no page tables. -/
def nullFirst : State := { State.reset with plots := [(0, nullFirstPlot)] }

/-- The context of its IMGLOAD. -/
def nullFirstCtx : Ctx := { f := Firing.zero, plot := nullFirstPlot, blk := nullFirstBlock, inst := nullFirstInst }

/-- The IMGLOAD fires once, on element 1. -/
theorem nullFirst_firesOnce : FiresOnce nullFirst nullFirstCtx [0, 1] 1 := by decide +kernel

theorem nullFirst_mayActOn : mayActOn nullFirstCtx (nullFirstCtx.wide 0 1) := by decide +kernel

/-- Its read of the image's header faults, and the trap of the read is tagged with element 1. -/
theorem nullFirst_cellRead : cellRead nullFirst nullFirstCtx 1 4 (vaOf (nullFirstCtx.k2 0)) 8 = .stop (.trap .xlate 1 (infoMem 4 0 0)) := by
  decide +kernel

theorem nullFirst_onFabric : onFabric (nullFirstCtx.wide 0 1) = true := by decide +kernel

theorem nullFirst_free : ∀ x ∈ nullFirst.plots, (wordPlace (nullFirstCtx.wide 0 1)).overlaps x.2 = false := by decide +kernel

/-- The firing traps with the tag of its firing set, the first of its run (R105). -/
theorem exec_nullFirst :
    exec (.imgload 0 0 0) nullFirst = .next (trapFiring nullFirst Firing.zero .xlate 0 (infoMem 4 0 0)) := by
  refine (fireOnce_of_trap (tag := 1) nullFirst_firesOnce ?_ : execImgload 0 0 0 nullFirst = _)
  decide +kernel

/-- TTAG of the plot that a trap of that firing leaves. -/
theorem nullFirst_ttag (tag : Nat) :
    (Tab.at? (trapFiring nullFirst Firing.zero .xlate tag (infoMem 4 0 0)).plots 0).map (·.ttag) = some (dw (tag % 2 ^ 40)) := rfl

/-- Refutes O51: ImageForms asks that an IMGLOAD whose read of the header traps leaves the trap with the tag of that read, which is the tag of the
element that fires. The model traps with the tag of the firing set, the first of its run (R105, fireOnce), as it does for every form that fires
once. The two are one where element 0 fires. In nullFirst element 0 is null and the IMGLOAD fires on element 1, so the statement asks for TTAG 1
and the plot shows TTAG 0. -/
theorem not_preemption : ¬ Obligations.Preemption := by
  rintro ⟨-, -, himage⟩
  obtain ⟨-, -, hload, -⟩ := himage nullFirst nullFirst nullFirst nullFirstCtx [0, 1] 1 0 0 0 0 0 nullFirstPlot [] [] [] nullFirst_firesOnce
  obtain ⟨-, -, htrap⟩ := hload .xlate 1 (infoMem 4 0 0) nullFirst_mayActOn nullFirst_cellRead
  have heq : trapFiring nullFirst Firing.zero .xlate 0 (infoMem 4 0 0) = trapFiring nullFirst Firing.zero .xlate 1 (infoMem 4 0 0) :=
    Host.Outcome.next.inj (exec_nullFirst.symm.trans (htrap nullFirst_onFabric nullFirst_free))
  have htag : some (dw (0 % 2 ^ 40)) = some (dw (1 % 2 ^ 40)) := by rw [← nullFirst_ttag 0, ← nullFirst_ttag 1, heq]
  exact absurd htag (by decide)

end Sys2Proof.Machine
end

section
/-!
PROOFS. What a store of the hub leaves of the VIs: it counts bytes in the toll counters, and its walk keeps what it read; every other register
of a VI is as it was.
-/
namespace Sys2Proof.Machine
open Sys2Proof.Claim

/-- A view of a VI that shows neither its toll counters nor what its walker keeps. -/
structure StoreBlind {γ : Type} (f : Vi → γ) : Prop where
  tolls : ∀ (vi : Vi) (t : Tab Dword), f { vi with tolls := t } = f vi
  walked : ∀ (vi : Vi) (t : Tab Dword), f { vi with walked := t } = f vi

/-- A view of every VI of a machine. -/
def viView {γ : Type} (f : Vi → γ) (s : State) (v : Nat) : γ := f (viOf s v)

section
variable {γ : Type} {f : Vi → γ}

theorem viView_congr {s s1 : State} (h : s1.vis = s.vis) : viView f s1 = viView f s := by
  funext v
  simp only [viView, viOf, h]

/-- A change of a VI that the view does not show. -/
theorem onVi_viView (s : State) (v : Nat) {g : Vi → Vi} (h : ∀ vi, f (g vi) = f vi) : viView f (onVi s v g) = viView f s := by
  funext u
  rw [viView, viOf_onVi]
  split
  · next hu => rw [h, hu]; rfl
  · rfl

theorem storeMem_vis (s : State) (line : Nat) (d : Line) (mask : BitVec 128) (side : Option Word) : (storeMem s line d mask side).vis = s.vis := by
  cases side <;> rfl

theorem reportWrite_vis (s : State) (line : Nat) : (reportWrite s line).vis = s.vis := by
  simp only [reportWrite, Bool.cond_eq_ite]
  split <;> rfl

variable (hf : StoreBlind f)
include hf

theorem addToll_viView (s : State) (v i n : Nat) : viView f (addToll s v i n) = viView f s := onVi_viView s v (fun vi => hf.tolls vi _)

theorem chargeLine_viView (s : State) (v line n : Nat) (die : Option Nat) : viView f (chargeLine s v line n die) = viView f s := by
  rw [chargeLine, Bool.cond_eq_ite]
  split
  · exact addToll_viView hf ..
  · exact (addToll_viView hf ..).trans (addToll_viView hf ..)

/-- A line stored in memory and charged. -/
theorem chargeLine_storeMem_viView (s : State) (line n : Nat) (d : Line) (mask : BitVec 128) (side : Option Word) (v : Nat) (die : Option Nat) :
    viView f (chargeLine (storeMem s line d mask side) v line n die) = viView f s :=
  (chargeLine_viView hf ..).trans (viView_congr (storeMem_vis ..))

theorem writeBack_viView (s : State) (n : Nat) (l : L2Line) : viView f (writeBack s n l) = viView f s := by
  simp only [writeBack, Bool.cond_eq_ite]
  split
  · split
    · exact (viView_congr rfl).trans (chargeLine_storeMem_viView hf ..)
    · exact chargeLine_storeMem_viView hf ..
  · rfl

theorem placeLine_viView (s : State) (n key : Nat) (l : L2Line) : viView f (placeLine s n key l) = viView f s := by
  unfold placeLine
  split
  · rfl
  · exact (viView_congr rfl).trans (writeBack_viView hf ..)

theorem storeAt_viView (home : Option Nat) (s : State) (die : Option Nat) (v line : Nat) (d : Line) (mask : BitVec 128) (side : Option Word) :
    viView f (storeAt home s die v line d mask side) = viView f s := by
  have hreport : viView f (reportWrite s line) = viView f s := viView_congr (reportWrite_vis ..)
  have hdraw : ∀ (t : State) (n : Nat), viView f (draw (carry t v (maskBytes mask) die (sliceDie n))).2 = viView f t := fun t n =>
    (viView_congr rfl).trans (addToll_viView hf ..)
  have hplace : ∀ (t : State) (n k : Nat) (l : L2Line), viView f (placeLine (chargeLine t v line 128 (sliceDie n)) n k l) = viView f t :=
    fun t n k l => (placeLine_viView hf ..).trans (chargeLine_viView hf ..)
  simp only [storeAt, Bool.cond_eq_ite]
  split
  · exact (chargeLine_storeMem_viView hf ..).trans hreport
  · split
    · split
      · exact (chargeLine_storeMem_viView hf ..).trans ((viView_congr rfl).trans ((hdraw ..).trans hreport))
      · exact (viView_congr rfl).trans ((hdraw ..).trans hreport)
    · split
      · exact (chargeLine_storeMem_viView hf ..).trans ((hdraw ..).trans hreport)
      · split
        · exact (chargeLine_storeMem_viView hf ..).trans ((hplace ..).trans ((hdraw ..).trans hreport))
        · exact (hplace ..).trans ((hdraw ..).trans hreport)

theorem flushNow_viView (s : State) (port line : Nat) : viView f (flushNow s port line) = viView f s := by
  unfold flushNow
  split
  · rfl
  · exact (viView_congr rfl).trans (storeAt_viView hf ..)

theorem writePa_viView (s : State) (port v pa n val : Nat) : viView f (writePa s port v pa n val) = viView f s :=
  (storeAt_viView hf ..).trans ((viView_congr rfl).trans (flushNow_viView hf ..))

theorem markUsed_viView (s : State) (v : Nat) (w : Walked) (write : Bool) : viView f (markUsed s v w write) = viView f s := by
  have hentry : ∀ (bits : Dword) (t : State) (pa : Nat), viView f (markEntry bits v t pa) = viView f t := by
    intro bits t pa
    refine (onVi_viView _ _ (fun vi => hf.walked vi _)).trans ?_
    rw [Bool.cond_eq_ite]
    split <;> rfl
  have hkeep := fun bits => foldl_keeps (viView f) (hentry bits)
  cases write
  · exact hkeep ..
  · exact (hkeep ..).trans (hkeep ..)

theorem translateHub_viView {s s1 : State} {v va pa : Nat} {n : Need} (h : translateHub s v va n = .ok s1 pa) : viView f s1 = viView f s := by
  unfold translateHub at h
  split at h
  · cases h
  · split at h
    · cases h
    · cases h
      exact markUsed_viView hf ..

theorem reachPa_hub_viView {s s1 : State} {v va pa : Nat} {n : Need} (h : reachPa s (Via.hub v) va n = .ok s1 pa) : viView f s1 = viView f s := by
  have hport : ((Via.hub v).port == hubPort) = true := rfl
  simp only [reachPa, hport, cond_true] at h
  split at h
  · cases h
  · cases h
  · cases h
  · next hx =>
    simp only [Bool.cond_eq_ite] at h
    split at h
    · cases h
    · split at h
      · cases h
        exact translateHub_viView hf hx
      · cases h

theorem writeDwords_hub_viView {v : Nat} (ws : List Dword) : ∀ {s s1 : State} {va : Nat} {u : Unit},
    writeDwords s (Via.hub v) va ws = .ok s1 u → viView f s1 = viView f s := by
  induction ws with
  | nil =>
    intro s s1 va u h
    cases h
    rfl
  | cons w ws ih =>
    intro s s1 va u h
    unfold writeDwords at h
    split at h
    · cases h
    · cases h
    · next hpa => exact (ih h).trans ((writePa_viView hf ..).trans (reachPa_hub_viView hf hpa))

theorem hubStore?_viView {s s1 : State} {v va : Nat} {ws : List Dword} (h : hubStore? s v va ws = some s1) : viView f s1 = viView f s := by
  rw [hubStore?, Bool.cond_eq_ite] at h
  split at h
  · split at h
    · next hw =>
      cases h
      exact writeDwords_hub_viView hf _ hw
    · cases h
  · cases h

theorem ringPut?_viView {s s1 : State} {v base size bytes : Nat} {prod cons : Word} {ws : List Dword}
    (h : ringPut? s v base size bytes prod cons ws = some s1) : viView f s1 = viView f s := by
  unfold ringPut? at h
  split at h
  · cases h
  · exact hubStore?_viView hf h

end
end Sys2Proof.Machine
end

section
/-!
PROOFS. The system registers: the checks of an access (R411-R413), what a register reads after a write (R412), SYSRD and SYSWR (R441).
-/
namespace Sys2Proof.Machine
open Sys2Proof.Claim

/-! ### The checks of an access (R411-R413) -/

section
variable {vi0 : Bool} {v : Nat} {a : Dword} {w : Option Dword} {i : RegInfo}

/-- The side of a register that an access needs. -/
def needs (i : RegInfo) (w : Option Dword) : Reach := if w.isSome = true then i.wr else i.rd

theorem accessWhy?_unassigned (h : regInfo? (selReg a) = none) : accessWhy? vi0 v a w = some 0 := by
  unfold accessWhy?
  rw [h]

theorem accessWhy?_reserved (h : field a 63 61 ≠ 0) : accessWhy? vi0 v a w = some 0 := by
  unfold accessWhy?
  split
  · rfl
  · exact if_pos (.inl h)

theorem accessWhy?_scope (hi : regInfo? (selReg a) = some i) (h : selScope a ≠ i.scope) : accessWhy? vi0 v a w = some 0 := by
  unfold accessWhy?
  rw [hi]
  exact if_pos (.inr h)

/-- The checks that follow those of the register and its scope. -/
theorem accessWhy?_named (hi : regInfo? (selReg a) = some i) (hzero : field a 63 61 = 0) (hscope : selScope a = i.scope) :
    accessWhy? vi0 v a w =
      if (i.scope = 1 ∧ selVi a ≠ v ∧ vi0 = false) ∨ (needs i w = .vi0 ∧ vi0 = false) then some 1
      else if needs i w = .none then some 3
      else if indexOk i (selReg a) (selIndex a) = false then some 2
      else w.bind (fun x => bif valueOk (selReg a) x then none else some 4) := by
  have hgo : ¬(field a 63 61 ≠ 0 ∨ selScope a ≠ i.scope) := by simp [hzero, hscope]
  unfold accessWhy?
  rw [hi]
  cases w <;> exact if_neg hgo

end

theorem indexOk_of_le {i : RegInfo} {r n : Nat} (h : i.size ≤ n) : indexOk i r n = false := by
  rw [indexOk, blt_eq_decide, decide_eq_false (Nat.not_lt.mpr h), Bool.false_and]

theorem indexOk_of_lt {i : RegInfo} {r n : Nat} (h : n < i.size) (hr : r ≠ 0x102) : indexOk i r n = true := by
  rw [indexOk, blt_eq_decide, decide_eq_true h, bne_iff_ne.mpr hr]
  rfl

theorem registerChecks_say : Sys2Proof.Says.RegisterChecks := by
  intro vi0 v a w reg scope vi
  have hreg : selReg a = reg := field_eq_extractLsb' a 49 40
  have hscope : selScope a = scope := field_eq_extractLsb' a 60 59
  have hvi : selVi a = vi := field_eq_extractLsb' a 58 50
  have hindex : selIndex a = (a.extractLsb' 0 40).toNat := field_eq_extractLsb' a 39 0
  refine ⟨fun hnone => accessWhy?_unassigned (hreg ▸ hnone), fun hbits => accessWhy?_reserved (fun h => hbits ?_), fun i hi hzero => ⟨?_, ?_⟩⟩
  · exact BitVec.eq_of_toNat_eq ((field_eq_extractLsb' a 63 61).symm.trans h)
  · exact fun hne => accessWhy?_scope (hreg ▸ hi) (hscope ▸ hne)
  · intro heq
    rw [accessWhy?_named (hreg ▸ hi) (field_eq_zero_of_extract hzero) (hscope.trans heq), hreg, hvi, hindex]
    refine ⟨fun hvis hother hplain => ?_, ?_⟩
    · exact if_pos (.inl ⟨heq ▸ hvis, hother, hplain⟩)
    · intro hown who
      have hwho : needs i w = who := rfl
      have hreach : ¬(i.scope = 1 ∧ vi ≠ v ∧ vi0 = false) := by
        rintro ⟨h1, hne, hplain⟩
        rcases hown (heq.trans h1) with h | h
        · exact hne h
        · simp [hplain] at h
      rw [hwho]
      refine ⟨fun hvi0 hplain => if_pos (.inr ⟨hvi0, hplain⟩), fun hnobody => ?_, fun hable => ?_⟩
      · rw [hnobody]
        exact (if_neg (by simp [hreach])).trans (if_pos rfl)
      · have hgo : ¬((i.scope = 1 ∧ vi ≠ v ∧ vi0 = false) ∨ (who = .vi0 ∧ vi0 = false)) := by
          rintro (h | ⟨h, hplain⟩)
          · exact hreach h
          · rcases hable with hall | ⟨-, hyes⟩
            · cases hall.symm.trans h
            · simp [hplain] at hyes
        have hsome : who ≠ .none := by
          rintro hnone
          rcases hable with hall | ⟨hvi0, -⟩
          · cases hall.symm.trans hnone
          · cases hvi0.symm.trans hnone
        rw [if_neg hgo, if_neg hsome]
        refine ⟨fun hout => if_pos (indexOk_of_le hout), fun hin hplainReg => ?_⟩
        · rw [indexOk_of_lt hin hplainReg, if_neg Bool.true_eq_false.mp]
          refine ⟨fun hread => ?_, fun x hwrite => ?_⟩
          · rw [hread]
            rfl
          · rw [hwrite, Option.bind_some, Bool.cond_eq_ite]

/-! ### SYSRD and SYSWR (R441) -/

section
variable {s : State} {c : Ctx} {es : List Nat} {e : Nat} {c1 c0 : Cons}

theorem exec_sysrd_refused {why : Nat} (hf : FiresOnce s c es e) (hwhy : accessWhy? (isVi0 c.plot) c.plot.vi (c.wide 0 e) none = some why) :
    exec (.sysrd c1 c0) s = .next (sysStop s c why (c.wide 0 e)) := by
  refine (fireOnce_of_sysTrap hf ?_ : execSysrd c1 c0 s = _)
  simp only [hwhy]

theorem exec_sysrd_absent (hf : FiresOnce s c es e) (hok : accessWhy? (isVi0 c.plot) c.plot.vi (c.wide 0 e) none = none)
    (hread : readSel? s c (c.wide 0 e) = none) : exec (.sysrd c1 c0) s = .next (sysStop s c 2 (c.wide 0 e)) := by
  refine (fireOnce_of_sysTrap hf ?_ : execSysrd c1 c0 s = _)
  simp only [hok, hread]

theorem exec_sysrd_value {v : Dword} (hf : FiresOnce s c es e) (hok : accessWhy? (isVi0 c.plot) c.plot.vi (c.wide 0 e) none = none)
    (hread : readSel? s c (c.wide 0 e) = some v) :
    exec (.sysrd c1 c0) s = .next (complete s c 2 es (both c1 c0 .s64 [(0, .val v)])) := by
  refine (fireOnce_of_done hf ?_ : execSysrd c1 c0 s = _)
  simp only [hok, hread]
  rfl

theorem exec_syswr_refused {why : Nat} (hf : FiresOnce s c es e) (hwhy : writeWhy? s c (c.wide 0 e) (c.wide 1 e) = some why) :
    exec (.syswr c1 c0) s = .next (sysStop s c why (c.wide 0 e)) := by
  refine (fireOnce_of_sysTrap hf ?_ : execSyswr c1 c0 s = _)
  simp only [hwhy]

/-- A write of a plot that is there is refused as its access is. -/
theorem writeWhy?_of_access {a w : Dword} {why : Option Nat} (hwhy : accessWhy? (isVi0 c.plot) c.plot.vi a (some w) = why)
    (hthere : why.getD 4 = 4 → selScope a = 0 → plotTarget? s c ≠ none) : writeWhy? s c a w = why := by
  rw [writeWhy?, hwhy, Bool.cond_eq_ite, if_neg]
  simp only [Bool.and_eq_true, beq_iff_eq, Option.isNone_iff_eq_none]
  rintro ⟨⟨hfour, hplot⟩, hnone⟩
  exact hthere hfour hplot hnone

theorem exec_syswr_plot {key : Nat} {p : Plot} (hf : FiresOnce s c es e)
    (hok : accessWhy? (isVi0 c.plot) c.plot.vi (c.wide 0 e) (some (c.wide 1 e)) = none) (hscope : selScope (c.wide 0 e) = 0)
    (htarget : plotTarget? s c = some (key, p)) : exec (.syswr c1 c0) s =
      .next (complete (onPlot s key (fun p => writePlotReg p (selReg (c.wide 0 e)) (c.wide 1 e))) c 2 es (zero32 c1 c0)) := by
  have hwhy := writeWhy?_of_access (s := s) hok (fun _ _ => by simp [htarget])
  refine (fireOnce_of_done hf ?_ : execSyswr c1 c0 s = _)
  simp only [hwhy, hscope, htarget]
  rfl

theorem exec_syswr_vi (hf : FiresOnce s c es e)
    (hok : accessWhy? (isVi0 c.plot) c.plot.vi (c.wide 0 e) (some (c.wide 1 e)) = none) (hscope : selScope (c.wide 0 e) = 1) :
    exec (.syswr c1 c0) s = .next (complete (writeViReg s (selVi (c.wide 0 e)) (selReg (c.wide 0 e)) (selIndex (c.wide 0 e)) (c.wide 1 e)) c 2 es
      (zero32 c1 c0)) := by
  have hwhy := writeWhy?_of_access (s := s) hok (fun _ h => absurd (hscope.symm.trans h) (by decide))
  refine (fireOnce_of_done hf ?_ : execSyswr c1 c0 s = _)
  simp only [hwhy, hscope]
  rfl

theorem exec_syswr_module (hf : FiresOnce s c es e)
    (hok : accessWhy? (isVi0 c.plot) c.plot.vi (c.wide 0 e) (some (c.wide 1 e)) = none) (hscope : selScope (c.wide 0 e) = 2) :
    exec (.syswr c1 c0) s = .next (complete (writeModuleReg s (selReg (c.wide 0 e)) (selIndex (c.wide 0 e)) (c.wide 1 e)) c 2 es
      (zero32 c1 c0)) := by
  have hwhy := writeWhy?_of_access (s := s) hok (fun _ h => absurd (hscope.symm.trans h) (by decide))
  refine (fireOnce_of_done hf ?_ : execSyswr c1 c0 s = _)
  simp only [hwhy, hscope]
  rfl

/-- A plot register of a plot that is not there: TREC is read in the issuing plot. -/
theorem readSel?_absent {a : Dword} (hscope : selScope a = 0) (hreg : selReg a ≠ 0x00D) (hnone : plotTarget? s c = none) : readSel? s c a = none := by
  simp only [readSel?, hscope, if_neg hreg, hnone]

/-- A plot register of the plot that issues, which is no handler's. -/
theorem readSel?_own {a : Dword} (hscope : selScope a = 0) (hrole : c.plot.role ≠ .handler) :
    readSel? s c a = plotRegValue? s c.plot (selReg a) (selIndex a) := by
  have htarget : plotTarget? s c = some (c.f.plot, c.plot) := by
    unfold plotTarget?
    split
    · next h => exact absurd h hrole
    · rfl
  simp only [readSel?, hscope, htarget]
  split
  · next h => rw [h]
  · rfl

/-- A plot that is not there comes before a value that is not valid. -/
theorem writeWhy?_absent {a w : Dword} (hwhy : accessWhy? (isVi0 c.plot) c.plot.vi a (some w) ∈ [none, some 4]) (hscope : selScope a = 0)
    (hnone : plotTarget? s c = none) : writeWhy? s c a w = some 2 := by
  have hgetD : (accessWhy? (isVi0 c.plot) c.plot.vi a (some w)).getD 4 = 4 := by
    rcases List.mem_pair.mp hwhy with h | h <;> rw [h] <;> rfl
  rw [writeWhy?, hgetD, hscope, hnone]
  rfl

end

theorem systemRegisters_say : Sys2Proof.Says.SystemRegisters := by
  intro s c es e c1 c0 hf
  dsimp only
  rw [← field_eq_extractLsb' (c.wide 0 e) 49 40, ← field_eq_extractLsb' (c.wide 0 e) 58 50, ← field_eq_extractLsb' (c.wide 0 e) 39 0]
  have hscope : ∀ n : BitVec 2, (c.wide 0 e).extractLsb' 59 2 = n → selScope (c.wide 0 e) = n.toNat := fun n h =>
    (field_eq_extractLsb' _ 60 59).trans (congrArg BitVec.toNat h)
  have hscope0 : selScope (c.wide 0 e) = 0 → (c.wide 0 e).extractLsb' 59 2 = 0#2 := fun h =>
    BitVec.eq_of_toNat_eq ((field_eq_extractLsb' _ 60 59).symm.trans h)
  refine ⟨fun why hwhy => exec_sysrd_refused hf hwhy, fun why hwhy hvalue => ?_, fun hplot hnone => ⟨fun hreg hok => ?_, fun hwhy => ?_⟩,
    fun hok => ⟨fun hplot hrole v hv hat => ?_, fun hvi => ?_, fun hmodule => ?_⟩, fun hok => ⟨fun key p hplot htarget => ?_, fun hvi => ?_,
      fun hmodule => ?_⟩⟩
  · exact exec_syswr_refused hf (writeWhy?_of_access hwhy (fun hfour hplot => hvalue hfour (hscope0 hplot)))
  · exact exec_sysrd_absent hf hok (readSel?_absent (hscope _ hplot) hreg hnone)
  · exact exec_syswr_refused hf (writeWhy?_absent hwhy (hscope _ hplot) hnone)
  · exact exec_sysrd_value hf hok ((readSel?_own (hscope _ hplot) hrole).trans hv)
  · refine exec_sysrd_value hf hok ?_
    simp only [readSel?, hscope _ hvi]
    rfl
  · refine exec_sysrd_value hf hok ?_
    simp only [readSel?, hscope _ hmodule]
    rfl
  · exact exec_syswr_plot hf hok (hscope _ hplot) htarget
  · exact exec_syswr_vi hf hok (hscope _ hvi)
  · exact exec_syswr_module hf hok (hscope _ hmodule)

end Sys2Proof.Machine
end

section
/-!
PROOFS. What a register reads after a write (R412).
-/
namespace Sys2Proof.Machine
open Sys2Proof.Claim

/-! ### Values of 32 bits (R413) -/

/-- A word that may be written to a register of 32 bits is one of 32 bits. -/
theorem zx32_lo32_of_valueOk {r : Nat} {w : Dword} (hok : valueOk r w = true) (hr : writable r = 2 ^ 32 - 1) : zx32 (lo32 w) = w := by
  have hbits : w.toNat ||| (2 ^ 32 - 1) = 2 ^ 32 - 1 := by
    unfold valueOk at hok
    rw [hr, Bool.and_eq_true, beq_iff_eq] at hok
    exact hok.1
  have hlt : w.toNat < 2 ^ 32 := Nat.lt_of_le_of_lt (hbits ▸ Nat.left_le_or) (by decide)
  rw [lo32_eq_setWidth, zx32_eq_setWidth]
  refine BitVec.eq_of_toNat_eq ?_
  rw [BitVec.toNat_setWidth, BitVec.toNat_setWidth, Nat.mod_eq_of_lt hlt, Nat.mod_eq_of_lt w.isLt]

/-! ### Views of a VI that a write leaves -/

/-- The fault records of a VI tried again leave what does not show them, their vector or the bytes moved. -/
theorem retryFaults_viView {γ : Type} {f : Vi → γ} (hf : StoreBlind f) (hfaults : ∀ (vi : Vi) l n, f { vi with faults := l, frprod := n } = f vi)
    (hirq : ∀ (vi : Vi) p o, f { vi with ipend := p, iorder := o } = f vi) (s : State) (v : Nat) : viView f (retryFaults s v) = viView f s := by
  have hraise : ∀ t : State, viView f (raiseIrq t v 17) = viView f t := by
    intro t
    rw [raiseIrq, Bool.cond_eq_ite]
    split
    · rfl
    · exact onVi_viView t v (fun vi => hirq vi _ _)
  have hflush : ∀ (fuel : Nat) (t : State), viView f (flushFaults fuel t v) = viView f t := by
    intro fuel
    induction fuel with
    | zero => exact fun _ => rfl
    | succ fuel ih =>
      intro t
      unfold flushFaults
      dsimp only
      split
      · rfl
      · split
        · rfl
        · next hput => exact (ih _).trans ((hraise _).trans ((onVi_viView _ v (fun vi => hfaults vi _ _)).trans (ringPut?_viView hf hput)))
  exact hflush ..

theorem storeBlind_fring : StoreBlind Vi.fring := ⟨fun _ _ => rfl, fun _ _ => rfl⟩

theorem storeBlind_frcons : StoreBlind Vi.frcons := ⟨fun _ _ => rfl, fun _ _ => rfl⟩

theorem retryFaults_fring (s : State) (v : Nat) : (viOf (retryFaults s v) v).fring = (viOf s v).fring :=
  congrFun (retryFaults_viView storeBlind_fring (fun _ _ _ => rfl) (fun _ _ _ => rfl) s v) v

theorem retryFaults_frcons (s : State) (v : Nat) : (viOf (retryFaults s v) v).frcons = (viOf s v).frcons :=
  congrFun (retryFaults_viView storeBlind_frcons (fun _ _ _ => rfl) (fun _ _ _ => rfl) s v) v

/-- The vectors that are delivered of a VI at the end of a cycle (R415, R461). -/
def sentIrqs (s : State) (v : Nat) : List (Nat × Nat) :=
  (viOf s v).iorder.filter (fun x => !(viOf s v).imask.getLsbD x.2 && !(viOf s v).msix.getLsbD x.2 && x.1 != s.time.toNat)

/-- A VI from whose order the vectors that are delivered have gone. -/
def withoutSent (s : State) (v : Nat) (vi : Vi) : Vi := { vi with iorder := vi.iorder.filter (fun x => !(sentIrqs s v).contains x) }

theorem deliverIrqs_eq (s : State) (v : Nat) : deliverIrqs s v =
    if (sentIrqs s v).isEmpty = true then s
    else { onVi s v (withoutSent s v) with msi := s.msi ++ (sentIrqs s v).map (fun x => (v, x.2)) } := by
  rw [deliverIrqs, Bool.cond_eq_ite]
  rfl

theorem viOf_deliverIrqs_same (s : State) (v : Nat) : viOf (deliverIrqs s v) v = withoutSent s v (viOf s v) := by
  rw [deliverIrqs_eq]
  split
  · next h =>
    have hall : (viOf s v).iorder.filter (fun x => !([] : List (Nat × Nat)).contains x) = (viOf s v).iorder :=
      List.filter_eq_self.mpr (fun _ _ => rfl)
    rw [withoutSent, List.isEmpty_iff.mp h, hall]
  · exact viOf_onVi_same s v (withoutSent s v)

theorem viOf_deliverIrqs_ne (s : State) {v u : Nat} (h : u ≠ v) : viOf (deliverIrqs s v) u = viOf s u := by
  rw [deliverIrqs_eq]
  split
  · rfl
  · exact viOf_onVi_ne s (withoutSent s v) h

/-! ### The job queues -/

/-- A job queue of a VI. -/
def queueOf (s : State) (v q : Nat) : JobQueue := Tab.atD (viOf s v).queues q JobQueue.reset

theorem queueOf_onQueue (s : State) (v q : Nat) (g : JobQueue → JobQueue) : queueOf (onQueue s v q g) v q = g (queueOf s v q) := by
  rw [queueOf, onQueue, viOf_onVi_same]
  exact Tab.atD_updD_same ..

theorem bounded_tail (j : JobQueue) : j.bounded.tail = j.tail := by
  rw [bounded_eq]
  split <;> rfl

/-! ### What is read after a write (R412) -/

section
variable {s : State} {v n r : Nat} {w : Dword}

/-- The registers that hold the word written. -/
theorem viRegValue_write_word (hr : r ∈ [0x040, 0x041, 0x045, 0x04B, 0x050, 0x060, 0x061, 0x062, 0x068, 0x06E]) :
    viRegValue (viOf (writeViReg s v r n w) v) r n = w := by
  fin_cases hr <;> simp [writeViReg, writeTvec, viRegValue, viOf_onVi_same]

/-- The registers that hold its low half. -/
theorem viRegValue_write_half (hr : r ∈ [0x043, 0x04D, 0x066, 0x06A]) : viRegValue (viOf (writeViReg s v r n w) v) r n = zx32 (lo32 w) := by
  fin_cases hr <;> simp [writeViReg, viRegValue, viOf_onVi_same]

theorem viRegValue_write_imask : viRegValue (viOf (writeViReg s v 0x04A n w) v) 0x04A n = w :=
  (congrArg Vi.imask (viOf_deliverIrqs_same ..)).trans (congrArg Vi.imask (viOf_onVi_same s v (fun vi => { vi with imask := w })))

theorem viRegValue_write_fring : viRegValue (viOf (writeViReg s v 0x063 n w) v) 0x063 n = w :=
  (retryFaults_fring ..).trans (congrArg Vi.fring (viOf_onVi_same s v _))

theorem viRegValue_write_frcons : viRegValue (viOf (writeViReg s v 0x065 n w) v) 0x065 n = zx32 (lo32 w) :=
  congrArg zx32 ((retryFaults_frcons ..).trans (congrArg Vi.frcons (viOf_onVi_same s v _)))

theorem viRegValue_write_tail : viRegValue (viOf (writeViReg s v 0x073 n w) v) 0x073 n = zx32 (lo32 w) :=
  congrArg zx32 ((congrArg JobQueue.tail (queueOf_onQueue s v n _)).trans (bounded_tail _))

theorem viRegValue_write_cring : viRegValue (viOf (writeViReg s v 0x075 n w) v) 0x075 n = w :=
  congrArg JobQueue.cring (queueOf_onQueue s v n _)

theorem viRegValue_write_ccons : viRegValue (viOf (writeViReg s v 0x077 n w) v) 0x077 n = zx32 (lo32 w) :=
  congrArg (fun j => zx32 (JobQueue.ccons j)) (queueOf_onQueue s v n _)

theorem viRegValue_write_jnl : viRegValue (viOf (writeViReg s v 0x078 n w) v) 0x078 n = w :=
  congrArg JobQueue.jnl (queueOf_onQueue s v n _)

/-- The writable registers that read what was written, of those whose writes do no more. -/
theorem viRegValue_write (hok : valueOk r w = true) (hr : r ∈ [0x040, 0x041, 0x043, 0x045, 0x04A, 0x04B, 0x04D, 0x050, 0x060, 0x061, 0x062, 0x063,
    0x065, 0x066, 0x068, 0x06A, 0x06E, 0x073, 0x075, 0x077, 0x078]) : viRegValue (viOf (writeViReg s v r n w) v) r n = w := by
  have hkind : r ∈ [0x040, 0x041, 0x045, 0x04B, 0x050, 0x060, 0x061, 0x062, 0x068, 0x06E] ∨ r ∈ [0x043, 0x04D, 0x066, 0x06A] ∨ r = 0x04A ∨ r = 0x063 ∨
      r = 0x065 ∨ r = 0x073 ∨ r = 0x075 ∨ r = 0x077 ∨ r = 0x078 := by
    simp only [List.mem_cons, List.not_mem_nil, or_false] at hr ⊢
    omega
  rcases hkind with hword | hhalf | rfl | rfl | rfl | rfl | rfl | rfl | rfl
  · exact viRegValue_write_word hword
  · rw [viRegValue_write_half hhalf]
    refine zx32_lo32_of_valueOk hok ?_
    fin_cases hhalf <;> rfl
  · exact viRegValue_write_imask
  · exact viRegValue_write_fring
  · exact viRegValue_write_frcons.trans (zx32_lo32_of_valueOk hok rfl)
  · exact viRegValue_write_tail.trans (zx32_lo32_of_valueOk hok rfl)
  · exact viRegValue_write_cring
  · exact viRegValue_write_ccons.trans (zx32_lo32_of_valueOk hok rfl)
  · exact viRegValue_write_jnl

/-- A queue enabled by a write of its base: one that holds more than its ring is stopped, with OVR set (R380). -/
theorem queueOf_write_base : queueOf (writeViReg s v 0x071 n w) v n = ({ queueOf s v n with base := w } : JobQueue).bounded := queueOf_onQueue s v n _

theorem ipend_write : (viOf (writeViReg s v 0x049 0 w) v).ipend = (viOf s v).ipend &&& ~~~w := congrArg Vi.ipend (viOf_onVi_same s v _)

theorem viRegValue_squota (vi : Vi) : viRegValue vi 0x06D 0 = vi.squota := rfl

theorem squota_write : (viOf (writeViReg s v 0x06D 0 w) v).squota = dw (field (viOf s v).squota 47 32 * 2 ^ 32 + field w 15 0) := by
  rw [← Nat.shiftLeft_eq]
  exact congrArg Vi.squota (viOf_onVi_same s v _)

/-- A field as the bits that it is. -/
theorem ofNat_field {m : Nat} (x : BitVec m) (hi lo : Nat) : BitVec.ofNat (hi + 1 - lo) (field x hi lo) = x.extractLsb' lo (hi + 1 - lo) := by
  rw [field_eq_extractLsb', BitVec.ofNat_toNat, BitVec.setWidth_eq]

/-- The low bits of a word packed of two halves. -/
theorem packed_low (x y : Nat) : (dw (x * 2 ^ 32 + y)).extractLsb' 0 16 = BitVec.ofNat 16 y := by
  refine BitVec.eq_of_toNat_eq ?_
  rw [BitVec.extractLsb'_toNat, dw, BitVec.toNat_ofNat, BitVec.toNat_ofNat, Nat.shiftRight_eq_div_pow]
  omega

theorem packed_high (x y : Nat) (hy : y < 2 ^ 16) : (dw (x * 2 ^ 32 + y)).extractLsb' 32 16 = BitVec.ofNat 16 x := by
  refine BitVec.eq_of_toNat_eq ?_
  rw [BitVec.extractLsb'_toNat, dw, BitVec.toNat_ofNat, BitVec.toNat_ofNat, Nat.shiftRight_eq_div_pow]
  omega

theorem field_15_0_lt (w : Dword) : field w 15 0 < 2 ^ 16 := Nat.mod_lt _ (by decide)

theorem squota_write_low : (viRegValue (viOf (writeViReg s v 0x06D 0 w) v) 0x06D 0).extractLsb' 0 16 = w.extractLsb' 0 16 := by
  rw [viRegValue_squota, squota_write, packed_low]
  exact ofNat_field w 15 0

theorem squota_write_high :
    (viRegValue (viOf (writeViReg s v 0x06D 0 w) v) 0x06D 0).extractLsb' 32 16 = (viOf s v).squota.extractLsb' 32 16 := by
  rw [viRegValue_squota, squota_write, packed_high _ _ (field_15_0_lt w)]
  exact ofNat_field (viOf s v).squota 47 32

/-- Bits of a word cleared, in the word widened. -/
theorem setWidth_and_not (x y : Word) : (x &&& ~~~y).setWidth 64 = x.setWidth 64 &&& ~~~y.setWidth 64 := by
  ext i hi
  by_cases h32 : i < 32
  · simp [h32]
  · simp [h32, BitVec.getLsbD_of_ge x i (Nat.not_lt.mp h32)]

theorem viRegValue_err (s : State) (v n : Nat) : viRegValue (viOf s v) 0x074 n = (queueOf s v n).err.setWidth 64 := zx32_eq_setWidth _

theorem viRegValue_write_err : viRegValue (viOf (writeViReg s v 0x074 n w) v) 0x074 n =
    viRegValue (viOf s v) 0x074 n &&& ~~~((w.setWidth 32).setWidth 64) := by
  have herr : queueOf (writeViReg s v 0x074 n w) v n = { queueOf s v n with err := (queueOf s v n).err &&& ~~~lo32 w } := queueOf_onQueue s v n _
  rw [viRegValue_err, viRegValue_err, herr, lo32_eq_setWidth, setWidth_and_not]

/-- Other VIs see nothing of a write but for resets, traps resolved and accesses that go on. -/
theorem viOf_write_ne {u : Nat} (hu : u ≠ v) (hreset : r ≠ 0x04F) (htvec : r ≠ 0x040) (hrsp : r ≠ 0x044) (hfring : r ≠ 0x063) (hfrcons : r ≠ 0x065)
    (hresume : r ≠ 0x067) : viOf (writeViReg s v r n w) u = viOf s u := by
  unfold writeViReg
  dsimp only
  split
  case h_1 => exact absurd rfl htvec
  case h_4 => exact absurd rfl hrsp
  case h_7 => exact (viOf_deliverIrqs_ne _ hu).trans (viOf_onVi_ne s _ hu)
  case h_10 => exact absurd rfl hreset
  case h_15 => exact absurd rfl hfring
  case h_16 => exact absurd rfl hfrcons
  case h_18 => exact absurd rfl hresume
  case h_30 => rfl
  all_goals exact viOf_onVi_ne s _ hu

end

theorem registersHold_say : Sys2Proof.Says.RegistersHold := by
  intro s v n r w hok
  refine ⟨viRegValue_write hok, ?_, fun k hk => ?_, ?_, ?_, ?_, fun u hu h1 h2 h3 h4 h5 h6 => viOf_write_ne hu h1 h2 h3 h4 h5 h6, fun hr => ?_, ?_, ?_, rfl,
    ?_⟩
  · rintro rfl q t size
    have hbase : queueOf t v n = ({ q with base := w } : JobQueue).bounded := queueOf_write_base
    rw [bounded_eq] at hbase
    refine ⟨fun hfits => ?_, fun hover => ?_⟩
    · rw [if_neg (Nat.not_lt.mpr hfits)] at hbase
      exact congrArg JobQueue.base hbase
    · rw [if_pos hover] at hbase
      exact ⟨congrArg JobQueue.base hbase, congrArg (fun j => zx32 (JobQueue.err j)) hbase⟩
  · rw [ipend_write, BitVec.getLsbD_and, BitVec.getLsbD_not, decide_eq_true hk, Bool.true_and]
  · exact squota_write_low
  · exact squota_write_high
  · exact viRegValue_write_err
  · simp only [List.mem_cons, List.not_mem_nil, or_false] at hr
    rcases hr with rfl | rfl <;> rfl
  · rintro rfl hkeys
    exact (congrArg (fun vi => Tab.atD (Vi.poolmem vi) n 0) (viOf_onVi_same s v _)).trans (Tab.atD_put_same n w 0 hkeys)
  · intro hr hkeys
    simp only [List.mem_cons, List.not_mem_nil, or_false] at hr
    rcases hr with rfl | rfl
    · exact Tab.atD_put_same (2 * n) w 0 hkeys
    · exact Tab.atD_put_same (2 * n + 1) w 0 hkeys
  · exact congrArg (·.getD 0) (Tab.at?_set_same s.bellNext n w)

/-- Settles O52: the checks come in the order of R413, SYSRD and SYSWR do what is let through, and a register reads back by what its write sets. -/
theorem systemRegisters : Obligations.SystemRegisters := ⟨systemRegisters_say, registerChecks_say, registersHold_say⟩

end Sys2Proof.Machine
end

section
/-!
PROOFS. The host's accesses of memory through BAR4 (R460) and the interrupts of a VI (R414-R416, R461).
-/
namespace Sys2Proof.Machine
open Sys2Proof.Claim

/-! ### Functions that answer (R458, R465, R466) -/

theorem hostUp_iff {s : State} {v : Nat} : hostUp s v = true ↔ Claim.readable s v := by
  simp only [hostUp, Claim.readable, blt_eq_decide, Bool.and_eq_true, decide_eq_true_eq, and_assoc]

theorem reachable_of_readable {s : State} {v : Nat} (h : Claim.readable s v) (hidle : (viOf s v).busy = false) : reachable s v := by
  obtain ⟨hv, hready, hpower⟩ := h
  exact ⟨hv, hready, hpower, hidle⟩

section
variable {s s1 : State} {v size port pa : Nat} {off : BitVec 40} {w : Dword} {wr : Option Dword}

theorem hostAccess_down (h : ¬Claim.readable s v) : hostAccess v off size none s = .next (hostAnswer s 0) :=
  if_pos (Bool.eq_false_iff.mpr (fun hup => h (hostUp_iff.mp hup)))

theorem hostAccess_dropped (h : ¬reachable s v) : hostAccess v off size (some w) s = .next s :=
  if_pos (Bool.eq_false_iff.mpr (fun hok => h (hostOk_iff.mp hok)))

theorem hostAccess_part_read (h : Claim.readable s v) (hpart : size ≠ 8 ∨ off.toNat % 8 ≠ 0) :
    hostAccess v off size none s = .next (hostAnswer s (BitVec.allOnes 64)) :=
  (if_neg (ne_false_of_eq_true (hostUp_iff.mpr h))).trans (if_pos (hostWhole_eq_false.mpr hpart))

theorem hostAccess_part_write (hpart : size ≠ 8 ∨ off.toNat % 8 ≠ 0) : hostAccess v off size (some w) s = .next s := by
  by_cases h : reachable s v
  · exact (if_neg (ne_false_of_eq_true (hostOk_iff.mpr h))).trans (if_pos (hostWhole_eq_false.mpr hpart))
  · exact hostAccess_dropped h

end

/-! ### What an access finds (R460) -/

/-- The end of a host read that finds a way, a fault, or a wait. -/
def hostRead (s : State) (v va : Nat) : Except (Option Nat) (State × Nat × Nat) → State
  | .ok (t, port, pa) => hostAnswer (readPa t port v pa 8).1 (dw (readPa t port v pa 8).2.1)
  | .error none => { askReeve s (Via.host v) va false with hostQ := s.hostQ ++ [(v, va, none)] }
  | .error (some cause) => hostAnswer (putFault s v 2 cause 0 va 0 0) (BitVec.allOnes 64)

/-- The end of a host write. -/
def hostWritten (s : State) (v va : Nat) (w : Dword) : Except (Option Nat) (State × Nat × Nat) → State
  | .ok (t, port, pa) => writePa t port v pa 8 w.toNat
  | .error none => { askReeve s (Via.host v) va true with hostQ := s.hostQ ++ [(v, va, some w)] }
  | .error (some cause) => putFault s v 2 cause 0 va 0 0

section
variable {s s1 : State} {v port pa : Nat} {off : BitVec 40} {w : Dword}

theorem exec_hostRead (h : Claim.readable s v) (hmod : off.toNat % 8 = 0) :
    exec (.hostMemoryAccess v off none) s = .next (hostRead s v off.toNat (hostWay s v off.toNat false)) := by
  refine ((if_neg (ne_false_of_eq_true (hostUp_iff.mpr h))).trans (if_neg (hostWhole_of_mod hmod)) : hostAccess v off 8 none s = _).trans ?_
  simp only [Option.isSome_none]
  cases hostWay s v off.toNat false with
  | ok x => rfl
  | error o => cases o <;> rfl

theorem exec_hostWrite (h : reachable s v) (hmod : off.toNat % 8 = 0) :
    exec (.hostMemoryAccess v off (some w)) s = .next (hostWritten s v off.toNat w (hostWay s v off.toNat true)) := by
  refine ((if_neg (ne_false_of_eq_true (hostOk_iff.mpr h))).trans (if_neg (hostWhole_of_mod hmod)) : hostAccess v off 8 (some w) s = _).trans ?_
  simp only [Option.isSome_some]
  cases hostWay s v off.toNat true with
  | ok x => rfl
  | error o => cases o <;> rfl

variable {va : Nat} {write here : Bool}

/-- The need of an access. -/
def hostNeed (write : Bool) : Need := bif write then .write else .read

theorem hostWay_ok (hpa : translateNow s v va (hostNeed write) = .ok s1 pa) (hthere : paReserved s1 pa = false)
    (hport : hostPort (viOf s1 v) va write = (port, true)) (hready : lineReady s1 port v (pa / 128) = true) :
    hostWay s v va write = .ok (s1, port, pa) := by
  unfold hostWay
  rw [show translateNow s v va (bif write then .write else .read) = .ok s1 pa from hpa]
  simp only [hport, hthere, Bool.false_eq_true, if_false, hready, Bool.and_self, if_true]

/-- A hand-over of the region holds a write back (R263). -/
theorem hostWay_held (hpa : translateNow s v va (hostNeed write) = .ok s1 pa) (hthere : paReserved s1 pa = false)
    (hport : hostPort (viOf s1 v) va write = (port, false)) : hostWay s v va write = .error none := by
  unfold hostWay
  rw [show translateNow s v va (bif write then .write else .read) = .ok s1 pa from hpa]
  simp only [hport, hthere, Bool.false_eq_true, if_false, Bool.false_and]

theorem hostWay_reserved (hpa : translateNow s v va (hostNeed write) = .ok s1 pa) (hgone : paReserved s1 pa = true) :
    hostWay s v va write = .error (some 9) := by
  unfold hostWay
  rw [show translateNow s v va (bif write then .write else .read) = .ok s1 pa from hpa]
  simp only [hgone, if_true]

theorem hostWay_xlate {why : Nat} (hfail : translateNow s v va (hostNeed write) = .fail s1 (.xlate why)) :
    hostWay s v va write = .error (some why) := by
  unfold hostWay
  rw [show translateNow s v va (bif write then .write else .read) = .fail s1 (.xlate why) from hfail]

theorem hostWay_migrate {entry pfn lg : Nat} (hfail : translateNow s v va (hostNeed write) = .fail s1 (.migrate entry pfn lg)) :
    hostWay s v va write = .error none := by
  unfold hostWay
  rw [show translateNow s v va (bif write then .write else .read) = .fail s1 (.migrate entry pfn lg) from hfail]

/-- A read passes the hub. -/
theorem hostPort_read (vi : Vi) (va : Nat) : hostPort vi va false = (hubPort, true) := rfl

theorem hostPort_open {vi : Vi} (h : regionOf? vi va = none) : hostPort vi va true = (hubPort, true) := by
  simp only [hostPort, cond_true, h, Option.bind_none]

theorem hostPort_owner {vi : Vi} {r : Nat} {o : Owner} (h : regionOf? vi va = some r) (ho : Tab.at? vi.owners r = some o) :
    hostPort vi va true = (o.port, o.here) := by
  simp only [hostPort, cond_true, h, Option.bind_some, ho]

end

theorem hostMemory_says : Sys2Proof.Says.HostMemory := by
  intro s s1 v pa off w answered
  have hones : BitVec.allOnes 64 = 0xFFFFFFFFFFFFFFFF := rfl
  refine ⟨hostAccess_down, hostAccess_dropped, fun size hpart => ⟨fun h => hostAccess_part_read h hpart, hostAccess_part_write hpart⟩,
    fun wr => rfl, fun h hmod => ⟨fun hpa hthere hready => ?_, fun hbusy hpa hthere => ⟨fun hopen hready => ?_, fun r o hr ho hhere hready => ?_,
      fun r o hr ho hhere => ?_⟩, fun hpa hgone => ?_, fun why hfail => ?_, fun why hbusy hfail => ?_, fun entry pfn lg hfail => ?_⟩⟩
  · rw [exec_hostRead h hmod, hostWay_ok (write := false) hpa hthere (hostPort_read ..) hready]
    rfl
  · rw [exec_hostWrite (reachable_of_readable h hbusy) hmod, hostWay_ok (write := true) hpa hthere (hostPort_open hopen) hready]
    rfl
  · rw [exec_hostWrite (reachable_of_readable h hbusy) hmod, hostWay_ok (write := true) hpa hthere (hhere ▸ hostPort_owner hr ho) hready]
    rfl
  · rw [exec_hostWrite (reachable_of_readable h hbusy) hmod, hostWay_held (write := true) hpa hthere (hhere ▸ hostPort_owner hr ho)]
    rfl
  · rw [exec_hostRead h hmod, hostWay_reserved (write := false) hpa hgone]
    rfl
  · rw [exec_hostRead h hmod, hostWay_xlate (write := false) hfail]
    rfl
  · rw [exec_hostWrite (reachable_of_readable h hbusy) hmod, hostWay_xlate (write := true) hfail]
    rfl
  · rw [exec_hostRead h hmod, hostWay_migrate (write := false) hfail]
    rfl

/-! ### Vectors (R414-R416, R461) -/

theorem mem_putIrq {x y : Nat × Nat} {l : List (Nat × Nat)} : y ∈ putIrq x l ↔ y = x ∨ y ∈ l := by
  induction l with
  | nil => simp [putIrq]
  | cons z t ih =>
    rw [putIrq, Bool.cond_eq_ite]
    split
    · exact List.mem_cons
    · rw [List.mem_cons, ih, List.mem_cons]
      exact or_left_comm

theorem irqBefore_trans {x y z : Nat × Nat} (hxy : irqBefore x y) (hyz : irqBefore y z) : irqBefore x z := by
  simp only [irqBefore] at *
  omega

/-- A vector of the latest cycle put among vectors in order leaves them in order. -/
theorem pairwise_putIrq {x : Nat × Nat} {l : List (Nat × Nat)} (hl : l.Pairwise irqBefore) (hlast : ∀ y ∈ l, y.1 ≤ x.1 ∧ y ≠ x) :
    (putIrq x l).Pairwise irqBefore := by
  induction l with
  | nil => exact List.pairwise_singleton _ _
  | cons y t ih =>
    obtain ⟨hy, ht⟩ := List.pairwise_cons.mp hl
    obtain ⟨hle, hne⟩ := hlast y List.mem_cons_self
    rw [putIrq, Bool.cond_eq_ite]
    split
    · next hbefore =>
      simp only [Bool.and_eq_true, beq_iff_eq, blt_eq_decide, decide_eq_true_eq] at hbefore
      have hxy : irqBefore x y := .inr hbefore
      refine List.pairwise_cons.mpr ⟨fun z hz => ?_, hl⟩
      rcases List.mem_cons.mp hz with rfl | hz
      · exact hxy
      · exact irqBefore_trans hxy (hy z hz)
    · next hafter =>
      simp only [Bool.and_eq_true, beq_iff_eq, blt_eq_decide, decide_eq_true_eq, not_and] at hafter
      have hyx : irqBefore y x := by
        have hsame : ¬(y.1 = x.1 ∧ y.2 = x.2) := fun h => hne (Prod.ext h.1 h.2)
        simp only [irqBefore]
        omega
      refine List.pairwise_cons.mpr ⟨fun z hz => ?_, ih ht (fun z hz => hlast z (List.mem_cons_of_mem _ hz))⟩
      rcases mem_putIrq.mp hz with rfl | hz
      · exact hyx
      · exact hy z hz

section
variable {s : State} {v k : Nat}

theorem raiseIrq_pending (h : (viOf s v).ipend.getLsbD k = true) : raiseIrq s v k = s := by
  rw [raiseIrq, h, cond_true]

/-- A VI in which a vector becomes pending. -/
def withIrq (s : State) (k : Nat) (vi : Vi) : Vi := { vi with ipend := vi.ipend ||| dw (2 ^ k), iorder := putIrq (s.time.toNat, k) vi.iorder }

theorem raiseIrq_new (h : (viOf s v).ipend.getLsbD k = false) : raiseIrq s v k = onVi s v (withIrq s k) := by
  rw [raiseIrq, h, cond_false]
  rfl

theorem viOf_raiseIrq_new (h : (viOf s v).ipend.getLsbD k = false) : viOf (raiseIrq s v k) v = withIrq s k (viOf s v) := by
  rw [raiseIrq_new h, viOf_onVi_same]

theorem dw_two_pow (k : Nat) : dw (2 ^ k) = 1#64 <<< k := by
  refine BitVec.eq_of_toNat_eq ?_
  simp [dw, BitVec.toNat_shiftLeft, Nat.shiftLeft_eq]

theorem getLsbD_dw_two_pow {n : Nat} (hn : n < 64) : (dw (2 ^ k)).getLsbD n = (n == k) := by
  rw [dw_two_pow k]
  simp only [BitVec.getLsbD_shiftLeft, hn, BitVec.getLsbD_one]
  by_cases h : n = k
  · simp [h]
  · by_cases hlt : n < k
    · simp [hlt, h]
    · have hsub : n - k ≠ 0 := by omega
      simp [hlt, h, hsub]

/-- What is sent is what waits unmasked of earlier cycles, in order. -/
theorem deliverIrqs_msi (s : State) (v : Nat) : (deliverIrqs s v).msi = s.msi ++ (sentIrqs s v).map (fun x => (v, x.2)) := by
  rw [deliverIrqs_eq]
  split
  · next h => rw [List.isEmpty_iff.mp h, List.map_nil, List.append_nil]
  · rfl

theorem filter_not_contains_filter {α : Type} [BEq α] [LawfulBEq α] (p : α → Bool) (l : List α) :
    l.filter (fun x => !(l.filter p).contains x) = l.filter (fun x => !p x) := by
  refine List.filter_congr (fun x hx => ?_)
  rw [Bool.eq_iff_iff]
  simp [hx]

/-- A write of the mask of an entry of the table that is there. -/
theorem writeMsiXMask_of_lt (hv : v < 512) (hk : k < 64) (masked : Bool) :
    writeMsiXMask s v k masked = deliverIrqs (onVi s v (fun vi => { vi with msix := setBit vi.msix k masked })) v := by
  rw [writeMsiXMask, blt_eq_decide, blt_eq_decide, decide_eq_true hv, decide_eq_true hk, Bool.and_self, cond_true]

theorem exec_msiXEntryUnmask (hv : v < 512) (hk : k < 64) :
    exec (.msiXEntryUnmask v k) s = .next (deliverIrqs (onVi s v (fun x => { x with msix := x.msix &&& ~~~(1#64 <<< k) })) v) := by
  change execMsiXEntryUnmask v k s = _
  rw [execMsiXEntryUnmask, blt_eq_decide, decide_eq_true (by omega), cond_true, Nat.mod_eq_of_lt hk, Nat.div_eq_of_lt hk,
    writeMsiXMask_of_lt hv hk, ← dw_two_pow k]
  rfl

theorem exec_msiXEntryMask (hv : v < 512) (hk : k < 64) :
    exec (.msiXEntryUnmask v (64 + k)) s = .next (deliverIrqs (onVi s v (fun x => { x with msix := x.msix ||| 1#64 <<< k })) v) := by
  have hmod : (64 + k) % 64 = k := by omega
  have hdiv : (64 + k) / 64 = 1 := by omega
  change execMsiXEntryUnmask v (64 + k) s = _
  rw [execMsiXEntryUnmask, blt_eq_decide, decide_eq_true (by omega), cond_true, hmod, hdiv, writeMsiXMask_of_lt hv hk, ← dw_two_pow k]
  rfl

end

theorem interrupts_say : Sys2Proof.Says.Interrupts := by
  intro s v k hv hk vi goes
  refine ⟨raiseIrq_pending, fun hnew => ⟨fun n hn => ?_, ?_, fun x => ?_, fun hsorted hlast => ?_⟩, ⟨deliverIrqs_msi s v, ?_⟩,
    exec_msiXEntryUnmask hv hk, exec_msiXEntryMask hv hk, rfl⟩
  · rw [viOf_raiseIrq_new hnew, withIrq, BitVec.getLsbD_or, getLsbD_dw_two_pow hn]
  · rw [raiseIrq_new hnew]
    rfl
  · rw [viOf_raiseIrq_new hnew]
    exact mem_putIrq
  · rw [viOf_raiseIrq_new hnew]
    exact pairwise_putIrq hsorted hlast
  · rw [viOf_deliverIrqs_same]
    exact filter_not_contains_filter goes vi.iorder

/-- Settles O57: an access of the host goes by what its way finds, and the vectors of a VI wait in order until they are sent. -/
theorem hostMemory : Obligations.HostMemory := ⟨hostMemory_says, interrupts_say⟩

end Sys2Proof.Machine
end

section
/-!
PROOFS. Resets (R428, R465), bring-up (R465) and the Reeve's rounds (R452).
-/
namespace Sys2Proof.Machine
open Sys2Proof.Claim

/-! ### Tables from which keys are taken out -/

/-- How often a key stands in a table. -/
def keyCount {α : Type} (t : Tab α) (k : Nat) : Nat := (t.map (·.1)).count k

theorem keyCount_del {α : Type} (t : Tab α) (j k : Nat) : keyCount (Tab.del t j) k = keyCount t k - if j = k then 1 else 0 := by
  induction t with
  | nil => simp [keyCount, Tab.del]
  | cons x t ih =>
    obtain ⟨k', v⟩ := x
    simp only [keyCount] at ih
    rw [Tab.del, Bool.cond_eq_ite]
    by_cases hj : j = k'
    · subst hj
      by_cases hk : j = k <;> simp [keyCount, hk]
    · by_cases hk : k' = k
      · subst hk
        simp [keyCount, hj, ih]
      · simp [keyCount, hj, hk, ih]

theorem keyCount_foldl_del {α : Type} (ks : List Nat) (t : Tab α) (k : Nat) : keyCount (ks.foldl Tab.del t) k = keyCount t k - ks.count k := by
  induction ks generalizing t with
  | nil => rfl
  | cons j ks ih =>
    rw [List.foldl_cons, ih, keyCount_del, List.count_cons, Nat.sub_sub, Nat.add_comm]
    simp only [beq_iff_eq]

theorem keyCount_pos_of_mem {α : Type} {t : Tab α} {k : Nat} {v : α} (h : (k, v) ∈ t) : 0 < keyCount t k :=
  List.count_pos_iff.mpr (List.mem_map.mpr ⟨(k, v), h, rfl⟩)

/-- Each entry whose key is of a kind taken out once, none of that kind is left. -/
theorem not_mem_foldl_del {α : Type} {kind : Nat → Bool} {t : Tab α} {k : Nat} {v : α} (hk : kind k = true) :
    (k, v) ∉ ((t.filter (fun x => kind x.1)).map (·.1)).foldl Tab.del t := by
  intro hmem
  have hpos := keyCount_pos_of_mem hmem
  have hall : ((t.filter (fun x => kind x.1)).map (·.1)).count k = keyCount t k := by
    have hswap : (t.filter (fun x => kind x.1)).map (·.1) = (t.map (·.1)).filter kind := List.filter_map.symm
    rw [hswap, List.count_filter hk, keyCount]
  rw [keyCount_foldl_del, hall, Nat.sub_self] at hpos
  exact Nat.lt_irrefl 0 hpos

/-! ### Resets (R428, R465) -/

section
variable {s : State} {v : Nat}

theorem resetFunction_idle (h : v = 0 ∨ (viOf s v).busy = false) : resetFunction s v = if v = 0 then moduleReset s else beginReset s v := by
  rw [resetFunction]
  split
  · rfl
  · next hv => rw [h.resolve_left hv, cond_false]

theorem resetFunction_busy (hv : v ≠ 0) (h : (viOf s v).busy = true) : resetFunction s v = s := by
  rw [resetFunction, if_neg hv, h, cond_true]

theorem exec_functionLevelReset (hv : v < 512) (hpower : s.power = true) : exec (.functionLevelReset v) s = .next (resetFunction s v) := by
  change execFunctionLevelReset v s = _
  rw [execFunctionLevelReset, blt_eq_decide, decide_eq_true hv, hpower, Bool.and_self, cond_true]

theorem functionLevelReset_busy (hv0 : v ≠ 0) (h : (viOf s v).busy = true) : exec (.functionLevelReset v) s = .next s := by
  change execFunctionLevelReset v s = _
  rw [execFunctionLevelReset, resetFunction_busy hv0 h, Bool.cond_self]

theorem valueOk_vireset {w : Dword} (hw : w.toNat < 4) : valueOk 0x04F w = true := by
  have hor : ∀ n < 4, (n ||| writable 0x04F == writable 0x04F) = true := by decide
  exact Bool.and_eq_true_iff.mpr ⟨hor _ hw, rfl⟩

theorem exec_vireset {w : Dword} (hreach : reachable s 0) (hv : v < 512) (hgo : w.getLsbD 0 = true) (hw : w.toNat < 4) :
    exec (.vireset v w) s = .next (resetFunction s v) := by
  change execVireset v w s = _
  have hwrite : writeViReg s v 0x04F 0 w = bif w.getLsbD 0 then resetFunction s v else s := rfl
  rw [execVireset, hostWrite_of_reachable hreach, blt_eq_decide, decide_eq_true hv, valueOk_vireset hw, Bool.and_self, cond_true, hwrite, hgo,
    cond_true]

/-! ### The beginning of a reset (R428) -/

/-- A record's slot emptied, its generation one further. -/
def emptySlot (s : State) (x : Nat × Rec) : State :=
  { s with recs := Tab.del s.recs x.1, recGens := Tab.set s.recGens x.1 (if recGen s x.1 = 255 then 1 else recGen s x.1 + 1) }

/-- The pools of a VI emptied. -/
def emptyPools (s : State) (v : Nat) : State := (s.recs.filter (fun x => recVi x.1 == v)).foldl emptySlot s

theorem foldl_emptySlot_recs (l : List (Nat × Rec)) (s : State) : (l.foldl emptySlot s).recs = (l.map (·.1)).foldl Tab.del s.recs := by
  induction l generalizing s with
  | nil => rfl
  | cons x l ih => rw [List.foldl_cons, ih, List.map_cons, List.foldl_cons, emptySlot]

theorem emptyPools_recs {k : Nat} {r : Rec} (h : (k, r) ∈ (emptyPools s v).recs) : recVi k ≠ v := by
  intro hk
  rw [emptyPools, foldl_emptySlot_recs] at h
  exact not_mem_foldl_del (kind := fun k => recVi k == v) (beq_iff_eq.mpr hk) h

theorem beginReset_recs : (beginReset s v).recs = (emptyPools s v).recs := rfl

theorem emptyPools_jobs : (emptyPools s v).jobs = s.jobs := foldl_keeps (g := emptySlot) (fun s => s.jobs) (fun _ _ => rfl) _ s

theorem emptyPools_plots : (emptyPools s v).plots = s.plots := foldl_keeps (g := emptySlot) (fun s => s.plots) (fun _ _ => rfl) _ s

theorem beginReset_jobs : (beginReset s v).jobs = s.jobs.filter (fun x => x.2.vi != v) := by
  have hfold : (beginReset s v).jobs = (emptyPools s v).jobs.filter (fun x => x.2.vi != v) := rfl
  rw [hfold, emptyPools_jobs]

/-- A plot as a reset of a VI begins: frozen where it is the VI's. -/
def frozenOf (v : Nat) (x : Nat × Plot) : Nat × Plot := (x.1, bif x.2.vi == v then { x.2 with frozen := true } else x.2)

theorem beginReset_plots : (beginReset s v).plots = s.plots.map (frozenOf v) := by
  have hfold : (beginReset s v).plots = (emptyPools s v).plots.map (frozenOf v) := rfl
  rw [hfold, emptyPools_plots]

/-- A VI as its reset begins at a time: its queues disabled, its staging quota without the lines in use, BUSY. -/
def Vi.inReset (time : Nat) (vi : Vi) : Vi :=
  { vi with queues := vi.queues.map (fun x => (x.1, { x.2 with base := setBit x.2.base 4 false })),
            squota := dw (field vi.squota 15 0), busy := true, busyAt := time }

theorem viOf_beginReset : ∃ u time, viOf (beginReset s v) v = Vi.inReset time (viOf u v) :=
  ⟨_, _, viOf_onVi_same _ v _⟩

theorem beginReset_plot_frozen {k : Nat} {p : Plot} (h : (k, p) ∈ (beginReset s v).plots) (hp : p.vi = v) : p.frozen = true := by
  rw [beginReset_plots] at h
  obtain ⟨⟨k', q⟩, -, hq⟩ := List.mem_map.mp h
  obtain ⟨-, rfl⟩ := Prod.mk.inj hq
  by_cases hvi : q.vi = v
  · rw [beq_iff_eq.mpr hvi, cond_true]
  · rw [beq_eq_false_iff_ne.mpr hvi, cond_false] at hp
    exact absurd hp hvi

theorem inReset_queue_disabled {vi : Vi} {time q : Nat} {j : JobQueue} (h : (q, j) ∈ (Vi.inReset time vi).queues) :
    j.base.getLsbD 4 = false := by
  obtain ⟨⟨q', j'⟩, -, hj⟩ := List.mem_map.mp h
  obtain ⟨-, rfl⟩ := Prod.mk.inj hj
  simp only [setBit_false, BitVec.getLsbD_and, BitVec.getLsbD_not, getLsbD_dw_two_pow (show 4 < 64 by decide)]
  simp

theorem beginReset_leaves :
    (viOf (beginReset s v) v).busy = true ∧ (∀ k r, (k, r) ∈ (beginReset s v).recs → recVi k ≠ v) ∧
      (∀ k j, (k, j) ∈ (beginReset s v).jobs → j.vi ≠ v) ∧ (∀ k p, (k, p) ∈ (beginReset s v).plots → p.vi = v → p.frozen = true) ∧
      (∀ q j, (q, j) ∈ (viOf (beginReset s v) v).queues → j.base.getLsbD 4 = false) := by
  obtain ⟨u, time, hvi⟩ := viOf_beginReset (s := s) (v := v)
  rw [hvi]
  refine ⟨rfl, fun k r hr => ?_, fun k j hj => ?_, fun k p hp => beginReset_plot_frozen hp, fun q j hj => inReset_queue_disabled hj⟩
  · rw [beginReset_recs] at hr
    exact emptyPools_recs hr
  · rw [beginReset_jobs] at hj
    exact bne_iff_ne.mp (List.mem_filter.mp hj).2

/-! ### The end of a reset (R428) -/

/-- One VI of the resets under way: its reset ends where it is due, or the part chooses so. -/
def finishReset (s : State) (x : Nat × Vi) : State :=
  bif !x.2.busy then s
  else bif Config.freeChoice s.ctr || resetLimit.ble (s.time.toNat - x.2.busyAt) then resetVi { s with ctr := s.ctr + 1 } x.1
    else { s with ctr := s.ctr + 1 }

theorem finishResets_eq : finishResets s = s.vis.foldl finishReset s := rfl

theorem foldl_finishReset_of_idle {l : List (Nat × Vi)} (h : ∀ x ∈ l, x.2.busy = false) : l.foldl finishReset s = s := by
  induction l with
  | nil => rfl
  | cons x l ih =>
    have hx : finishReset s x = s := by rw [finishReset, h x List.mem_cons_self, Bool.not_false, cond_true]
    rw [List.foldl_cons, hx]
    exact ih (fun y hy => h y (List.mem_cons_of_mem x hy))

theorem finishReset_busy {x : Vi} (h : x.busy = true) :
    finishReset s (v, x) =
      if Config.freeChoice s.ctr = true ∨ 2 * Config.cyclesPerUs ≤ s.time.toNat - x.busyAt then resetVi { s with ctr := s.ctr + 1 } v
      else { s with ctr := s.ctr + 1 } := by
  simp only [finishReset, h, Bool.not_true, resetLimit, ble_eq_decide, Bool.cond_eq_ite, Bool.or_eq_true, decide_eq_true_eq, Bool.false_eq_true, if_false]

/-! ### What a module reset and a VI reset leave (R428, R465) -/

/-- A VI after a module reset: at reset, but for the toll counters and the signature sequence number (R432). -/
def Vi.afterModuleReset (x : Vi) : Vi := { Vi.reset with tolls := x.tolls, sigseq := x.sigseq }

theorem moduleReset_vis {u : Nat} {x : Vi} (h : Tab.at? s.vis u = some x) : Tab.at? (moduleReset s).vis u = some x.afterModuleReset := by
  have hvis : (moduleReset s).vis = s.vis.map (fun (v, x) => (v, Vi.afterModuleReset x)) := rfl
  rw [hvis, Tab.at?_map (g := fun _ x => Vi.afterModuleReset x), h]
  rfl

theorem moduleReset_leaves :
    let t := moduleReset s
    t.plots = [] ∧ t.recs = [] ∧ t.jobs = [] ∧ t.groups = [] ∧ t.pcells = [] ∧ t.slices = [] ∧ t.images = [] ∧ t.time = 0 ∧ t.ready = false ∧
      t.power = true ∧ t.partcfg = State.reset.partcfg ∧ t.hmask = State.reset.hmask ∧ t.bell = [] ∧
      ∀ u x, Tab.at? s.vis u = some x → Tab.at? t.vis u = some { Vi.reset with tolls := x.tolls, sigseq := x.sigseq } := by
  exact ⟨rfl, rfl, rfl, rfl, rfl, rfl, rfl, rfl, rfl, rfl, rfl, rfl, rfl, fun _ _ h => moduleReset_vis h⟩

theorem viOf_resetVi : ∃ u, viOf (resetVi s v) v = (viOf u v).afterReset := ⟨_, viOf_onVi_same _ v _⟩

theorem resetVi_leaves :
    let t := resetVi s v
    (viOf t v).tvec = 0 ∧ (viOf t v).tring = 0 ∧ (viOf t v).traps = [] ∧ (viOf t v).handler = none ∧ (viOf t v).ipend = 0 ∧
      (viOf t v).imask = 0 ∧ (viOf t v).hring = 0 ∧ (viOf t v).fring = 0 ∧ (viOf t v).gering = 0 ∧ (viOf t v).rgntab = 0 ∧
      (viOf t v).s1root = 0 ∧ (viOf t v).ftimeout = 1000 ∧ (viOf t v).owners = [] ∧ (viOf t v).poolmem = [] ∧ (viOf t v).busy = false := by
  obtain ⟨u, hu⟩ := viOf_resetVi (s := s) (v := v)
  dsimp only
  rw [hu]
  exact ⟨rfl, rfl, rfl, rfl, rfl, rfl, rfl, rfl, rfl, rfl, rfl, rfl, rfl, rfl, rfl⟩

end

theorem resets_say : Sys2Proof.Says.Resets := by
  intro s v
  refine ⟨rfl, fun hv hpower hidle => ?_, fun _ hv0 hbusy => functionLevelReset_busy hv0 hbusy,
    fun hreach w hv hv0 hidle hgo hw => ?_, fun _ _ => beginReset_leaves, fun hidle => ?_, fun x hvis hbusy => ?_, moduleReset_leaves,
    fun _ _ => resetVi_leaves⟩
  · rw [exec_functionLevelReset hv hpower, resetFunction_idle hidle]
  · rw [exec_vireset hreach hv hgo hw, resetFunction_idle (.inr hidle), if_neg hv0]
  · rw [finishResets_eq, foldl_finishReset_of_idle hidle]
  · have hone : finishResets s = finishReset s (v, x) := by rw [finishResets_eq, congrArg (List.foldl finishReset s) hvis]; rfl
    exact hone.trans (finishReset_busy hbusy)

/-! ### Bring-up (R465) -/

/-- A field of a word at its own place is the word under the field's mask. -/
theorem getLsbD_dw_field (w : Dword) (hi lo : Nat) {i : Nat} (hi64 : i < 64) :
    (dw (at_ (field w hi lo) lo)).getLsbD i = (decide (lo ≤ i ∧ i ≤ hi) && w.getLsbD i) := by
  have hmask : decide (i < 64) = true := decide_eq_true hi64
  simp only [dw, BitVec.getLsbD, BitVec.toNat_ofNat, at_, field, Nat.testBit_mod_two_pow, Nat.testBit_shiftLeft, Nat.testBit_shiftRight, hmask,
    Bool.true_and]
  by_cases hlo : lo ≤ i
  · have hlt : (i - lo < hi + 1 - lo) = (i ≤ hi) := by
      rw [eq_iff_iff]
      omega
    simp [hlo, hlt]
  · simp [hlo]

/-- The bits of SPANID that are not reserved (R412). -/
theorem getLsbD_spanMask {i : Nat} (h : i < 64) : (0xBF3F#64).getLsbD i = decide (15 ≤ i ∧ i ≤ 15 ∨ 8 ≤ i ∧ i ≤ 13 ∨ 0 ≤ i ∧ i ≤ 5) := by
  revert i
  decide

/-- SPANID as its fields are set is its word without the reserved bits (R412). -/
theorem spanFields_eq (w : Dword) : dw (at_ (field w 15 15) 15 + at_ (field w 13 8) 8 + field w 5 0) = w &&& 0xBF3F#64 := by
  have hlow : field w 5 0 = at_ (field w 5 0) 0 := rfl
  have hsum : dw (at_ (field w 15 15) 15 + at_ (field w 13 8) 8 + field w 5 0) =
      dw (at_ (field w 15 15) 15) + dw (at_ (field w 13 8) 8) + dw (at_ (field w 5 0) 0) := by
    rw [← hlow]
    simp only [dw, BitVec.ofNat_add]
  have hdisjoint : dw (at_ (field w 15 15) 15) &&& dw (at_ (field w 13 8) 8) = 0 := by
    refine BitVec.eq_of_getLsbD_eq (fun i hi => ?_)
    simp only [BitVec.getLsbD_and, getLsbD_dw_field w _ _ hi]
    grind
  have hdisjoint' : (dw (at_ (field w 15 15) 15) ||| dw (at_ (field w 13 8) 8)) &&& dw (at_ (field w 5 0) 0) = 0 := by
    refine BitVec.eq_of_getLsbD_eq (fun i hi => ?_)
    simp only [BitVec.getLsbD_and, BitVec.getLsbD_or, getLsbD_dw_field w _ _ hi]
    grind
  rw [hsum, BitVec.add_eq_or_of_and_eq_zero _ _ hdisjoint, BitVec.add_eq_or_of_and_eq_zero _ _ hdisjoint']
  refine BitVec.eq_of_getLsbD_eq (fun i hi => ?_)
  rw [BitVec.getLsbD_and, getLsbD_spanMask hi]
  simp only [BitVec.getLsbD_or, getLsbD_dw_field w _ _ hi, Bool.decide_or]
  rw [← Bool.and_or_distrib_right, ← Bool.and_or_distrib_right, Bool.or_assoc, Bool.and_comm]

/-- The partition of a VI set as bring-up sets it. -/
def bootVi (s : State) (v : Nat) : State := onVi s v (fun vi => { vi with vdom := dw (Config.bootPart v % 4) })

theorem viOf_bootVi (t : State) (u v : Nat) :
    viOf (bootVi t u) v = if v = u then { viOf t u with vdom := dw (Config.bootPart u % 4) } else viOf t v := viOf_onVi t u v _

/-- The module ready, with SPANID and the CXL windows as bring-up sets them. -/
def upModule (span : Dword) (s : State) : State :=
  { s with ready := true, spanid := span, cxl0 := Nat.min (2 ^ 41) (Config.bootCxl 0),
           cxl1 := Nat.min (2 ^ 41) (Config.bootCxl 1) }

section
variable {s : State}

theorem bringUp_idle (h : s.ready = true ∨ s.booterr = true ∨ s.power = false) : bringUp s = s := by
  rw [bringUp, if_pos h]

theorem bringUp_failed (h : ¬(s.ready = true ∨ s.booterr = true ∨ s.power = false)) (hbad : Config.firmwareGood = false) :
    bringUp s = { s with booterr := true } := by
  rw [bringUp, if_neg h, if_pos hbad]

theorem bringUp_good (h : ¬(s.ready = true ∨ s.booterr = true ∨ s.power = false)) (hgood : Config.firmwareGood = true) :
    bringUp s = (List.range 512).foldl bootVi (upModule (Config.bootSpanid &&& 0xBF3F#64) s) := by
  have hnotbad : ¬Config.firmwareGood = false := by simp [hgood]
  rw [bringUp, if_neg h, if_neg hnotbad, ← spanFields_eq]
  rfl

/-- What the fold over the VIs' partitions keeps. -/
theorem bootVi_keeps {α : Type} (f : State → α) (h : ∀ (t : State) (vis : Tab Vi), f { t with vis := vis } = f t) (t : State) :
    f ((List.range 512).foldl bootVi t) = f t := foldl_keeps (g := bootVi) f (fun t _ => h t _) _ t

theorem bringUp_good_leaves (hbooterr : s.booterr = false) :
    let t := (List.range 512).foldl bootVi (upModule (Config.bootSpanid &&& 0xBF3F#64) s)
    t.ready = true ∧ t.booterr = false ∧ t.spanid = Config.bootSpanid &&& 0xBF3F#64 ∧ t.cxl0 = min (2 ^ 41) (Config.bootCxl 0) ∧
      t.cxl1 = min (2 ^ 41) (Config.bootCxl 1) ∧ ∀ v < 512, viOf t v = { viOf s v with vdom := dw (Config.bootPart v % 4) } := by
  refine ⟨bootVi_keeps (fun t => t.ready) (fun _ _ => rfl) _, ?_, bootVi_keeps (fun t => t.spanid) (fun _ _ => rfl) _,
    bootVi_keeps (fun t => t.cxl0) (fun _ _ => rfl) _, bootVi_keeps (fun t => t.cxl1) (fun _ _ => rfl) _, fun v hv => ?_⟩
  · exact (bootVi_keeps (fun t => t.booterr) (fun _ _ => rfl) _).trans hbooterr
  · rw [viOf_foldl (f := bootVi) (g := fun u vi => { vi with vdom := dw (Config.bootPart u % 4) }) viOf_bootVi v List.nodup_range,
      if_pos (List.mem_range.mpr hv)]
    rfl

end

theorem bringUp_says : Sys2Proof.Says.BringUp := by
  intro s
  refine ⟨fun h => congrArg Host.Outcome.next (bringUp_idle h), fun hready hbooterr hpower => ?_⟩
  have hgo : ¬(s.ready = true ∨ s.booterr = true ∨ s.power = false) := by simp [hready, hbooterr, hpower]
  refine ⟨bringUp s, rfl, ?_⟩
  split
  · next hgood =>
    rw [bringUp_good hgo hgood]
    exact bringUp_good_leaves hbooterr
  · next hbad => exact bringUp_failed hgo (Bool.eq_false_iff.mpr hbad)

/-! ### The Reeve's rounds (R452) -/

section
variable {s s1 s2 s3 s4 s5 : State} {ws : List Dword} {j key : Nat} {im : JobImage} {p : Plot} {es : List Dword} {seed : Dword} {r : Rec}

/-- The job that the front end makes of the Reeve's record. -/
def reeveJob (s : State) (ws : List Dword) : Job :=
  let q := Tab.atD (viOf s 0).queues 15 JobQueue.reset
  newJob 0 15 q.head ((ws[7]?).getD 0) q.jnl

theorem execReeveRound_of_bad (hready : reeveReady s = true) (hslot : readSlot s 0 15 = .ok s1 ws) (hbad : badRoot ws = true) :
    execReeveRound s = .next (badJob s1 0 15 ((ws[7]?).getD 0) 0) := by
  rw [execReeveRound, if_neg (by simp [hready]), hslot]
  exact if_pos hbad

theorem execReeveRound_of_taken (hready : reeveReady s = true) (hslot : readSlot s 0 15 = .ok s1 ws) (hgood : badRoot ws = false)
    (htake : takeJob s1 0 15 (reeveJob s1 ws) = (s2, j)) :
    execReeveRound s = .next ((reeveStart s2 j { recOf ws j with root := true, join := 0 }).getD s) := by
  rw [execReeveRound, if_neg (by simp [hready]), hslot]
  refine (if_neg (by simp [hgood])).trans ?_
  change (match takeJob s1 0 15 (reeveJob s1 ws) with
    | (s2, j) => Host.Outcome.next ((reeveStart s2 j { recOf ws j with root := true, join := 0 }).getD s)) = _
  rw [htake]

theorem reeveStart_of_seated (himage : jobImage s2 j r.code = .ok s3 im) (hwork : r.lo ≠ r.hi)
    (hconf : configure (clearReeve (beginJournal (putRec s3 reeveRec r) j)) 0 .reeve (some 15) r.code 0 true none = .ok s4 key)
    (hp : Tab.at? s4.plots key = some p) (hargs : readArgs s4 0 p r.args = .ok s5 es seed) :
    reeveStart s2 j r = some (onPlot (seat s5 key reeveRec r) key (fun p =>
      startRound { writeArgs p r im.handles es with srseed := seed, inh := false })) := by
  simp only [reeveStart, himage, if_neg hwork, hconf, hp, hargs]

end

theorem reeveRounds_say : Sys2Proof.Says.ReeveRounds := by
  intro s s1 ws
  refine ⟨fun hidle => ?_, fun hready hslot => ⟨fun hbad => ?_, fun s2 j s3 im s4 key p s5 es seed hgood htake => ?_⟩⟩
  · exact if_pos hidle
  · exact execReeveRound_of_bad hready hslot hbad
  · intro r himage hwork hconf hp hargs
    refine (execReeveRound_of_taken hready hslot hgood htake).trans ?_
    rw [reeveStart_of_seated himage hwork hconf hp hargs]
    rfl

/-- Settles O58: a function's reset begins by emptying its pools and freezing its plots and ends in the reset values; bring-up sets each VI's
partition once; the Reeve's record is taken as any root's is. -/
theorem resets : Obligations.Resets := ⟨resets_say, bringUp_says, reeveRounds_say⟩

end Sys2Proof.Machine
end
